-- ==== Sys2Proof/Word.lean ====
section
/-! DEFINITION. The word types of the Sieno model, and the type of a sparse store. -/

namespace Sys2Proof

/-- One byte of storage (R80). -/
abbrev Byte := BitVec 8

/-- One instruction word, one lane of a vector register, one 32-bit register (R113, R164). -/
abbrev Word := BitVec 32

/-- One scalar register or pointer (R23, R50). -/
abbrev DWord := BitVec 64

/-- One bit for each of the 1,024 lanes of a team: an active mask or a predicate (R19, R20). -/
abbrev Lanes := BitVec 1024

/-- A sparse store: entries with rising keys, none of them equal to the value an unlisted key reads as. -/
abbrev SMap (α : Type) := List (Nat × α)

end Sys2Proof
end

