-- ==== Sys2Proof/Config.lean ====
section
/-! DEFINITION. What the spec fixes for every package, and the values it leaves open. -/

namespace Sys2Proof.Config

/-- Number of cores, quads and towers of a package (R10). -/
def nCores : Nat := 640
def nQuads : Nat := 160
def nTowers : Nat := 8

/-- Bytes of local DRAM, which starts at physical address 0, and the physical address at which the system window
starts (R54). -/
def dramSize : Nat := 0x8000000000
def windowBase : Nat := 0x80000000000

/-- A free choice between two outcomes that the spec allows: choice k of step n (log 7). Nothing can be proved of
it. -/
opaque freeBool : Nat → Nat → Bool

/-- A free number, choice k of step n (log 7): an index into a set of allowed choices. -/
opaque freeNat : Nat → Nat → Nat

/-- A free byte, choice k of step n (log 7): a value the spec does not state. -/
opaque freeByte : Nat → Nat → Byte

/-- The scale byte of an MX block of FP64 values for which R129's e + 127 is n, above 0xFE (log 85). -/
opaque mxScaleOver : Nat → Nat

/-- Lane cycles that the n-th step takes; the spec's cycle counts are left out (log 3). -/
opaque freeCycles : Nat → Nat

/-- The SPDM response to a request: contents fixed by the DMTF specification and by keys provisioned at
manufacture, which the spec does not give (R430, log 6). -/
opaque spdmResponse : Nat → List Byte → List Byte

/-- The device identity's certificate chain, provisioned at manufacture (R430, log 6). -/
opaque identity : List Byte

/-- Byte k of the SHA-384 digest of firmware image n; the images are not in the spec (R428, log 6). -/
opaque imageDigest : Nat → Nat → Byte

/-- Measured size of firmware image n (R428, log 6). -/
opaque imageSize : Nat → Nat

/-- Rounded result where the correctly rounded value of a function could not be decided from the
enclosures computed (log 9): a free value. -/
opaque hardCase : Nat → Nat → Nat

end Sys2Proof.Config
end

