-- ==== Sys2Proof/Syntax.lean ====
section
/-! DEFINITION. The one inductive of instructions and device events: a constructor for every row of
spec/opcode_table.json (those without arguments last), and the plain data that host messages and outside events carry. -/

namespace Sys2Proof

/-- A link message as it arrives from the host: the 16-byte header of R373 and its payload bytes. -/
structure HostMsg where
  /-- TYPE (R374). -/
  typ : Byte
  /-- The byte at 0x01, which must be zero. -/
  z1 : Byte
  /-- LEN, payload bytes. -/
  len : BitVec 16
  /-- SEQ in the host's direction (R375). -/
  seq : Word
  /-- CTX, a context id for types that name one. -/
  ctx : Byte
  /-- The bytes at 0x09 to 0x0B, which must be zero. -/
  z9 : BitVec 24
  /-- TAG, copied into the reply. -/
  tag : Word
  /-- The payload, lowest offset first. -/
  payload : List Byte
  deriving DecidableEq, Repr

/-- What the tests of bring-up find (R427 steps 3 and 4): an outcome of the physical world. -/
structure BringUp where
  /-- Towers that do not answer. -/
  lost : List Nat
  /-- Failed vertical-port bundles: core number, and 0 for VP0 or 1 for VP1. -/
  failed : List (Nat × Nat)
  deriving DecidableEq, Repr

/-- An SPDM request (R430): taken from the mailbox buffer, or carried over MCTP on the I3C bus. -/
structure SpdmReq where
  /-- True for the link mailbox, false for the I3C responder. -/
  mailbox : Bool
  /-- The request bytes of the I3C responder; the mailbox request lies in MBXBUF. -/
  bytes : List Byte
  deriving DecidableEq, Repr

/-- Where an uncorrectable soft error strikes (R439). -/
inductive SoftErr where
  /-- A copy known clean: discarded and fetched again. -/
  | clean
  /-- Register file, scratchpad, tile memory, bound register or wide store of a context. -/
  | owned (ctx : Nat)
  /-- Dirty line, LLC or DRAM: the 32-byte sector at this physical address is poisoned. -/
  | sector (pa : Nat)
  deriving DecidableEq, Repr

/-- The instructions of R179, by their operand fields and literal words, and the device's events. -/
inductive Instr where
  /-- SETM (R177). -/
  | setm (l : Word)
  /-- SETMK (R177). -/
  | setmk (l l2 : Word)
  /-- BRA (R184). -/
  | bra (l : Word)
  /-- BRS (R184). -/
  | brs (a b : Nat) (l : Word)
  /-- BRP (R185). -/
  | brp (a : Nat) (l : Word)
  /-- BRV (R184). -/
  | brv (a b : Nat) (l : Word)
  /-- MARK (R186). -/
  | mark (l : Word)
  /-- CALL (R189). -/
  | call (d : Nat) (l : Word)
  /-- CALLI (R189). -/
  | calli (d a : Nat)
  /-- RET (R189). -/
  | ret (a : Nat)
  /-- JMPI (R189). -/
  | jmpi (a : Nat)
  /-- LOOP (R190). -/
  | loop (a : Nat) (l : Word)
  /-- TRAP (R215). -/
  | trap (b : Nat)
  /-- SADD (R195). -/
  | sadd (d a b : Nat)
  /-- SSUB (R195). -/
  | ssub (d a b : Nat)
  /-- SMUL (R195). -/
  | smul (d a b : Nat)
  /-- SMULH (R195). -/
  | smulh (d a b : Nat)
  /-- SDIV (R195). -/
  | sdiv (d a b : Nat)
  /-- SREM (R195). -/
  | srem (d a b : Nat)
  /-- SAND (R195). -/
  | sand (d a b : Nat)
  /-- SOR (R195). -/
  | sor (d a b : Nat)
  /-- SXOR (R195). -/
  | sxor (d a b : Nat)
  /-- SSHL (R195). -/
  | sshl (d a b : Nat)
  /-- SSHR (R195). -/
  | sshr (d a b : Nat)
  /-- SSAR (R195). -/
  | ssar (d a b : Nat)
  /-- SCMP (R195). -/
  | scmp (d a b : Nat)
  /-- SMIN (R195). -/
  | smin (d a b : Nat)
  /-- SMAX (R195). -/
  | smax (d a b : Nat)
  /-- SADDI (R196). -/
  | saddi (d a b : Nat)
  /-- SSHLI (R196). -/
  | sshli (d a b : Nat)
  /-- SSHRI (R196). -/
  | sshri (d a b : Nat)
  /-- SMOVL (R196). -/
  | smovl (d : Nat) (l : Word) (l2 : Option Word)
  /-- SMOV (R196). -/
  | smov (d a : Nat)
  /-- SXLATE (R52). -/
  | sxlate (d a : Nat)
  /-- SRD (R201). -/
  | srd (d b : Nat)
  /-- SWR (R201). -/
  | swr (a b : Nat)
  /-- PHASE (R41). -/
  | phase (b : Nat)
  /-- LAUNCH (R193). -/
  | launch (d a : Nat)
  /-- CWAIT (R194). -/
  | cwait (d a : Nat)
  /-- SNEG (R197). -/
  | sneg (d a : Nat)
  /-- SNOT (R197). -/
  | snot (d a : Nat)
  /-- SABS (R197). -/
  | sabs (d a : Nat)
  /-- SCLZ (R197). -/
  | sclz (d a : Nat)
  /-- SCTZ (R197). -/
  | sctz (d a : Nat)
  /-- SPOPC (R197). -/
  | spopc (d a : Nat)
  /-- SBREV (R197). -/
  | sbrev (d a : Nat)
  /-- SEXT32 (R197). -/
  | sext32 (d a : Nat)
  /-- SADDR (R198). -/
  | saddr (d a b : Nat)
  /-- SGETV (R199). -/
  | sgetv (d a b : Nat)
  /-- VADD (R221). -/
  | vadd (d a b : Nat)
  /-- VSUB (R221). -/
  | vsub (d a b : Nat)
  /-- VMUL (R221). -/
  | vmul (d a b : Nat)
  /-- VMULH (R221). -/
  | vmulh (d a b : Nat)
  /-- VMAD (R221). -/
  | vmad (d a b : Nat)
  /-- VDIV (R221). -/
  | vdiv (d a b : Nat)
  /-- VREM (R221). -/
  | vrem (d a b : Nat)
  /-- VMIN (R221). -/
  | vmin (d a b : Nat)
  /-- VMAX (R221). -/
  | vmax (d a b : Nat)
  /-- VABSD (R221). -/
  | vabsd (d a b : Nat)
  /-- VAND (R221). -/
  | vand (d a b : Nat)
  /-- VOR (R221). -/
  | vor (d a b : Nat)
  /-- VXOR (R221). -/
  | vxor (d a b : Nat)
  /-- VANDN (R221). -/
  | vandn (d a b : Nat)
  /-- VSHL (R221). -/
  | vshl (d a b : Nat)
  /-- VSHR (R221). -/
  | vshr (d a b : Nat)
  /-- VSAR (R221). -/
  | vsar (d a b : Nat)
  /-- VROTL (R221). -/
  | vrotl (d a b : Nat)
  /-- VADDI (R222). -/
  | vaddi (d a b : Nat)
  /-- VSHLI (R222). -/
  | vshli (d a b : Nat)
  /-- VSHRI (R222). -/
  | vshri (d a b : Nat)
  /-- VSARI (R222). -/
  | vsari (d a b : Nat)
  /-- VNEG (R223). -/
  | vneg (d a : Nat)
  /-- VNOT (R223). -/
  | vnot (d a : Nat)
  /-- VABS (R223). -/
  | vabs (d a : Nat)
  /-- VCLZ (R223). -/
  | vclz (d a : Nat)
  /-- VCTZ (R223). -/
  | vctz (d a : Nat)
  /-- VCNT (R223). -/
  | vcnt (d a : Nat)
  /-- VBREV (R223). -/
  | vbrev (d a : Nat)
  /-- VSGN (R223). -/
  | vsgn (d a : Nat)
  /-- VCMPEQ (R224). -/
  | vcmpeq (d a b : Nat)
  /-- VCMPNE (R224). -/
  | vcmpne (d a b : Nat)
  /-- VCMPLT (R224). -/
  | vcmplt (d a b : Nat)
  /-- VCMPLE (R224). -/
  | vcmple (d a b : Nat)
  /-- VMOV (R225). -/
  | vmov (d a : Nat)
  /-- VMOVS (R225). -/
  | vmovs (d a : Nat)
  /-- VMOVL (R225). -/
  | vmovl (d : Nat) (l : Word) (l2 : Option Word)
  /-- PAND (R226). -/
  | pand (d a b : Nat)
  /-- POR (R226). -/
  | por (d a b : Nat)
  /-- PXOR (R226). -/
  | pxor (d a b : Nat)
  /-- PNOT (R226). -/
  | pnot (d a : Nat)
  /-- VBFE (R227). -/
  | vbfe (d a : Nat) (l : Word)
  /-- VBFI (R227). -/
  | vbfi (d a : Nat) (l : Word)
  /-- VDOT4 (R228). -/
  | vdot4 (d a b : Nat)
  /-- VFADD (R229). -/
  | vfadd (d a b : Nat)
  /-- VFSUB (R229). -/
  | vfsub (d a b : Nat)
  /-- VFMUL (R229). -/
  | vfmul (d a b : Nat)
  /-- VFMA (R229). -/
  | vfma (d a b : Nat)
  /-- VFMS (R229). -/
  | vfms (d a b : Nat)
  /-- VFNMA (R229). -/
  | vfnma (d a b : Nat)
  /-- VFDIV (R229). -/
  | vfdiv (d a b : Nat)
  /-- VFSQRT (R229). -/
  | vfsqrt (d a : Nat)
  /-- VFMIN (R230). -/
  | vfmin (d a b : Nat)
  /-- VFMAX (R230). -/
  | vfmax (d a b : Nat)
  /-- VFABS (R229). -/
  | vfabs (d a : Nat)
  /-- VFNEG (R229). -/
  | vfneg (d a : Nat)
  /-- VFRCP (R229). -/
  | vfrcp (d a : Nat)
  /-- VFRSQ (R229). -/
  | vfrsq (d a : Nat)
  /-- VFEXP2 (R229). -/
  | vfexp2 (d a : Nat)
  /-- VFLOG2 (R229). -/
  | vflog2 (d a : Nat)
  /-- VFSIN (R229). -/
  | vfsin (d a : Nat)
  /-- VFCOS (R229). -/
  | vfcos (d a : Nat)
  /-- VFCMPEQ (R231). -/
  | vfcmpeq (d a b : Nat)
  /-- VFCMPNE (R231). -/
  | vfcmpne (d a b : Nat)
  /-- VFCMPLT (R231). -/
  | vfcmplt (d a b : Nat)
  /-- VFCMPLE (R231). -/
  | vfcmple (d a b : Nat)
  /-- VFCMPUN (R231). -/
  | vfcmpun (d a b : Nat)
  /-- VFCLASS (R232). -/
  | vfclass (d a : Nat)
  /-- VFMULL (R233). -/
  | vfmull (d a : Nat) (l : Word)
  /-- VFADDL (R233). -/
  | vfaddl (d a : Nat) (l : Word)
  /-- VFFMAL (R233). -/
  | vffmal (d a b : Nat) (l : Word)
  /-- VFLDEXP (R234). -/
  | vfldexp (d a b : Nat)
  /-- VFRINT (R234). -/
  | vfrint (d a b : Nat)
  /-- VFCOPYS (R229). -/
  | vfcopys (d a b : Nat)
  /-- VFDOT2 (R234). -/
  | vfdot2 (d a b : Nat)
  /-- CVT (R235). -/
  | cvt (d a b : Nat)
  /-- CVTMX (R236). -/
  | cvtmx (d a b : Nat)
  /-- CVTXM (R237). -/
  | cvtxm (d a b : Nat)
  /-- CBDEC (R239). -/
  | cbdec (d a b : Nat)
  /-- VPACK (R238). -/
  | vpack (d a b : Nat)
  /-- VUNPK (R238). -/
  | vunpk (d a b : Nat)
  /-- SHFL (R240). -/
  | shfl (d a b : Nat)
  /-- SHFLX (R240). -/
  | shflx (d a b : Nat)
  /-- PERMB (R241). -/
  | permb (d a b : Nat)
  /-- SCAN (R242). -/
  | scan (d a b : Nat)
  /-- REDV (R242). -/
  | redv (d a b : Nat)
  /-- BALLOT (R243). -/
  | ballot (d a b : Nat)
  /-- POPC (R243). -/
  | popc (d a : Nat)
  /-- LMV4 (R244). -/
  | lmv4 (d a b : Nat)
  /-- LMV8 (R244). -/
  | lmv8 (d a b : Nat)
  /-- VFIRST (R243). -/
  | vfirst (d a : Nat)
  /-- VLD (R247). -/
  | vld (d a m : Nat)
  /-- VST (R247). -/
  | vst (d a m : Nat)
  /-- VLDN (R247). -/
  | vldn (d a m k : Nat)
  /-- VLDA (R247). -/
  | vlda (d a m k : Nat)
  /-- VSTR (R247). -/
  | vstr (d a m k : Nat)
  /-- SLD (R248). -/
  | sld (d a m : Nat)
  /-- SST (R248). -/
  | sst (d a m : Nat)
  /-- VLDS (R250). -/
  | vlds (d a : Nat)
  /-- VSTS (R250). -/
  | vsts (d a : Nat)
  /-- VLDSR (R250). -/
  | vldsr (d a b : Nat)
  /-- VSTSR (R250). -/
  | vstsr (d a b : Nat)
  /-- VLDC (R251). -/
  | vldc (d a : Nat)
  /-- SLDC (R251). -/
  | sldc (d a : Nat)
  /-- FENCE (R252). -/
  | fence (b : Nat)
  /-- SEAL (R253). -/
  | seal (d a m : Nat)
  /-- UNSEAL (R253). -/
  | unseal (d a m : Nat)
  /-- REPL (R68). -/
  | repl (d a m : Nat)
  /-- VATOM (R257). -/
  | vatom (d a m : Nat) (l : Word)
  /-- VRED (R258). -/
  | vred (d a m : Nat) (l : Word)
  /-- VCAS (R257). -/
  | vcas (d a m : Nat) (l : Word)
  /-- VATOMS (R257). -/
  | vatoms (d a : Nat) (l : Word)
  /-- VREDS (R258). -/
  | vreds (d a : Nat) (l : Word)
  /-- SATOM (R257). -/
  | satom (d a m : Nat) (l : Word)
  /-- VPREF (R249). -/
  | vpref (a m : Nat)
  /-- ARRK (R261). -/
  | arrk (a : Nat)
  /-- WAITK (R261). -/
  | waitk (a : Nat)
  /-- SYNCK (R262). -/
  | synck (a : Nat)
  /-- ARRQ (R261). -/
  | arrq (a : Nat)
  /-- WAITQ (R261). -/
  | waitq (a : Nat)
  /-- SYNCQ (R262). -/
  | syncq (a : Nat)
  /-- ARRG (R261). -/
  | arrg (a : Nat)
  /-- WAITG (R261). -/
  | waitg (a : Nat)
  /-- SYNCG (R262). -/
  | syncg (a : Nat)
  /-- TWAIT (R264). -/
  | twait (d a b : Nat)
  /-- EVWAIT (R268). -/
  | evwait (d : Nat)
  /-- EVPOP (R268). -/
  | evpop (d : Nat)
  /-- CPY (R270). -/
  | cpy (d a b : Nat) (l : Word)
  /-- CPYT (R272). -/
  | cpyt (d a b : Nat) (l : Word)
  /-- MERGE (R274). -/
  | merge (d a b : Nat) (l : Word)
  /-- CMPCT (R276). -/
  | cmpct (a b : Nat)
  /-- WLTAKE (R277). -/
  | wltake (d a : Nat)
  /-- MRSV (R280). -/
  | mrsv (d a : Nat)
  /-- MCREW (R284). -/
  | mcrew (l : Word)
  /-- MMJ (R291). -/
  | mmj (d a b : Nat) (l : Word)
  /-- MMS (R293). -/
  | mms (d a b : Nat) (l : Word)
  /-- MMG (R294). -/
  | mmg (d a b : Nat) (l : Word)
  /-- MMD (R291). -/
  | mmd (d a b : Nat) (l : Word)
  /-- MZERO (R296). -/
  | mzero (d : Nat)
  /-- MLD (R296). -/
  | mld (d a : Nat)
  /-- MDRN (R298). -/
  | mdrn (d a b : Nat)
  /-- MDRS (R298). -/
  | mdrs (d a b : Nat)
  /-- MDRM (R299). -/
  | mdrm (d a b : Nat)
  /-- MDRF (R298). -/
  | mdrf (d a b : Nat)
  /-- MBRD (R301). -/
  | mbrd (d a b : Nat)
  /-- MBWR (R301). -/
  | mbwr (a b : Nat)
  /-- MCVT (R300). -/
  | mcvt (d a b : Nat)
  /-- RESERVED_OPCODE (R180). -/
  | reservedOpcode (w : Word)
  /-- INSTRUCTION_FETCH (R348). -/
  | instructionFetch (x : DWord)
  /-- INSTRUCTION_COMPLETE (R169). -/
  | instructionComplete (tid u : Nat)
  /-- TRAP_ENTRY (R214). -/
  | trapEntry (tid : Nat)
  /-- PHASE_OVERRUN (R42). -/
  | phaseOverrun (tid : Nat)
  /-- TWAIT_TIMEOUT (R264). -/
  | twaitTimeout (tid : Nat)
  /-- WORK_LIST_QUIET (R45). -/
  | workListQuiet (gid : Nat)
  /-- ENGINE_OPERATION_COMPLETE (R97). -/
  | engineOperationComplete (op : Nat)
  /-- MATRIX_RESERVATION_ADMIT (R280). -/
  | matrixReservationAdmit (q : Nat)
  /-- MATRIX_LATCH_FIRE (R287). -/
  | matrixLatchFire (q u : Nat)
  /-- MATRIX_PASS (R282). -/
  | matrixPass (q u : Nat)
  /-- MATRIX_OPERATION_COMPLETE (R295). -/
  | matrixOperationComplete (q u : Nat)
  /-- CUPBOARD_FILL (R58). -/
  | cupboardFill (q gid : Nat)
  /-- BLOCK_PLACEMENT (R389). -/
  | blockPlacement (gid : Nat)
  /-- GANG_PLACEMENT (R390). -/
  | gangPlacement (gid : Nat)
  /-- EFFECTIVE_CLASS_AGEING (R388). -/
  | effectiveClassAgeing (gid : Nat)
  /-- GANG_PRESSING (R390). -/
  | gangPressing (gid : Nat)
  /-- GRID_COMPLETION (R35). -/
  | gridCompletion (gid : Nat)
  /-- CHILD_WAIT_EVICTION (R412). -/
  | childWaitEviction (gid : Nat)
  /-- UNIT_RESTORE (R421). -/
  | unitRestore (u : Nat)
  /-- CONTEXT_END (R407). -/
  | contextEnd (slot : Nat)
  /-- PEER_PORT_UP (R393). -/
  | peerPortUp (p : Nat)
  /-- REDUCTION_ROW_ARRIVAL (R395). -/
  | reductionRowArrival (p st ix : Nat) (row : List Word) (bound : Word)
  /-- GET_VERSION (R430). -/
  | getVersion (r : SpdmReq)
  /-- GET_CAPABILITIES (R430). -/
  | getCapabilities (r : SpdmReq)
  /-- NEGOTIATE_ALGORITHMS (R430). -/
  | negotiateAlgorithms (r : SpdmReq)
  /-- GET_DIGESTS (R430). -/
  | getDigests (r : SpdmReq)
  /-- GET_CERTIFICATE (R430). -/
  | getCertificate (r : SpdmReq)
  /-- CHALLENGE (R430). -/
  | challenge (r : SpdmReq)
  /-- GET_MEASUREMENTS (R430). -/
  | getMeasurements (r : SpdmReq)
  /-- SPDM_UNSUPPORTED_REQUEST (R430). -/
  | spdmUnsupportedRequest (r : SpdmReq)
  /-- PLDM_SENSOR_READ (R431). -/
  | pldmSensorRead (n : Nat)
  /-- PLDM_SET_POWER_CAP (R432). -/
  | pldmSetPowerCap (w : BitVec 16)
  /-- PLDM_DEVICE_RESET (R431). -/
  | pldmDeviceReset (b : BringUp)
  /-- PLDM_FIRMWARE_STAGE (R442). -/
  | pldmFirmwareStage (img svn : Nat)
  /-- PWROK_RISE (R425). -/
  | pwrokRise (b : BringUp)
  /-- DEVICE_RESET (R427). -/
  | deviceReset (b : BringUp)
  /-- BRIDGE_TIMEOUT (R423). -/
  | bridgeTimeout (tw : Nat)
  /-- VP_CORRECTED_ERROR (R435). -/
  | vpCorrectedError (core vp : Nat)
  /-- VP_UNCORRECTABLE_ERROR (R436). -/
  | vpUncorrectableError (core vp tid : Nat)
  /-- SOFT_ERROR_CORRECTED (R438). -/
  | softErrorCorrected (tw st : Nat)
  /-- SOFT_ERROR_UNCORRECTABLE (R439). -/
  | softErrorUncorrectable (tw st : Nat) (w : SoftErr)
  /-- ENGINE_OPERATION_STOPPED (R403). -/
  | engineOperationStopped (op : Nat)
  /-- ENDPOINT_ID_ASSIGNMENT (R431). -/
  | endpointIdAssignment (eid : BitVec 8)
  /-- NOP (R182). -/
  | nop
  /-- JOIN (R187). -/
  | join
  /-- EXIT (R192). -/
  | exit
  /-- ERET (R216). -/
  | eret
  /-- MREL (R281). -/
  | mrel
  /-- REPLICATION_EPOCH (R67). -/
  | replicationEpoch
  /-- LAUNCH_MSG (R386). -/
  | launchMsg
  /-- MWR (R376). -/
  | mwr
  /-- MRD (R376). -/
  | mrd
  /-- HOST_WRACK (R375). -/
  | hostWrack
  /-- HOST_MRDRESP (R446). -/
  | hostMrdresp
  /-- MATOMRESP (R447). -/
  | matomresp
  /-- FEATURE_SELECT (R377). -/
  | featureSelect
  /-- FAULTREPLY (R404). -/
  | faultreply
  /-- PREEMPT_MAKE_ROOM (R411). -/
  | preemptMakeRoom
  /-- PREEMPT_SUSPEND (R412). -/
  | preemptSuspend
  /-- PREEMPT_RESUME (R412). -/
  | preemptResume
  /-- CTXCTL_ACTIVATE (R397). -/
  | ctxctlActivate
  /-- CTXCTL_END (R397). -/
  | ctxctlEnd
  /-- INVALIDATE_RANGE (R402). -/
  | invalidateRange
  /-- INVALIDATE_ALL (R402). -/
  | invalidateAll
  /-- INVALIDATE_REGION (R402). -/
  | invalidateRegion
  /-- INVALIDATE_CODE (R402). -/
  | invalidateCode
  /-- REDUCTION_STREAM_WRITE (R394). -/
  | reductionStreamWrite
  /-- PEER_PORT_ENABLE (R393). -/
  | peerPortEnable
  /-- PEER_PORT_DISABLE (R393). -/
  | peerPortDisable
  /-- REGISTER_WRITE (R5). -/
  | registerWrite
  /-- SPDM_MAILBOX_GO (R430). -/
  | spdmMailboxGo
  /-- PLDM_DISCOVERY (R431). -/
  | pldmDiscovery
  /-- PLDM_LINK_RETRAIN (R431). -/
  | pldmLinkRetrain
  /-- PWROK_FALL (R425). -/
  | pwrokFall
  /-- SB_RESET (R425). -/
  | sbReset
  /-- LINK_START (R427). -/
  | linkStart
  /-- THROTTLE (R433). -/
  | throttle
  /-- CLOCK_RECOVERY (R433). -/
  | clockRecovery
  /-- THERMAL_TRIP (R433). -/
  | thermalTrip
  /-- LEAK_DECAY (R435). -/
  | leakDecay
  /-- UNKNOWN_TYPE (R374). -/
  | unknownType
  deriving DecidableEq, Repr

end Sys2Proof
end

