-- ==== Sys2Proof/WellFormed.lean ====
section
/-! DEFINITION. Operand classes and their fixed limits (R162), and the well-formed instructions. -/

namespace Sys2Proof

/-- The class of an 8-bit field of an instruction word (R162), with the ranges R179 states. -/
inductive FieldClass where
  /-- Z: must be zero. -/
  | z
  /-- S: s0 to s63. -/
  | s
  /-- V: v0 to v255; the team's V limits it further at issue. -/
  | v
  /-- P as a source: p0 to p15. -/
  | p
  /-- P as a destination: p1 to p15. -/
  | pd
  /-- M: m0 to m7. -/
  | m
  /-- MS: b[2:0] the m register, b[3] zero, b[7:4] a modifier from lo to hi. -/
  | ms (lo hi : Nat)
  /-- T: a0 to a15, below the grant at issue. -/
  | t
  /-- E: e0 to e15, below the grant at issue. -/
  | e
  /-- K: k0 to k31, below the grant at issue. -/
  | k
  /-- Q: q0 to q7, below the grant at issue. -/
  | q
  /-- G: g0 to g3, in a gang. -/
  | g
  /-- BARSEL: [7:6] class, [5] zero, [4:0] number. -/
  | bar
  /-- SYS: a system register number of R183. -/
  | sys
  /-- A signed or unsigned 8-bit immediate of full range. -/
  | i8
  /-- A SUB or unsigned immediate from 0 to hi. -/
  | u (hi : Nat)
  /-- The SUB of SCAN: [7:4] zero, [3] EXCL, [2:0] at most 5 (R242). -/
  | scan
  /-- The SUB of FENCE: [7:6] kind 1 to 3, [5:3] zero, [2:0] scope 0 to 4 (R252). -/
  | fence
  deriving DecidableEq, Repr

/-- The fixed limits of a field class, as far as the word alone decides them (R162, R179). -/
def FieldClass.ok : FieldClass → Nat → Bool
  | .z, n => n == 0
  | .s, n => n < 64
  | .v, n => n < 256
  | .p, n => n < 16
  | .pd, n => 0 < n && n < 16
  | .m, n => n < 8
  | .ms lo hi, n => n % 16 < 8 && lo ≤ n / 16 && n / 16 ≤ hi && n < 256
  | .t, n => n < 16
  | .e, n => n < 16
  | .k, n => n < 32
  | .q, n => n < 8
  | .g, n => n < 4
  | .bar, n => (n / 64 == 0 && n < 32) || (n / 64 == 1 && n % 64 < 8) || (n / 64 == 2 && n % 64 < 4)
  | .sys, n => n ≤ 16
  | .i8, n => n < 256
  | .u hi, n => n ≤ hi && n < 256
  | .scan, n => n < 16 && n % 8 ≤ 5
  | .fence, n => 1 ≤ n / 64 && n < 256 && n / 8 % 8 == 0 && n % 8 ≤ 4

/-- LEN agrees with the payload, and the payload is no longer than a message may be (R373). -/
def HostMsg.wf (m : HostMsg) : Bool :=
  m.len.toNat == m.payload.length && m.payload.length ≤ 4096 && m.payload.length % 8 == 0

/-- Towers and cores of a bring-up outcome exist (R8, R10). -/
def BringUp.wf (b : BringUp) : Bool :=
  b.lost.all (· < Config.nTowers) && b.failed.all fun p => p.1 < Config.nCores && p.2 < 2

/-- The fields of an instruction are in their classes; an event names things that exist (R162, R10). -/
def Instr.wf : Instr → Bool
  | .nop => true
  | .setm _ => true
  | .setmk _ _ => true
  | .bra _ => true
  | .brs a b _ => FieldClass.ok .s a && FieldClass.ok (.u 7) b
  | .brp a _ => FieldClass.ok .p a
  | .brv a b _ => FieldClass.ok .p a && FieldClass.ok (.u 2) b
  | .mark _ => true
  | .join => true
  | .call d _ => FieldClass.ok .s d
  | .calli d a => FieldClass.ok .s d && FieldClass.ok .s a
  | .ret a => FieldClass.ok .s a
  | .jmpi a => FieldClass.ok .s a
  | .loop a _ => FieldClass.ok .s a
  | .exit => true
  | .trap b => FieldClass.ok .i8 b
  | .eret => true
  | .sadd d a b => FieldClass.ok .s d && FieldClass.ok .s a && FieldClass.ok .s b
  | .ssub d a b => FieldClass.ok .s d && FieldClass.ok .s a && FieldClass.ok .s b
  | .smul d a b => FieldClass.ok .s d && FieldClass.ok .s a && FieldClass.ok .s b
  | .smulh d a b => FieldClass.ok .s d && FieldClass.ok .s a && FieldClass.ok .s b
  | .sdiv d a b => FieldClass.ok .s d && FieldClass.ok .s a && FieldClass.ok .s b
  | .srem d a b => FieldClass.ok .s d && FieldClass.ok .s a && FieldClass.ok .s b
  | .sand d a b => FieldClass.ok .s d && FieldClass.ok .s a && FieldClass.ok .s b
  | .sor d a b => FieldClass.ok .s d && FieldClass.ok .s a && FieldClass.ok .s b
  | .sxor d a b => FieldClass.ok .s d && FieldClass.ok .s a && FieldClass.ok .s b
  | .sshl d a b => FieldClass.ok .s d && FieldClass.ok .s a && FieldClass.ok .s b
  | .sshr d a b => FieldClass.ok .s d && FieldClass.ok .s a && FieldClass.ok .s b
  | .ssar d a b => FieldClass.ok .s d && FieldClass.ok .s a && FieldClass.ok .s b
  | .scmp d a b => FieldClass.ok .s d && FieldClass.ok .s a && FieldClass.ok .s b
  | .smin d a b => FieldClass.ok .s d && FieldClass.ok .s a && FieldClass.ok .s b
  | .smax d a b => FieldClass.ok .s d && FieldClass.ok .s a && FieldClass.ok .s b
  | .saddi d a b => FieldClass.ok .s d && FieldClass.ok .s a && FieldClass.ok .i8 b
  | .sshli d a b => FieldClass.ok .s d && FieldClass.ok .s a && FieldClass.ok (.u 63) b
  | .sshri d a b => FieldClass.ok .s d && FieldClass.ok .s a && FieldClass.ok (.u 63) b
  | .smovl d _ _ => FieldClass.ok .s d
  | .smov d a => FieldClass.ok .s d && FieldClass.ok .s a
  | .sxlate d a => FieldClass.ok .m d && FieldClass.ok .s a
  | .srd d b => FieldClass.ok .s d && FieldClass.ok .sys b
  | .swr a b => FieldClass.ok .s a && FieldClass.ok .sys b
  | .phase b => FieldClass.ok .i8 b
  | .launch d a => FieldClass.ok .s d && FieldClass.ok .s a
  | .cwait d a => FieldClass.ok .s d && FieldClass.ok .s a
  | .sneg d a => FieldClass.ok .s d && FieldClass.ok .s a
  | .snot d a => FieldClass.ok .s d && FieldClass.ok .s a
  | .sabs d a => FieldClass.ok .s d && FieldClass.ok .s a
  | .sclz d a => FieldClass.ok .s d && FieldClass.ok .s a
  | .sctz d a => FieldClass.ok .s d && FieldClass.ok .s a
  | .spopc d a => FieldClass.ok .s d && FieldClass.ok .s a
  | .sbrev d a => FieldClass.ok .s d && FieldClass.ok .s a
  | .sext32 d a => FieldClass.ok .s d && FieldClass.ok .s a
  | .saddr d a b => FieldClass.ok .s d && FieldClass.ok .s a && FieldClass.ok .s b
  | .sgetv d a b => FieldClass.ok .s d && FieldClass.ok .v a && FieldClass.ok .s b
  | .vadd d a b => FieldClass.ok .v d && FieldClass.ok .v a && FieldClass.ok .v b
  | .vsub d a b => FieldClass.ok .v d && FieldClass.ok .v a && FieldClass.ok .v b
  | .vmul d a b => FieldClass.ok .v d && FieldClass.ok .v a && FieldClass.ok .v b
  | .vmulh d a b => FieldClass.ok .v d && FieldClass.ok .v a && FieldClass.ok .v b
  | .vmad d a b => FieldClass.ok .v d && FieldClass.ok .v a && FieldClass.ok .v b
  | .vdiv d a b => FieldClass.ok .v d && FieldClass.ok .v a && FieldClass.ok .v b
  | .vrem d a b => FieldClass.ok .v d && FieldClass.ok .v a && FieldClass.ok .v b
  | .vmin d a b => FieldClass.ok .v d && FieldClass.ok .v a && FieldClass.ok .v b
  | .vmax d a b => FieldClass.ok .v d && FieldClass.ok .v a && FieldClass.ok .v b
  | .vabsd d a b => FieldClass.ok .v d && FieldClass.ok .v a && FieldClass.ok .v b
  | .vand d a b => FieldClass.ok .v d && FieldClass.ok .v a && FieldClass.ok .v b
  | .vor d a b => FieldClass.ok .v d && FieldClass.ok .v a && FieldClass.ok .v b
  | .vxor d a b => FieldClass.ok .v d && FieldClass.ok .v a && FieldClass.ok .v b
  | .vandn d a b => FieldClass.ok .v d && FieldClass.ok .v a && FieldClass.ok .v b
  | .vshl d a b => FieldClass.ok .v d && FieldClass.ok .v a && FieldClass.ok .v b
  | .vshr d a b => FieldClass.ok .v d && FieldClass.ok .v a && FieldClass.ok .v b
  | .vsar d a b => FieldClass.ok .v d && FieldClass.ok .v a && FieldClass.ok .v b
  | .vrotl d a b => FieldClass.ok .v d && FieldClass.ok .v a && FieldClass.ok .v b
  | .vaddi d a b => FieldClass.ok .v d && FieldClass.ok .v a && FieldClass.ok .i8 b
  | .vshli d a b => FieldClass.ok .v d && FieldClass.ok .v a && FieldClass.ok (.u 63) b
  | .vshri d a b => FieldClass.ok .v d && FieldClass.ok .v a && FieldClass.ok (.u 63) b
  | .vsari d a b => FieldClass.ok .v d && FieldClass.ok .v a && FieldClass.ok (.u 63) b
  | .vneg d a => FieldClass.ok .v d && FieldClass.ok .v a
  | .vnot d a => FieldClass.ok .v d && FieldClass.ok .v a
  | .vabs d a => FieldClass.ok .v d && FieldClass.ok .v a
  | .vclz d a => FieldClass.ok .v d && FieldClass.ok .v a
  | .vctz d a => FieldClass.ok .v d && FieldClass.ok .v a
  | .vcnt d a => FieldClass.ok .v d && FieldClass.ok .v a
  | .vbrev d a => FieldClass.ok .v d && FieldClass.ok .v a
  | .vsgn d a => FieldClass.ok .v d && FieldClass.ok .v a
  | .vcmpeq d a b => FieldClass.ok .pd d && FieldClass.ok .v a && FieldClass.ok .v b
  | .vcmpne d a b => FieldClass.ok .pd d && FieldClass.ok .v a && FieldClass.ok .v b
  | .vcmplt d a b => FieldClass.ok .pd d && FieldClass.ok .v a && FieldClass.ok .v b
  | .vcmple d a b => FieldClass.ok .pd d && FieldClass.ok .v a && FieldClass.ok .v b
  | .vmov d a => FieldClass.ok .v d && FieldClass.ok .v a
  | .vmovs d a => FieldClass.ok .v d && FieldClass.ok .s a
  | .vmovl d _ _ => FieldClass.ok .v d
  | .pand d a b => FieldClass.ok .pd d && FieldClass.ok .p a && FieldClass.ok .p b
  | .por d a b => FieldClass.ok .pd d && FieldClass.ok .p a && FieldClass.ok .p b
  | .pxor d a b => FieldClass.ok .pd d && FieldClass.ok .p a && FieldClass.ok .p b
  | .pnot d a => FieldClass.ok .pd d && FieldClass.ok .p a
  | .vbfe d a _ => FieldClass.ok .v d && FieldClass.ok .v a
  | .vbfi d a _ => FieldClass.ok .v d && FieldClass.ok .v a
  | .vdot4 d a b => FieldClass.ok .v d && FieldClass.ok .v a && FieldClass.ok .v b
  | .vfadd d a b => FieldClass.ok .v d && FieldClass.ok .v a && FieldClass.ok .v b
  | .vfsub d a b => FieldClass.ok .v d && FieldClass.ok .v a && FieldClass.ok .v b
  | .vfmul d a b => FieldClass.ok .v d && FieldClass.ok .v a && FieldClass.ok .v b
  | .vfma d a b => FieldClass.ok .v d && FieldClass.ok .v a && FieldClass.ok .v b
  | .vfms d a b => FieldClass.ok .v d && FieldClass.ok .v a && FieldClass.ok .v b
  | .vfnma d a b => FieldClass.ok .v d && FieldClass.ok .v a && FieldClass.ok .v b
  | .vfdiv d a b => FieldClass.ok .v d && FieldClass.ok .v a && FieldClass.ok .v b
  | .vfsqrt d a => FieldClass.ok .v d && FieldClass.ok .v a
  | .vfmin d a b => FieldClass.ok .v d && FieldClass.ok .v a && FieldClass.ok .v b
  | .vfmax d a b => FieldClass.ok .v d && FieldClass.ok .v a && FieldClass.ok .v b
  | .vfabs d a => FieldClass.ok .v d && FieldClass.ok .v a
  | .vfneg d a => FieldClass.ok .v d && FieldClass.ok .v a
  | .vfrcp d a => FieldClass.ok .v d && FieldClass.ok .v a
  | .vfrsq d a => FieldClass.ok .v d && FieldClass.ok .v a
  | .vfexp2 d a => FieldClass.ok .v d && FieldClass.ok .v a
  | .vflog2 d a => FieldClass.ok .v d && FieldClass.ok .v a
  | .vfsin d a => FieldClass.ok .v d && FieldClass.ok .v a
  | .vfcos d a => FieldClass.ok .v d && FieldClass.ok .v a
  | .vfcmpeq d a b => FieldClass.ok .pd d && FieldClass.ok .v a && FieldClass.ok .v b
  | .vfcmpne d a b => FieldClass.ok .pd d && FieldClass.ok .v a && FieldClass.ok .v b
  | .vfcmplt d a b => FieldClass.ok .pd d && FieldClass.ok .v a && FieldClass.ok .v b
  | .vfcmple d a b => FieldClass.ok .pd d && FieldClass.ok .v a && FieldClass.ok .v b
  | .vfcmpun d a b => FieldClass.ok .pd d && FieldClass.ok .v a && FieldClass.ok .v b
  | .vfclass d a => FieldClass.ok .v d && FieldClass.ok .v a
  | .vfmull d a _ => FieldClass.ok .v d && FieldClass.ok .v a
  | .vfaddl d a _ => FieldClass.ok .v d && FieldClass.ok .v a
  | .vffmal d a b _ => FieldClass.ok .v d && FieldClass.ok .v a && FieldClass.ok .v b
  | .vfldexp d a b => FieldClass.ok .v d && FieldClass.ok .v a && FieldClass.ok .v b
  | .vfrint d a b => FieldClass.ok .v d && FieldClass.ok .v a && FieldClass.ok (.u 5) b
  | .vfcopys d a b => FieldClass.ok .v d && FieldClass.ok .v a && FieldClass.ok .v b
  | .vfdot2 d a b => FieldClass.ok .v d && FieldClass.ok .v a && FieldClass.ok .v b
  | .cvt d a b => FieldClass.ok .v d && FieldClass.ok .v a && FieldClass.ok (.u 17) b
  | .cvtmx d a b => FieldClass.ok .v d && FieldClass.ok .v a && FieldClass.ok .v b
  | .cvtxm d a b => FieldClass.ok .v d && FieldClass.ok .v a && FieldClass.ok .v b
  | .cbdec d a b => FieldClass.ok .v d && FieldClass.ok .v a && FieldClass.ok .v b
  | .vpack d a b => FieldClass.ok .v d && FieldClass.ok .v a && FieldClass.ok .v b
  | .vunpk d a b => FieldClass.ok .v d && FieldClass.ok .v a && FieldClass.ok (.u 7) b
  | .shfl d a b => FieldClass.ok .v d && FieldClass.ok .v a && FieldClass.ok .v b
  | .shflx d a b => FieldClass.ok .v d && FieldClass.ok .v a && FieldClass.ok .i8 b
  | .permb d a b => FieldClass.ok .v d && FieldClass.ok .v a && FieldClass.ok .v b
  | .scan d a b => FieldClass.ok .v d && FieldClass.ok .v a && FieldClass.ok .scan b
  | .redv d a b => FieldClass.ok .s d && FieldClass.ok .v a && FieldClass.ok (.u 5) b
  | .ballot d a b => FieldClass.ok .s d && FieldClass.ok .p a && FieldClass.ok .s b
  | .popc d a => FieldClass.ok .s d && FieldClass.ok .p a
  | .lmv4 d a b => FieldClass.ok .v d && FieldClass.ok .v a && FieldClass.ok .v b
  | .lmv8 d a b => FieldClass.ok .v d && FieldClass.ok .v a && FieldClass.ok .v b
  | .vfirst d a => FieldClass.ok .s d && FieldClass.ok .p a
  | .vld d a m => FieldClass.ok .v d && FieldClass.ok .v a && FieldClass.m.ok m
  | .vst d a m => FieldClass.ok .v d && FieldClass.ok .v a && FieldClass.m.ok m
  | .vldn d a m k => FieldClass.ok .v d && FieldClass.ok .v a && FieldClass.m.ok m && 1 ≤ k && k ≤ 15
  | .vlda d a m k => FieldClass.ok .v d && FieldClass.ok .v a && FieldClass.m.ok m && k ≤ 4
  | .vstr d a m k => FieldClass.ok .v d && FieldClass.ok .v a && FieldClass.m.ok m && k ≤ 4
  | .sld d a m => FieldClass.ok .s d && FieldClass.ok .s a && FieldClass.m.ok m
  | .sst d a m => FieldClass.ok .s d && FieldClass.ok .s a && FieldClass.m.ok m
  | .vlds d a => FieldClass.ok .v d && FieldClass.ok .v a
  | .vsts d a => FieldClass.ok .v d && FieldClass.ok .v a
  | .vldsr d a b => FieldClass.ok .v d && FieldClass.ok .v a && FieldClass.ok .s b
  | .vstsr d a b => FieldClass.ok .v d && FieldClass.ok .v a && FieldClass.ok .s b
  | .vldc d a => FieldClass.ok .v d && FieldClass.ok .v a
  | .sldc d a => FieldClass.ok .s d && FieldClass.ok .s a
  | .fence b => FieldClass.ok .fence b
  | .seal d a m => FieldClass.ok .s d && FieldClass.ok .s a && FieldClass.m.ok m
  | .unseal d a m => FieldClass.ok .s d && FieldClass.ok .s a && FieldClass.m.ok m
  | .repl d a m => FieldClass.ok .s d && FieldClass.ok .s a && FieldClass.m.ok m
  | .vatom d a m _ => FieldClass.ok .v d && FieldClass.ok .v a && FieldClass.m.ok m
  | .vred d a m _ => FieldClass.ok .v d && FieldClass.ok .v a && FieldClass.m.ok m
  | .vcas d a m _ => FieldClass.ok .v d && FieldClass.ok .v a && FieldClass.m.ok m
  | .vatoms d a _ => FieldClass.ok .v d && FieldClass.ok .v a
  | .vreds d a _ => FieldClass.ok .v d && FieldClass.ok .v a
  | .satom d a m _ => FieldClass.ok .s d && FieldClass.ok .s a && FieldClass.m.ok m
  | .vpref a m => FieldClass.ok .v a && FieldClass.m.ok m
  | .arrk a => FieldClass.ok .k a
  | .waitk a => FieldClass.ok .k a
  | .synck a => FieldClass.ok .k a
  | .arrq a => FieldClass.ok .q a
  | .waitq a => FieldClass.ok .q a
  | .syncq a => FieldClass.ok .q a
  | .arrg a => FieldClass.ok .g a
  | .waitg a => FieldClass.ok .g a
  | .syncg a => FieldClass.ok .g a
  | .twait d a b => FieldClass.ok .s d && FieldClass.ok .bar a && FieldClass.ok .s b
  | .evwait d => FieldClass.ok .s d
  | .evpop d => FieldClass.ok .s d
  | .cpy d a b _ => FieldClass.ok .s d && FieldClass.ok .s a && FieldClass.ok .s b
  | .cpyt d a b _ => FieldClass.ok .s d && FieldClass.ok .s a && FieldClass.ok .s b
  | .merge d a b _ => FieldClass.ok .s d && FieldClass.ok .s a && FieldClass.ok .s b
  | .cmpct a b => FieldClass.ok .v a && FieldClass.ok .s b
  | .wltake d a => FieldClass.ok .v d && FieldClass.ok .s a
  | .mrsv d a => FieldClass.ok .pd d && FieldClass.ok .s a
  | .mrel => true
  | .mcrew _ => true
  | .mmj d a b _ => FieldClass.ok .t d && FieldClass.ok .s a && FieldClass.ok .s b
  | .mms d a b _ => FieldClass.ok .t d && FieldClass.ok .s a && FieldClass.ok .s b
  | .mmg d a b _ => FieldClass.ok .t d && FieldClass.ok .s a && FieldClass.ok .s b
  | .mmd d a b _ => FieldClass.ok .t d && FieldClass.ok .s a && FieldClass.ok .s b
  | .mzero d => FieldClass.ok .t d
  | .mld d a => FieldClass.ok .t d && FieldClass.ok .s a
  | .mdrn d a b => FieldClass.ok .v d && FieldClass.ok .t a && FieldClass.ok .s b
  | .mdrs d a b => FieldClass.ok .s d && FieldClass.ok .t a && FieldClass.ok .s b
  | .mdrm d a b => FieldClass.ok .s d && FieldClass.ok .t a && FieldClass.ok .s b
  | .mdrf d a b => FieldClass.ok .s d && FieldClass.ok .t a && FieldClass.ok .s b
  | .mbrd d a b => FieldClass.ok .v d && FieldClass.ok .e a && FieldClass.ok .s b
  | .mbwr a b => FieldClass.ok .e a && FieldClass.ok .s b
  | .mcvt d a b => FieldClass.ok .t d && FieldClass.ok .t a && FieldClass.ok (.u 17) b
  | .reservedOpcode _ => true
  | .instructionFetch _ => true
  | .instructionComplete _ _ => true
  | .trapEntry _ => true
  | .phaseOverrun _ => true
  | .twaitTimeout _ => true
  | .workListQuiet _ => true
  | .engineOperationComplete _ => true
  | .matrixReservationAdmit q => q < Config.nQuads
  | .matrixLatchFire q _ => q < Config.nQuads
  | .matrixPass q _ => q < Config.nQuads
  | .matrixOperationComplete q _ => q < Config.nQuads
  | .cupboardFill q _ => q < Config.nQuads
  | .blockPlacement _ => true
  | .gangPlacement _ => true
  | .effectiveClassAgeing _ => true
  | .gangPressing _ => true
  | .gridCompletion _ => true
  | .replicationEpoch => true
  | .launchMsg => true
  | .mwr => true
  | .mrd => true
  | .hostWrack => true
  | .hostMrdresp => true
  | .matomresp => true
  | .featureSelect => true
  | .faultreply => true
  | .preemptMakeRoom => true
  | .preemptSuspend => true
  | .preemptResume => true
  | .childWaitEviction _ => true
  | .unitRestore _ => true
  | .ctxctlActivate => true
  | .ctxctlEnd => true
  | .contextEnd slot => slot < 16
  | .invalidateRange => true
  | .invalidateAll => true
  | .invalidateRegion => true
  | .invalidateCode => true
  | .reductionStreamWrite => true
  | .peerPortEnable => true
  | .peerPortDisable => true
  | .peerPortUp p => 1 ≤ p && p ≤ 18
  | .registerWrite => true
  | .reductionRowArrival p st ix row _ => 1 ≤ p && p ≤ 18 && st < 256 && ix < 128 && row.length == 128
  | .spdmMailboxGo => true
  | .getVersion _ => true
  | .getCapabilities _ => true
  | .negotiateAlgorithms _ => true
  | .getDigests _ => true
  | .getCertificate _ => true
  | .challenge _ => true
  | .getMeasurements _ => true
  | .spdmUnsupportedRequest _ => true
  | .pldmDiscovery => true
  | .pldmSensorRead _ => true
  | .pldmSetPowerCap _ => true
  | .pldmDeviceReset b => b.wf
  | .pldmLinkRetrain => true
  | .pldmFirmwareStage img _ => 1 ≤ img && img ≤ 3
  | .pwrokRise b => b.wf
  | .pwrokFall => true
  | .deviceReset b => b.wf
  | .sbReset => true
  | .linkStart => true
  | .bridgeTimeout tw => tw < Config.nTowers
  | .throttle => true
  | .clockRecovery => true
  | .thermalTrip => true
  | .vpCorrectedError core vp => core < Config.nCores && vp < 2
  | .leakDecay => true
  | .vpUncorrectableError core vp _ => core < Config.nCores && vp < 2
  | .softErrorCorrected tw st => tw < Config.nTowers && st < 8
  | .softErrorUncorrectable tw st _ => tw < Config.nTowers && st < 8
  | .unknownType => true
  | .engineOperationStopped _ => true
  | .endpointIdAssignment _ => true

/-- A well-formed instruction or event. -/
abbrev WellFormed (i : Instr) : Prop := i.wf = true

end Sys2Proof
end

