-- ==== Sys2Proof/Decode.lean ====
section
/-! DEFINITION. Decoding of instruction words and of link messages, and the encoder (R164 to R168, R179, R180,
R374). -/

namespace Sys2Proof

/-- The format of an opcode (R164): the class of each field, the literal words (one more when `plusB` and
b[0] is 1), whether it attaches to a flag (R169) and whether it is a control transfer (R168). -/
structure Form where
  d : FieldClass
  a : FieldClass
  b : FieldClass
  lits : Nat
  plusB : Bool
  attach : Bool
  ctl : Bool
  deriving DecidableEq, Repr

/-- An instruction word by its fields, with its literal words (R164, R165). -/
structure Raw where
  op : Nat
  d : Nat
  a : Nat
  b : Nat
  lits : List Word
  deriving DecidableEq, Repr

/-- Why a word is refused by the decoder. -/
inductive DecodeError where
  /-- A field is outside its class, and the word is no instruction's encoding (R162). -/
  | fieldClass
  /-- The literal words would extend past the words given (R168). -/
  | literals
  deriving DecidableEq, Repr

/-- The opcode map of R179: the format of every assigned opcode. -/
def formOf : Nat → Option Form
  | 0x00 => some ⟨.z, .z, .z, 0, false, false, false⟩
  | 0x01 => some ⟨.z, .z, (.u 1), 1, true, false, false⟩
  | 0x02 => some ⟨.z, .z, .z, 1, false, false, true⟩
  | 0x03 => some ⟨.z, .s, (.u 7), 1, false, false, true⟩
  | 0x04 => some ⟨.z, .p, .z, 1, false, false, true⟩
  | 0x05 => some ⟨.z, .p, (.u 2), 1, false, false, true⟩
  | 0x06 => some ⟨.z, .z, .z, 1, false, false, false⟩
  | 0x07 => some ⟨.z, .z, .z, 0, false, false, true⟩
  | 0x08 => some ⟨.s, .z, .z, 1, false, false, true⟩
  | 0x09 => some ⟨.s, .s, .z, 0, false, false, true⟩
  | 0x0A => some ⟨.z, .s, .z, 0, false, false, true⟩
  | 0x0B => some ⟨.z, .s, .z, 0, false, false, true⟩
  | 0x0C => some ⟨.z, .s, .z, 1, false, false, true⟩
  | 0x0D => some ⟨.z, .z, .z, 0, false, false, true⟩
  | 0x0E => some ⟨.z, .z, .i8, 0, false, false, true⟩
  | 0x0F => some ⟨.z, .z, .z, 0, false, false, true⟩
  | 0x10 => some ⟨.s, .s, .s, 0, false, false, false⟩
  | 0x11 => some ⟨.s, .s, .s, 0, false, false, false⟩
  | 0x12 => some ⟨.s, .s, .s, 0, false, false, false⟩
  | 0x13 => some ⟨.s, .s, .s, 0, false, false, false⟩
  | 0x14 => some ⟨.s, .s, .s, 0, false, false, false⟩
  | 0x15 => some ⟨.s, .s, .s, 0, false, false, false⟩
  | 0x16 => some ⟨.s, .s, .s, 0, false, false, false⟩
  | 0x17 => some ⟨.s, .s, .s, 0, false, false, false⟩
  | 0x18 => some ⟨.s, .s, .s, 0, false, false, false⟩
  | 0x19 => some ⟨.s, .s, .s, 0, false, false, false⟩
  | 0x1A => some ⟨.s, .s, .s, 0, false, false, false⟩
  | 0x1B => some ⟨.s, .s, .s, 0, false, false, false⟩
  | 0x1C => some ⟨.s, .s, .s, 0, false, false, false⟩
  | 0x1D => some ⟨.s, .s, .s, 0, false, false, false⟩
  | 0x1E => some ⟨.s, .s, .s, 0, false, false, false⟩
  | 0x1F => some ⟨.s, .s, .i8, 0, false, false, false⟩
  | 0x20 => some ⟨.s, .s, (.u 63), 0, false, false, false⟩
  | 0x21 => some ⟨.s, .s, (.u 63), 0, false, false, false⟩
  | 0x22 => some ⟨.s, .z, (.u 1), 1, true, false, false⟩
  | 0x23 => some ⟨.s, .s, .z, 0, false, false, false⟩
  | 0x24 => some ⟨.m, .s, .z, 0, false, true, false⟩
  | 0x25 => some ⟨.s, .z, .sys, 0, false, false, false⟩
  | 0x26 => some ⟨.z, .s, .sys, 0, false, false, false⟩
  | 0x27 => some ⟨.z, .z, .i8, 0, false, false, false⟩
  | 0x28 => some ⟨.s, .s, .z, 0, false, true, false⟩
  | 0x29 => some ⟨.s, .s, .z, 0, false, false, false⟩
  | 0x2A => some ⟨.s, .s, (.u 7), 0, false, false, false⟩
  | 0x2B => some ⟨.s, .s, .s, 0, false, false, false⟩
  | 0x2C => some ⟨.s, .v, .s, 0, false, false, false⟩
  | 0x30 => some ⟨.v, .v, .v, 0, false, false, false⟩
  | 0x31 => some ⟨.v, .v, .v, 0, false, false, false⟩
  | 0x32 => some ⟨.v, .v, .v, 0, false, false, false⟩
  | 0x33 => some ⟨.v, .v, .v, 0, false, false, false⟩
  | 0x34 => some ⟨.v, .v, .v, 0, false, false, false⟩
  | 0x35 => some ⟨.v, .v, .v, 0, false, false, false⟩
  | 0x36 => some ⟨.v, .v, .v, 0, false, false, false⟩
  | 0x37 => some ⟨.v, .v, .v, 0, false, false, false⟩
  | 0x38 => some ⟨.v, .v, .v, 0, false, false, false⟩
  | 0x39 => some ⟨.v, .v, .v, 0, false, false, false⟩
  | 0x3A => some ⟨.v, .v, .v, 0, false, false, false⟩
  | 0x3B => some ⟨.v, .v, .v, 0, false, false, false⟩
  | 0x3C => some ⟨.v, .v, .v, 0, false, false, false⟩
  | 0x3D => some ⟨.v, .v, .v, 0, false, false, false⟩
  | 0x3E => some ⟨.v, .v, .v, 0, false, false, false⟩
  | 0x3F => some ⟨.v, .v, .v, 0, false, false, false⟩
  | 0x40 => some ⟨.v, .v, .v, 0, false, false, false⟩
  | 0x41 => some ⟨.v, .v, .v, 0, false, false, false⟩
  | 0x42 => some ⟨.v, .v, .i8, 0, false, false, false⟩
  | 0x43 => some ⟨.v, .v, (.u 63), 0, false, false, false⟩
  | 0x44 => some ⟨.v, .v, (.u 63), 0, false, false, false⟩
  | 0x45 => some ⟨.v, .v, (.u 63), 0, false, false, false⟩
  | 0x46 => some ⟨.v, .v, (.u 7), 0, false, false, false⟩
  | 0x47 => some ⟨.pd, .v, .v, 0, false, false, false⟩
  | 0x48 => some ⟨.pd, .v, .v, 0, false, false, false⟩
  | 0x49 => some ⟨.pd, .v, .v, 0, false, false, false⟩
  | 0x4A => some ⟨.pd, .v, .v, 0, false, false, false⟩
  | 0x4B => some ⟨.v, .v, .z, 0, false, false, false⟩
  | 0x4C => some ⟨.v, .s, .z, 0, false, false, false⟩
  | 0x4D => some ⟨.v, .z, (.u 1), 1, true, false, false⟩
  | 0x4E => some ⟨.pd, .p, .p, 0, false, false, false⟩
  | 0x4F => some ⟨.pd, .p, .p, 0, false, false, false⟩
  | 0x50 => some ⟨.pd, .p, .p, 0, false, false, false⟩
  | 0x51 => some ⟨.pd, .p, .z, 0, false, false, false⟩
  | 0x52 => some ⟨.v, .v, .z, 1, false, false, false⟩
  | 0x53 => some ⟨.v, .v, .z, 1, false, false, false⟩
  | 0x54 => some ⟨.v, .v, .v, 0, false, false, false⟩
  | 0x58 => some ⟨.v, .v, .v, 0, false, false, false⟩
  | 0x59 => some ⟨.v, .v, .v, 0, false, false, false⟩
  | 0x5A => some ⟨.v, .v, .v, 0, false, false, false⟩
  | 0x5B => some ⟨.v, .v, .v, 0, false, false, false⟩
  | 0x5C => some ⟨.v, .v, .v, 0, false, false, false⟩
  | 0x5D => some ⟨.v, .v, .v, 0, false, false, false⟩
  | 0x5E => some ⟨.v, .v, .v, 0, false, false, false⟩
  | 0x5F => some ⟨.v, .v, .z, 0, false, false, false⟩
  | 0x60 => some ⟨.v, .v, .v, 0, false, false, false⟩
  | 0x61 => some ⟨.v, .v, .v, 0, false, false, false⟩
  | 0x62 => some ⟨.v, .v, .z, 0, false, false, false⟩
  | 0x63 => some ⟨.v, .v, .z, 0, false, false, false⟩
  | 0x64 => some ⟨.v, .v, .z, 0, false, false, false⟩
  | 0x65 => some ⟨.v, .v, .z, 0, false, false, false⟩
  | 0x66 => some ⟨.v, .v, .z, 0, false, false, false⟩
  | 0x67 => some ⟨.v, .v, .z, 0, false, false, false⟩
  | 0x68 => some ⟨.v, .v, .z, 0, false, false, false⟩
  | 0x69 => some ⟨.v, .v, .z, 0, false, false, false⟩
  | 0x6A => some ⟨.pd, .v, .v, 0, false, false, false⟩
  | 0x6B => some ⟨.pd, .v, .v, 0, false, false, false⟩
  | 0x6C => some ⟨.pd, .v, .v, 0, false, false, false⟩
  | 0x6D => some ⟨.pd, .v, .v, 0, false, false, false⟩
  | 0x6E => some ⟨.pd, .v, .v, 0, false, false, false⟩
  | 0x6F => some ⟨.v, .v, .z, 0, false, false, false⟩
  | 0x70 => some ⟨.v, .v, .z, 1, false, false, false⟩
  | 0x71 => some ⟨.v, .v, .z, 1, false, false, false⟩
  | 0x72 => some ⟨.v, .v, .v, 1, false, false, false⟩
  | 0x73 => some ⟨.v, .v, .v, 0, false, false, false⟩
  | 0x74 => some ⟨.v, .v, (.u 5), 0, false, false, false⟩
  | 0x75 => some ⟨.v, .v, .v, 0, false, false, false⟩
  | 0x76 => some ⟨.v, .v, .v, 0, false, false, false⟩
  | 0x88 => some ⟨.v, .v, (.u 17), 0, false, false, false⟩
  | 0x89 => some ⟨.v, .v, .v, 0, false, false, false⟩
  | 0x8A => some ⟨.v, .v, .v, 0, false, false, false⟩
  | 0x8B => some ⟨.v, .v, .v, 0, false, false, false⟩
  | 0x8C => some ⟨.v, .v, .v, 0, false, false, false⟩
  | 0x8D => some ⟨.v, .v, (.u 7), 0, false, false, false⟩
  | 0x98 => some ⟨.v, .v, .v, 0, false, false, false⟩
  | 0x99 => some ⟨.v, .v, .i8, 0, false, false, false⟩
  | 0x9A => some ⟨.v, .v, .v, 0, false, false, false⟩
  | 0x9B => some ⟨.v, .v, .scan, 0, false, false, false⟩
  | 0x9C => some ⟨.s, .v, (.u 5), 0, false, false, false⟩
  | 0x9D => some ⟨.s, .p, .s, 0, false, false, false⟩
  | 0x9E => some ⟨.s, .p, .z, 0, false, false, false⟩
  | 0x9F => some ⟨.v, .v, .v, 0, false, true, false⟩
  | 0xA0 => some ⟨.v, .v, .v, 0, false, true, false⟩
  | 0xA1 => some ⟨.s, .p, .z, 0, false, false, false⟩
  | 0xA8 => some ⟨.v, .v, (.ms 0 0), 0, false, true, false⟩
  | 0xA9 => some ⟨.v, .v, (.ms 0 0), 0, false, true, false⟩
  | 0xAA => some ⟨.v, .v, (.ms 1 15), 0, false, true, false⟩
  | 0xAB => some ⟨.v, .v, (.ms 0 4), 0, false, true, false⟩
  | 0xAC => some ⟨.v, .v, (.ms 0 4), 0, false, true, false⟩
  | 0xAD => some ⟨.s, .s, (.ms 0 0), 0, false, true, false⟩
  | 0xAE => some ⟨.s, .s, (.ms 0 0), 0, false, true, false⟩
  | 0xAF => some ⟨.v, .v, .z, 0, false, true, false⟩
  | 0xB0 => some ⟨.v, .v, .z, 0, false, true, false⟩
  | 0xB1 => some ⟨.v, .v, .s, 0, false, true, false⟩
  | 0xB2 => some ⟨.v, .v, .s, 0, false, true, false⟩
  | 0xB3 => some ⟨.v, .v, .z, 0, false, true, false⟩
  | 0xB4 => some ⟨.s, .s, .z, 0, false, true, false⟩
  | 0xB5 => some ⟨.z, .z, .fence, 0, false, false, false⟩
  | 0xB6 => some ⟨.s, .s, (.ms 0 0), 0, false, true, false⟩
  | 0xB7 => some ⟨.s, .s, (.ms 0 0), 0, false, true, false⟩
  | 0xB8 => some ⟨.s, .s, (.ms 0 0), 0, false, true, false⟩
  | 0xB9 => some ⟨.v, .v, (.ms 0 0), 1, false, true, false⟩
  | 0xBA => some ⟨.v, .v, (.ms 0 0), 1, false, true, false⟩
  | 0xBB => some ⟨.v, .v, (.ms 0 0), 1, false, true, false⟩
  | 0xBC => some ⟨.v, .v, .z, 1, false, true, false⟩
  | 0xBD => some ⟨.v, .v, .z, 1, false, true, false⟩
  | 0xBE => some ⟨.s, .s, (.ms 0 0), 1, false, true, false⟩
  | 0xBF => some ⟨.z, .v, (.ms 0 0), 0, false, false, false⟩
  | 0xD0 => some ⟨.z, .k, .z, 0, false, false, false⟩
  | 0xD1 => some ⟨.z, .k, .z, 0, false, false, false⟩
  | 0xD2 => some ⟨.z, .k, .z, 0, false, false, false⟩
  | 0xD3 => some ⟨.z, .q, .z, 0, false, false, false⟩
  | 0xD4 => some ⟨.z, .q, .z, 0, false, false, false⟩
  | 0xD5 => some ⟨.z, .q, .z, 0, false, false, false⟩
  | 0xD6 => some ⟨.z, .g, .z, 0, false, false, false⟩
  | 0xD7 => some ⟨.z, .g, .z, 0, false, false, false⟩
  | 0xD8 => some ⟨.z, .g, .z, 0, false, false, false⟩
  | 0xD9 => some ⟨.s, .bar, .s, 0, false, false, false⟩
  | 0xDA => some ⟨.s, .z, .z, 0, false, false, false⟩
  | 0xDB => some ⟨.s, .z, .z, 0, false, false, false⟩
  | 0xE0 => some ⟨.s, .s, .s, 1, false, true, false⟩
  | 0xE1 => some ⟨.s, .s, .s, 1, false, true, false⟩
  | 0xE2 => some ⟨.s, .s, .s, 1, false, true, false⟩
  | 0xE3 => some ⟨.z, .v, .s, 0, false, true, false⟩
  | 0xE4 => some ⟨.v, .s, .z, 0, false, false, false⟩
  | 0xEC => some ⟨.pd, .s, .z, 0, false, false, false⟩
  | 0xED => some ⟨.z, .z, .z, 0, false, false, false⟩
  | 0xEE => some ⟨.z, .z, .z, 1, false, false, false⟩
  | 0xEF => some ⟨.t, .s, .s, 1, false, true, false⟩
  | 0xF0 => some ⟨.t, .s, .s, 1, false, true, false⟩
  | 0xF1 => some ⟨.t, .s, .s, 1, false, true, false⟩
  | 0xF2 => some ⟨.t, .s, .s, 1, false, true, false⟩
  | 0xF3 => some ⟨.t, .z, .z, 0, false, true, false⟩
  | 0xF4 => some ⟨.t, .s, .z, 0, false, true, false⟩
  | 0xF5 => some ⟨.v, .t, .s, 0, false, true, false⟩
  | 0xF6 => some ⟨.s, .t, .s, 0, false, true, false⟩
  | 0xF7 => some ⟨.s, .t, .s, 0, false, true, false⟩
  | 0xF8 => some ⟨.s, .t, .s, 0, false, true, false⟩
  | 0xF9 => some ⟨.v, .e, .s, 0, false, true, false⟩
  | 0xFA => some ⟨.z, .e, .s, 0, false, true, false⟩
  | 0xFB => some ⟨.t, .t, (.u 17), 0, false, true, false⟩
  | _ => none

/-- The instruction an opcode and its fields and literals stand for (R179, R197, R223). Opcodes outside R179
give the reserved form with the word. -/
def buildInstr (op d a b : Nat) (l l2 : Word) (w : Word) : Instr :=
  match op with
  | 0x00 => .nop
  | 0x01 => match b with | 0 => .setm l | _ => .setmk l l2
  | 0x02 => .bra l
  | 0x03 => .brs a b l
  | 0x04 => .brp a l
  | 0x05 => .brv a b l
  | 0x06 => .mark l
  | 0x07 => .join
  | 0x08 => .call d l
  | 0x09 => .calli d a
  | 0x0A => .ret a
  | 0x0B => .jmpi a
  | 0x0C => .loop a l
  | 0x0D => .exit
  | 0x0E => .trap b
  | 0x0F => .eret
  | 0x10 => .sadd d a b
  | 0x11 => .ssub d a b
  | 0x12 => .smul d a b
  | 0x13 => .smulh d a b
  | 0x14 => .sdiv d a b
  | 0x15 => .srem d a b
  | 0x16 => .sand d a b
  | 0x17 => .sor d a b
  | 0x18 => .sxor d a b
  | 0x19 => .sshl d a b
  | 0x1A => .sshr d a b
  | 0x1B => .ssar d a b
  | 0x1C => .scmp d a b
  | 0x1D => .smin d a b
  | 0x1E => .smax d a b
  | 0x1F => .saddi d a b
  | 0x20 => .sshli d a b
  | 0x21 => .sshri d a b
  | 0x22 => .smovl d l (if b = 0 then none else some l2)
  | 0x23 => .smov d a
  | 0x24 => .sxlate d a
  | 0x25 => .srd d b
  | 0x26 => .swr a b
  | 0x27 => .phase b
  | 0x28 => .launch d a
  | 0x29 => .cwait d a
  | 0x2A => match b with | 0 => .sneg d a | 1 => .snot d a | 2 => .sabs d a | 3 => .sclz d a | 4 => .sctz d a | 5 => .spopc d a | 6 => .sbrev d a | _ => .sext32 d a
  | 0x2B => .saddr d a b
  | 0x2C => .sgetv d a b
  | 0x30 => .vadd d a b
  | 0x31 => .vsub d a b
  | 0x32 => .vmul d a b
  | 0x33 => .vmulh d a b
  | 0x34 => .vmad d a b
  | 0x35 => .vdiv d a b
  | 0x36 => .vrem d a b
  | 0x37 => .vmin d a b
  | 0x38 => .vmax d a b
  | 0x39 => .vabsd d a b
  | 0x3A => .vand d a b
  | 0x3B => .vor d a b
  | 0x3C => .vxor d a b
  | 0x3D => .vandn d a b
  | 0x3E => .vshl d a b
  | 0x3F => .vshr d a b
  | 0x40 => .vsar d a b
  | 0x41 => .vrotl d a b
  | 0x42 => .vaddi d a b
  | 0x43 => .vshli d a b
  | 0x44 => .vshri d a b
  | 0x45 => .vsari d a b
  | 0x46 => match b with | 0 => .vneg d a | 1 => .vnot d a | 2 => .vabs d a | 3 => .vclz d a | 4 => .vctz d a | 5 => .vcnt d a | 6 => .vbrev d a | _ => .vsgn d a
  | 0x47 => .vcmpeq d a b
  | 0x48 => .vcmpne d a b
  | 0x49 => .vcmplt d a b
  | 0x4A => .vcmple d a b
  | 0x4B => .vmov d a
  | 0x4C => .vmovs d a
  | 0x4D => .vmovl d l (if b = 0 then none else some l2)
  | 0x4E => .pand d a b
  | 0x4F => .por d a b
  | 0x50 => .pxor d a b
  | 0x51 => .pnot d a
  | 0x52 => .vbfe d a l
  | 0x53 => .vbfi d a l
  | 0x54 => .vdot4 d a b
  | 0x58 => .vfadd d a b
  | 0x59 => .vfsub d a b
  | 0x5A => .vfmul d a b
  | 0x5B => .vfma d a b
  | 0x5C => .vfms d a b
  | 0x5D => .vfnma d a b
  | 0x5E => .vfdiv d a b
  | 0x5F => .vfsqrt d a
  | 0x60 => .vfmin d a b
  | 0x61 => .vfmax d a b
  | 0x62 => .vfabs d a
  | 0x63 => .vfneg d a
  | 0x64 => .vfrcp d a
  | 0x65 => .vfrsq d a
  | 0x66 => .vfexp2 d a
  | 0x67 => .vflog2 d a
  | 0x68 => .vfsin d a
  | 0x69 => .vfcos d a
  | 0x6A => .vfcmpeq d a b
  | 0x6B => .vfcmpne d a b
  | 0x6C => .vfcmplt d a b
  | 0x6D => .vfcmple d a b
  | 0x6E => .vfcmpun d a b
  | 0x6F => .vfclass d a
  | 0x70 => .vfmull d a l
  | 0x71 => .vfaddl d a l
  | 0x72 => .vffmal d a b l
  | 0x73 => .vfldexp d a b
  | 0x74 => .vfrint d a b
  | 0x75 => .vfcopys d a b
  | 0x76 => .vfdot2 d a b
  | 0x88 => .cvt d a b
  | 0x89 => .cvtmx d a b
  | 0x8A => .cvtxm d a b
  | 0x8B => .cbdec d a b
  | 0x8C => .vpack d a b
  | 0x8D => .vunpk d a b
  | 0x98 => .shfl d a b
  | 0x99 => .shflx d a b
  | 0x9A => .permb d a b
  | 0x9B => .scan d a b
  | 0x9C => .redv d a b
  | 0x9D => .ballot d a b
  | 0x9E => .popc d a
  | 0x9F => .lmv4 d a b
  | 0xA0 => .lmv8 d a b
  | 0xA1 => .vfirst d a
  | 0xA8 => .vld d a (b % 16)
  | 0xA9 => .vst d a (b % 16)
  | 0xAA => .vldn d a (b % 16) (b / 16)
  | 0xAB => .vlda d a (b % 16) (b / 16)
  | 0xAC => .vstr d a (b % 16) (b / 16)
  | 0xAD => .sld d a (b % 16)
  | 0xAE => .sst d a (b % 16)
  | 0xAF => .vlds d a
  | 0xB0 => .vsts d a
  | 0xB1 => .vldsr d a b
  | 0xB2 => .vstsr d a b
  | 0xB3 => .vldc d a
  | 0xB4 => .sldc d a
  | 0xB5 => .fence b
  | 0xB6 => .seal d a (b % 16)
  | 0xB7 => .unseal d a (b % 16)
  | 0xB8 => .repl d a (b % 16)
  | 0xB9 => .vatom d a (b % 16) l
  | 0xBA => .vred d a (b % 16) l
  | 0xBB => .vcas d a (b % 16) l
  | 0xBC => .vatoms d a l
  | 0xBD => .vreds d a l
  | 0xBE => .satom d a (b % 16) l
  | 0xBF => .vpref a (b % 16)
  | 0xD0 => .arrk a
  | 0xD1 => .waitk a
  | 0xD2 => .synck a
  | 0xD3 => .arrq a
  | 0xD4 => .waitq a
  | 0xD5 => .syncq a
  | 0xD6 => .arrg a
  | 0xD7 => .waitg a
  | 0xD8 => .syncg a
  | 0xD9 => .twait d a b
  | 0xDA => .evwait d
  | 0xDB => .evpop d
  | 0xE0 => .cpy d a b l
  | 0xE1 => .cpyt d a b l
  | 0xE2 => .merge d a b l
  | 0xE3 => .cmpct a b
  | 0xE4 => .wltake d a
  | 0xEC => .mrsv d a
  | 0xED => .mrel
  | 0xEE => .mcrew l
  | 0xEF => .mmj d a b l
  | 0xF0 => .mms d a b l
  | 0xF1 => .mmg d a b l
  | 0xF2 => .mmd d a b l
  | 0xF3 => .mzero d
  | 0xF4 => .mld d a
  | 0xF5 => .mdrn d a b
  | 0xF6 => .mdrs d a b
  | 0xF7 => .mdrm d a b
  | 0xF8 => .mdrf d a b
  | 0xF9 => .mbrd d a b
  | 0xFA => .mbwr a b
  | 0xFB => .mcvt d a b
  | _ => .reservedOpcode w

/-- The fields and literals of an instruction, from the same map (R164, R179); none for an event. -/
def Instr.raw : Instr → Option Raw
  | .nop => some ⟨0x00, 0, 0, 0, []⟩
  | .setm l => some ⟨0x01, 0, 0, 0, [l]⟩
  | .setmk l l2 => some ⟨0x01, 0, 0, 1, [l, l2]⟩
  | .bra l => some ⟨0x02, 0, 0, 0, [l]⟩
  | .brs a b l => some ⟨0x03, 0, a, b, [l]⟩
  | .brp a l => some ⟨0x04, 0, a, 0, [l]⟩
  | .brv a b l => some ⟨0x05, 0, a, b, [l]⟩
  | .mark l => some ⟨0x06, 0, 0, 0, [l]⟩
  | .join => some ⟨0x07, 0, 0, 0, []⟩
  | .call d l => some ⟨0x08, d, 0, 0, [l]⟩
  | .calli d a => some ⟨0x09, d, a, 0, []⟩
  | .ret a => some ⟨0x0A, 0, a, 0, []⟩
  | .jmpi a => some ⟨0x0B, 0, a, 0, []⟩
  | .loop a l => some ⟨0x0C, 0, a, 0, [l]⟩
  | .exit => some ⟨0x0D, 0, 0, 0, []⟩
  | .trap b => some ⟨0x0E, 0, 0, b, []⟩
  | .eret => some ⟨0x0F, 0, 0, 0, []⟩
  | .sadd d a b => some ⟨0x10, d, a, b, []⟩
  | .ssub d a b => some ⟨0x11, d, a, b, []⟩
  | .smul d a b => some ⟨0x12, d, a, b, []⟩
  | .smulh d a b => some ⟨0x13, d, a, b, []⟩
  | .sdiv d a b => some ⟨0x14, d, a, b, []⟩
  | .srem d a b => some ⟨0x15, d, a, b, []⟩
  | .sand d a b => some ⟨0x16, d, a, b, []⟩
  | .sor d a b => some ⟨0x17, d, a, b, []⟩
  | .sxor d a b => some ⟨0x18, d, a, b, []⟩
  | .sshl d a b => some ⟨0x19, d, a, b, []⟩
  | .sshr d a b => some ⟨0x1A, d, a, b, []⟩
  | .ssar d a b => some ⟨0x1B, d, a, b, []⟩
  | .scmp d a b => some ⟨0x1C, d, a, b, []⟩
  | .smin d a b => some ⟨0x1D, d, a, b, []⟩
  | .smax d a b => some ⟨0x1E, d, a, b, []⟩
  | .saddi d a b => some ⟨0x1F, d, a, b, []⟩
  | .sshli d a b => some ⟨0x20, d, a, b, []⟩
  | .sshri d a b => some ⟨0x21, d, a, b, []⟩
  | .smovl d l l2 => some ⟨0x22, d, 0, (if l2.isSome then 1 else 0), (l :: l2.toList)⟩
  | .smov d a => some ⟨0x23, d, a, 0, []⟩
  | .sxlate d a => some ⟨0x24, d, a, 0, []⟩
  | .srd d b => some ⟨0x25, d, 0, b, []⟩
  | .swr a b => some ⟨0x26, 0, a, b, []⟩
  | .phase b => some ⟨0x27, 0, 0, b, []⟩
  | .launch d a => some ⟨0x28, d, a, 0, []⟩
  | .cwait d a => some ⟨0x29, d, a, 0, []⟩
  | .sneg d a => some ⟨0x2A, d, a, 0, []⟩
  | .snot d a => some ⟨0x2A, d, a, 1, []⟩
  | .sabs d a => some ⟨0x2A, d, a, 2, []⟩
  | .sclz d a => some ⟨0x2A, d, a, 3, []⟩
  | .sctz d a => some ⟨0x2A, d, a, 4, []⟩
  | .spopc d a => some ⟨0x2A, d, a, 5, []⟩
  | .sbrev d a => some ⟨0x2A, d, a, 6, []⟩
  | .sext32 d a => some ⟨0x2A, d, a, 7, []⟩
  | .saddr d a b => some ⟨0x2B, d, a, b, []⟩
  | .sgetv d a b => some ⟨0x2C, d, a, b, []⟩
  | .vadd d a b => some ⟨0x30, d, a, b, []⟩
  | .vsub d a b => some ⟨0x31, d, a, b, []⟩
  | .vmul d a b => some ⟨0x32, d, a, b, []⟩
  | .vmulh d a b => some ⟨0x33, d, a, b, []⟩
  | .vmad d a b => some ⟨0x34, d, a, b, []⟩
  | .vdiv d a b => some ⟨0x35, d, a, b, []⟩
  | .vrem d a b => some ⟨0x36, d, a, b, []⟩
  | .vmin d a b => some ⟨0x37, d, a, b, []⟩
  | .vmax d a b => some ⟨0x38, d, a, b, []⟩
  | .vabsd d a b => some ⟨0x39, d, a, b, []⟩
  | .vand d a b => some ⟨0x3A, d, a, b, []⟩
  | .vor d a b => some ⟨0x3B, d, a, b, []⟩
  | .vxor d a b => some ⟨0x3C, d, a, b, []⟩
  | .vandn d a b => some ⟨0x3D, d, a, b, []⟩
  | .vshl d a b => some ⟨0x3E, d, a, b, []⟩
  | .vshr d a b => some ⟨0x3F, d, a, b, []⟩
  | .vsar d a b => some ⟨0x40, d, a, b, []⟩
  | .vrotl d a b => some ⟨0x41, d, a, b, []⟩
  | .vaddi d a b => some ⟨0x42, d, a, b, []⟩
  | .vshli d a b => some ⟨0x43, d, a, b, []⟩
  | .vshri d a b => some ⟨0x44, d, a, b, []⟩
  | .vsari d a b => some ⟨0x45, d, a, b, []⟩
  | .vneg d a => some ⟨0x46, d, a, 0, []⟩
  | .vnot d a => some ⟨0x46, d, a, 1, []⟩
  | .vabs d a => some ⟨0x46, d, a, 2, []⟩
  | .vclz d a => some ⟨0x46, d, a, 3, []⟩
  | .vctz d a => some ⟨0x46, d, a, 4, []⟩
  | .vcnt d a => some ⟨0x46, d, a, 5, []⟩
  | .vbrev d a => some ⟨0x46, d, a, 6, []⟩
  | .vsgn d a => some ⟨0x46, d, a, 7, []⟩
  | .vcmpeq d a b => some ⟨0x47, d, a, b, []⟩
  | .vcmpne d a b => some ⟨0x48, d, a, b, []⟩
  | .vcmplt d a b => some ⟨0x49, d, a, b, []⟩
  | .vcmple d a b => some ⟨0x4A, d, a, b, []⟩
  | .vmov d a => some ⟨0x4B, d, a, 0, []⟩
  | .vmovs d a => some ⟨0x4C, d, a, 0, []⟩
  | .vmovl d l l2 => some ⟨0x4D, d, 0, (if l2.isSome then 1 else 0), (l :: l2.toList)⟩
  | .pand d a b => some ⟨0x4E, d, a, b, []⟩
  | .por d a b => some ⟨0x4F, d, a, b, []⟩
  | .pxor d a b => some ⟨0x50, d, a, b, []⟩
  | .pnot d a => some ⟨0x51, d, a, 0, []⟩
  | .vbfe d a l => some ⟨0x52, d, a, 0, [l]⟩
  | .vbfi d a l => some ⟨0x53, d, a, 0, [l]⟩
  | .vdot4 d a b => some ⟨0x54, d, a, b, []⟩
  | .vfadd d a b => some ⟨0x58, d, a, b, []⟩
  | .vfsub d a b => some ⟨0x59, d, a, b, []⟩
  | .vfmul d a b => some ⟨0x5A, d, a, b, []⟩
  | .vfma d a b => some ⟨0x5B, d, a, b, []⟩
  | .vfms d a b => some ⟨0x5C, d, a, b, []⟩
  | .vfnma d a b => some ⟨0x5D, d, a, b, []⟩
  | .vfdiv d a b => some ⟨0x5E, d, a, b, []⟩
  | .vfsqrt d a => some ⟨0x5F, d, a, 0, []⟩
  | .vfmin d a b => some ⟨0x60, d, a, b, []⟩
  | .vfmax d a b => some ⟨0x61, d, a, b, []⟩
  | .vfabs d a => some ⟨0x62, d, a, 0, []⟩
  | .vfneg d a => some ⟨0x63, d, a, 0, []⟩
  | .vfrcp d a => some ⟨0x64, d, a, 0, []⟩
  | .vfrsq d a => some ⟨0x65, d, a, 0, []⟩
  | .vfexp2 d a => some ⟨0x66, d, a, 0, []⟩
  | .vflog2 d a => some ⟨0x67, d, a, 0, []⟩
  | .vfsin d a => some ⟨0x68, d, a, 0, []⟩
  | .vfcos d a => some ⟨0x69, d, a, 0, []⟩
  | .vfcmpeq d a b => some ⟨0x6A, d, a, b, []⟩
  | .vfcmpne d a b => some ⟨0x6B, d, a, b, []⟩
  | .vfcmplt d a b => some ⟨0x6C, d, a, b, []⟩
  | .vfcmple d a b => some ⟨0x6D, d, a, b, []⟩
  | .vfcmpun d a b => some ⟨0x6E, d, a, b, []⟩
  | .vfclass d a => some ⟨0x6F, d, a, 0, []⟩
  | .vfmull d a l => some ⟨0x70, d, a, 0, [l]⟩
  | .vfaddl d a l => some ⟨0x71, d, a, 0, [l]⟩
  | .vffmal d a b l => some ⟨0x72, d, a, b, [l]⟩
  | .vfldexp d a b => some ⟨0x73, d, a, b, []⟩
  | .vfrint d a b => some ⟨0x74, d, a, b, []⟩
  | .vfcopys d a b => some ⟨0x75, d, a, b, []⟩
  | .vfdot2 d a b => some ⟨0x76, d, a, b, []⟩
  | .cvt d a b => some ⟨0x88, d, a, b, []⟩
  | .cvtmx d a b => some ⟨0x89, d, a, b, []⟩
  | .cvtxm d a b => some ⟨0x8A, d, a, b, []⟩
  | .cbdec d a b => some ⟨0x8B, d, a, b, []⟩
  | .vpack d a b => some ⟨0x8C, d, a, b, []⟩
  | .vunpk d a b => some ⟨0x8D, d, a, b, []⟩
  | .shfl d a b => some ⟨0x98, d, a, b, []⟩
  | .shflx d a b => some ⟨0x99, d, a, b, []⟩
  | .permb d a b => some ⟨0x9A, d, a, b, []⟩
  | .scan d a b => some ⟨0x9B, d, a, b, []⟩
  | .redv d a b => some ⟨0x9C, d, a, b, []⟩
  | .ballot d a b => some ⟨0x9D, d, a, b, []⟩
  | .popc d a => some ⟨0x9E, d, a, 0, []⟩
  | .lmv4 d a b => some ⟨0x9F, d, a, b, []⟩
  | .lmv8 d a b => some ⟨0xA0, d, a, b, []⟩
  | .vfirst d a => some ⟨0xA1, d, a, 0, []⟩
  | .vld d a m => some ⟨0xA8, d, a, m, []⟩
  | .vst d a m => some ⟨0xA9, d, a, m, []⟩
  | .vldn d a m k => some ⟨0xAA, d, a, (k * 16 + m), []⟩
  | .vlda d a m k => some ⟨0xAB, d, a, (k * 16 + m), []⟩
  | .vstr d a m k => some ⟨0xAC, d, a, (k * 16 + m), []⟩
  | .sld d a m => some ⟨0xAD, d, a, m, []⟩
  | .sst d a m => some ⟨0xAE, d, a, m, []⟩
  | .vlds d a => some ⟨0xAF, d, a, 0, []⟩
  | .vsts d a => some ⟨0xB0, d, a, 0, []⟩
  | .vldsr d a b => some ⟨0xB1, d, a, b, []⟩
  | .vstsr d a b => some ⟨0xB2, d, a, b, []⟩
  | .vldc d a => some ⟨0xB3, d, a, 0, []⟩
  | .sldc d a => some ⟨0xB4, d, a, 0, []⟩
  | .fence b => some ⟨0xB5, 0, 0, b, []⟩
  | .seal d a m => some ⟨0xB6, d, a, m, []⟩
  | .unseal d a m => some ⟨0xB7, d, a, m, []⟩
  | .repl d a m => some ⟨0xB8, d, a, m, []⟩
  | .vatom d a m l => some ⟨0xB9, d, a, m, [l]⟩
  | .vred d a m l => some ⟨0xBA, d, a, m, [l]⟩
  | .vcas d a m l => some ⟨0xBB, d, a, m, [l]⟩
  | .vatoms d a l => some ⟨0xBC, d, a, 0, [l]⟩
  | .vreds d a l => some ⟨0xBD, d, a, 0, [l]⟩
  | .satom d a m l => some ⟨0xBE, d, a, m, [l]⟩
  | .vpref a m => some ⟨0xBF, 0, a, m, []⟩
  | .arrk a => some ⟨0xD0, 0, a, 0, []⟩
  | .waitk a => some ⟨0xD1, 0, a, 0, []⟩
  | .synck a => some ⟨0xD2, 0, a, 0, []⟩
  | .arrq a => some ⟨0xD3, 0, a, 0, []⟩
  | .waitq a => some ⟨0xD4, 0, a, 0, []⟩
  | .syncq a => some ⟨0xD5, 0, a, 0, []⟩
  | .arrg a => some ⟨0xD6, 0, a, 0, []⟩
  | .waitg a => some ⟨0xD7, 0, a, 0, []⟩
  | .syncg a => some ⟨0xD8, 0, a, 0, []⟩
  | .twait d a b => some ⟨0xD9, d, a, b, []⟩
  | .evwait d => some ⟨0xDA, d, 0, 0, []⟩
  | .evpop d => some ⟨0xDB, d, 0, 0, []⟩
  | .cpy d a b l => some ⟨0xE0, d, a, b, [l]⟩
  | .cpyt d a b l => some ⟨0xE1, d, a, b, [l]⟩
  | .merge d a b l => some ⟨0xE2, d, a, b, [l]⟩
  | .cmpct a b => some ⟨0xE3, 0, a, b, []⟩
  | .wltake d a => some ⟨0xE4, d, a, 0, []⟩
  | .mrsv d a => some ⟨0xEC, d, a, 0, []⟩
  | .mrel => some ⟨0xED, 0, 0, 0, []⟩
  | .mcrew l => some ⟨0xEE, 0, 0, 0, [l]⟩
  | .mmj d a b l => some ⟨0xEF, d, a, b, [l]⟩
  | .mms d a b l => some ⟨0xF0, d, a, b, [l]⟩
  | .mmg d a b l => some ⟨0xF1, d, a, b, [l]⟩
  | .mmd d a b l => some ⟨0xF2, d, a, b, [l]⟩
  | .mzero d => some ⟨0xF3, d, 0, 0, []⟩
  | .mld d a => some ⟨0xF4, d, a, 0, []⟩
  | .mdrn d a b => some ⟨0xF5, d, a, b, []⟩
  | .mdrs d a b => some ⟨0xF6, d, a, b, []⟩
  | .mdrm d a b => some ⟨0xF7, d, a, b, []⟩
  | .mdrf d a b => some ⟨0xF8, d, a, b, []⟩
  | .mbrd d a b => some ⟨0xF9, d, a, b, []⟩
  | .mbwr a b => some ⟨0xFA, 0, a, b, []⟩
  | .mcvt d a b => some ⟨0xFB, d, a, b, []⟩
  | .reservedOpcode _ => none
  | .instructionFetch _ => none
  | .instructionComplete _ _ => none
  | .trapEntry _ => none
  | .phaseOverrun _ => none
  | .twaitTimeout _ => none
  | .workListQuiet _ => none
  | .engineOperationComplete _ => none
  | .matrixReservationAdmit _ => none
  | .matrixLatchFire _ _ => none
  | .matrixPass _ _ => none
  | .matrixOperationComplete _ _ => none
  | .cupboardFill _ _ => none
  | .blockPlacement _ => none
  | .gangPlacement _ => none
  | .effectiveClassAgeing _ => none
  | .gangPressing _ => none
  | .gridCompletion _ => none
  | .replicationEpoch => none
  | .launchMsg => none
  | .mwr => none
  | .mrd => none
  | .hostWrack => none
  | .hostMrdresp => none
  | .matomresp => none
  | .featureSelect => none
  | .faultreply => none
  | .preemptMakeRoom => none
  | .preemptSuspend => none
  | .preemptResume => none
  | .childWaitEviction _ => none
  | .unitRestore _ => none
  | .ctxctlActivate => none
  | .ctxctlEnd => none
  | .contextEnd _ => none
  | .invalidateRange => none
  | .invalidateAll => none
  | .invalidateRegion => none
  | .invalidateCode => none
  | .reductionStreamWrite => none
  | .peerPortEnable => none
  | .peerPortDisable => none
  | .peerPortUp _ => none
  | .registerWrite => none
  | .reductionRowArrival _ _ _ _ _ => none
  | .spdmMailboxGo => none
  | .getVersion _ => none
  | .getCapabilities _ => none
  | .negotiateAlgorithms _ => none
  | .getDigests _ => none
  | .getCertificate _ => none
  | .challenge _ => none
  | .getMeasurements _ => none
  | .spdmUnsupportedRequest _ => none
  | .pldmDiscovery => none
  | .pldmSensorRead _ => none
  | .pldmSetPowerCap _ => none
  | .pldmDeviceReset _ => none
  | .pldmLinkRetrain => none
  | .pldmFirmwareStage _ _ => none
  | .pwrokRise _ => none
  | .pwrokFall => none
  | .deviceReset _ => none
  | .sbReset => none
  | .linkStart => none
  | .bridgeTimeout _ => none
  | .throttle => none
  | .clockRecovery => none
  | .thermalTrip => none
  | .vpCorrectedError _ _ => none
  | .leakDecay => none
  | .vpUncorrectableError _ _ _ => none
  | .softErrorCorrected _ _ => none
  | .softErrorUncorrectable _ _ _ => none
  | .unknownType => none
  | .engineOperationStopped _ => none
  | .endpointIdAssignment _ => none

/-- Literal words of an opcode with this b field (R165). -/
def Form.nLits (f : Form) (b : Nat) : Nat :=
  if f.plusB then f.lits + b % 2 else f.lits

/-- The fields of a word: opcode [31:24], d [23:16], a [15:8], b [7:0] (R164). -/
def opOf (w : Word) : Nat := w.toNat / 0x1000000
def dOf (w : Word) : Nat := w.toNat / 0x10000 % 256
def aOf (w : Word) : Nat := w.toNat / 0x100 % 256
def bOf (w : Word) : Nat := w.toNat % 256

/-- A field's value that the decoder keeps: its class's, and the three values that a row's word can hold and that issue
turns away by name (R162, R181): p0 as a destination, a zero modifier where one is required, fence kind 0. -/
def FieldClass.fits : FieldClass → Nat → Bool
  | .pd, n => n < 16
  | .ms lo hi, n => n % 16 < 8 && (lo ≤ n / 16 || n / 16 == 0) && n / 16 ≤ hi && n < 256
  | .fence, n => n < 256 && n / 8 % 8 == 0 && n % 8 ≤ 4
  | c, n => c.ok n

/-- All three fields are kept by the decoder. -/
def Form.fieldsOk (f : Form) (w : Word) : Bool :=
  f.d.fits (dOf w) && f.a.fits (aOf w) && f.b.fits (bOf w)

/-- Decode one instruction: its word and the words that follow it in the clause. Answers the instruction and
how many words it takes. Total: an unassigned opcode is the row RESERVED_OPCODE (R180), a field outside its
class or literals past the words given are refused by name (R168, R181). -/
def decodeWords (w : Word) (rest : List Word) : Except DecodeError (Instr × Nat) :=
  match formOf (opOf w) with
  | none => .ok (.reservedOpcode w, 1)
  | some f =>
    if f.fieldsOk w then
      let n := f.nLits (bOf w)
      if rest.length < n then .error .literals
      else .ok (buildInstr (opOf w) (dOf w) (aOf w) (bOf w) (rest.getD 0 0) (rest.getD 1 0) w, n + 1)
    else .error .fieldClass

/-- The word of fields (R164). -/
def Raw.word (r : Raw) : Word :=
  BitVec.ofNat 32 (r.op * 0x1000000 + r.d * 0x10000 + r.a * 0x100 + r.b)

/-- The words of an instruction: its word, then its literals. An event has none. -/
def encode (i : Instr) : List Word :=
  match i with
  | .reservedOpcode w => [w]
  | i => match i.raw with
    | some r => r.word :: r.lits
    | none => []

/-- The opcode's word attaches to a completion flag (R169, R179). -/
def Instr.attaches (i : Instr) : Bool :=
  match i.raw with
  | some r => match formOf r.op with | some f => f.attach | none => false
  | none => false

/-- The instruction word that stands for i in trap records (R204); 0 for an event. -/
def Instr.word (i : Instr) : Word := (encode i).headD 0

/-- How many words i takes (R165). -/
def Instr.nWords (i : Instr) : Nat := (encode i).length

/-- Bytes, lowest address first, as a number (R4). -/
def leNat : List Byte → Nat
  | [] => 0
  | b :: r => b.toNat + 256 * leNat r

/-- The n low bytes of a number, lowest address first (R4). -/
def leBytes : Nat → Nat → List Byte
  | 0, _ => []
  | n + 1, v => BitVec.ofNat 8 v :: leBytes n (v / 256)

/-- n payload bytes of a message from an offset, as a number; missing bytes read as zero. -/
def HostMsg.field (m : HostMsg) (off n : Nat) : Nat :=
  leNat ((m.payload.drop off).take n)

/-- The row a register-space write belongs to, by its offset and value (R380, R396, R402, R393, R394, R430). -/
def decodeRegWrite (off v : Nat) : Instr :=
  if 0x500000 ≤ off ∧ off < 0x501000 ∧ off % 0x100 = 0 then
    if v / 2 % 2 = 1 then .ctxctlEnd else .ctxctlActivate
  else if off = 0x510010 then
    match v / 16 % 16 with
    | 1 => .invalidateRange
    | 2 => .invalidateAll
    | 3 => .invalidateRegion
    | 4 => .invalidateCode
    | _ => .registerWrite
  else if 0x400000 ≤ off ∧ off < 0x402000 then .reductionStreamWrite
  else if 0x300100 ≤ off ∧ off ≤ 0x301200 ∧ off % 0x100 = 0 then
    if v % 2 = 1 then .peerPortEnable else .peerPortDisable
  else if off = 0x518300 then .spdmMailboxGo
  else .registerWrite

/-- The row of a host message, by its TYPE (R374), and for PREEMPT by its KIND (R410); the row acts on the message
that the link is taking (`Link.rx` of the state). -/
def decodeMsg (m : HostMsg) : Instr :=
  match m.typ.toNat with
  | 0x01 => .launchMsg
  | 0x04 => .faultreply
  | 0x05 =>
    match m.field 0 1 with
    | 1 => .preemptSuspend
    | 2 => .preemptResume
    | _ => .preemptMakeRoom
  | 0x07 => .featureSelect
  | 0x08 =>
    if m.field 0 8 / 2 ^ 63 = 1 ∧ m.payload.length = 16 then
      decodeRegWrite (m.field 0 8 % 2 ^ 44) (m.field 8 8)
    else .mwr
  | 0x09 => .mrd
  | 0x0A => .hostMrdresp
  | 0x0B => .hostWrack
  | 0x0E => .matomresp
  | _ => .unknownType

/-- The instruction the decoder reads from bits w, the first word in bits 31 to 0 and each literal word above
it; literal words beyond nbits are zero. -/
def decodeTableWord (nbits w : Nat) : Option Instr :=
  let v := w % 2 ^ nbits
  match decodeWords (BitVec.ofNat 32 v) [BitVec.ofNat 32 (v / 2 ^ 32), BitVec.ofNat 32 (v / 2 ^ 64)] with
  | .ok (i, _) => some i
  | .error _ => none

end Sys2Proof
end

