-- ==== Sys2Proof/Machine/State.lean ====
section
/-! DEFINITION. The state of a Sieno package as plain data, and the state right after device reset.
A field that names no rule of the spec is the model's own (log 2, log 4, log 7). -/

namespace Sys2Proof.Machine

/-- Why the machine stops. -/
inductive Fault where
  /-- Raised by `step` once a thermal trip has stopped every clock and no outside event is waiting; only a fall
  of PWROK ends the trip (R433). Safe: the device does nothing either. -/
  | clocksStopped
  deriving DecidableEq, Repr

/-- Why an instruction has no meaning. -/
inductive Refusal where
  /-- Raised by an arm of exec that has no meaning yet. Safe: nothing is said of the instruction. -/
  | notModelled (mnemonic : String)
  deriving DecidableEq, Repr

/-- A translation register m0 to m7 (R51). -/
structure XReg where
  region : BitVec 8 := 0
  vbase : BitVec 56 := 0
  framepg : BitVec 28 := 0
  limit : BitVec 22 := 0
  w : Bool := false
  rd : Bool := false
  v : Bool := false
  deriving DecidableEq, Repr

/-- The clause state at the pc: header word, position of the word at pc (0 when pc is a header), AUSED and ARR
(R213), the interlock bit and phase-table slot of the header's and the word's line (R172, R349). -/
structure Clause where
  hdr : Word := 0
  idx : Nat := 0
  aused : Bool := false
  arr : Bool := false
  intlk : Bool := false
  ptab : Nat := 255
  deriving DecidableEq, Repr

/-- An entry of the reconvergence stack (R186): PATH or REJOIN, address, saved mask and MODE. -/
structure StackEntry where
  path : Bool
  addr : DWord
  mask : Lanes
  mode : Word
  deriving DecidableEq, Repr

/-- What a register held before an instruction whose result may not be available yet wrote it, and for a vector or
predicate register the lanes it writes (R170). -/
inductive RegSave where
  | s (n : Nat) (old : DWord)
  | v (n : Nat) (old : SMap Word) (lanes : Lanes)
  | p (n : Nat) (old : Lanes) (lanes : Lanes)
  | m (n : Nat) (old : XReg)
  deriving DecidableEq, Repr

/-- The result of a non-attaching instruction: the register's earlier value, the least cycle count of the team at
which the result is surely available, and the clause that produced it (R170, R357). -/
structure Recent where
  old : RegSave
  ready : Nat
  clause : Nat
  deriving DecidableEq, Repr

/-- A byte stored from a register by a store that may not yet have read it (R170): register, lane (none for a
scalar), the space (none global memory, else a block's scratchpad), its address, and its place in the register. Only
bytes that nobody has accessed since are listed. -/
structure LateSrc where
  reg : Nat
  lane : Option Nat
  blk : Option Nat
  addr : Nat
  off : Nat
  deriving DecidableEq, Repr

/-- What the completion of an outstanding attaching instruction waits for (R169). -/
inductive Until where
  /-- Nothing more: it may complete. -/
  | ready
  /-- The operand-log entry with this handle (R37). -/
  | log (e : Nat)
  /-- Replies to its device-originated requests (R446, R447). -/
  | window
  /-- The matrix latch or operation with this handle (R287, R295). -/
  | matrix (u : Nat)
  /-- Its turn at the quad's tile memory port (R445). -/
  | port
  /-- The copy reference count of a sealed range (R75): base, length, destination register (64 once it is dropped,
  R170). -/
  | unseal (base len d : Nat)
  deriving DecidableEq, Repr

/-- An outstanding attaching instruction (R169): its flag, the registers it writes with their earlier values,
and the v and s registers it reads while it is an incomplete store (R171). -/
structure Infl where
  u : Nat
  flag : Option Nat
  saves : List RegSave
  srcV : List Nat
  srcS : List Nat
  late : List LateSrc := []
  /-- A drain to scratchpad (R171). -/
  drain : Bool := false
  /-- The tiles it names (R171). -/
  tiles : List Nat := []
  /-- It waited at the port when its team was evicted: the team's flags are clear, and it runs again once this is complete
  (R109, R169). -/
  back : Bool := false
  on : Until
  deriving DecidableEq, Repr

/-- Where a memory access delivers its value. -/
inductive Dst where
  | none
  | v (n : Nat)
  | s (n : Nat)
  deriving DecidableEq, Repr

/-- The kind of one memory access per lane (R247, R257, R258). -/
inductive AccKind where
  | load
  | store
  /-- A value-returning atomic with OP of R255. -/
  | atom (op : Nat)
  /-- A reduction with OP of R255. -/
  | red (op : Nat)
  | cas
  deriving DecidableEq, Repr

/-- What every lane of a memory instruction does: kind, element type, size in bytes, destination, expected read
count (VLDN), rounding and saturation in force (R176), and whether it is an acquire (R108), and the scope of a reduction (R256). -/
structure MemOp where
  kind : AccKind
  et : Nat := 0
  size : Nat := 4
  dst : Dst := .none
  cnt : Nat := 0
  rnd : Nat := 0
  sat : Bool := false
  acq : Bool := false
  /-- Scope code of an atomic or reduction (R256). -/
  scope : Nat := 3
  deriving DecidableEq, Repr

/-- One lane's access: lane, byte offset, the translation register its pass used, data x and comparison value c. -/
structure LaneAcc where
  lane : Nat
  off : Nat
  m : XReg := {}
  x : Nat := 0
  c : Nat := 0
  deriving DecidableEq, Repr

/-- A cause of a lane or row: its number, the cause, and its detail for FREC (R206, R207). -/
structure LaneCause where
  lane : Nat
  cause : Nat
  frec : Nat
  deriving DecidableEq, Repr

/-- A decided or pending trap cause with what its entry records (R204, R206, R207). -/
structure Dec where
  cause : Nat
  /-- The value of TLANE. -/
  tlane : Word
  frec : DWord
  tepc : DWord
  cl : Clause
  /-- A boundary cause (R205). -/
  bnd : Bool
  /-- Program order of the instruction. -/
  ord : Nat
  deriving DecidableEq, Repr

/-- Lines that one instruction has read so far, and those of them read at home: their counts there fall once, when it is done
with all its passes, groups, lanes and rows (R71). -/
structure Reads where
  lines : List Nat := []
  owed : List Nat := []
  deriving DecidableEq, Repr

/-- What an operand-log entry replays (R37, R39). -/
inductive LogKind where
  /-- The not-done lanes of a vector or scalar access. -/
  | lanes (op : MemOp) (todo : List LaneAcc)
  /-- A team-uniform instruction whose record read faulted, with the scalar operands it read (R193, R265). -/
  | redo (ops : List DWord)
  /-- The not-done rows of MLD or MDRM with their scalar operands (R296, R299). -/
  | rows (ops : List DWord) (todo : List Nat)
  deriving DecidableEq, Repr

/-- An entry of the operand log (R37, R417). -/
structure LogEntry where
  u : Nat
  /-- Handle of the instruction's flag record (R169), and of the window requests of its replay with the lanes that have
  sent one. -/
  h : Nat := 0
  rep : Nat := 0
  sent : List Nat := []
  instr : Instr
  pc : DWord
  cl : Clause
  ord : Nat
  mode : Word
  xreg : XReg
  fseq : Nat
  kind : LogKind
  /-- Bytes that a row (or 0) is still to access: row, virtual address, length (R38). -/
  spans : List (Nat × Nat × Nat) := []
  /-- The records that a replayed instruction has read and now waits with (R193, R265). -/
  recs : List (List Byte) := []
  /-- Groups with a lane that was not done when the entry was made: pending until it frees (R37, R39, R259). -/
  grps : List Nat := []
  /-- Lines that its instruction has read (R71). -/
  reads : Reads := {}
  done : Lanes
  /-- Bytes of the 64 KiB pages that faulted, as PAGE entries (R403). -/
  pages : List DWord
  /-- Causes delivered or refused so far; cause 0 holds the pointer at which a row or a record read has stopped. -/
  causes : List LaneCause
  deriving DecidableEq, Repr

/-- The phase timer (R41, R42). -/
structure PhaseTimer where
  on : Bool := false
  num : Nat := 0
  e : Nat := 0
  el : Nat := 0
  deriving DecidableEq, Repr

/-- A launch record by its words (R382). -/
structure LaunchRec where
  entry : DWord := 0
  args : DWord := 0
  cupimg : DWord := 0
  grid : DWord := 0
  shape : Word := 0
  mem : Word := 0
  handctx : Word := 0
  seed : Word := 0
  prereq : List Nat := []
  deriving DecidableEq, Repr

/-- What a team that is not ready waits for (R31, R46, R208). -/
inductive Wait where
  | none
  | bar
  /-- TWAIT on a barrier, by its BARSEL, until this lane cycle, for s_d (R264). -/
  | twait (limit bar d : Nat)
  /-- A TWAIT for s_d whose limit has passed with its phase open (R264). -/
  | expired (d : Nat)
  | event
  | wltake
  | cwait
  | latch
  /-- LAUNCH waiting on a full queue, with the record it has read and judged (R193, R387). -/
  | queue (r : List Byte)
  /-- CPY, CPYT or MERGE waiting for a channel or the quota, with the records it has read (R208, R265). -/
  | engine (recs : List (List Byte))
  /-- A fetch or phase-table read whose fault is outstanding: the pointer that failed, the code address and its position
  in the clause (R191, R203). -/
  | fetch (fseq ptr x idx : Nat)
  /-- This CMPCT on a full list after this many items (R208, R276). -/
  | cmpct (done : Nat) (i : Instr)
  /-- Stopped by R38. -/
  | held
  | other
  deriving DecidableEq, Repr

/-- A team's place in its lifecycle (R46). -/
inductive Life where
  | absent
  | live
  | evicted
  | exited
  deriving DecidableEq, Repr

/-- An event record with its pending barrier action (R267, R413, R416). -/
structure EvRec where
  data : DWord
  act : Option (Nat × Nat) := none
  deriving DecidableEq, Repr

/-- A team (R23). -/
structure Team where
  /-- Handle of the team; the model's own. -/
  tid : Nat := 0
  /-- Context id (R2). -/
  ctx : Nat := 0
  /-- Handles of its grid and block. -/
  gid : Nat := 0
  bid : Nat := 0
  /-- Team index within the block (R24). -/
  idx : Nat := 0
  core : Nat := 0
  /-- Core-local team place (R403). -/
  place : Nat := 0
  /-- Home slot (R30). -/
  slot : Nat := 0
  /-- T and V of the launch record. -/
  lanes : Nat := 1
  vregs : Nat := 8
  pc : DWord := 0
  cl : Clause := {}
  /-- Address that FREC takes if the next landing check fails (R204): of the transferring word, or of the header of
  the clause fallen through from; 0 at entry. -/
  via : DWord := 0
  /-- Cause whose trap entry makes the next landing, or 0 (R214, R217). -/
  landing : Nat := 0
  /-- Address of the word that its latest issue ended with: a fetch from the same line needs no other (R350). -/
  last : DWord := 0
  /-- s0 to s63. -/
  s : SMap DWord := []
  /-- Vector registers, v_n in lane L at key 1024 n + L. -/
  v : SMap Word := []
  /-- p1 to p15, one bit a lane. -/
  p : SMap Lanes := []
  m : SMap XReg := []
  mode : Word := 0
  /-- The active mask, lane L at bit L; the group mask is a view of it (R20). -/
  mask : Lanes := 0
  stack : List StackEntry := []
  infl : List Infl := []
  /-- Results of non-attaching instructions that may not be available yet (R170). -/
  recent : List Recent := []
  /-- Lane cycle that its issues have come to, by the clock, its passes and STALL (R170, R356); the model's own. -/
  cyc : Nat := 0
  /-- Number of its current clause, the latest number given, and that of the clause a trap has left (R170, R213); the
  model's own. -/
  clno : Nat := 0
  clmax : Nat := 0
  tclno : Nat := 0
  /-- Lane cycle from which it may issue again: the passes and STALL of its last issue have elapsed (R31). -/
  readyAt : Nat := 0
  /-- Lane cycle until which the passes of its last issue hold its slot (R32). -/
  busy : Nat := 0
  /-- Of its latest issue with results still to come, the lane cycles after its first at which the pass of each group reads
  (R356); the model's own. -/
  lag : SMap Nat := []
  /-- It was found ready when its slot last chose, and the lane cycle since when (R32). -/
  rdy : Bool := false
  since : Nat := 0
  /-- Step of the latest memory read that each register's value was computed from, plus one: s_n at n, v_n at 64 + n,
  p_n at 320 + n, m_n at 336 + n; and at 1000 more that of the earlier values that a read may still return (R170, R350). -/
  taint : SMap Nat := []
  /-- Step before which no held code item may be used: that of the latest acquire, or of the read that gave a control
  transfer its target (R350). -/
  codeAt : Nat := 0
  log : List LogEntry := []
  ph : PhaseTimer := {}
  phmargin : Word := 4
  srng : Word := 0x5EED0001
  depth : Nat := 0
  bthr : Word := 0
  crew : Word := 0
  tvec : DWord := 0
  tcause : Word := 0
  tlane : Word := 0
  tsecond : Word := 0
  tepc : DWord := 0
  frec : DWord := 0
  tmode : Word := 0
  tclause : DWord := 0
  /-- Pending boundary causes (R206). -/
  pendB : List Dec := []
  /-- Causes decided and not yet entered (R40, R206). -/
  dec : List Dec := []
  /-- Engine sequence counter, 14 bits (R265). -/
  eseq : Nat := 0
  evq : List EvRec := []
  /-- Operations counted against the record quota (R265). -/
  quota : Nat := 0
  /-- The child grids it launched: handle and launch id (R194). -/
  kids : List (Nat × Nat) := []
  wait : Wait := .none
  /-- STATE of R416 as found when a step begins, its passes and STALL apart: 0 ready, 2 stopped only by R38, else 1 with the
  kind of what it waits for (R46). -/
  stat : Nat := 0
  life : Life := .absent
  /-- Instructions issued, the program order of causes. -/
  ord : Nat := 0
  deriving DecidableEq, Repr

/-- A barrier (R260): P, C, the member set, the members that have arrived, and those whose W is 1. -/
structure Barrier where
  p : Bool := false
  c : Nat := 0
  mem : List Nat := []
  arr : List Nat := []
  w : List Nat := []
  /-- Members that exited with A = 1: they leave M when the phase completes (R263). -/
  gone : List Nat := []
  deriving DecidableEq, Repr

/-- Residency of a block (R47). -/
inductive BlockLife where
  | resident
  | evicted
  | retired
  deriving DecidableEq, Repr

/-- A block (R26, R27, R47). -/
structure Block where
  bid : Nat
  gid : Nat
  x : Nat
  y : Nat
  z : Nat
  /-- Linear block index, its gang rank (R56). -/
  rank : Nat
  core : Nat
  life : BlockLife
  scratchSize : Nat
  scratch : SMap Byte
  bars : List Barrier
  /-- Its teams have started (R58). -/
  started : Bool
  /-- Order of becoming resident (R32, R411). -/
  order : Nat
  /-- Save-area record: first 4 KiB unit and count (R414). -/
  save : Option (Nat × Nat)
  deriving DecidableEq, Repr

/-- States of a grid (R48). -/
inductive GridSt where
  | held
  | queued
  | running
  | draining
  | complete
  deriving DecidableEq, Repr

/-- A grid (R34, R35, R48, R387, R388). -/
structure Grid where
  gid : Nat
  lid : Nat
  ctx : Nat
  lrec : LaunchRec
  /-- Handle of the parent grid; none for a host launch. -/
  parent : Option Nat
  depth : Nat
  qsel : Nat
  st : GridSt
  /-- Handles of the prerequisite grids still incomplete. -/
  watched : List Nat
  /-- Effective class and the fabric cycle at which it was reached. -/
  cls : Nat
  clsAt : Nat
  queuedAt : Nat
  /-- Linear index of the next Pending block. -/
  next : Nat
  /-- Blocks retired. -/
  retired : Nat
  lists : List (List DWord)
  quiet : Bool
  gbars : List Barrier
  tstart : DWord
  pressing : Bool
  claims : List Nat
  /-- Base of the sealed range that holds its Cupboard image (R59). -/
  imgSeal : Option Nat
  deriving DecidableEq, Repr

/-- Tiles granted to a grid on a quad, by physical number (R278). -/
structure TileGrant where
  gid : Nat
  tiles : List Nat
  deriving DecidableEq, Repr

/-- Quad barriers granted to a cluster or block (R29). -/
structure QGrant where
  gid : Nat
  /-- Index of the cluster within the grid, or of the block when there are no clusters. -/
  cluster : Nat
  bars : List Barrier
  deriving DecidableEq, Repr

/-- A Cupboard allocation (R58, R60). -/
structure Cup where
  gid : Nat
  size : Nat
  bytes : SMap Byte
  filled : Nat
  done : Bool
  fseq : Nat
  deriving DecidableEq, Repr

/-- What identifies a crew (R280). -/
structure CrewKey where
  gid : Nat
  cluster : Nat
  crew : Word
  deriving DecidableEq, Repr

/-- A reservation entry or queued request (R280, R281). -/
structure Resv where
  key : CrewKey
  cls : Nat
  at_ : Nat
  marked : Bool
  /-- Lane cycle since when the entry has been ready without a grant (R282). -/
  since : Nat := 0
  deriving DecidableEq, Repr

/-- A member's arrival at a rendezvous latch (R285, R287). -/
structure Arrival where
  entry : Nat
  tid : Nat
  sa : DWord
  sb : DWord
  /-- The 64 bytes of its TLR, or empty. -/
  tlr : List Byte
  /-- MMG group table entries read by the A-issuer. -/
  groups : List DWord
  /-- A B-holder's registers at its arrival, and an A-issuer's scratchpad at the fire: what an element may still be
  read as (R288). -/
  share : SMap Word := []
  scr : SMap Byte := []
  deriving DecidableEq, Repr

/-- A rendezvous latch, or after its fire the operation (R287, R291). -/
structure MOp where
  u : Nat
  key : CrewKey
  /-- Opcode of the form: 0xEF MMJ, 0xF0 MMS, 0xF1 MMG, 0xF2 MMD. -/
  op : Nat
  d : Nat
  lit : Word
  /-- MODE, BTHR and generator copy taken when entry 0 arrived. -/
  md : Option (Word × Word × Word)
  arrived : List Arrival
  fired : Bool
  /-- Passes, or MMS steps, completed in the current group. -/
  step : Nat
  group : Nat
  gen : Word
  /-- A wide re-issue runs (R151). -/
  wide : Bool
  /-- Every pass and term is done. -/
  passed : Bool
  /-- Outstanding fault, or 0 (R403 SRC 4). -/
  fseq : Nat
  pages : List DWord
  /-- The first failing threshold: tile and row (R150). -/
  trip : Option (Nat × Nat)
  /-- The first non-finite element: tile, row and bits (R292). -/
  nf : Option (Nat × Nat × Nat) := none
  /-- Generator copy at the start of the current group (R151). -/
  gen0 : Word := 0
  /-- The next handle when its latch fired: operations with a lower one were granted earlier (R98). -/
  at_ : Nat := 0
  /-- Lines that each member's instruction has read, by entry of the crew (R71). -/
  reads : SMap Reads := []
  deriving DecidableEq, Repr

/-- The wide store (R152): its operation, the copies of tile, bounds and status, and the FP64 accumulator. -/
structure WideStore where
  u : Nat := 0
  tile : SMap Word := []
  bound : SMap Word := []
  stat : Word := 0
  acc : SMap DWord := []
  deriving DecidableEq, Repr

/-- A tile instruction waiting for the quad's tile memory port (R445): handle of its completion record, team, its words
and place, the scalars, the record and for MLD the rows it read at issue, MODE and generator at issue, and the v registers
it will write with those register lanes (1024 n + L) in which a later write stands (R170). -/
structure PortOp where
  u : Nat
  tid : Nat
  gid : Nat
  instr : Instr
  pc : DWord
  cl : Clause
  ord : Nat
  mode : Word
  gen : Word
  ops : List DWord
  rec_ : List Byte
  tiles : List Nat
  regs : List Nat
  skip : List Nat := []
  /-- Rows that an MLD has read: number, elements and bound (R296). -/
  rows : List (Nat × List Nat × Word) := []
  deriving DecidableEq, Repr

/-- A quad in use (R278 to R287, R58, R29, R64). -/
structure Quad where
  q : Nat
  fused : Bool := false
  qgrants : List QGrant := []
  tgrants : List TileGrant := []
  /-- Element (r, c) of physical tile n at key 16384 n + 128 r + c. -/
  tiles : SMap Word := []
  /-- Row bound i of physical tile n at key 128 n + i. -/
  bounds : SMap Word := []
  bstat : SMap Word := []
  resv : List Resv := []
  rqueue : List Resv := []
  mops : List MOp := []
  wide : Option WideStore := none
  /-- Tile instructions waiting for the port, in the order of their issue (R445). -/
  port : List PortOp := []
  cups : List Cup := []
  deriving DecidableEq, Repr

/-- Bundle state and health word of a core (R16, R434). -/
structure CoreHealth where
  vp0 : Bool := true
  vp1 : Bool := true
  ce0 : Nat := 0
  ce1 : Nat := 0
  reason : Nat := 0
  leak0 : Nat := 0
  leak1 : Nat := 0
  deriving DecidableEq, Repr

/-- A seal entry (R73, R74). -/
structure Seal where
  base : Nat
  len : Nat
  ctx : Nat
  refs : Nat
  deriving DecidableEq, Repr

/-- A 2 MiB region's replication state (R67, R68, R70). -/
structure RegionRep where
  level : Nat := 0
  pin : Option Nat := none
  x : Nat := 0
  n : Nat := 0
  w : Nat := 0
  deriving DecidableEq, Repr

/-- A line that a holder of the home directory keeps, of local memory or of the system window: holder (core; 640 plus the quad, a fused L1; 800 plus the quad,
its atomic unit), line, expected reads left (0 none), whether Exclusive, and the valid sectors, one bit each (R63, R71,
R256). -/
structure L1Line where
  holder : Nat
  line : Nat
  cnt : Nat
  excl : Bool
  valid : Nat := 15
  deriving DecidableEq, Repr

/-- A line counted by CPY or CPYT at home, with the contents it held at the grant (R71, R72). -/
structure Counted where
  line : Nat
  cnt : Nat
  old : List Byte
  deriving DecidableEq, Repr

/-- A bitmap line in the metadata cache of a tower's copy engine, with the context that filled it (R273). -/
structure MetaLine where
  tower : Nat
  line : Nat
  ctx : Nat
  deriving DecidableEq, Repr

/-- A system-window word held by an L1 (R107). -/
structure WinWord where
  holder : Nat
  pa : Nat
  data : Nat
  deriving DecidableEq, Repr

/-- Caches as far as the spec gives them an effect (R63 to R72, R107). -/
structure Caches where
  l1 : List L1Line := []
  repl : List (Nat × Nat) := []
  regions : SMap RegionRep := []
  counted : List Counted := []
  /-- Counters REPL_HIT to SEAL_WR of tower t at key 16 t + offset / 8 (R69). -/
  ctr : SMap Nat := []
  /-- Words of the window lines in `l1` (R107). -/
  win : List WinWord := []
  /-- Metadata caches of the copy engines (R273). -/
  mlines : List MetaLine := []
  deriving DecidableEq, Repr

/-- A leaf found by a page walk (R399). -/
structure Leaf where
  frame : Nat
  size : Nat
  w : Bool
  rd : Bool
  deriving DecidableEq, Repr

/-- A region bounds entry (R400). -/
structure RegionEnt where
  lower : Nat
  upper : Nat
  w : Bool
  rd : Bool
  deriving DecidableEq, Repr

/-- An item the fetch unit holds (R349): kind 0 a LATT entry, 1 a dictionary, 2 a phase-table slot, 3 an expanded
line with its interlock bit and phase-table slot; its number and its bytes. -/
structure CodeItem where
  kind : Nat
  idx : Nat
  data : List Byte
  intlk : Bool := false
  ptab : Nat := 255
  /-- The step in which it was read (R350). -/
  at_ : Nat := 0
  deriving DecidableEq, Repr

/-- A page-table entry the device holds (R401): its level, the virtual address bits that select it, and its word. -/
structure TlbEntry where
  level : Nat
  key : Nat
  word : Nat
  deriving DecidableEq, Repr

/-- An outstanding fault of a context (R403): its source, owner and pages. -/
structure FaultRec where
  fseq : Nat
  src : Nat
  /-- Team handle (sources 0 and 1), operation handle (2 to 4) or grid handle (5). -/
  owner : Nat
  quad : Nat
  pages : List DWord
  /-- A FAULTREPLY taken while the owner was saved, not yet applied (R420): UNSV and PAGE entries. -/
  reply : Option (Bool × List DWord) := none
  /-- Its FAULT message has gone out; until the window of R406 lets it, the payload waits here. -/
  sent : Bool := true
  msg : List Byte := []
  deriving DecidableEq, Repr

/-- A context slot (R396, R397, R441). -/
structure CtxSlot where
  ctxid : Nat := 0
  act : Bool := false
  susp : Bool := false
  ptroot : DWord := 0
  rbtbase : DWord := 0
  frarea : DWord := 0
  savebase : DWord := 0
  savesize : DWord := 0
  wlbase : DWord := 0
  wlsize : DWord := 0
  codebase : DWord := 0
  codesize : DWord := 0
  lattbase : DWord := 0
  storebase : DWord := 0
  dictbase : DWord := 0
  ptabbase : DWord := 0
  endstat : DWord := 0
  /-- End status once the context has begun to end, and the fabric cycle of that (R407, R408). -/
  ending : Option Nat := none
  endAt : Nat := 0
  /-- Fault sequence number of the latest fault (R403); 0 before the first. -/
  fseq : Nat := 0
  faults : List FaultRec := []
  /-- 4 KiB units of the save area in use: first and count (R414). -/
  units : List (Nat × Nat) := []
  phcnt : DWord := 0
  phlast : DWord := 0
  /-- Fabric cycle of the overrun that PHLAST tells of (R441). -/
  phAt : Nat := 0
  /-- Launch id last given to a child grid, or 0 (R385). -/
  lastLid : Nat := 0
  /-- Cached page-table entries, region entries by id, and code items (R401, R349). -/
  tlb : List TlbEntry := []
  rcache : List (Nat × RegionEnt) := []
  code : List CodeItem := []
  deriving DecidableEq, Repr

/-- An outstanding copy or merge operation (R97, R265). -/
structure EngOp where
  u : Nat
  /-- KIND of R267: 0 CPY, 1 CPYT, 2 MERGE; 3 an MDRM, which has no channel and no event record (R299). -/
  kind : Nat
  tid : Nat
  ctx : Nat
  gid : Nat
  core : Nat
  seq : Nat
  lit : Word
  mode : Word
  /-- CPY: destination, source, length. CPYT: rows. MERGE: descriptor, capacity. -/
  ops : List DWord
  /-- Bytes of the records read at issue. -/
  recs : List (List Byte)
  /-- Channel of the engine, and the team's place, at issue (R265, R403). -/
  chan : Nat := 0
  place : Nat := 0
  /-- Its team's block and cluster (R269). -/
  bid : Nat := 0
  cluster : Nat := 0
  /-- Virtual and physical 64 KiB pages of its destination at issue (R402). -/
  vpages : List (Nat × Nat) := []
  /-- Pieces of its destination, pointer and length, whose page has had no translation: their lines are still to be
  granted (R97). -/
  wants : List (Nat × Nat) := []
  /-- A merge stopped at a record boundary: records written, and records consumed of each input (R413, R419). -/
  outN : Nat := 0
  inN : List Nat := []
  /-- Owned lines, in the order of the grants (R97), and those of them whose final bytes it has written (R98). -/
  lines : List Nat
  fin : List Nat := []
  /-- Lines that operations granted later have overwritten since, as before those grants (R98). -/
  olds : List (Nat × List Byte)
  /-- Its own lines once it has written them, as before (R98). -/
  pre : List (Nat × List Byte) := []
  /-- STATUS decided before execution (R267), if any. -/
  status : Option Nat
  /-- COUNT of the record (R267). -/
  cnt : Nat := 0
  /-- Its writes have been made; those to the system window await their acknowledgement (R97). -/
  sent : Bool := false
  /-- A merge stopped at a record boundary and saved (R413). -/
  stopped : Bool := false
  /-- Outstanding fault, or 0. -/
  fseq : Nat
  pages : List DWord
  /-- Seal entries whose reference count it holds, by base (R74). -/
  seals : List Nat
  deriving DecidableEq, Repr

/-- A device message as sent (R373): port 0 the host link, else a peer port. -/
structure OutMsg where
  port : Nat
  typ : Nat
  seq : Nat
  ctx : Nat
  tag : Nat
  payload : List Byte
  deriving DecidableEq, Repr

/-- A device-originated request that awaits its reply (R446, R447). -/
structure WinReq where
  tag : Nat
  tid : Nat
  /-- Its context (R402). -/
  ctx : Nat := 0
  op : MemOp
  acc : LaneAcc
  pa : Nat
  pc : DWord
  cl : Clause
  ord : Nat
  /-- Handle of the outstanding instruction it belongs to (R169). -/
  u : Nat
  /-- The L1 that its reply may fill, and the first word and number of words that its MRD names (R446). -/
  l1 : Nat := 0
  w0 : Nat := 0
  wn : Nat := 0
  /-- Its destination has been overwritten meanwhile, or its reply refused the address (R170, R392). -/
  dead : Bool := false
  bad : Bool := false
  /-- Its reply may fill the L1: no later write of its words, and no later system-scope acquire, by that L1's teams
  (R84, R107). -/
  fill : Bool := true
  deriving DecidableEq, Repr

/-- Who reads words of the system window apart from the lane accesses of teams (R446): the records that a team's
instruction reads, and its code fetches, by the instruction's place in program order; an engine operation, a matrix
operation or a replay, by its handle; a Cupboard fill, by its grid and quad. -/
inductive Asker where
  | record (tid ord : Nat)
  | code (tid ord : Nat)
  | op (u : Nat)
  | fill (gid quad : Nat)
  deriving DecidableEq, Repr

/-- An MRD of such a reader whose reply is still to come: its tag, its context, the step it was sent in, the pointer that it
reads, and its first word and number of words (R446). -/
structure Ask where
  tag : Nat
  who : Asker
  ctx : Nat
  at_ : Nat
  ptr : Nat
  w0 : Nat
  wn : Nat
  deriving DecidableEq, Repr

/-- A word that such a reply has brought, none where the address was refused, with the step of its MRD (R392, R446). -/
structure GotWord where
  who : Asker
  pa : Nat
  at_ : Nat
  data : Option Nat
  deriving DecidableEq, Repr

/-- The Fjaros Link as the driver sees it (R373 to R379). -/
structure Link where
  up : Bool := false
  locked : Bool := false
  set : BitVec 128 := 0
  rxseq : Nat := 0
  txseq : Nat := 0
  out : List OutMsg := []
  /-- The host message being taken. -/
  rx : HostMsg := ⟨0, 0, 0, 0, 0, 0, 0, []⟩
  /-- A host message that cannot proceed holds the ones behind it (R375). -/
  blocked : Bool := false
  /-- The held message is a LAUNCH that has been judged and waits for room in its queue (R384, R387). -/
  judged : Bool := false
  tag : Nat := 0
  reqs : List WinReq := []
  /-- Tags of device writes not yet acknowledged, with their team (R107, R375). -/
  wacks : List (Nat × Nat) := []
  /-- Of those of teams that have exited, the grid and its context (R91, R106, R391): tag, grid, context. -/
  wlate : List (Nat × Nat × Nat) := []
  /-- The device's own window reads whose replies are still to come, and the words that replies have brought (R446). -/
  asks : List Ask := []
  got : List GotWord := []
  /-- SEQ of the next message through each peer port (R373). -/
  ptx : SMap Nat := []
  deriving DecidableEq, Repr

/-- A system window entry (R392): its two words. -/
structure WinEntry where
  lo : DWord := 0
  hi : DWord := 0
  deriving DecidableEq, Repr

/-- A peer port control register (R393). -/
structure Pctl where
  drop : Nat := 0
  up : Bool := false
  en : Bool := false
  deriving DecidableEq, Repr

/-- A reduction stream (R394, R395): its four words, row slots, contribution counts and bounds. -/
structure Stream where
  w0 : DWord := 0
  dest : DWord := 0
  bdest : DWord := 0
  seqa : DWord := 0
  /-- Element j of slot i at key 128 i + j. -/
  rows : SMap Word := []
  cnt : SMap Nat := []
  bnd : SMap Word := []
  deriving DecidableEq, Repr

/-- An entry of the measurement log (R428). -/
structure MEntry where
  index : Nat
  valid : Bool
  svn : Nat
  size : Nat
  digest : List Byte
  deriving DecidableEq, Repr

/-- Register space outside the context slots (R380 to R394, R402, R423, R428 to R432, R438). -/
structure Regs where
  age0 : Nat := 0x800
  age1 : Nat := 0x800
  age2 : Nat := 0x800
  age3 : Nat := 0x800
  /-- Fabric cycle of the latest write of AGE0 to AGE3 (R388); the model's own. -/
  ageAt : Nat := 0
  /-- RSEL of the driver and of the Sideboard, by tower (R69, R440). -/
  rsel : SMap Nat := []
  rselSb : SMap Nat := []
  window : SMap WinEntry := []
  pctl : SMap Pctl := []
  streams : SMap Stream := []
  /-- Fabric cycle of the latest row arrival, and the place of its source among those of one cycle: the core of a local one,
  1,000 and the port of a peer's (R395). -/
  rowAt : Nat := 0
  rowSrc : Nat := 0
  invaddr : DWord := 0
  invlen : DWord := 0
  invdone : DWord := 0
  towerlost : BitVec 8 := 0
  mlog : List MEntry := []
  /-- The bring-up record of R429. -/
  bring : List Byte := []
  mbxDone : Bool := false
  mbxBusy : Bool := false
  mbxLen : Nat := 0
  mbxReq : Nat := 0
  mbxBuf : SMap Byte := []
  capw : BitVec 16 := 2800
  /-- Counter at offset o of tower t's block at key 256 t + o (R438). -/
  soft : SMap Nat := []
  deriving DecidableEq, Repr

/-- A firmware image's two flash banks (R442): SVN of each bank and a number for its contents, the bank in use, the
bank selected by the last completed staging, and the minimum SVN. -/
structure Flash where
  svn0 : Nat := 0
  svn1 : Nat := 0
  id0 : Nat := 0
  id1 : Nat := 0
  inUse : Nat := 0
  sel : Nat := 0
  minSvn : Nat := 0
  deriving DecidableEq, Repr

/-- What the Sideboard reports by SB_ALERT_L and a PLDM event (R431, R437). -/
inductive SbEvent where
  | towerLost (t : Nat)
  | bundleRemoved (core vp : Nat)
  | coreFenced (core : Nat)
  | throttled
  | tripped
  deriving DecidableEq, Repr

/-- The Sideboard and the flash (R426, R430, R431, R442). -/
structure Side where
  eid : Byte := 0
  alert : Bool := false
  events : List SbEvent := []
  /-- Requests negotiated at the mailbox and at the I3C responder: 0 none, 1 version, 2 capabilities, 3 algorithms. -/
  negMbx : Nat := 0
  negI3c : Nat := 0
  /-- Last reply given on the I3C bus. -/
  reply : List Byte := []
  flash : SMap Flash := []
  deriving DecidableEq, Repr

/-- Package state outside the above (R11, R202, R425, R433). -/
structure Pkg where
  /-- True for datapath profile H, false for N. -/
  profH : Bool := false
  /-- TIMEBASE, lane cycles since reset (R202). -/
  clk : DWord := 0
  /-- Fabric cycle of the last replication epoch and of the last leak decay (R67, R435). -/
  epochAt : Nat := 0
  leakAt : Nat := 0
  pwrok : Bool := true
  tripped : Bool := false
  /-- Steps of bring-up done, 0 to 6 (R427). -/
  bringStep : Nat := 0
  /-- Clock steps of 50 MHz below nominal, 0 to 7 (R433). -/
  slow : Nat := 0
  /-- What bring-up will find or has found (R427). -/
  tests : BringUp := ⟨[], []⟩
  /-- Sensor readings of R432, from outside: degrees of the 16 dies (two a tower) at 0 to 15, the package's watts at 16,
  the inlet's degrees at 17. -/
  sens : SMap Nat := []
  /-- Time for which no condition of R433 has held, in units of 1 / 18,018,000 of a microsecond, up to 10 ms. -/
  cool : Nat := 0
  deriving DecidableEq, Repr

/-- The distributor's place in a fabric cycle (R388, R412): the cycle, the candidates served and the towers used in it,
and the grid that has been first in its order without an eligible core, with the cycle since when. -/
structure Dist where
  at_ : Nat := 0
  served : List Nat := []
  towers : List Nat := []
  head : Nat := 0
  headAt : Nat := 0
  deriving DecidableEq, Repr

/-- What an evicted unit had on a quad (R158, R414, R415, R418): its grid, its blocks there, their quad barriers, the
grid's tiles with bounds and status by the grid's own numbers, its crews' reservations (true for one held, false for
one queued), its latches and operations, and the wide store of one of them. -/
structure SavedQuad where
  gid : Nat
  blocks : List Nat
  qgrants : List QGrant
  ntile : Nat
  tiles : SMap Word
  bounds : SMap Word
  bstat : SMap Word
  resv : List (Resv × Bool)
  mops : List MOp
  wide : Option WideStore
  port : List PortOp := []
  deriving DecidableEq, Repr

/-- An evicted unit (R411, R413): its handle, blocks, quads, and whether an invalidation of its context completed
since (R421). -/
structure SavedUnit where
  u : Nat
  gid : Nat
  blocks : List Nat
  quads : List SavedQuad
  inval : Bool := false
  /-- Its records are not yet written: accesses of its teams are in flight (R109). -/
  pend : Bool := false
  deriving DecidableEq, Repr

/-- An eviction whose SAVED message is still to come (R410, R413): what the message will say, the units still to be
evicted, by their blocks, and those whose records are still to be written. -/
structure Saving where
  ctx : Nat
  tag : Nat
  kind : Nat
  lid : Nat := 0
  blocks : Nat := 0
  teams : Nat := 0
  bytes : Nat := 0
  todo : List (List Nat) := []
  units : List Nat := []
  deriving DecidableEq, Repr

/-- What `step` takes next from outside the selected team's instruction stream (log 2). -/
inductive Act where
  /-- A device event happens. -/
  | ev (i : Instr)
  /-- A host message arrives. -/
  | msg (m : HostMsg)
  /-- The team with this handle is selected and issues. -/
  | issue (tid : Nat)
  /-- A message arrives through a peer port (R79, R106). -/
  | peer (port : Nat) (m : HostMsg)
  /-- The Sideboard reads n bytes of register space (R431), or writes its RSEL of a tower (R440). -/
  | sbRead (off n : Nat)
  | sbSelect (tower v : Nat)
  /-- A sensor of R432 reads v from now on. -/
  | sense (n v : Nat)
  deriving DecidableEq, Repr

/-- The state of the package. -/
structure State where
  /-- The selected team. -/
  t : Team := {}
  /-- The other teams. -/
  others : List Team := []
  blocks : List Block := []
  grids : List Grid := []
  quads : List Quad := []
  /-- Cores whose health differs from a sound core, by number. -/
  cores : SMap CoreHealth := []
  /-- Local DRAM; an unlisted address reads as zero (R426). -/
  mem : List Host.Cell := []
  /-- Poisoned sectors, by address / 32 (R439). -/
  poison : List Nat := []
  caches : Caches := {}
  seals : List Seal := []
  eops : List EngOp := []
  ctxs : List CtxSlot := List.replicate 16 {}
  link : Link := {}
  regs : Regs := {}
  side : Side := {}
  pkg : Pkg := {}
  dist : Dist := {}
  saved : List SavedUnit := []
  /-- Units placed again whose Cupboard refill is not done: the rest of their restore is due then (R421). -/
  restoring : List SavedUnit := []
  /-- Evictions under way (R413). -/
  saving : List Saving := []
  acts : List Act := []
  /-- Steps taken: the number under which this step draws its free values (log 7). -/
  free : Nat := 0
  /-- The next handle to give out. -/
  uid : Nat := 1
  deriving DecidableEq, Repr

/-- The package right after device reset, before bring-up ends (R426): no context, no work, memory all zero, the
link down, TIMEBASE 0. -/
def State.reset : State := {}

end Sys2Proof.Machine
end

