-- ==== Sys2Proof/Machine/Cells.lean ====
section
/-! DEFINITION. Sparse stores in their canonical form, and the bytes of local memory (R4, R426). -/

namespace Sys2Proof.Machine

/-- The value at key k; z is what an unlisted key reads as. -/
def sget {α : Type} (z : α) (k : Nat) : SMap α → α
  | [] => z
  | (j, x) :: r => if k = j then x else if k < j then z else sget z k r

/-- Drop the leading entries with keys up to k. -/
def sdrop {α : Type} (k : Nat) : SMap α → SMap α
  | [] => []
  | (j, x) :: r => if j ≤ k then sdrop k r else (j, x) :: r

/-- Store x at key k; storing z removes the entry. -/
def sput {α : Type} [DecidableEq α] (z : α) (k : Nat) (x : α) : SMap α → SMap α
  | [] => if x = z then [] else [(k, x)]
  | (j, y) :: r =>
    if k < j then (if x = z then (j, y) :: r else (k, x) :: (j, y) :: r)
    else if k = j then (if x = z then sdrop k r else (k, x) :: sdrop k r)
    else (j, y) :: sput z k x r

/-- The canonical form: keys strictly rising from lo, no entry equal to z. -/
def swf {α : Type} [DecidableEq α] (z : α) : Nat → SMap α → Bool
  | _, [] => true
  | lo, (j, x) :: r => decide (lo ≤ j) && decide (x ≠ z) && swf z (j + 1) r

/-- The canonical form of local memory (R426: an unlisted byte is zero). -/
def Memory.wf (m : List Host.Cell) : Bool := swf 0 0 m

/-- Store several values, in order. -/
def sputs {α : Type} [DecidableEq α] (z : α) (l : List (Nat × α)) (m : SMap α) : SMap α :=
  l.foldl (fun m p => sput z p.1 p.2 m) m

/-- n values from key k upwards. -/
def sgets {α : Type} (z : α) (k n : Nat) (m : SMap α) : List α :=
  (List.range n).map fun i => sget z (k + i) m

/-- Store a list of values from key k upwards. -/
def sputRun {α : Type} [DecidableEq α] (z : α) : Nat → List α → SMap α → SMap α
  | _, [], m => m
  | k, x :: r, m => sputRun z (k + 1) r (sput z k x m)

/-- Entries with keys in [lo, hi). -/
def sfrom {α : Type} (lo hi : Nat) (m : SMap α) : SMap α :=
  m.filter fun p => lo ≤ p.1 && p.1 < hi

/-- Entries with keys outside [lo, hi). -/
def sclear {α : Type} (lo hi : Nat) (m : SMap α) : SMap α :=
  m.filter fun p => !(lo ≤ p.1 && p.1 < hi)

/-- n values from key k upwards, of a long map. -/
def srow {α : Type} (z : α) (k n : Nat) (m : SMap α) : List α := sgets z k n (sfrom k (k + n) m)

/-- Replace the values from key k upwards by these. -/
def sputRow {α : Type} [DecidableEq α] (z : α) (k : Nat) (l : List α) (m : SMap α) : SMap α :=
  (m.filter fun p => p.1 < k) ++ ((List.zip ((List.range l.length).map (k + ·)) l).filter fun p => p.2 ≠ z) ++
    (m.filter fun p => k + l.length ≤ p.1)

/-- The byte of local memory at physical address a. -/
def State.byte (s : State) (a : Nat) : Byte := sget 0 a s.mem

/-- n bytes of local memory from physical address a. -/
def State.bytes (s : State) (a n : Nat) : List Byte := sgets 0 a n s.mem

/-- A little-endian number of n bytes at physical address a (R4). -/
def State.memNat (s : State) (a n : Nat) : Nat := leNat (s.bytes a n)

/-- Write bytes to local memory from physical address a. -/
def State.putBytes (s : State) (a : Nat) (bs : List Byte) : State :=
  { s with mem := sputRun 0 a bs s.mem }

/-- Clear n bytes of local memory from physical address a. -/
def State.zeroBytes (s : State) (a n : Nat) : State := { s with mem := sclear a (a + n) s.mem }

/-- Write a little-endian number of n bytes to local memory (R4). -/
def State.putNat (s : State) (a n v : Nat) : State := s.putBytes a (leBytes n v)

/-- Replace the first element that satisfies p by f of it. -/
def updFirst {α : Type} (p : α → Bool) (f : α → α) : List α → List α
  | [] => []
  | x :: r => if p x then f x :: r else x :: updFirst p f r

/-- Number of a free choice within a step: its kind and what it is about (log 7). -/
def fk (kind x : Nat) : Nat := kind * 2 ^ 80 + x

/-- A free choice (log 7): number k among those of this step. -/
def State.freeBool (s : State) (k : Nat) : Bool := Config.freeBool s.free k
def State.freeNat (s : State) (k : Nat) : Nat := Config.freeNat s.free k
def State.freeByte (s : State) (k : Nat) : Byte := Config.freeByte s.free k

/-- A new handle. -/
def State.newUid (s : State) : State := { s with uid := s.uid + 1 }

end Sys2Proof.Machine
end

