-- ==== Sys2Proof/Machine/Numeric.lean ====
section
/-! DEFINITION. Exact values, floating-point formats and rounding (R113 to R119, R123, R124, R133, R229). -/

namespace Sys2Proof.Machine

/-- How a format treats values it cannot hold (R115, R118). -/
inductive FmtKind where
  /-- Infinities and NaNs: FP64, FP32, FP16, BF16, E5M2. -/
  | ieee
  /-- E4M3: one NaN, no infinity. -/
  | e4m3
  /-- E3M2, E2M3, E2M1: neither. -/
  | bare
  deriving DecidableEq, Repr

/-- A floating-point format (R115). -/
structure Fmt where
  exp : Nat
  man : Nat
  bias : Nat
  kind : FmtKind
  deriving DecidableEq, Repr

def Fmt.fp32 : Fmt := ⟨8, 23, 127, .ieee⟩
def Fmt.fp64 : Fmt := ⟨11, 52, 1023, .ieee⟩
def Fmt.fp16 : Fmt := ⟨5, 10, 15, .ieee⟩
def Fmt.bf16 : Fmt := ⟨8, 7, 127, .ieee⟩
def Fmt.e4m3 : Fmt := ⟨4, 3, 7, .e4m3⟩
def Fmt.e5m2 : Fmt := ⟨5, 2, 15, .ieee⟩
def Fmt.e3m2 : Fmt := ⟨3, 2, 3, .bare⟩
def Fmt.e2m3 : Fmt := ⟨2, 3, 1, .bare⟩
def Fmt.e2m1 : Fmt := ⟨2, 1, 1, .bare⟩

/-- Width in bits. -/
def Fmt.width (f : Fmt) : Nat := 1 + f.exp + f.man

/-- FTZ acts on this format: FP64, FP32, FP16, BF16 (R124). -/
def Fmt.flushes (f : Fmt) : Bool := f == .fp32 || f == .fp64 || f == .fp16 || f == .bf16

/-- Exponent of the lowest bit of a subnormal. -/
def Fmt.qmin (f : Fmt) : Int := 1 - (f.bias : Int) - f.man

/-- Bit pattern of the largest finite magnitude (R115). -/
def Fmt.maxBits (f : Fmt) : Nat :=
  match f.kind with
  | .ieee => (2 ^ f.exp - 1) * 2 ^ f.man - 1
  | .e4m3 => 2 ^ (f.exp + f.man) - 2
  | .bare => 2 ^ (f.exp + f.man) - 1

/-- Canonical NaN (R116); +0 where the format has none (R118). -/
def Fmt.nan (f : Fmt) : Nat :=
  match f.kind with
  | .ieee => (2 ^ f.exp - 1) * 2 ^ f.man + 2 ^ (f.man - 1)
  | .e4m3 => 2 ^ (f.exp + f.man) - 1
  | .bare => 0

/-- The sign bit in place. -/
def Fmt.sgn (f : Fmt) (neg : Bool) : Nat := if neg then 2 ^ (f.exp + f.man) else 0

/-- A value before rounding. -/
inductive Ex where
  | nan
  | inf (neg : Bool)
  /-- m * 2^e with a sign; when st, strictly between m and m + 1 times 2^e. -/
  | fin (neg : Bool) (m : Nat) (e : Int) (st : Bool)
  /-- Strictly between lo and hi times 2^e, lo < hi. -/
  | btw (neg : Bool) (lo hi : Nat) (e : Int)
  deriving DecidableEq, Repr

def Ex.zero (neg : Bool) : Ex := .fin neg 0 0 false
def Ex.ofInt (i : Int) : Ex := .fin (i < 0) i.natAbs 0 false

/-- The value of a bit pattern (R115). -/
def Fmt.dec (f : Fmt) (w : Nat) : Ex :=
  let neg := w / 2 ^ (f.exp + f.man) % 2 == 1
  let e := w / 2 ^ f.man % 2 ^ f.exp
  let m := w % 2 ^ f.man
  if e = 0 then .fin neg m f.qmin false
  else if f.kind = .ieee ∧ e = 2 ^ f.exp - 1 then (if m = 0 then .inf neg else .nan)
  else if f.kind = .e4m3 ∧ e = 2 ^ f.exp - 1 ∧ m = 2 ^ f.man - 1 then .nan
  else .fin neg (2 ^ f.man + m) (f.qmin + e - 1) false

/-- A subnormal input read under FTZ (R124). -/
def Fmt.decZ (f : Fmt) (ftz : Bool) (w : Nat) : Ex :=
  if ftz && f.flushes && w / 2 ^ f.man % 2 ^ f.exp == 0
  then .zero (w / 2 ^ (f.exp + f.man) % 2 == 1) else f.dec w

/-- The bit pattern is NaN or infinite. -/
def Fmt.nonFinite (f : Fmt) (w : Nat) : Bool :=
  match f.dec w with
  | .fin .. => false
  | _ => true

def Fmt.isNan (f : Fmt) (w : Nat) : Bool := f.dec w == .nan

/-- Number of bits of n. -/
def bitLen (n : Nat) : Nat := if n = 0 then 0 else Nat.log2 n + 1

/-- What governs a rounding: RND, SAT, FTZ (R117, R118, R124), and rv for SR (R119). -/
structure Rm where
  rnd : Nat := 0
  sat : Bool := false
  ftz : Bool := false
  rv : Nat := 0
  deriving DecidableEq, Repr

/-- Round k + (rem + δ) / 2^drop to k or k + 1, with 0 < δ < 1 when st and 0 otherwise (R117, R119). -/
def roundUp (rm : Rm) (neg : Bool) (k rem drop : Nat) (st : Bool) : Nat :=
  if rem = 0 ∧ !st then k else
  let half := 2 ^ (drop - 1)
  let up : Bool :=
    match rm.rnd with
    | 0 => half < rem || (rem == half && (st || k % 2 == 1)) && 0 < drop
    | 1 => false
    | 2 => !neg
    | 3 => neg
    | 4 => half ≤ rem && 0 < drop
    | _ => let t := if 32 ≤ drop then rem / 2 ^ (drop - 32) else rem * 2 ^ (32 - drop)
           -- hi is the larger value, so a negative number swaps the roles of the magnitudes
           if neg then
             let exact := if 32 ≤ drop then rem % 2 ^ (drop - 32) == 0 && !st else !st
             let t' := 2 ^ 32 - t - (if exact then 0 else 1)
             !(decide (rm.rv < t'))
           else rm.rv < t
  if up then k + 1 else k

/-- Result of an overflow (R118). -/
def Fmt.overflow (f : Fmt) (rm : Rm) (neg : Bool) : Nat :=
  let big := f.sgn neg + f.maxBits
  match f.kind with
  | .bare => big
  | .e4m3 => if rm.sat then big else f.nan
  | .ieee =>
    if rm.sat || rm.rnd == 1 || (rm.rnd == 3 && !neg) || (rm.rnd == 2 && neg) then big
    else f.sgn neg + (2 ^ f.exp - 1) * 2 ^ f.man

/-- Round (m, st) * 2^e into the format (R117 to R119, R124). -/
def Fmt.roundFin (f : Fmt) (rm : Rm) (neg : Bool) (m : Nat) (e : Int) (st : Bool) : Nat :=
  if m = 0 ∧ !st then f.sgn neg else
  let q := max ((bitLen m : Int) - 1 + e - f.man) f.qmin
  let k := if q ≤ e then m * 2 ^ (e - q).toNat
    else
      let drop := (q - e).toNat
      roundUp rm neg (m / 2 ^ drop) (m % 2 ^ drop) drop st
  let mag := (q - f.qmin).toNat * 2 ^ f.man + k
  if f.maxBits < mag then f.overflow rm neg
  else if rm.ftz && f.flushes && mag < 2 ^ f.man then f.sgn neg
  else f.sgn neg + mag

/-- Round a value into the format; NaN and infinite sources by R118. -/
def Fmt.round (f : Fmt) (rm : Rm) (x : Ex) : Nat :=
  match x with
  | .nan => f.nan
  | .inf neg =>
    match f.kind with
    | .ieee => f.sgn neg + (2 ^ f.exp - 1) * 2 ^ f.man
    | .e4m3 => if rm.sat then f.sgn neg + f.maxBits else f.nan
    | .bare => f.sgn neg + f.maxBits
  | .fin neg m e st => f.roundFin rm neg m e st
  | .btw neg lo hi e =>
    let a := f.roundFin rm neg lo e true
    let b := f.roundFin rm neg (hi - 1) e true
    if a = b then a else Config.hardCase lo hi % 2 ^ f.width

/-- Round a finite value to an integer under RND (R117, R119). -/
def Ex.toInt (rm : Rm) : Ex → Int
  | .nan => 0
  | .inf _ => 0
  | .btw .. => 0
  | .fin neg m e st =>
    let k : Nat := if 0 ≤ e then m * 2 ^ e.toNat
      else roundUp rm neg (m / 2 ^ (-e).toNat) (m % 2 ^ (-e).toNat) (-e).toNat st
    if neg then -(k : Int) else k

/-- Clamp to [lo, hi]. -/
def clamp (lo hi x : Int) : Int := if x < lo then lo else if hi < x then hi else x

/-- Convert to an integer range: round, then clamp; NaN gives 0, an infinity the nearer end (R118). -/
def Ex.toRange (rm : Rm) (lo hi : Int) (x : Ex) : Int :=
  match x with
  | .nan => 0
  | .inf neg => if neg then lo else hi
  | x => clamp lo hi (x.toInt rm)

/-- Negation. -/
def Ex.neg : Ex → Ex
  | .nan => .nan
  | .inf n => .inf !n
  | .fin n m e st => .fin (!n) m e st
  | .btw n lo hi e => .btw (!n) lo hi e

/-- Exact product of values read from formats; 0 times an infinity is NaN (R230). -/
def Ex.mul : Ex → Ex → Ex
  | .fin n m e _, .fin n' m' e' _ => .fin (n != n') (m * m') (e + e') false
  | .inf n, .inf n' => .inf (n != n')
  | .inf n, .fin n' m _ _ => if m = 0 then .nan else .inf (n != n')
  | .fin n m _ _, .inf n' => if m = 0 then .nan else .inf (n != n')
  | _, _ => .nan

/-- Multiply by 2^k. -/
def Ex.scale (k : Int) : Ex → Ex
  | .fin n m e st => .fin n m (e + k) st
  | x => x

/-- Signed numerator of a finite value over 2^e. -/
def Ex.over (e : Int) : Ex → Int
  | .fin n m e' _ => let v : Int := m * 2 ^ (e' - e).toNat; if n then -v else v
  | _ => 0

def Ex.isNan : Ex → Bool
  | .nan => true
  | _ => false

def Ex.isInf (neg : Bool) : Ex → Bool
  | .inf n => n == neg
  | _ => false

/-- A zero with the given sign. -/
def Ex.isZero (neg : Bool) : Ex → Bool
  | .fin n 0 _ false => n == neg
  | _ => false

/-- Exponent of a finite non-zero value. -/
def Ex.expo? : Ex → Option Int
  | .fin _ 0 _ _ => none
  | .fin _ _ e _ => some e
  | _ => none

/-- Exact sum of terms; NaN for a NaN term or infinities of both signs; an exact zero is +0, or −0 when every
term is −0 or RND is RDN (R133, R136). -/
def Ex.sum (rnd : Nat) (l : List Ex) : Ex :=
  if l.any Ex.isNan || (l.any (Ex.isInf true) && l.any (Ex.isInf false)) then .nan
  else if l.any (Ex.isInf true) then .inf true
  else if l.any (Ex.isInf false) then .inf false
  else
    let e := (l.filterMap Ex.expo?).foldl min (((l.filterMap Ex.expo?).head?).getD 0)
    let t := l.foldl (fun (acc : Int) x => match x.expo? with | some _ => acc + x.over e | none => acc) 0
    if t = 0 then .zero (rnd == 3 || l.all (Ex.isZero true))
    else .fin (t < 0) t.natAbs e false

/-- Quotient (R230): 192 bits or more, and whether a remainder is left. -/
def Ex.div : Ex → Ex → Ex
  | .fin n m e _, .fin n' m' e' _ =>
    let s := n != n'
    if m' = 0 then (if m = 0 then .nan else .inf s)
    else if m = 0 then .zero s
    else
      let k := 192 + bitLen m'
      let a := m * 2 ^ k
      .fin s (a / m') (e - e' - k) (a % m' != 0)
  | .inf n, .fin n' _ _ _ => .inf (n != n')
  | .fin n _ _ _, .inf n' => .zero (n != n')
  | _, _ => .nan

/-- Integer square root, by bits from bit i downwards. -/
def isqrtAux (n : Nat) : Nat → Nat → Nat
  | 0, r => r
  | i + 1, r =>
    let c := r + 2 ^ i
    isqrtAux n i (if c * c ≤ n then c else r)

def isqrt (n : Nat) : Nat := isqrtAux n (bitLen n / 2 + 1) 0

/-- Square root (R229, R230). -/
def Ex.sqrt : Ex → Ex
  | .fin n m e _ =>
    if m = 0 then .zero n else if n then .nan
    else
      let odd := e % 2 == 1
      let m' := (if odd then 2 * m else m) * 2 ^ 384
      let e' := (if odd then e - 1 else e) - 384
      let r := isqrt m'
      .fin false r (e' / 2) (r * r != m')
  | .inf false => .inf false
  | _ => .nan

/-- Reciprocal square root (R229, R230). -/
def Ex.rsqrt : Ex → Ex
  | .fin n m e _ =>
    if m = 0 then .inf n else if n then .nan
    else
      let odd := e % 2 == 1
      let m' := if odd then 2 * m else m
      let e' := if odd then e - 1 else e
      let k := 192 + bitLen m'
      let r := isqrt (2 ^ (2 * k) / m')
      .fin false r (-(e' / 2) - k) (r * r * m' != 2 ^ (2 * k))
  | .inf false => .zero false
  | _ => .nan

/-- Fraction bits of the fixed-point work below, and ln 2 and pi to that many bits. -/
def fxP : Nat := 576
def fxLn2 : Nat := 0xb17217f7d1cf79abc9e3b39803f2f6af40f343267298b62d8a0d175b8baafa2be7b876206debac98559552fb4afa1b10ed2eae35c138214427573b291169b8253e96ca16224ae8c5
def fxPi : Nat := 0x3243f6a8885a308d313198a2e03707344a4093822299f31d0082efa98ec4e6c89452821e638d01377be5466cf34e90c6cc0ac29b7c97c50dd3f84d5b5b54709179216d5d98979fb1b

/-- Widen a fixed-point approximation by more than its error, which is below 2^12 units. -/
def fxBtw (neg : Bool) (x : Nat) (e : Int) : Ex := .btw neg (x - 2 ^ 20) (x + 2 ^ 20) (e - fxP)

/-- Sum of x^k / k! from term t = x^i / i! on. -/
def fxExpSum (x : Nat) : Nat → Nat → Nat → Nat → Nat
  | 0, _, _, acc => acc
  | n + 1, i, t, acc => fxExpSum x n (i + 1) (t * x / 2 ^ fxP / (i + 1)) (acc + t)

/-- 2^a for the exact a, where a is not NaN (R229, R230). -/
def Ex.exp2 : Ex → Ex
  | .inf true => .zero false
  | .inf false => .inf false
  | .fin n m e _ =>
    let a : Int := if 0 ≤ e then m * 2 ^ e.toNat else m / 2 ^ (-e).toNat
    if 4000 < a then (if n then .fin false 1 (-5000) false else .fin false 1 5000 false)
    else
      let fr : Nat := if 0 ≤ e then 0 else m % 2 ^ (-e).toNat
      if fr = 0 then .fin false 1 (if n then -a else a) false
      else
        -- floor of the signed argument and its fraction at fxP bits
        let f0 := fr * 2 ^ fxP / 2 ^ (-e).toNat
        let ip : Int := if n then -a - 1 else a
        let f := if n then 2 ^ fxP - f0 else f0
        fxBtw false (fxExpSum (f * fxLn2 / 2 ^ fxP) 140 0 (2 ^ fxP) 0) ip
  | _ => .nan

/-- Sum of z^(2k+1) / (2k+1), t = z^(2k+1). -/
def fxAtanhSum (z2 : Nat) : Nat → Nat → Nat → Nat → Nat
  | 0, _, _, acc => acc
  | n + 1, i, t, acc => fxAtanhSum z2 n (i + 2) (t * z2 / 2 ^ fxP) (acc + t / i)

/-- log2 (R229, R230). -/
def Ex.log2 : Ex → Ex
  | .inf false => .inf false
  | .fin n m e _ =>
    if m = 0 then .inf true else if n then .nan
    else
      let b := bitLen m - 1
      let ip : Int := e + b
      if m = 2 ^ b then .ofInt ip
      else
        let z := (m - 2 ^ b) * 2 ^ fxP / (m + 2 ^ b)
        let l := 2 * fxAtanhSum (z * z / 2 ^ fxP) 190 1 z 0
        let v : Int := ip * 2 ^ fxP + l * 2 ^ fxP / fxLn2
        fxBtw (v < 0) v.natAbs 0
  | _ => .nan

/-- Alternating sum x^i / i! - x^(i+2) / (i+2)! + … from term t. -/
def fxTrigSum (x2 : Nat) : Nat → Nat → Nat → Bool → Int → Int
  | 0, _, _, _, acc => acc
  | n + 1, i, t, sub, acc =>
    fxTrigSum x2 n (i + 2) (t * x2 / 2 ^ fxP / ((i + 1) * (i + 2))) (!sub) (if sub then acc - t else acc + t)

/-- sin (pi f) and cos (pi f) for f in (0, 1/2) given at fxP bits. -/
def fxSin (f : Nat) : Nat :=
  let x := f * fxPi / 2 ^ fxP
  (fxTrigSum (x * x / 2 ^ fxP) 75 1 x false 0).toNat
def fxCos (f : Nat) : Nat :=
  let x := f * fxPi / 2 ^ fxP
  (fxTrigSum (x * x / 2 ^ fxP) 75 0 (2 ^ fxP) false 0).toNat

/-- |a| mod 2 at fxP fraction bits: exact for every format of R219's class FltT. -/
def fxMod2 (m : Nat) (e : Int) : Nat :=
  if 0 ≤ e then m * 2 ^ e.toNat % 2 * 2 ^ fxP
  else m % 2 ^ ((-e).toNat + 1) * 2 ^ fxP / 2 ^ (-e).toNat

/-- sin (pi a) (R229, R230). -/
def Ex.sinpi : Ex → Ex
  | .fin n m e _ =>
    let r := fxMod2 m e
    let one := 2 ^ fxP
    let f := r % one
    let neg := n != decide (one ≤ r)
    if f = 0 then .zero (n && m != 0)
    else if f = one / 2 then .fin neg 1 0 false
    else if f < one / 2 then fxBtw neg (fxSin f) 0
    else fxBtw neg (fxSin (one - f)) 0
  | _ => .nan

/-- cos (pi a) (R229, R230). -/
def Ex.cospi : Ex → Ex
  | .fin _ m e _ =>
    let r := fxMod2 m e
    let one := 2 ^ fxP
    let f := r % one
    let flip := decide (one ≤ r)
    if f = 0 then .fin flip 1 0 false
    else if f = one / 2 then .zero false
    else if f < one / 2 then fxBtw flip (fxCos f) 0
    else fxBtw (!flip) (fxCos (one - f)) 0
  | _ => .nan

/-- Order of two values that are not NaN: signs of zeros compare equal. -/
def Ex.lt (a b : Ex) : Bool :=
  match a, b with
  | .inf n, .inf n' => n && !n'
  | .inf n, _ => n
  | _, .inf n => !n
  | .fin _ _ e _, .fin _ _ e' _ => let q := min e e'; decide (a.over q < b.over q)
  | _, _ => false

def Ex.eqv (a b : Ex) : Bool :=
  match a, b with
  | .inf n, .inf n' => n == n'
  | .fin _ _ e _, .fin _ _ e' _ => let q := min e e'; decide (a.over q = b.over q)
  | _, _ => false

/-- |x| of a finite value. -/
def Ex.abs : Ex → Ex
  | .inf _ => .inf false
  | .fin _ m e st => .fin false m e st
  | x => x

end Sys2Proof.Machine
end

