-- ==== Sys2Proof/Machine/Flags.lean ====
section
/-! DEFINITION. MODE and its fields, element types and their containers, completion flags (R113, R114, R123, R168,
R169, R175, R177). -/

namespace Sys2Proof.Machine

/-- The fields of MODE (R175). -/
def mPG (m : Word) : Nat := m.toNat % 16
def mPGN (m : Word) : Bool := m.toNat / 16 % 2 == 1
def mET (m : Word) : Nat := m.toNat / 32 % 32
def mRND (m : Word) : Nat := m.toNat / 2 ^ 10 % 8
def mSAT (m : Word) : Bool := m.toNat / 2 ^ 13 % 2 == 1
def mFTZ (m : Word) : Bool := m.toNat / 2 ^ 14 % 2 == 1
def mNFT (m : Word) : Bool := m.toNat / 2 ^ 15 % 2 == 1
def mSF (m : Word) : Nat := m.toNat / 2 ^ 16 % 16
def mACC (m : Word) : Nat := m.toNat / 2 ^ 20 % 16
def mBWIDE (m : Word) : Bool := m.toNat / 2 ^ 24 % 2 == 1
def mBPROP (m : Word) : Bool := m.toNat / 2 ^ 25 % 2 == 1

/-- The check that SETM, SWR to MODE and ERET make (R177). -/
def modeOk (m : Word) : Bool :=
  m.toNat / 2 ^ 26 == 0 && mRND m ≤ 5 && mET m ≤ 17 && mSF m ≤ 2 && mACC m ≤ 2

/-- The rounding that MODE selects, with an SR value (R117, R118, R124). -/
def rmOf (m : Word) (rv : Nat) : Rm := ⟨mRND m, mSAT m, mFTZ m, rv⟩

/-- Element width in bits (R113); a CB2 index is 16 bits. -/
def etWidth : Nat → Nat
  | 0 => 32 | 1 => 64 | 2 => 16 | 3 => 16 | 4 => 8 | 5 => 8 | 6 => 6 | 7 => 6 | 8 => 4
  | 9 => 8 | 10 => 8 | 11 => 16 | 12 => 16 | 13 => 32 | 14 => 32 | 15 => 64 | 16 => 4 | _ => 16

/-- Elements in the container of one lane (R113, R238). -/
def etCount : Nat → Nat
  | 0 => 1 | 1 => 1 | 2 => 2 | 3 => 2 | 4 => 4 | 5 => 4 | 6 => 4 | 7 => 4 | 8 => 8
  | 9 => 4 | 10 => 4 | 11 => 2 | 12 => 2 | 13 => 1 | 14 => 1 | 15 => 1 | 16 => 8 | _ => 2

/-- The value takes a register pair (R114). -/
def etPair (et : Nat) : Bool := et == 1 || et == 15

/-- Bytes of a container in memory (R245). -/
def etBytes (et : Nat) : Nat := if etPair et then 8 else if et == 6 || et == 7 then 3 else 4

/-- The floating-point format of an element type. -/
def etFmt : Nat → Option Fmt
  | 0 => some .fp32 | 1 => some .fp64 | 2 => some .fp16 | 3 => some .bf16 | 4 => some .e4m3
  | 5 => some .e5m2 | 6 => some .e3m2 | 7 => some .e2m3 | 8 => some .e2m1 | _ => none

/-- An integer type is signed (R123). -/
def etSigned (et : Nat) : Bool := et == 9 || et == 11 || et == 13 || et == 15 || et == 16

/-- Range of an integer type (R123). -/
def etLo (et : Nat) : Int := if etSigned et then -(2 ^ (etWidth et - 1) : Nat) else 0
def etHi (et : Nat) : Int :=
  if etSigned et then (2 ^ (etWidth et - 1) : Nat) - 1 else (2 ^ etWidth et : Nat) - 1

/-- The type exists on the profile (R11, R113). -/
def etOn (profH : Bool) (et : Nat) : Bool := !profH || !(et == 6 || et == 7 || et == 8 || et == 17)

/-- The CAP_DP bit that reads 0 for a type the profile lacks (R12, R15, R204): 6 for FP6, 5 for FP4, 7 for CB2. -/
def etCapBit (et : Nat) : Nat := if et == 8 then 5 else if et == 17 then 7 else 6

/-- The signed reading of w low bits. -/
def sgnOf (w v : Nat) : Int :=
  let u := v % 2 ^ w
  if u < 2 ^ (w - 1) then u else (u : Int) - (2 ^ w : Nat)

/-- w bits of an integer, modulo 2^w. -/
def wrapN (w : Nat) (x : Int) : Nat := (x % (2 ^ w : Nat)).toNat

/-- The value of an element's bits under an integer type. -/
def etInt (et v : Nat) : Int := if etSigned et then sgnOf (etWidth et) v else (v % 2 ^ etWidth et : Nat)

/-- Wrap, or clamp under SAT (R123), to the bits of the type. -/
def etFit (et : Nat) (sat : Bool) (x : Int) : Nat :=
  wrapN (etWidth et) (if sat then clamp (etLo et) (etHi et) x else x)

/-- Element k of a container (R114). -/
def elemOf (w k c : Nat) : Nat := c / 2 ^ (w * k) % 2 ^ w

/-- A container from its elements, element 0 first (R114). -/
def packElems (w : Nat) : List Nat → Nat
  | [] => 0
  | x :: r => x % 2 ^ w + 2 ^ w * packElems w r

/-- Fields of a clause header (R166). -/
def hLEN (h : Word) : Nat := h.toNat / 2 ^ 28
def hWAIT (h : Word) : Nat := h.toNat / 2 ^ 16 % 2 ^ 12
def hSETA (h : Word) : Nat := h.toNat / 2 ^ 12 % 16
def hSETB (h : Word) : Nat := h.toNat / 2 ^ 8 % 16
def hSTALL (h : Word) : Nat := h.toNat / 16 % 16
def hCHECK (h : Word) : Nat := h.toNat % 16

/-- A word is accepted as a header (R167). -/
def headerOk (h : Word) : Bool := hCHECK h == 0b1010 && hLEN h != 0

/-- The count of flag n: outstanding attaching instructions that name it (R169). -/
def Team.flagCount (t : Team) (n : Nat) : Nat := (t.infl.filter fun i => i.flag == some n).length

/-- Every flag that WAIT names is clear (R170). -/
def Team.waitClear (t : Team) : Bool :=
  (List.range 12).all fun n => !(hWAIT t.cl.hdr / 2 ^ n % 2 == 1) || t.flagCount n == 0

/-- The flag that the next attaching instruction of the clause takes, none in interlocked mode (R168, R171). -/
def Team.nextFlag (t : Team) : Option Nat :=
  if t.cl.intlk then none
  else
    let f := if t.cl.aused && hSETB t.cl.hdr != 15 then hSETB t.cl.hdr else hSETA t.cl.hdr
    if f < 12 then some f else none

/-- TCLAUSE and CLSTATE layout of a clause state (R213, R416). -/
def Clause.toDWord (c : Clause) : DWord :=
  BitVec.ofNat 64 (c.hdr.toNat + 2 ^ 32 * c.idx + 2 ^ 36 * c.aused.toNat + 2 ^ 37 * c.arr.toNat)

/-- The advance of the stochastic generator (R120). -/
def srAdvance (st : Word) : Word :=
  let a := st ^^^ (st <<< 13)
  let b := a ^^^ (a >>> 17)
  b ^^^ (b <<< 5)

/-- The rv of position j: the state rotated left (R120). -/
def srValue (st : Word) (j : Nat) : Nat := (st.rotateLeft (j % 32)).toNat

/-- What SRNGSEED stores for a written value (R121). -/
def srSeed (w : Word) : Word := if w = 0 then 0x5EED0001 else w

end Sys2Proof.Machine
end

