-- ==== Sys2Proof/Machine/Ops.lean ====
section
/-! DEFINITION. Named operations over the state: finding and updating its parts, registers and masks with the hazards
of R170, moving past an instruction, raising a cause, taking a trap and returning from one (R206, R214, R216). -/

namespace Sys2Proof.Machine

/-- Update the selected team. -/
def State.modT (s : State) (f : Team → Team) : State := { s with t := f s.t }

/-- Every team that exists. -/
def State.teams (s : State) : List Team := (s.t :: s.others).filter fun t => t.life != .absent

/-- The team with a handle. -/
def State.team? (s : State) (tid : Nat) : Option Team := s.teams.find? fun t => t.tid == tid

/-- Make the team with a handle the selected one. -/
def State.select (s : State) (tid : Nat) : State :=
  if s.t.tid = tid then s
  else match s.others.find? fun t => t.tid == tid with
    | none => s
    | some t =>
      let rest := s.others.filter fun o => o.tid != tid
      { s with t := t, others := if s.t.life == .absent then rest else rest ++ [s.t] }

/-- Update the team with a handle. -/
def State.modTeam (s : State) (tid : Nat) (f : Team → Team) : State :=
  if s.t.tid = tid then s.modT f
  else { s with others := s.others.map fun t => if t.tid == tid then f t else t }

/-- Update every team that satisfies p. -/
def State.modTeams (s : State) (p : Team → Bool) (f : Team → Team) : State :=
  { s with t := if p s.t then f s.t else s.t, others := s.others.map fun t => if p t then f t else t }

/-- The stored bytes that satisfy p have been accessed, superseded or ordered: their store cannot be taken to read its
source any later (R84, R87, R92, R170). -/
def State.settle (s : State) (p : LateSrc → Bool) : State :=
  s.modTeams (fun t => t.infl.any fun f => f.late.any p) fun t =>
    { t with infl := t.infl.map fun f => { f with late := f.late.filter fun e => !p e } }

/-- Bytes of global memory. -/
def LateSrc.inMem (e : LateSrc) (p : Nat → Bool) : Bool := e.blk == none && p e.addr

def State.block? (s : State) (bid : Nat) : Option Block := s.blocks.find? fun b => b.bid == bid
def State.modBlock (s : State) (bid : Nat) (f : Block → Block) : State :=
  { s with blocks := updFirst (fun b => b.bid == bid) f s.blocks }

def State.grid? (s : State) (gid : Nat) : Option Grid := s.grids.find? fun g => g.gid == gid
def State.modGrid (s : State) (gid : Nat) (f : Grid → Grid) : State :=
  { s with grids := updFirst (fun g => g.gid == gid) f s.grids }

/-- The record of a quad; a quad without one is unused. -/
def State.quadD (s : State) (q : Nat) : Quad := (s.quads.find? fun x => x.q == q).getD { q := q }
def State.modQuad (s : State) (q : Nat) (f : Quad → Quad) : State :=
  if s.quads.any fun x => x.q == q then { s with quads := updFirst (fun x => x.q == q) f s.quads }
  else { s with quads := s.quads ++ [f { q := q }] }

/-- Health of a core (R16, R434). -/
def State.core (s : State) (c : Nat) : CoreHealth := sget {} c s.cores
def State.modCore (s : State) (c : Nat) (f : CoreHealth → CoreHealth) : State :=
  { s with cores := sput {} c (f (s.core c)) s.cores }
/-- Exactly one bundle in service (R17). -/
def CoreHealth.half (h : CoreHealth) : Bool := h.vp0 != h.vp1
/-- No bundle in service (R18). -/
def CoreHealth.fenced (h : CoreHealth) : Bool := !h.vp0 && !h.vp1
/-- The quad's engine is enabled (R18). -/
def State.engineOn (s : State) (q : Nat) : Bool := (List.range 4).all fun i => !(s.core (4 * q + i)).fenced

def State.slot (s : State) (n : Nat) : CtxSlot := s.ctxs.getD n {}
def State.modSlot (s : State) (n : Nat) (f : CtxSlot → CtxSlot) : State :=
  { s with ctxs := s.ctxs.modify n f }

/-- The slot that holds an active context (R397). -/
def State.slotOf (s : State) (ctx : Nat) : Option Nat :=
  (List.range 16).find? fun n => (s.slot n).act && (s.slot n).ctxid == ctx

/-- The parameters of an active context; all zero when there is none. -/
def State.ctxOf (s : State) (ctx : Nat) : CtxSlot :=
  match s.slotOf ctx with | some n => s.slot n | none => {}

def State.modCtx (s : State) (ctx : Nat) (f : CtxSlot → CtxSlot) : State :=
  match s.slotOf ctx with | some n => s.modSlot n f | none => s

/-- The context has begun to end (R407). -/
def State.ctxEnding (s : State) (ctx : Nat) : Bool := (s.ctxOf ctx).ending.isSome

/-- Fabric cycles since reset: two for each lane cycle (R3). -/
def State.fab (s : State) : Nat := 2 * s.pkg.clk.toNat

/-- Begin to end a context: the first event in fabric-cycle order gives the status, and the lower status breaks a tie
(R407, R408). -/
def State.endCtx (s : State) (ctx status : Nat) : State :=
  s.modCtx ctx fun c => match c.ending with
    | some st => if c.endAt = s.fab ∧ status < st then { c with ending := some status } else c
    | none => { c with ending := some status, endAt := s.fab }

/-- The quad of a core, and the tower of a core (R8, R16). -/
def quadOf (core : Nat) : Nat := core / 4
def towerOf (core : Nat) : Nat := core / 80

/-- Send a message to the driver (port 0) or through a peer port: each direction numbers its messages from 0 (R373,
R375). -/
def State.send (s : State) (port typ ctx tag : Nat) (payload : List Byte) : State :=
  if port = 0 then
    { s with link := { s.link with
        txseq := (s.link.txseq + 1) % 2 ^ 32
        out := s.link.out ++ [⟨0, typ, s.link.txseq, ctx, tag, payload⟩] } }
  else
    let n := sget 0 port s.link.ptx
    { s with link := { s.link with
        ptx := sput 0 port ((n + 1) % 2 ^ 32) s.link.ptx
        out := s.link.out ++ [⟨port, typ, n, ctx, tag, payload⟩] } }

/-! ### Masks (R19 to R21) -/

/-- The lanes below n that satisfy f, as bits. -/
def laneSet (n : Nat) (f : Nat → Bool) : Lanes :=
  BitVec.ofNat 1024 ((List.range n).foldl (fun acc l => if f l then acc + 2 ^ l else acc) 0)

/-- Number of groups of a team (R19). -/
def Team.ngroups (t : Team) : Nat := (t.lanes + 31) / 32

/-- The present lanes (R19). -/
def Team.present (t : Team) : Lanes := BitVec.ofNat 1024 (2 ^ t.lanes - 1)

/-- Lane word of group g (R20). -/
def groupWord (m : Lanes) (g : Nat) : Nat := m.toNat / 2 ^ (32 * g) % 2 ^ 32

/-- Groups whose lane word is non-zero: the passes of a vector instruction, ascending (R21). -/
def Team.passes (t : Team) : List Nat := (List.range t.ngroups).filter fun g => groupWord t.mask g != 0

/-- Lanes of a set, ascending. -/
def Team.lanesIn (t : Team) (m : Lanes) : List Nat := (List.range t.lanes).filter fun l => m.getLsbD l

/-- Group mask of R20: a view of the lane words. -/
def groupMask (m : Lanes) : Nat :=
  (List.range 32).foldl (fun acc g => if groupWord m g != 0 then acc + 2 ^ g else acc) 0

/-! ### Registers and the hazards of R170 -/

/-- Earlier values that a read k lane cycles after the first of this issue may still return, in native mode: those kept by
outstanding attaching instructions, and by results of another clause that may not be available yet (R170). -/
def Team.hazardsAt (t : Team) (k : Nat) : List RegSave :=
  if t.cl.intlk then []
  else t.infl.flatMap (·.saves) ++
    (t.recent.filter fun r => r.clause != t.clno && t.cyc + k < r.ready).map (·.old)

/-- The same of a read in the first cycle. -/
def Team.hazards (t : Team) : List RegSave := t.hazardsAt 0

/-- The same of the pass of group g (R21, R356). -/
def Team.hazardsOf (t : Team) (g : Nat) : List RegSave := t.hazardsAt (sget 0 g t.lag)

/-- The current value, or freely one of the earlier ones (R170). -/
def State.pick {α : Type} (s : State) (key : Nat) (cur : α) (old : List α) : α :=
  match old with
  | [] => cur
  | _ => (cur :: old).getD (s.freeNat key % (old.length + 1)) cur

/-- Earlier values of a scalar register, of a lane of a vector register or of a predicate, of an m register: those of
instructions that write that register, and that lane. -/
def oldS (n : Nat) (l : List RegSave) : List DWord :=
  l.filterMap fun r => match r with | .s k o => if k = n then some o else none | _ => none
def oldV (n lane : Nat) (l : List RegSave) : List Word :=
  l.filterMap fun r => match r with
    | .v k o w => if k = n ∧ w.getLsbD lane then some (sget 0 (1024 * n + lane) o) else none
    | _ => none
def oldP (n lane : Nat) (l : List RegSave) : List Bool :=
  l.filterMap fun r => match r with
    | .p k o w => if k = n ∧ w.getLsbD lane then some (o.getLsbD lane) else none
    | _ => none
def oldM (n : Nat) (l : List RegSave) : List XReg :=
  l.filterMap fun r => match r with | .m k o => if k = n then some o else none | _ => none

/-- Read s_n. -/
def State.rs (s : State) (n : Nat) : DWord := s.pick (fk 1 n) (sget 0 n s.t.s) (oldS n s.t.hazards)

/-- Read v_n in a lane. -/
def State.rv (s : State) (n lane : Nat) : Word :=
  s.pick (fk 2 (1024 * n + lane)) (sget 0 (1024 * n + lane) s.t.v) (oldV n lane (s.t.hazardsOf (lane / 32)))

/-- The stored predicate p_n; p0 is true in every present lane (R20). -/
def Team.pval (t : Team) (n : Nat) : Lanes := if n = 0 then t.present else sget 0 n t.p

/-- Read p_n, each lane independently (R170). -/
def State.rp (s : State) (n : Nat) : Lanes :=
  match s.t.hazards with
  | [] => s.t.pval n
  | _ => laneSet s.t.lanes fun l =>
      s.pick (fk 3 (1024 * n + l)) ((s.t.pval n).getLsbD l) (oldP n l (s.t.hazardsOf (l / 32)))

/-- Read m_n for pass g (R200). -/
def State.rm (s : State) (n g : Nat) : XReg :=
  s.pick (fk 4 (64 * n + g)) (sget {} n s.t.m) (oldM n (s.t.hazardsOf g))

/-- Lanes whose guard is true (R20). -/
def State.guard (s : State) : Lanes :=
  let p := s.rp (mPG s.t.mode)
  if mPGN s.t.mode then ~~~p else p

/-- active(G) of every group: mask, presence and guard (R20). -/
def State.active (s : State) : Lanes := s.t.mask &&& s.t.present &&& s.guard

/-- The active lanes, ascending. -/
def State.actLanes (s : State) : List Nat := s.t.lanesIn s.active

/-- Write s_n. -/
def State.ws (s : State) (n : Nat) (x : DWord) : State := { s with t := { s.t with s := sput 0 n x s.t.s } }

/-- Write v_n in the lanes given. -/
def State.wv (s : State) (n : Nat) (l : List (Nat × Word)) : State :=
  { s with t := { s.t with v := sputs 0 (l.map fun (p : Nat × Word) => (1024 * n + p.1, p.2)) s.t.v } }

/-- Write p_n in the lanes of act, from the lanes of x; p0 is never written (R162). -/
def State.wp (s : State) (n : Nat) (act x : Lanes) : State :=
  if n = 0 then s
  else { s with t := { s.t with p := sput 0 n ((sget 0 n s.t.p &&& ~~~act) ||| (x &&& act)) s.t.p } }

/-- Write m_n. -/
def State.wm (s : State) (n : Nat) (x : XReg) : State := { s with t := { s.t with m := sput {} n x s.t.m } }

/-- A 64-bit value in the pair v_n, v_(n+1) (R114), and one container of ET. -/
def State.rv64 (s : State) (n lane : Nat) : Nat := (s.rv n lane).toNat + 2 ^ 32 * (s.rv (n + 1) lane).toNat
def State.rc (s : State) (et n lane : Nat) : Nat := if etPair et then s.rv64 n lane else (s.rv n lane).toNat

/-- Write one container of ET in each lane given. -/
def State.wc (s : State) (et n : Nat) (l : List (Nat × Nat)) : State :=
  let s1 := s.wv n (l.map fun p => (p.1, BitVec.ofNat 32 p.2))
  if etPair et then s1.wv (n + 1) (l.map fun p => (p.1, BitVec.ofNat 32 (p.2 / 2 ^ 32))) else s1

/-! ### Moving on -/

/-- The clause state between clauses: no header until one is accepted at pc, and the mode of the clause that ended
(R172, R213). -/
def Clause.ended (c : Clause) : Clause := { intlk := c.intlk, ptab := c.ptab }

/-- Go past an instruction of n words: to the next word of the clause, or to the next header after the clause's last
word, with its STALL (R166, R170). -/
def State.adv (s : State) (n : Nat) : State :=
  let t := s.t
  let idx := t.cl.idx + n
  let pc := t.pc + BitVec.ofNat 64 (4 * n)
  if hLEN t.cl.hdr < idx then
    { s with t := { t with
        pc := pc, cl := t.cl.ended, last := pc - 4
        via := t.pc - BitVec.ofNat 64 (4 * t.cl.idx)
        cyc := t.cyc + 1 + (if t.cl.intlk then 0 else hSTALL t.cl.hdr)
        ord := t.ord + 1, wait := .none } }
  else
    { s with t := { t with
        pc := pc, cl := { t.cl with idx := idx, arr := false }, last := pc - 4
        cyc := t.cyc + 1, ord := t.ord + 1, wait := .none } }

/-- Go past the instruction i. -/
def State.done (s : State) (i : Instr) : State := s.adv i.nWords

/-- Address of the clause header, and of the word after the clause (R165, R184). -/
def Team.hdrAddr (t : Team) : DWord := t.pc - BitVec.ofNat 64 (4 * t.cl.idx)
def Team.nextHdr (t : Team) : DWord := t.hdrAddr + BitVec.ofNat 64 (4 * (hLEN t.cl.hdr + 1))

/-- The target of a literal offset from the header (R165). -/
def Team.target (t : Team) (l : Word) : DWord := t.hdrAddr + l.signExtend 64

/-- Transfer control to a header (R167, R204). -/
def State.jump (s : State) (target : DWord) : State :=
  let t := s.t
  { s with t := { t with
      pc := target, cl := t.cl.ended, via := t.pc, last := t.nextHdr - 4
      cyc := t.cyc + 1 + (if t.cl.intlk then 0 else hSTALL t.cl.hdr)
      ord := t.ord + 1, wait := .none } }

/-- Fall through a branch: to the next header (R184). -/
def State.fall (s : State) : State :=
  let h := s.t.hdrAddr
  let s1 := s.jump s.t.nextHdr
  { s1 with t := { s1.t with via := h } }

/-- The team does not issue in this step. -/
def State.hold (s : State) (w : Wait) : State :=
  { s with t := { s.t with wait := w } }

/-! ### Traps (R204 to R217) -/

/-- TCAUSE.HND (R210). -/
def Team.hnd (t : Team) : Bool := t.tcause.toNat / 2 ^ 31 == 1

/-- TLANE of a kind, tile and index (R211). -/
def tlaneWord (kind tile index : Nat) : Word := BitVec.ofNat 32 (kind * 2 ^ 30 + tile % 16 * 2 ^ 10 + index % 1024)

/-- One cause wins over another: lower code, then an instruction cause over a boundary one, then the earlier
instruction (R206). -/
def Dec.beats (a b : Dec) : Bool :=
  if a.cause ≠ b.cause then a.cause < b.cause
  else if a.bnd ≠ b.bnd then !a.bnd
  else a.ord < b.ord

/-- The winner of a decision (R206). -/
def decWinner : List Dec → Option Dec
  | [] => none
  | d :: r => match decWinner r with
    | none => some d
    | some w => some (if w.beats d then w else d)

/-- The instruction cause earliest in program order. -/
def decFirst : List Dec → Option Dec
  | [] => none
  | d :: r => match decFirst r with
    | none => if d.bnd then none else some d
    | some w => some (if !d.bnd && d.ord ≤ w.ord then d else w)

/-- The causes of the decision taken now: those decided, and pending boundary causes unless HND is 1 (R206, R214). -/
def Team.decision (t : Team) : List Dec :=
  t.dec ++ (if t.hnd then [] else t.pendB.map fun d => { d with tepc := t.pc, cl := t.cl })

/-- TSECOND: a bit for every other cause of the decision (R206, R212). The winner is taken out once. -/
def tsecondOf (l : List Dec) (w : Dec) : Word :=
  (l.erase w).foldl (fun acc d => acc ||| (1#32 <<< d.cause)) 0

/-- The CMPCT, waiting for room, that has appended some of its items: it is issued and not complete (R169, R208). -/
def Team.appended (t : Team) : Option Instr := match t.wait with | .cmpct n i => if n = 0 then none else some i | _ => none

/-- The team waits in such a CMPCT. -/
def Team.appending (t : Team) : Bool := t.appended.isSome

/-- Trap entry may be made: every log entry free, every outstanding instruction complete (R214). -/
def Team.quietForTrap (t : Team) : Bool := t.log.isEmpty && t.infl.isEmpty && !t.appending

/-- Take the trap that the decision gives (R206, R214, R217). TEPC, key 0x19A of `taint`, comes from no read; the
handler's fetches observe what happens before the read that gave TVEC, key 0x198, its value (R350). -/
def State.takeTrap (s : State) : State :=
  let t := s.t
  let l := t.decision
  match decWinner l with
  | none => s
  | some w =>
    if t.hnd && !w.bnd then (s.endCtx t.ctx (0x20 + w.cause)).hold .other
    else if t.tvec.toNat % 2 = 0 then (s.endCtx t.ctx w.cause).hold .other
    else
      let at_ := if w.bnd then ((decFirst l).getD w) else w
      { s with t := { t with
          tepc := at_.tepc &&& ~~~(3#64), tlane := w.tlane, tsecond := tsecondOf l w, frec := w.frec
          tmode := t.mode, tclause := at_.cl.toDWord
          tcause := BitVec.ofNat 32 (2 ^ 31 + w.cause)
          mode := 0, pc := t.tvec &&& ~~~(127#64)
          cl := t.cl.ended, via := 0, landing := w.cause, tclno := t.clno
          taint := sput 0 0x19A 0 t.taint, codeAt := max t.codeAt (sget 0 0x198 t.taint)
          dec := [], pendB := if t.hnd then t.pendB else []
          wait := .none } }

/-- Enter a decided trap at once when nothing holds it up; else the team waits for it (R40, R214). -/
def State.tryTrap (s : State) : State :=
  if s.t.quietForTrap then s.takeTrap else s.hold .other

/-- Causes of the instruction at pc are decided (R206). -/
def State.decide (s : State) (ds : List Dec) : State :=
  match ds with
  | [] => s
  | _ => (s.modT fun t => { t with dec := t.dec ++ ds }).tryTrap

/-- A cause of the instruction at pc as a whole, TLANE zero. -/
def State.raise (s : State) (cause : Nat) (frec : DWord) : State :=
  s.decide [⟨cause, 0, frec, s.t.pc, s.t.cl, false, s.t.ord⟩]

/-- The causes of lanes or rows as decisions: one a cause, with its lowest lane (R206, R207). -/
def laneDecs (kind tile : Nat) (cs : List LaneCause) (tepc : DWord) (cl : Clause) (ord : Nat) : List Dec :=
  (List.range 16).filterMap fun c =>
    let l := cs.filter fun x => x.cause == c
    match l.foldl (fun (m : Option LaneCause) x => match m with
        | none => some x | some y => some (if x.lane < y.lane then x else y)) none with
    | none => none
    | some x => some ⟨c, tlaneWord kind tile x.lane, BitVec.ofNat 64 x.frec, tepc, cl, false, ord⟩

/-- Causes of lanes of the instruction at pc. -/
def State.raiseLanes (s : State) (cs : List LaneCause) : State :=
  s.decide (laneDecs 1 0 cs s.t.pc s.t.cl s.t.ord)

/-- Illegal-Instruction, Unsupported-Profile and Illegal-Mode with their FREC (R204). -/
def State.illegal (s : State) (w : Word) : State := s.raise 2 (w.setWidth 64)
def State.unsupported (s : State) (w : Word) (bit : Nat) : State :=
  s.raise 3 (BitVec.ofNat 64 (w.toNat * 2 ^ 32 + bit))
def State.illegalMode (s : State) (w mode : Word) : State :=
  s.raise 4 (BitVec.ofNat 64 (w.toNat * 2 ^ 32 + mode.toNat))

/-- A boundary cause becomes pending in a team (R205, R206). -/
def Team.pend (t : Team) (cause : Nat) (tlane : Word) (frec : DWord) : Team :=
  if t.pendB.any fun d => d.cause == cause then t
  else { t with pendB := t.pendB ++ [⟨cause, tlane, frec, 0, {}, true, t.ord⟩] }

end Sys2Proof.Machine
end

