-- ==== Sys2Proof/Machine/Operands.lean ====
section
/-! DEFINITION. Operand forms: launch-record fields, grants, register ranges, the issue checks of R181, what keeps an
instruction from issuing (R31, R38, R171), and the wrapper that every instruction's meaning uses. -/

namespace Sys2Proof.Machine

/-- Bits [hi:lo] of a number. -/
def bits (x hi lo : Nat) : Nat := x / 2 ^ lo % 2 ^ (hi - lo + 1)

/-! ### Launch record fields (R382, R383) -/
def LaunchRec.addr (r : LaunchRec) : Nat := r.entry.toNat / 128 * 128
def LaunchRec.prio (r : LaunchRec) : Nat := bits r.entry.toNat 5 4
def LaunchRec.l1f (r : LaunchRec) : Bool := bits r.entry.toNat 3 3 == 1
def LaunchRec.lclass (r : LaunchRec) : Nat := bits r.entry.toNat 2 1
def LaunchRec.gang (r : LaunchRec) : Bool := bits r.entry.toNat 0 0 == 1
def LaunchRec.image (r : LaunchRec) : Nat := r.cupimg.toNat / 4096 * 4096
def LaunchRec.qbar (r : LaunchRec) : Nat := bits r.cupimg.toNat 10 7
def LaunchRec.cupSize (r : LaunchRec) : Nat := bits r.cupimg.toNat 6 0 * 4096
def LaunchRec.extX (r : LaunchRec) : Nat := bits r.grid.toNat 31 0 + 1
def LaunchRec.extY (r : LaunchRec) : Nat := bits r.grid.toNat 47 32 + 1
def LaunchRec.extZ (r : LaunchRec) : Nat := bits r.grid.toNat 63 48 + 1
def LaunchRec.nBlocks (r : LaunchRec) : Nat := r.extX * r.extY * r.extZ
def LaunchRec.tiles (r : LaunchRec) : Nat := bits r.shape.toNat 31 27
def LaunchRec.cluster (r : LaunchRec) : Nat :=
  match bits r.shape.toNat 26 25 with | 1 => 2 | 2 => 4 | _ => 0
def LaunchRec.barriers (r : LaunchRec) : Nat := bits r.shape.toNat 24 19
def LaunchRec.regs (r : LaunchRec) : Nat := 8 * (bits r.shape.toNat 18 14 + 1)
def LaunchRec.teams (r : LaunchRec) : Nat := bits r.shape.toNat 13 10 + 1
def LaunchRec.lanes (r : LaunchRec) : Nat := bits r.shape.toNat 9 0 + 1
def LaunchRec.wlcap (r : LaunchRec) : Nat := 64 * bits r.mem.toNat 31 16
def LaunchRec.wlcnt (r : LaunchRec) : Nat := bits r.mem.toNat 15 9
def LaunchRec.scratch (r : LaunchRec) : Nat := 4096 * bits r.mem.toNat 8 0
def LaunchRec.ctx (r : LaunchRec) : Nat := bits r.handctx.toNat 7 0

/-- No block of this record runs on the core: it is fenced, or the record declares tiles and the quad's engine is disabled
(R18). -/
def State.barred (s : State) (core : Nat) (r : LaunchRec) : Bool :=
  (s.core core).fenced || (r.tiles != 0 && !s.engineOn (quadOf core))

/-- The grid and block of the selected team; an empty launch when there is none. -/
def Grid.none : Grid :=
  ⟨0, 0, 0, {}, .none, 0, 0, .held, [], 0, 0, 0, 0, 0, [], false, [], 0, false, [], .none⟩
def State.myGrid (s : State) : Grid := (s.grid? s.t.gid).getD Grid.none
def State.myRec (s : State) : LaunchRec := s.myGrid.lrec
def State.myBlock? (s : State) : Option Block := s.block? s.t.bid

/-- The cluster of a block within its grid, or the block itself when there are no clusters (R29, R280). -/
def clusterOf (r : LaunchRec) (rank : Nat) : Nat :=
  if r.cluster = 0 then rank
  else rank / r.extX * ((r.extX + r.cluster - 1) / r.cluster) + rank % r.extX / r.cluster

/-- Cluster rank of a block (R283). -/
def clusterRank (r : LaunchRec) (rank : Nat) : Nat :=
  if r.cluster = 0 then 0 else rank % r.extX % r.cluster

def State.myRank (s : State) : Nat := match s.myBlock? with | some b => b.rank | none => 0
def State.myCluster (s : State) : Nat := clusterOf s.myRec s.myRank

/-- Barriers that the selected team can name (R27, R29, R36): class 0 k, 1 q, 2 g. -/
def State.barriers (s : State) (cls : Nat) : List Barrier :=
  match cls with
  | 0 => match s.myBlock? with | some b => b.bars | none => []
  | 1 =>
    match (s.quadD (quadOf s.t.core)).qgrants.find? fun g => g.gid == s.t.gid && g.cluster == s.myCluster with
    | some g => g.bars
    | none => []
  | 2 => if s.myRec.gang then s.myGrid.gbars else []
  | _ => []

/-- Physical tiles granted to the team's grid on its quad (R278). -/
def State.myTiles (s : State) : List Nat :=
  match (s.quadD (quadOf s.t.core)).tgrants.find? fun g => g.gid == s.t.gid with
  | some g => g.tiles
  | none => []

/-! ### Crews and B shares (R283, R286) -/

/-- Entries of a CREW value: cluster rank and team index (R283). -/
def crewEntries (c : Word) : List (Nat × Nat) :=
  (List.range (bits c.toNat 27 25)).map fun i =>
    (bits c.toNat (4 * i + 3) (4 * i + 2), bits c.toNat (4 * i + 1) (4 * i))

/-- Number of B-holders, whether there is a drain-sink, number of A-issuers. -/
def crewB (c : Word) : Nat := match bits c.toNat 29 28 with | 0 => 1 | 1 => 2 | _ => 4
def crewSink (c : Word) : Bool := bits c.toNat 24 24 == 1
def crewA (c : Word) : Nat := bits c.toNat 27 25 - crewB c - (crewSink c).toNat

/-- The selected team's place in clusters and crews: cluster rank and team index. -/
def State.myPlace (s : State) : Nat × Nat := (clusterRank s.myRec s.myRank, s.t.idx)

/-- The entry of a CREW value that names the selected team. -/
def State.entryIn (s : State) (c : Word) : Option Nat := (crewEntries c).findIdx? fun e => e == s.myPlace

/-- What identifies the selected team's crew (R280). -/
def State.myKey (s : State) : CrewKey := ⟨s.t.gid, s.myCluster, s.t.crew⟩

def State.myQuad (s : State) : Quad := s.quadD (quadOf s.t.core)

/-- Fields of a matrix literal (R289, R294). -/
def mmM (l : Word) : Nat := bits l.toNat 31 25 + 1
def mmG (l : Word) : Nat := bits l.toNat 28 25 + 1
def mmN (l : Word) : Nat := bits l.toNat 24 18 + 1
def mmK (l : Word) : Nat := bits l.toNat 17 2 + 1
def mmASP (l : Word) : Bool := bits l.toNat 1 1 == 1

/-- The K-group of an element type (R136). -/
def kGroup (et : Nat) : Nat :=
  if et = 8 ∨ et = 16 ∨ et = 17 then 64 else if et = 0 then 4 else if et = 1 then 2
  else if et = 2 ∨ et = 3 then 16 else 32

/-- Bits of an element in a slice: 2 for a CB2 weight (R286). -/
def sliceWidth (et : Nat) : Nat := if et = 17 then 2 else etWidth et

/-- Bytes of a column, of a slice, and registers a slice takes on T lanes (R286). -/
def colBytes (et : Nat) : Nat := kGroup et * sliceWidth et / 8
def sliceBytes (et sf : Nat) : Nat :=
  128 * colBytes et + (if sf = 1 then 128 * kGroup et / 32 else if sf = 2 then 128 else 0)
def sliceRegs (et sf lanes : Nat) : Nat := (sliceBytes et sf + 4 * lanes - 1) / (4 * lanes)

/-- Slices, and those of one B-holder. -/
def nSlices (et k : Nat) : Nat := (k + kGroup et - 1) / kGroup et
def heldSlices (et k b h : Nat) : Nat := (nSlices et k + b - 1 - h) / b

/-- Register offset of group g in a B share (R294). -/
def groupShare (et sf lanes k b g : Nat) : Nat := g * sliceRegs et sf lanes * ((nSlices et k + b - 1) / b)

def MOp.mode (m : MOp) : Word := match m.md with | some x => x.1 | none => 0
/-- The latch that the selected team's arrival goes to: of its own crew, else one of its grid and cluster that lists
it. -/
def State.myLatch (s : State) : Option MOp :=
  let mine := s.myQuad.mops.filter fun m => !m.fired && m.key.gid == s.t.gid && m.key.cluster == s.myCluster
  match mine.find? fun m => m.key.crew == s.t.crew with
  | some m => some m
  | none => mine.find? fun m => (crewEntries m.key.crew).contains s.myPlace

/-- The tile width: a pair under ACC 1 (R279). -/
def accTiles (n acc : Nat) : List Nat := if acc = 1 then [n, n + 1] else [n]

/-- Tiles that a matrix operation names (R279, R294). -/
def matTiles (op d : Nat) (l : Word) (acc : Nat) : List Nat :=
  let w := if acc = 1 then 2 else 1
  (List.range ((if op = 0xF1 then mmG l else 1) * w)).map fun i => d + i

/-- MODE of the operation that a matrix instruction of the selected team belongs to, once entry 0's is known (R287,
R290). -/
def State.matMode (s : State) : Option Word :=
  match s.entryIn s.t.crew with
  | some 0 => some s.t.mode
  | _ => match s.myLatch with | some m => m.md.map (·.1) | none => none

/-- Registers of a B share under an operation's MODE, from register vb on, for B-holder e (R286, R294). -/
def shareSpan (mode crew l : Word) (op lanes vb e : Nat) : List Nat :=
  let et := mET mode
  let n := groupShare et (mSF mode) lanes (mmK l) (crewB crew) (if op = 0xF1 then mmG l - 1 else 0) +
    heldSlices et (mmK l) (crewB crew) e * sliceRegs et (mSF mode) lanes
  (List.range n).map (vb + ·)

/-- Vector registers of the selected team's B share (R286, R288). Until entry 0's MODE is known, every register that
the share may turn out to hold. -/
def State.shareRegs (s : State) (op : Nat) (l : Word) (sb : DWord) : List Nat :=
  match s.entryIn s.t.crew with
  | none => []
  | some e =>
    if crewB s.t.crew ≤ e then []
    else match s.matMode with
      | some k => shareSpan k s.t.crew l op s.t.lanes sb.toNat e
      | none => (List.range (s.t.vregs - sb.toNat)).map (sb.toNat + ·)

/-! ### Registers an instruction names -/

/-- A register of the team. -/
inductive RegRef where
  | s (n : Nat)
  | v (n : Nat)
  | p (n : Nat)
  | m (n : Nat)
  deriving DecidableEq, Repr

/-- Element type and scale format of the image that a drain writes: width, and whether MX (R297). -/
def imageRegs (et sf lanes cnt : Nat) : Nat :=
  let row := 128 / etCount et * etBytes et + (if sf = 1 then 4 else 0)
  (row * cnt + 4 * lanes - 1) / (4 * lanes)

/-- The instruction's class takes its V operands as register pairs under a 64-bit ET (R218, R219). -/
def usesET (op b : Nat) : Bool :=
  (0x30 ≤ op && op ≤ 0x39) || (0x3E ≤ op && op ≤ 0x45) || (op == 0x46 && b != 1) ||
  (0x47 ≤ op && op ≤ 0x4A) || (0x58 ≤ op && op ≤ 0x75) || op == 0x88 || op == 0x9B || op == 0x9C ||
  (0xA8 ≤ op && op ≤ 0xB3 && op != 0xAD && op != 0xAE) || (0xB9 ≤ op && op ≤ 0xBD)

/-- The ET values an instruction accepts; none where it ignores ET (R219, R255). -/
def etAccepts (op b : Nat) : Option (List Nat) :=
  if (0x30 ≤ op && op ≤ 0x39) || (0x3E ≤ op && op ≤ 0x45) || (op == 0x46 && b != 1) then
    some [9, 10, 11, 12, 13, 14, 15]
  else if 0x47 ≤ op && op ≤ 0x4A then some [13, 14, 15]
  else if op == 0x54 then some [9, 10]
  else if (0x66 ≤ op && op ≤ 0x69) then some [0, 2, 3]
  else if 0x6A ≤ op && op ≤ 0x6E then some [0, 1]
  else if op == 0x76 then some [2, 3]
  else if 0x58 ≤ op && op ≤ 0x75 then some [0, 1, 2, 3]
  else if op == 0x88 then some [0, 1, 2, 3, 4, 5, 6, 7, 8, 9, 10, 11, 12, 13, 14, 15, 16]
  else if op == 0x89 || op == 0x8A then some [4, 5, 6, 7, 8]
  else if op == 0x8C || op == 0x8D then some [2, 3, 4, 5, 6, 7, 8, 9, 10, 11, 12, 16, 17]
  else if op == 0x9B || op == 0x9C then
    some (if b % 8 ≤ 2 then [0, 1, 2, 3, 9, 10, 11, 12, 13, 14, 15] else [9, 10, 11, 12, 13, 14, 15])
  else if op == 0x9F || op == 0xA0 then some [0]
  else if 0xB9 ≤ op && op ≤ 0xBE then some [0, 1, 13, 14, 15]
  else none

/-- The instruction's V operands are register pairs: its class takes ET, and accepts the 64-bit type of MODE (R114,
R218, R219). An instruction that does not accept the type raises Illegal-Mode by R219, and its V fields name single
registers (log 76). -/
def isPair (mode : Word) (r : Raw) : Bool :=
  etPair (mET mode) && usesET r.op r.b &&
    (match etAccepts r.op r.b with | some l => l.contains (mET mode) | none => true)

/-- An earlier value of this register. -/
def RegSave.isOf (x : RegSave) (r : RegRef) : Bool :=
  match x, r with
  | .s n _, .s k => n == k
  | .v n _ _, .v k => n == k
  | .p n _ _, .p k => n == k
  | .m n _, .m k => n == k
  | _, _ => false

/-- How many vector registers the d, a and b fields name. -/
def dSpan (mode : Word) (lanes : Nat) (r : Raw) (sb : DWord) : Nat :=
  let pr := if isPair mode r then 2 else 1
  match r.op with
  | 0x4D => 1 + r.b % 2
  | 0x88 => if etPair r.b then 2 else 1
  | 0x8B => 8
  | 0x9F => 4
  | 0xA0 => 8
  | 0xBB => 2 * pr
  | 0xE4 => 2
  | 0xF5 => imageRegs (mET mode) (mSF mode) lanes (bits sb.toNat 13 7 + 1)
  | _ => pr
def aSpan (mode : Word) (r : Raw) : Nat :=
  let pr := if isPair mode r then 2 else 1
  match r.op with
  | 0x9A => 4
  | 0x9F => 4
  | 0xA0 => 8
  | 0xE3 => 2
  | op => if op < 0xA8 then pr else 1
def bSpan (mode : Word) (r : Raw) : Nat :=
  let pr := if isPair mode r then 2 else 1
  match r.op with
  | 0x73 => 1
  | _ => pr

/-- The registers n, n + 1, … of a class. -/
def spanRefs (c : FieldClass) (n k : Nat) : List RegRef :=
  match c with
  | .s => [.s n]
  | .v => (List.range k).map fun i => .v (n + i)
  | .p => if n = 0 then [] else [.p n]
  | .pd => if n = 0 then [] else [.p n]
  | .m => [.m n]
  | .ms _ _ => [.m (n % 8)]
  | _ => []

/-- The d field is a source and nothing else: stores, reductions, and the s_d of the drains to memory. -/
def dIsSource (op : Nat) : Bool :=
  [0xA9, 0xAC, 0xAE, 0xB0, 0xB2, 0xBA, 0xBD, 0xF6, 0xF7, 0xF8].contains op

/-- The d field is read as well as written (R218, R257). -/
def dIsBoth (op : Nat) : Bool :=
  [0x34, 0x53, 0x54, 0x5B, 0x5C, 0x5D, 0x76, 0x8C, 0xB9, 0xBC, 0xBE].contains op

/-- The instruction is executed lane by lane under the guard (R21, R22). -/
def laneWise (op : Nat) : Bool :=
  (0x30 ≤ op && op ≤ 0xA1) || (0xA8 ≤ op && op ≤ 0xAC) || (0xAF ≤ op && op ≤ 0xB3) ||
  (0xB9 ≤ op && op ≤ 0xBD) || op == 0xBF || op == 0xE3 || op == 0xE4

/-- The instruction reads lanes other than the one it writes (R218). -/
def crossLane (op : Nat) : Bool :=
  op == 0x98 || op == 0x99 || op == 0x9B || op == 0x9C || op == 0x2C

/-- Registers read and registers written (R31, R171). -/
def State.regsOf (s : State) (i : Instr) : List RegRef × List RegRef :=
  match i.raw with
  | none => ([], [])
  | some r =>
    match formOf r.op with
    | none => ([], [])
    | some f =>
      let mode := s.t.mode
      let ds := spanRefs f.d r.d (dSpan mode s.t.lanes r (sget 0 r.b s.t.s))
      let as := spanRefs f.a r.a (aSpan mode r)
      let bs := spanRefs f.b r.b (bSpan mode r)
      let extra : List RegRef := if r.op == 0xE0 || r.op == 0xE1 then [.s (r.a + 1)] else []
      let gd : List RegRef := if laneWise r.op && mPG mode != 0 then [.p (mPG mode)] else []
      let vb := (sget 0 r.b s.t.s).toNat
      let share : List RegRef :=
        if 0xEF ≤ r.op && r.op ≤ 0xF2 then (s.shareRegs r.op (r.lits.headD 0) (sget 0 r.b s.t.s)).map .v else []
      if r.op == 0x0C then (as, as)
      else if r.op == 0xF5 && bits vb 14 14 == 1 then (as ++ bs, ds ++ [.v (bits vb 23 16)])
      else if r.op == 0x89 then (as ++ gd, ds ++ bs)
      else if r.op == 0xBB then (ds ++ as ++ bs ++ gd, ds.take (ds.length / 2))
      else if dIsSource r.op then (ds ++ as ++ bs ++ extra ++ gd, [])
      else ((if dIsBoth r.op then ds else []) ++ as ++ bs ++ extra ++ gd ++ share, ds)

/-! ### Issue checks (R162, R181) -/

/-- What an issue check finds. -/
inductive Chk where
  | ill
  | prof (bit : Nat)
  | mode
  deriving DecidableEq, Repr

/-- Register ranges lie below V, and named tiles and barriers are granted (R162). -/
def State.rangesOk (s : State) (r : Raw) (f : Form) : Bool :=
  let v := s.t.vregs
  let okV (c : FieldClass) (n k : Nat) : Bool := c != .v || n + k ≤ v
  let okT (c : FieldClass) (n : Nat) : Bool := (c != .t && c != .e) || n < s.myTiles.length
  let okB (c : FieldClass) (n : Nat) : Bool :=
    match c with
    | .k => n < (s.barriers 0).length
    | .q => n < (s.barriers 1).length
    | .g => n < (s.barriers 2).length
    | .bar => n % 64 < (s.barriers (n / 64)).length
    | _ => true
  okV f.d r.d (dSpan s.t.mode s.t.lanes r (s.rs r.b)) && okV f.a r.a (aSpan s.t.mode r) &&
    okV f.b r.b (bSpan s.t.mode r) &&
    okT f.d r.d && okT f.a r.a && okB f.a r.a && okB f.b r.b

/-- Register alignment and field rules that an instruction states for itself (R114, R218, R225, R236, R239, R241,
R244, R257, R270, R276, R277). -/
def alignOk (mode : Word) (r : Raw) : Bool :=
  let pair := isPair mode r
  let ev (n : Nat) : Bool := n % 2 == 0
  match r.op with
  | 0x4D => r.b % 2 == 0 || ev r.d
  | 0x73 => !pair || (ev r.d && ev r.a)
  | 0x88 => (!pair || ev r.a) && (!etPair r.b || ev r.d)
  | 0x89 => r.d != r.b
  | 0x8B => r.d % 8 == 0
  | 0x9A => r.a % 4 == 0
  | 0x9F => r.d % 4 == 0 && r.a % 4 == 0
  | 0xA0 => r.d % 8 == 0 && r.a % 8 == 0
  | 0xBB => if pair then r.d % 4 == 0 else ev r.d
  | 0xE0 => ev r.a
  | 0xE1 => ev r.a
  | 0xE3 => ev r.a
  | 0xE4 => ev r.d
  | op =>
    if !pair then true
    else if 0xA8 ≤ op then ev r.d
    else if (0x47 ≤ op && op ≤ 0x4A) || (0x6A ≤ op && op ≤ 0x6E) then ev r.a && ev r.b
    else if op == 0x9C then ev r.a
    else if op == 0x9B || (0x42 ≤ op && op ≤ 0x46) || op == 0x5F || (0x62 ≤ op && op ≤ 0x69) ||
        (0x6F ≤ op && op ≤ 0x71) || op == 0x74 then ev r.d && ev r.a
    else ev r.d && ev r.a && ev r.b

/-- Literal words are well formed (R227, R254, R266, R289). -/
def litOk (r : Raw) : Bool :=
  let l := (r.lits.headD 0).toNat
  match r.op with
  | 0x52 => let len := bits l 13 8; l / 2 ^ 17 == 0 && bits l 15 14 == 0 && bits l 7 5 == 0 &&
      1 ≤ len && len ≤ 32 && bits l 4 0 + len ≤ 32
  | 0x53 => let len := bits l 13 8; l / 2 ^ 16 == 0 && bits l 15 14 == 0 && bits l 7 5 == 0 &&
      1 ≤ len && len ≤ 32 && bits l 4 0 + len ≤ 32
  | 0xE0 => bits l 18 12 == 0 && bits l 26 25 != 3 && (bits l 27 27 == 1 || bits l 26 20 == 0)
  | 0xE1 => bits l 18 12 == 0 && bits l 26 25 != 3 && (bits l 27 27 == 1 || bits l 26 20 == 0)
  | 0xE2 => bits l 18 12 == 0 && bits l 26 25 != 3 && (bits l 27 27 == 1 || bits l 26 20 == 0) &&
      bits l 31 28 == 0
  | 0xEF => l % 2 == 0
  | 0xF0 => l % 2 == 0
  | 0xF1 => l % 2 == 0 && l / 2 ^ 29 == 0
  | 0xF2 => l % 2 == 0
  | op =>
    if 0xB9 ≤ op && op ≤ 0xBE then
      let ord := bits l 15 13
      let opn := bits l 7 4
      l / 2 ^ 16 == 0 && bits l 9 8 == 0 && bits l 3 0 == 0 && ord ≤ 3 && bits l 12 10 ≤ 4 &&
      ((op != 0xBA && op != 0xBD) || (ord != 1 && ord != 3)) &&
      ((op != 0xBC && op != 0xBD) || bits l 12 10 ≤ 1) &&
      (if op == 0xBB then opn == 7 else if op == 0xBA || op == 0xBD then opn ≤ 5 else opn ≤ 6)
    else true

/-- The barrier that an ARR literal names is granted (R266). -/
def State.arrOk (s : State) (r : Raw) : Bool :=
  let l := (r.lits.headD 0).toNat
  if (r.op == 0xE0 || r.op == 0xE1 || r.op == 0xE2) && bits l 27 27 == 1 then
    bits l 24 20 < (s.barriers (bits l 26 25)).length
  else true

/-- MODE and profile checks of the classes of R219 and of the atomics (R12, R255). Where the profile lacks both types of CVT
(R235), FREC has the bit of the source type (log 87, DESIGN CHOICE). -/
def State.modeChk (s : State) (r : Raw) : Option Chk :=
  let et := mET s.t.mode
  let h := s.pkg.profH
  match etAccepts r.op r.b with
  | none => if r.op == 0x8B && h then some (.prof 7) else none
  | some l =>
    let moves := r.op == 0x8C || r.op == 0x8D ||
      (0xB9 ≤ r.op && r.op ≤ 0xBE && 3 ≤ bits (r.lits.headD 0).toNat 7 4)
    if !moves && !etOn h et then some (.prof (etCapBit et))
    else if r.op == 0x88 && !etOn h r.b then some (.prof (etCapBit r.b))
    else if !l.contains et then some .mode
    else if r.op == 0x88 && r.b == 17 then some .mode
    else if (r.op == 0x89 || r.op == 0x8A) && mSF s.t.mode != 1 then some .mode
    else if r.op == 0x8D && etCount et ≤ r.b then some .mode
    else if 0xB9 ≤ r.op && r.op ≤ 0xBE && mRND s.t.mode == 5 && (et == 0 || et == 1) &&
        bits (r.lits.headD 0).toNat 7 4 == 0 then some .mode
    else none

/-- The checks of R181 items 2 to 4 that need no further reading of operands. -/
def State.checks (s : State) (i : Instr) : Option Chk :=
  if !i.wf then some .ill
  else match i.raw with
    | none => none
    | some r =>
      match formOf r.op with
      | none => some .ill
      | some f =>
        if !(s.rangesOk r f && alignOk s.t.mode r && litOk r && s.arrOk r) then some .ill
        else s.modeChk r

/-- Raise what a check found (R204). -/
def State.chkRaise (s : State) (i : Instr) : Chk → State
  | .ill => s.illegal i.word
  | .prof b => s.unsupported i.word b
  | .mode => s.illegalMode i.word s.t.mode

/-! ### What keeps an instruction from issuing (R31, R38, R171) -/

/-- Lanes or rows of a log entry not yet done. -/
def LogEntry.todoLanes (e : LogEntry) : List Nat :=
  match e.kind with
  | .lanes _ l => l.map (·.lane)
  | .redo _ => [0]
  | .rows _ l => l

/-- Registers pending on the scoreboard because of a log entry, with the groups concerned: those that had a lane not done
when the entry was made, until it frees (R37, R39, R259). -/
def LogEntry.pending (e : LogEntry) : List (RegRef × Option Nat) :=
  match e.kind with
  | .lanes op _ =>
    match op.dst with
    | .none => []
    | .s n => [(.s n, none)]
    | .v n => e.grps.flatMap fun g => (RegRef.v n, some g) :: (if etPair op.et then [(.v (n + 1), some g)] else [])
  | .redo _ => match e.instr.raw with
    | some r => if r.op == 0x28 || (0xE0 ≤ r.op && r.op ≤ 0xE2) then [(.s r.d, none)] else []
    | none => []
  | .rows _ _ => []

/-- Slot cycles of one pass that no operand decides (R220). -/
def slotCycles (op : Nat) : Nat :=
  if op == 0x35 || op == 0x36 || op == 0x5E || op == 0x5F || (0x64 ≤ op && op ≤ 0x69) || op == 0x8B then 4 else 1

/-- Active lanes of group g. -/
def State.actIn (s : State) (g : Nat) : List Nat := s.actLanes.filter fun l => l / 32 == g

/-- Groups that hold the present source lanes of a pass of SHFL (R220). -/
def State.shflGroups (s : State) (r : Raw) (g : Nat) : Nat :=
  ((((s.actIn g).map fun l => (s.rv r.b l).toNat).filter fun n => n < s.t.lanes).map fun n => n / 32).dedup.length

/-- Cupboard rows that a pass of LMV4 or LMV8 reads: k rows of 64 bytes a lane (R61, R244). -/
def State.lmvRows (s : State) (r : Raw) (g k : Nat) : Nat :=
  ((s.actIn g).flatMap fun l => (List.range k).map fun i => (s.rv r.b l).toNat / 64 + i).dedup.length

/-- Cycles that pass g holds its slot: longer for FP64 and INT64 operands on profile N, doubled on a half-width core
(R13, R17, R220). -/
def State.passCycles (s : State) (r : Raw) (g : Nat) : Nat :=
  let base := match r.op with
    | 0x98 => max 1 (s.shflGroups r g)
    | 0x9F => max 1 (s.lmvRows r g 1)
    | 0xA0 => max 4 (s.lmvRows r g 4)
    | op => slotCycles op
  let wide := r.op < 0xA8 && (isPair s.t.mode r || (r.op == 0x88 && etPair r.b))
  base * (if wide && !s.pkg.profH then 8 else 1) * (if (s.core s.t.core).half then 2 else 1)

/-- When the passes of an instruction read, in lane cycles after its first: each pass follows those before it (R21, R32,
R356). -/
def State.lagOf (s : State) (i : Instr) : SMap Nat :=
  match i.raw with
  | some r =>
    if laneWise r.op && !crossLane r.op then
      (s.t.passes.foldl (fun (p : SMap Nat × Nat) g => (sput 0 g p.2 p.1, p.2 + s.passCycles r g)) ([], 0)).1
    else []
  | none => []

/-- Results of the same clause, and in interlocked mode every result, are waited for (R170, R171); the passes then read one
after another (R356). -/
def State.awaitRecent (s : State) (i : Instr) : State :=
  match s.t.recent with
  | [] => s
  | l =>
    let (rd, wr) := s.regsOf i
    let hit (x : Recent) : Bool := (x.clause == s.t.clno || s.t.cl.intlk) &&
      (rd ++ wr).any x.old.isOf
    let s1 : State := { s with t := { s.t with cyc := (l.filter hit).foldl (fun c x => max c x.ready) s.t.cyc, lag := [] } }
    s1.modT fun t => { t with lag := s1.lagOf i }

/-- The lane that SGETV reads, by the value of s_b that it will read (R170, R199). -/
def State.sgetvLane (s : State) (i : Instr) (b : Nat) : Nat := ((s.awaitRecent i).rs b).toNat

/-- Groups in which the instruction uses the registers it names: every group when it reads across lanes (R31, R218),
and that of its lane for SGETV (R199). -/
def State.groupsUsed (s : State) (i : Instr) : List Nat :=
  match i.raw with
  | some r =>
    if r.op == 0x2C then (if s.sgetvLane i r.b < s.t.lanes then [s.sgetvLane i r.b / 32] else [])
    else if crossLane r.op || !laneWise r.op then List.range s.t.ngroups
    else s.t.passes
  | none => List.range s.t.ngroups

/-- A register the instruction names is pending in a group it uses (R31, R218). -/
def State.touchesPending (s : State) (i : Instr) : Bool :=
  let (rd, wr) := s.regsOf i
  let regs := rd ++ wr
  let gs := s.groupsUsed i
  s.t.log.any fun e => e.pending.any fun p =>
    regs.contains p.1 && (match p.2 with | none => true | some g => gs.contains g)

/-- A release, a fence, a barrier arrival, or one of the instructions that R38 names. -/
def stopsAtLog (i : Instr) (arr : Bool) : Bool :=
  match i.raw with
  | none => false
  | some r =>
    let ord := bits (r.lits.headD 0).toNat 15 13
    match r.op with
    | 0xAC => true
    | 0xB5 => true
    | 0xD0 => true | 0xD3 => true | 0xD6 => true
    | 0xD2 => !arr | 0xD5 => !arr | 0xD8 => !arr
    | 0xE0 => true | 0xE1 => true | 0xE2 => true
    | 0x07 => true | 0x0D => true | 0x28 => true
    | 0xB6 => true | 0xB7 => true | 0xB8 => true
    | 0xF7 => true
    | op => 0xB9 ≤ op && op ≤ 0xBE && 2 ≤ ord

/-- One of the kinds that R38 names that is a release as well, at any scope (R91). -/
def isRelease (i : Instr) (arr : Bool) : Bool :=
  stopsAtLog i arr && (match i.raw with | some r => r.op != 0x07 && r.op != 0xB8 | none => false)

/-- An instruction that accesses memory, which waits while an earlier acquire is not done (R92, R104, R108): loads,
stores, atomics, seals, engine operations, list instructions, matrix instructions, MLD and the drains to memory. -/
def isMemory (i : Instr) : Bool :=
  match i.raw with
  | none => false
  | some r => (0xA8 ≤ r.op && r.op ≤ 0xB4) || (0xB6 ≤ r.op && r.op ≤ 0xBF) || (0xE0 ≤ r.op && r.op ≤ 0xE4) ||
      r.op == 0x28 || (0xEF ≤ r.op && r.op ≤ 0xF2) || r.op == 0xF4 || r.op == 0xF6 || r.op == 0xF7

def isAcquire (i : Instr) : Bool :=
  match i.raw with
  | none => false
  | some r => r.op == 0xAB || (0xB9 ≤ r.op && r.op ≤ 0xBE && bits (r.lits.headD 0).toNat 15 13 % 2 == 1)

/-- The instruction accesses the scratchpad (R171): scratchpad forms, a drain to it, a matrix form with A there. -/
def usesScratch (i : Instr) : Bool :=
  match i.raw with
  | none => false
  | some r => (0xAF ≤ r.op && r.op ≤ 0xB2) || r.op == 0xBC || r.op == 0xBD || r.op == 0xF6 ||
      (0xEF ≤ r.op && r.op ≤ 0xF2 && mmASP (r.lits.headD 0))

/-- Tiles and bound registers that an instruction names (R171, R279); those of a matrix instruction by its operation's MODE,
and every tile that it may turn out to name while entry 0's is not known (R176, R287). -/
def State.tilesOf (s : State) (i : Instr) : List Nat :=
  match i.raw with
  | none => []
  | some r =>
    let acc := mACC s.t.mode
    let accM := match s.matMode with | some m => mACC m | none => 1
    match r.op with
    | 0xEF => matTiles r.op r.d (r.lits.headD 0) accM
    | 0xF0 => matTiles r.op r.d (r.lits.headD 0) accM
    | 0xF1 => matTiles r.op r.d (r.lits.headD 0) accM
    | 0xF2 => matTiles r.op r.d (r.lits.headD 0) accM
    | 0xF3 => accTiles r.d acc
    | 0xF4 => accTiles r.d acc
    | 0xF5 => accTiles r.a acc
    | 0xF6 => accTiles r.a acc
    | 0xF7 => accTiles r.a acc
    | 0xF8 => accTiles r.a acc
    | 0xF9 => [r.a]
    | 0xFA => [r.a]
    | 0xFB => r.d :: accTiles r.a acc
    | _ => []

/-- A register named by an outstanding instruction as destination, or by an incomplete store as source (R171). -/
def Infl.names (f : Infl) (r : RegRef) : Bool :=
  (f.saves.any fun x => x.isOf r) ||
  (match r with
    | .s k => f.srcS.contains k
    | .v k => f.srcV.contains k
    | _ => false)

/-- In interlocked mode, an earlier outstanding instruction holds the next one back (R171). -/
def State.interlocked (s : State) (i : Instr) : Bool :=
  s.t.cl.intlk &&
    (let (rd, wr) := s.regsOf i
     let ts := s.tilesOf i
     s.t.infl.any fun f => (rd ++ wr).any f.names || (usesScratch i && f.drain) || ts.any f.tiles.contains)

/-- R38 stops the team at i. -/
def State.stopped (s : State) (i : Instr) : Bool :=
  !s.t.log.isEmpty && (s.touchesPending i || stopsAtLog i s.t.cl.arr)

/-- An acquire of the team is not done: one that is parked, waits for its reply, or is a waiting UNSEAL (R92, R104,
R108). -/
def State.acquiring (s : State) : Bool :=
  (s.t.log.any fun e => isAcquire e.instr) || (s.link.reqs.any fun r => r.tid == s.t.tid && r.op.acq) ||
  s.t.infl.any fun f => match f.on with | .unseal .. => true | _ => false

/-- A CPYT, MERGE or MDRM of the team is parked on its record: its destination is not known yet, and the team's later accesses
follow its grants there (R98, log 13). -/
def State.destUnknown (s : State) : Bool :=
  s.t.log.any fun e => (match e.kind with | .redo _ => true | _ => false) &&
    (match e.instr.raw with | some r => r.op == 0xE1 || r.op == 0xE2 || r.op == 0xF7 | none => false)

/-- What keeps the team from issuing i now, whatever the instruction itself waits for: held by R38, or waiting for one
of the conditions of R31, R40, R108, R169 and R171. A CMPCT that has appended some of its items has issued, and only goes
on (R169, R208). -/
def State.blocked (s : State) (i : Instr) : Option Wait :=
  if s.ctxEnding s.t.ctx then some .other
  else if s.t.appending then none
  else if !s.t.dec.isEmpty then some .other
  else if (isMemory i && (s.acquiring || s.destUnknown)) || s.interlocked i ||
      (i.attaches && (match s.t.nextFlag with | some f => 63 ≤ s.t.flagCount f | none => false)) then some .other
  else if s.stopped i then some .held
  else none

/-! ### Issue -/

/-- Cycles after which a non-attaching result is available: L of R357. -/
def latencyOf (op : Nat) : Nat :=
  if op == 0x01 || op == 0x26 then 0
  else if op == 0x12 || op == 0x13 then 4
  else if op == 0x14 || op == 0x15 then 12
  else if op == 0x2C then 6
  else if op ≤ 0x2B then 2
  else if op == 0x32 || op == 0x33 || op == 0x34 || op == 0x54 then 10
  else if op == 0x35 || op == 0x36 then 20
  else if op ≤ 0x53 then 8
  else if op == 0x5E || op == 0x5F || (0x64 ≤ op && op ≤ 0x69) then 24
  else if op ≤ 0x76 then 10
  else if op == 0x89 then 12
  else if op == 0x8B then 16
  else if op == 0x8C || op == 0x8D || op == 0x9A || op == 0x9D || op == 0x9E || op == 0xA1 then 8
  else if op == 0x88 || op == 0x8A then 10
  else if op == 0x98 || op == 0x99 || op == 0x9B || op == 0x9C || op == 0xE4 then 12
  else if op == 0xEC then 4
  else 2

/-- Cycles of an instruction after its first (R21, R220). -/
def State.extraCycles (s : State) (r : Raw) : Nat :=
  if laneWise r.op then max 1 (s.t.passes.foldl (fun c g => c + s.passCycles r g) 0) - 1 else 0

/-- The value a register holds now, and the lanes of it that are written. -/
def Team.save (t : Team) (lanes : Lanes) : RegRef → RegSave
  | .s n => .s n (sget 0 n t.s)
  | .v n => .v n (sfrom (1024 * n) (1024 * n + 1024) t.v) lanes
  | .p n => .p n (sget 0 n t.p) lanes
  | .m n => .m n (sget {} n t.m)

/-- The lanes of its destinations that an instruction writes: the active ones (CVTMX every present lane of their groups,
R236), or every present lane (R21, R22). -/
def State.writtenLanes (s : State) (r : Raw) : Lanes :=
  if r.op == 0x89 then
    let gs := (s.actLanes.map fun l => l / 32).dedup
    laneSet s.t.lanes fun l => gs.contains (l / 32)
  else if laneWise r.op then s.active else s.t.present

/-! ### A write that overtakes another (R170) -/

/-- The access delivers to this register, alone or as the pair's second (R114). -/
def MemOp.hits (op : MemOp) : RegRef → Bool
  | .v b => match op.dst with | .v a => a == b || (etPair op.et && a + 1 == b) | _ => false
  | .s b => op.dst == .s b
  | _ => false

/-- A value for this register and lane is still to come: a reply, or that of a waiting UNSEAL. -/
def State.dueLater (s : State) (w : RegRef) (lane : Nat) : Bool :=
  (s.link.reqs.any fun r => r.tid == s.t.tid && r.op.hits w && r.acc.lane == lane) ||
  (s.t.infl.any fun f => match f.on with | .unseal _ _ d => w == .s d | _ => false) ||
  (match w with
   | .v n => s.quads.any fun q => q.port.any fun p =>
       p.tid == s.t.tid && p.regs.contains n && !p.skip.contains (1024 * n + lane)
   | _ => false)

/-- Earlier writes that a write available after cycle `ready` overtakes: those of outstanding attaching instructions,
and results of other clauses available later. -/
def Team.overtaken (t : Team) (ready : Nat) : List RegSave :=
  if t.cl.intlk then []
  else t.infl.flatMap (·.saves) ++
    (t.recent.filter fun x => x.clause != t.clno && ready < x.ready).map (·.old)

/-- The lanes of w in which the earlier write stands: freely, lane by lane, where the write overtakes one (R170). s is
the state before the instruction. -/
def State.standing (s : State) (hz : List RegSave) (w : RegRef) (lanes : Lanes) : Lanes :=
  match hz with
  | [] => 0
  | _ =>
    match w with
    | .s n => if !(oldS n hz).isEmpty && !s.dueLater w 0 && s.freeBool (fk 6 n) then 1 else 0
    | .v n => laneSet s.t.lanes fun l =>
        lanes.getLsbD l && !(oldV n l hz).isEmpty && !s.dueLater w l && s.freeBool (fk 7 (1024 * n + l))
    | .p n => laneSet s.t.lanes fun l => lanes.getLsbD l && !(oldP n l hz).isEmpty && s.freeBool (fk 8 (1024 * n + l))
    | .m n => if !(oldM n hz).isEmpty && s.freeBool (fk 9 n) then 1 else 0

/-- What an earlier value of register w keeps of itself outside the lanes given, and in them. -/
def RegSave.outside (w : RegRef) (lanes : Lanes) : RegSave → Option RegSave
  | .s n o => if w = .s n then none else some (.s n o)
  | .v n o l => if w = .v n then (if l &&& ~~~lanes = 0 then none else some (.v n o (l &&& ~~~lanes))) else some (.v n o l)
  | .p n o l => if w = .p n then (if l &&& ~~~lanes = 0 then none else some (.p n o (l &&& ~~~lanes))) else some (.p n o l)
  | .m n o => if w = .m n then none else some (.m n o)
def RegSave.inside (w : RegRef) (lanes : Lanes) : RegSave → Option RegSave
  | .s n o => if w = .s n then some (.s n o) else none
  | .v n o l => if w = .v n ∧ l &&& lanes ≠ 0 then some (.v n o (l &&& lanes)) else none
  | .p n o l => if w = .p n ∧ l &&& lanes ≠ 0 then some (.p n o (l &&& lanes)) else none
  | .m n o => if w = .m n then some (.m n o) else none

/-- Once a write of these registers and lanes is available, no read returns what they held before the writes that it
overtakes (R170): those earlier values no longer go with the overtaken results. -/
def Team.supersede (t : Team) (ready : Nat) (lanes : Lanes) (ws : List RegRef) : Team :=
  let out (x : RegSave) : Option RegSave := ws.foldl (fun o w => o.bind (RegSave.outside w lanes)) (some x)
  { t with
    infl := t.infl.map fun f => { f with saves := f.saves.filterMap out }
    recent := t.recent.filterMap fun x =>
      if x.clause != t.clno && ready < x.ready then (out x.old).map fun o => { x with old := o } else some x }

/-- Put back what register w held before, in the lanes kept. -/
def Team.putBack (t old : Team) (kept : Lanes) : RegRef → Team
  | .s n => if kept = 0 then t else { t with s := sput 0 n (sget 0 n old.s) t.s }
  | .v n => { t with v := sputs 0 ((t.lanesIn kept).map fun l => (1024 * n + l, sget 0 (1024 * n + l) old.v)) t.v }
  | .p n => if kept = 0 then t
      else { t with p := sput 0 n ((sget 0 n t.p &&& ~~~kept) ||| (sget 0 n old.p &&& kept)) t.p }
  | .m n => if kept = 0 then t else { t with m := sput {} n (sget {} n old.m) t.m }

/-- What the register holds in the lanes kept, as one more value that a read may return. -/
def Team.also (t : Team) (kept : Lanes) (w : RegRef) : List RegSave := if kept = 0 then [] else [t.save kept w]

/-- One written register: where the earlier write stands, the new value may still be read until that write is done. -/
def State.overtake (s : State) (hz : List RegSave) (lanes : Lanes) (t : Team) (w : RegRef) : Team :=
  let kept := s.standing hz w lanes
  if kept = 0 then t
  else
    let x := t.also kept w
    let old := s.t.infl.map (·.u)
    let last := s.t.recent.foldl (fun c r => max c r.ready) 0
    { t.putBack s.t kept w with
      infl := t.infl.map fun f => if old.contains f.u then { f with saves := f.saves ++ x } else f
      recent := t.recent ++ x.map fun y => ⟨y, last, s.t.clno⟩ }

/-- Bytes that a store has taken from a register now overwritten: freely, lane by lane, the store takes the new value
instead (R170). t is the team with the new values. -/
def State.storeLater (s : State) (t : Team) (lanes : Lanes) (ws : List RegRef) : State :=
  (s.t.infl.flatMap fun f => f.late.map fun e => (f.u, e)).foldl (fun s x =>
    let e := x.2
    let hit : Option Nat := match e.lane with
      | none => if ws.contains (.s e.reg) then some (sget 0 e.reg t.s).toNat else none
      | some l => if ws.contains (.v e.reg) && lanes.getLsbD l then some (sget 0 (1024 * e.reg + l) t.v).toNat else none
    match hit with
    | none => s
    | some v =>
      if s.freeBool (fk 5 (2048 * x.1 + (e.lane.getD 1024))) then
        let b : Byte := BitVec.ofNat 8 (v / 256 ^ e.off)
        match e.blk with
        | none => s.putBytes e.addr [b]
        | some k => s.modBlock k fun k => { k with scratch := sput 0 e.addr b k.scratch }
      else s) s

/-- Values still to come for a register now overwritten: freely, lane by lane, they are dropped (R170). New requests of
the same instruction are dropped where the earlier write stands. -/
def State.dropLater (s : State) (uid : Nat) (lanes : Lanes) (ws : List RegRef) (kept : RegRef → Lanes) : State :=
  let f (r : WinReq) : WinReq :=
    let hit := r.tid == s.t.tid && ws.any fun w => r.op.hits w &&
      (if uid ≤ r.u then (kept w).getLsbD r.acc.lane
       else (match w with | .s _ => true | _ => lanes.getLsbD r.acc.lane))
    if hit && (uid ≤ r.u || s.freeBool (fk 13 r.tag)) then { r with dead := true } else r
  let g (i : Infl) : Infl := match i.on with
    | .unseal b n d => if i.u < uid && ws.contains (.s d) && s.freeBool (fk 13 d) then { i with on := .unseal b n 64 } else i
    | _ => i
  let keys (p : PortOp) : List Nat := ws.flatMap fun w => match w with
    | .v n => if p.regs.contains n then
        ((s.t.lanesIn lanes).map fun l => 1024 * n + l).filter fun k => s.freeBool (fk 13 (2 ^ 40 + k)) else []
    | _ => []
  let h (p : PortOp) : PortOp := if p.tid == s.t.tid && p.u < uid then { p with skip := p.skip ++ keys p } else p
  { s with
    link := { s.link with reqs := s.link.reqs.map f }, t := { s.t with infl := s.t.infl.map g }
    quads := s.quads.map fun q => if q.port.isEmpty then q else { q with port := q.port.map h } }

/-! ### What a fetch may follow (R350) -/

/-- The instruction gives its destination a value that it reads from memory. -/
def readsMemory (op : Nat) : Bool :=
  [0xA8, 0xAA, 0xAB, 0xAD, 0xAF, 0xB1, 0xB3, 0xB4, 0xB9, 0xBB, 0xBC, 0xBE].contains op

/-- Number under which the step of a register's latest read is kept. -/
def RegRef.key : RegRef → Nat
  | .s n => n
  | .v n => 64 + n
  | .p n => 320 + n
  | .m n => 336 + n

/-- The special registers among those keys: register n of SRD and SWR at 400 + n. -/
def sysKey (n : Nat) : Nat := 400 + n

/-- The step of the read that a register's value comes from: of the value that a read of a scalar register returns; for
another register the latest of those that a read may return (R170, R350). -/
def State.taintOf (s : State) (r : RegRef) : Nat :=
  let cur := sget 0 r.key s.t.taint
  let old := sget 0 (1000 + r.key) s.t.taint
  match r with
  | .s n => s.pick (fk 1 n) cur ((oldS n s.t.hazards).map fun _ => old)
  | _ => if s.t.hazards.any fun x => x.isOf r then max cur old else cur

/-- Where a written register's value and its earlier values come from after a write that comes from step `new`; kept are the
lanes in which the earlier write stands (R170, R350). -/
def State.taintWrite (s : State) (new : Nat) (all : Bool) (kept : Lanes) (w : RegRef) : List (Nat × Nat) :=
  let cur := sget 0 w.key s.t.taint
  let was := if (s.t.infl.flatMap (·.saves) ++ s.t.recent.map (·.old)).any fun x => x.isOf w then
      max cur (sget 0 (1000 + w.key) s.t.taint) else cur
  let now := if all then new else max new cur
  if kept = 0 then [(w.key, now), (1000 + w.key, was)]
  else [(w.key, match w with | .s _ => cur | _ => max now cur), (1000 + w.key, max was now)]

/-- Where the values that an instruction writes come from, in the team t it leaves: this step's read, or the latest of the
reads that its sources came from. -/
def State.taintStep (s : State) (r : Raw) (rd wr : List RegRef) (hz : List RegSave) (lanes : Lanes) (t : Team) : Team :=
  let src := (rd.map s.taintOf ++ if r.op = 0x25 then [sget 0 (sysKey r.b) s.t.taint] else []).foldl max
    (if readsMemory r.op then s.free + 1 else 0)
  let all := !laneWise r.op || lanes == s.t.present
  { t with taint := sputs 0 ((wr.flatMap fun w => s.taintWrite src all (s.standing hz w lanes) w) ++
      if r.op = 0x26 then [(sysKey r.b, src)] else []) t.taint }

/-! ### Recording an issue -/

/-- Cycles after issue at which an attaching instruction's results are available, at least: the scratchpad latency for
memory instructions (R77). -/
def attachLatency (op : Nat) : Nat := if op < 0xEF then 24 else 1

/-- What the issue of i leaves behind besides its own effect (R170): its earlier register values, as long as they may
still be read; where it overtakes earlier writes, either value; stores that read their source late; the cycles it
takes; and where its results come from. s is the state before, s' the state after the effect. -/
def record (i : Instr) (s s' : State) : State :=
  if s'.t.tid ≠ s.t.tid ∨ s'.t.ord = s.t.ord then s'
  else
    match i.raw with
    | none => s'
    | some r =>
      let (rd, wr) := s.regsOf i
      let lanes := s.writtenLanes r
      let extra := s.extraCycles r
      let avail := s.t.cyc + extra + (if i.attaches then attachLatency r.op else latencyOf r.op)
      let hz := s.t.overtaken avail
      let saves := wr.map (s.t.save lanes) ++ wr.flatMap fun w => hz.filterMap (RegSave.inside w lanes)
      let t0 := match hz with
        | [] => s'.t
        | _ => s'.t.supersede avail lanes wr
      let cyc := t0.cyc + extra
      let keepFrom : List Recent :=
        if i.attaches ∨ latencyOf r.op = 0 ∨ s.t.cl.intlk then [] else saves.map fun x => ⟨x, avail, s.t.clno⟩
      let t1 : Team := { t0 with
        cyc := cyc
        recent := (t0.recent.filter fun (x : Recent) => cyc < x.ready) ++ keepFrom
        infl := if i.attaches then t0.infl.map fun (f : Infl) =>
            if s.uid ≤ f.u && f.saves.isEmpty then { f with saves := saves, tiles := s.tilesOf i } else f
          else t0.infl }
      let t2 := s.taintStep r rd wr hz lanes t1
      let t3 := wr.foldl (s.overtake hz lanes) t2
      let s1 := { s' with t := t3 }
      match s.t.infl with
      | [] => s1
      | _ => (s1.storeLater t2 lanes wr).dropLater s.uid lanes wr fun w => s.standing hz w lanes

/-- The instruction is outstanding until its completion (R169): it takes its flag, and the clause's next attaching
instruction uses SETB (R168). -/
def State.attach (s : State) (on : Until) (srcV srcS : List Nat) (late : List LateSrc) : State :=
  { s with
    uid := s.uid + 1
    t := { s.t with
      infl := s.t.infl ++ [{ u := s.uid, flag := s.t.nextFlag, saves := [], srcV := srcV, srcS := srcS,
                             late := late, on := on }]
      cl := { s.t.cl with aused := true } } }

/-- Issue i: its checks, then what holds it back, then its effect (R181, R31). A release settles what the team has
stored (R92, R170). Its passes hold the slot, and its STALL follows them (R32, R170). -/
def issue (i : Instr) (s : State) (body : State → State) : State :=
  match s.blocked i with
  | some w => s.hold (if s.t.appending then s.t.wait else w)
  | none =>
    match s.checks i with
    | some c => s.chkRaise i c
    | none =>
      let s1 := s.awaitRecent i
      let s2 := record i s1 (body s1)
      if s2.t.ord = s.t.ord then s2
      else s2.modTeam s.t.tid fun t => { t with
        readyAt := s.pkg.clk.toNat + (t.cyc - s.t.cyc)
        busy := s1.t.cyc + 1 + (match i.raw with | some r => s1.extraCycles r | none => 0)
        since := s.pkg.clk.toNat
        infl := if isRelease i s.t.cl.arr then t.infl.map fun f => { f with late := [] } else t.infl }

end Sys2Proof.Machine
end

