-- ==== Sys2Proof/Machine/Xlate.lean ====
section
/-! DEFINITION. Pointers, regions, the page walk and its caches, SXLATE's run, FAULT messages (R50 to R54, R398 to
R406, R423). -/

namespace Sys2Proof.Machine

/-- Home tower of a local physical address, its line and its replication region (R62). -/
def homeTower (pa : Nat) : Nat := (bits pa 14 12) ^^^ (bits pa 23 21)
def lineOf (pa : Nat) : Nat := pa / 128
def regionOf (pa : Nat) : Nat := pa / 2 ^ 21

/-- Local DRAM, and the system window (R54). -/
def isLocal (pa : Nat) : Bool := pa < Config.dramSize
def isWindow (pa : Nat) : Bool := Config.windowBase ≤ pa && pa < 2 ^ 44

/-- The line's home tower is lost (R423). -/
def State.lineLost (s : State) (pa : Nat) : Bool := isLocal pa && s.regs.towerlost.getLsbD (homeTower pa)

/-- What the region bounds table gives: an enabled entry, none, or memory that cannot be read. -/
inductive RegionGot where
  | entry (e : RegionEnt)
  | none
  | bad (status : Nat)
  deriving DecidableEq, Repr

/-- Region entry id in the table of a slot, as memory holds it; none when disabled (R400, R423, R439). -/
def State.regionFresh (s : State) (slot id : Nat) : RegionGot :=
  let b := (s.slot slot).rbtbase.toNat + 16 * id
  if s.lineLost b then .bad 0x41
  else if s.poison.contains (b / 32) then .bad 0x44
  else
    let w0 := s.memNat b 8
    let w1 := s.memNat (b + 8) 8
    if w1 / 2 ^ 63 = 0 ∨ w0 / 2 ^ 56 ≠ 0 ∨ bits w1 60 56 ≠ 0 then .none
    else .entry ⟨w0 % 2 ^ 56, w1 % 2 ^ 56, bits w1 62 62 == 1, bits w1 61 61 == 1⟩

/-- The current item, or freely one of the other items held. -/
def State.pickHeld {α : Type} [DecidableEq α] (s : State) (key : Nat) (cur : α) (held : List α) : α :=
  s.pick key cur (held.filter fun x => x ≠ cur)

/-- The region entry that an access at va uses: the one memory holds, or freely one that the device still holds
(R401). -/
def State.region? (s : State) (slot id va : Nat) : RegionGot :=
  s.pickHeld (fk 10 (2 ^ 60 * id + va)) (s.regionFresh slot id)
    (((s.slot slot).rcache.filter fun p => p.1 == id).map fun p => .entry p.2)

/-- In region: LOWER ≤ VA and VA + size ≤ UPPER (R50). -/
def RegionEnt.holds (e : RegionEnt) (va size : Nat) : Bool := e.lower ≤ va && va + size ≤ e.upper

/-- Shift of the index of a walk level, and its number of entries (R398). -/
def lvlShift : Nat → Nat
  | 0 => 48 | 1 => 39 | 2 => 30 | 3 => 21 | _ => 16
def lvlCount : Nat → Nat
  | 0 => 256 | 4 => 32 | _ => 512

/-- A page-table word is present and well formed at its level (R399). -/
def pteOk (level w : Nat) : Bool :=
  let addr := bits w 43 8 * 256
  let leaf := bits w 1 1 == 1
  w % 2 == 1 && w / 2 ^ 44 == 0 && bits w 7 4 == 0 &&
  (match level with
   | 4 => leaf && addr % 2 ^ 16 == 0
   | 3 => if leaf then addr % 2 ^ 21 == 0 else addr % 256 == 0
   | _ => !leaf && addr % 4096 == 0)

/-- The words that the device holds for an entry of a level (R401). -/
def CtxSlot.held (c : CtxSlot) (level key : Nat) : List Nat :=
  (c.tlb.filter fun e => e.level == level && e.key == key).map (·.word)

/-- A leaf word as a page (R399). -/
def leafOf (level w : Nat) : Leaf :=
  ⟨bits w 43 8 * 256, if level = 3 then 2 ^ 21 else 2 ^ 16, bits w 3 3 == 1, bits w 2 2 == 1⟩

/-- What a walk meets: a page, nothing, or memory that cannot be read (a lost tower, a poisoned sector). -/
inductive Walk where
  | page (l : Leaf) (path : List TlbEntry)
  | absent (path : List TlbEntry)
  | bad (status : Nat)
  deriving DecidableEq, Repr

/-- The table word that a walk reads at a level, at physical address pa, or why it cannot (R399, R423, R439). -/
def State.pteFresh (s : State) (pa : Nat) : Nat ⊕ Nat :=
  if s.lineLost pa then .inr 0x41
  else if s.poison.contains (pa / 32) then .inr 0x44
  else .inl (s.memNat pa 8)

/-- The walk from a level on (R398, R399); fuel counts the levels left. At each level the word that memory holds, or
freely one that the device still holds (R401). -/
def State.walkFrom (s : State) (slot va : Nat) : Nat → Nat → Nat → List TlbEntry → Walk
  | 0, _, _, path => .absent path
  | fuel + 1, level, base, path =>
    let key := va / 2 ^ lvlShift level
    let fresh := s.pteFresh (base + 8 * (key % lvlCount level))
    match s.pickHeld (fk 11 (8 * va + level)) fresh (((s.slot slot).held level key).map .inl) with
    | .inr st => .bad st
    | .inl w =>
      if pteOk level w then
        let path := path ++ [⟨level, key, w⟩]
        if bits w 1 1 = 1 then .page (leafOf level w) path
        else s.walkFrom slot va fuel (level + 1) (bits w 43 8 * 256) path
      else .absent path

/-- The walk without the entries it went through. -/
def Walk.bare : Walk → Walk
  | .page l _ => .page l []
  | .absent _ => .absent []
  | .bad st => .bad st

/-- The page of a virtual address: by the walk, or freely by a leaf that a TLB still holds (R401). -/
def State.pageOf (s : State) (slot va : Nat) : Walk :=
  s.pickHeld (fk 12 va) (s.walkFrom slot va 5 0 (s.slot slot).ptroot.toNat []).bare
    (((s.slot slot).tlb.filter fun e => (e.level == 4 || (e.level == 3 && bits e.word 1 1 == 1)) &&
      e.key == va / 2 ^ lvlShift e.level).map fun e => .page (leafOf e.level e.word) [])

/-- The entries that the walk of va goes through. -/
def State.walkPath (s : State) (slot va : Nat) : List TlbEntry :=
  match s.walkFrom slot va 5 0 (s.slot slot).ptroot.toNat [] with
  | .page _ p => p
  | .absent p => p
  | .bad _ => []

/-- What an access on the TLB path leaves in the device's caches: what its walk and its region check read (R401). Older
words of the same entries stay until they are invalidated. -/
def State.keepXl (s : State) (slot ptr : Nat) : State :=
  let va := ptr % 2 ^ 56
  let id := ptr / 2 ^ 56
  let path := s.walkPath slot va
  let rc := match s.region? slot id va with | .entry e => [(id, e)] | _ => []
  s.modSlot slot fun c => { c with
    tlb := (path.filter fun e => !c.tlb.contains e) ++ c.tlb
    rcache := (rc.filter fun e => !c.rcache.contains e) ++ c.rcache }

/-- What becomes of an access on the TLB path (R53). -/
inductive Xl where
  /-- The physical address. -/
  | ok (pa : Nat)
  /-- A cause of R204, found on the TLB path. -/
  | fault (cause : Nat)
  /-- The context ends with this status (R423, R439). -/
  | ends (status : Nat)
  deriving DecidableEq, Repr

/-- The window entry of a physical address is in service (R392). -/
def State.winOk (s : State) (pa : Nat) : Bool :=
  let e := sget {} ((pa - Config.windowBase) / 2 ^ 38) s.regs.window
  let port := bits e.lo.toNat 5 1
  e.lo.toNat % 2 == 1 && (port == 0 || (port ≤ 18 && (sget {} port s.regs.pctl).up))

/-- The physical address may be accessed: local memory, or a window entry in service (R54, R392). -/
def State.paOk (s : State) (pa : Nat) : Bool := isLocal pa || (isWindow pa && s.winOk pa)

/-- Translate a pointer on the TLB path for an access of some bytes (R53, R400, R399). -/
def State.xlate (s : State) (slot ptr size : Nat) (rd wr : Bool) : Xl :=
  let va := ptr % 2 ^ 56
  if 2 ^ 56 < va + size then .fault 5
  else match s.region? slot (ptr / 2 ^ 56) va with
    | .bad st => .ends st
    | .none => .fault 5
    | .entry e =>
      if !e.holds va size then .fault 5
      else match s.pageOf slot va with
        | .bad st => .ends st
        | .absent _ => .fault 8
        | .page l _ =>
          let pa := l.frame + va % l.size
          if !s.paOk pa || (rd && !(l.rd && e.rd)) || (wr && !(l.w && e.w)) then .fault 7
          else if s.lineLost pa then .ends 0x41
          else .ok pa

/-- Region check alone of a range (R50): true when it lies in an enabled region. -/
def State.inRegion (s : State) (slot ptr size : Nat) : Bool :=
  ptr % 2 ^ 56 + size ≤ 2 ^ 56 &&
  (match s.region? slot (ptr / 2 ^ 56) (ptr % 2 ^ 56) with
   | .entry e => e.holds (ptr % 2 ^ 56) size
   | _ => false)

/-- The region check meets a lost tower or a poisoned sector (R423, R439). -/
def State.regionBad (s : State) (slot ptr : Nat) : Option Nat :=
  match s.region? slot (ptr / 2 ^ 56) (ptr % 2 ^ 56) with | .bad st => some st | _ => none

/-- Pieces of a range of bytes: at most 32 bytes each, none across an aligned 32-byte boundary. -/
def pieces : Nat → Nat → Nat → List (Nat × Nat)
  | 0, _, _ => []
  | fuel + 1, a, n =>
    if n = 0 then [] else
    let k := min n (32 - a % 32)
    (a, k) :: pieces fuel (a + k) (n - k)

/-- Pieces of the system window that a read has to ask for: pointer, physical address, length. -/
abbrev Runs := List (Nat × Nat × Nat)

/-- The bytes of a virtual range read through the page tables, the first pointer that fails (R191, R348), or the pieces
whose words have not come from the window yet (R446). -/
inductive RdV where
  | ok (bs : List Byte)
  | fault (cause ptr : Nat)
  | ends (status : Nat)
  | wait (runs : Runs)
  deriving DecidableEq, Repr

/-- First aligned 8-byte word of an access, and how many it touches (R446). -/
def firstWord (pa : Nat) : Nat := pa / 8 * 8
def wordCount (pa n : Nat) : Nat := (pa + n - 1) / 8 - pa / 8 + 1

/-- The words that an access touches. -/
def wordsAt (pa n : Nat) : List Nat := (List.range (wordCount pa n)).map fun i => firstWord pa + 8 * i

/-- What a reader has of the bytes at a physical address. -/
inductive Data where
  | ok (bs : List Byte)
  /-- The port has refused the address (R392, R446). -/
  | refused
  /-- Not every word has come. -/
  | missing
  deriving DecidableEq, Repr

/-- Bytes at a physical address: those of local memory, or in the system window what the replies to the reader's requests
have brought (R446, log 22). -/
def State.dataFor (s : State) (who : Asker) (pa n : Nat) : Data :=
  if isLocal pa then .ok (s.bytes pa n)
  else
    let got := (wordsAt pa n).filterMap fun w => s.link.got.find? fun g => g.who == who && g.pa == w
    if got.any fun g => g.data.isNone then .refused
    else if got.length < wordCount pa n then .missing
    else .ok (((got.flatMap fun g => leBytes 8 (g.data.getD 0)).drop (pa - firstWord pa)).take n)

/-- Read pieces one after another. The pointer that fails is that of the piece, so that the driver learns which page to
map (log 78); pieces of the window that have not come are asked for together, before anything that fails behind them. -/
def State.readPieces (s : State) (slot : Nat) (who : Asker) : List (Nat × Nat) → List Byte → RdV
  | [], acc => .ok acc
  | (a, k) :: r, acc =>
    match s.xlate slot a k true false with
    | .fault c => .fault c a
    | .ends st => .ends st
    | .ok pa =>
      if s.poison.contains (pa / 32) then .ends 0x44
      else match s.dataFor who pa k with
        | .ok bs => s.readPieces slot who r (acc ++ bs)
        | .refused => .fault 7 a
        | .missing => match s.readPieces slot who r [] with
          | .wait l => .wait ((a, pa, k) :: l)
          | _ => .wait [(a, pa, k)]

/-- Read n bytes at a pointer: the region check of the whole, then piece by piece. -/
def State.readVirt (s : State) (slot : Nat) (who : Asker) (ptr n : Nat) : RdV :=
  match s.regionBad slot ptr with
  | some st => .ends st
  | none =>
  if !s.inRegion slot ptr n then .fault 5 ptr
  else s.readPieces slot who (pieces (n / 32 + 2) ptr n) []

/-- Bytes from va to the end of the longest run of pages contiguous in physical memory with equal permissions,
counted up to 2 MiB and a page (R52), with the addresses walked for it; a walk that cannot read its tables ends the context
(R423, R439). -/
def State.runFrom (s : State) (slot : Nat) (l : Leaf) : Nat → Nat → Nat → (Nat × List Nat) ⊕ Nat
  | 0, _, run => .inl (run, [])
  | fuel + 1, va, run =>
    -- va is the first address past the run, l the page that ends there
    match s.pageOf slot va with
    | .page l' _ =>
      if l'.frame + va % l'.size = l.frame + l.size ∧ l'.w = l.w ∧ l'.rd = l.rd ∧ va < 2 ^ 56 then
        match s.runFrom slot l' fuel (va + (l'.size - va % l'.size)) (run + (l'.size - va % l'.size)) with
        | .inl (n, vs) => .inl (n, va :: vs)
        | .inr st => .inr st
      else .inl (run, [va])
    | .bad st => .inr st
    | .absent _ => .inl (run, [va])

/-- What SXLATE finds (R52): a translation register, with the addresses that were walked, Region-Violation, or the context's
end. -/
inductive SXl where
  | ok (x : XReg) (walked : List Nat)
  | violation
  | ends (status : Nat)
  deriving DecidableEq, Repr

def State.sxlate (s : State) (slot ptr : Nat) : SXl :=
  let va := ptr % 2 ^ 56
  match s.region? slot (ptr / 2 ^ 56) va with
  | .bad st => .ends st
  | .none => .violation
  | .entry e =>
    if va < e.lower ∨ e.upper ≤ va then .violation
    else
      let base : XReg := { region := BitVec.ofNat 8 (ptr / 2 ^ 56), vbase := BitVec.ofNat 56 va, v := true }
      match s.pageOf slot va with
      | .bad st => .ends st
      | .absent _ => .ok base [va]
      | .page l _ =>
        let first := l.size - va % l.size
        match s.runFrom slot l 34 (va + first) first with
        | .inr st => .ends st
        | .inl (run, vs) => .ok { base with
          framepg := BitVec.ofNat 28 ((l.frame + va % l.size) / 2 ^ 16)
          limit := BitVec.ofNat 22 (min run (min 0x200000 (e.upper - va)))
          rd := l.rd && e.rd, w := l.w && e.w } (va :: vs)

/-- A translation register as a pointer (R207). -/
def XReg.ptr (m : XReg) (off : Nat) : Nat := m.region.toNat * 2 ^ 56 + m.vbase.toNat + off

/-- Physical address of VBASE (R51, R53). -/
def XReg.phys (m : XReg) : Nat := m.framepg.toNat * 2 ^ 16 + m.vbase.toNat % 2 ^ 16

/-! ### Fault messages (R403, R406) -/

/-- A PAGE entry of a FAULT (R403). -/
def pageEntry (ptr cause : Nat) (rd wr : Bool) : Nat :=
  ptr / 2 ^ 16 * 2 ^ 16 + wr.toNat * 2 ^ 9 + rd.toNat * 2 ^ 8 + cause

/-- Ascending, each once. -/
def insertPage (x : Nat) : List Nat → List Nat
  | [] => [x]
  | y :: r => if x = y then y :: r else if x < y then x :: y :: r else y :: insertPage x r
/-- One entry a page: the first of those that name it. -/
def uniqPages : List Nat → List Nat
  | [] => []
  | x :: r => x :: (uniqPages r).filter fun y => y / 2 ^ 16 != x / 2 ^ 16
def sortPages (l : List Nat) : List Nat := uniqPages (l.foldl (fun acc x => insertPage x acc) [])

/-- Payload of a FAULT message (R403). -/
def faultPayload (fseq src core team unit : Nat) (pages : List Nat) : List Byte :=
  let shown := pages.take 32
  leBytes 4 fseq ++ leBytes 1 src ++ leBytes 1 shown.length ++ leBytes 2 core ++ leBytes 1 team ++ leBytes 1 unit ++
    leBytes 1 (if 32 < pages.length then 1 else 0) ++ leBytes 5 0 ++ shown.flatMap (leBytes 8)

/-- Bits of a context's fault window (R396 FRAREA, R406). -/
def CtxSlot.frbits (c : CtxSlot) : Nat := c.frarea.toNat % 32

/-- Send the FAULT messages that the window of R406 now admits. -/
def State.flushFaults (s : State) (slot : Nat) : State :=
  let c := s.slot slot
  match c.faults.find? fun f => f.reply.isNone with
  | none => s
  | some f0 =>
    let inWin (f : FaultRec) : Bool := (f.fseq + 2 ^ 32 - f0.fseq) % 2 ^ 32 < 2 ^ c.frbits
    let due := c.faults.filter fun f => !f.sent && inWin f
    let s1 := s.modSlot slot fun c =>
      { c with faults := c.faults.map fun f => { f with sent := f.sent || inWin f } }
    due.foldl (fun s f => s.send 0 0x03 c.ctxid 0 f.msg) s1

/-- Park a fault: the context's next FSEQ, its record, and its FAULT message (R403). Answers the FSEQ. -/
def State.sendFault (s : State) (slot src core team unit owner quad : Nat) (pages : List Nat) : State × Nat :=
  let c := s.slot slot
  let fs := if c.fseq + 1 = 2 ^ 32 then 1 else c.fseq + 1
  let ps := sortPages pages
  let f : FaultRec := { fseq := fs, src := src, owner := owner, quad := quad,
                        pages := ps.map (BitVec.ofNat 64), sent := false,
                        msg := faultPayload fs src core team unit ps }
  ((s.modSlot slot fun c => { c with fseq := fs, faults := c.faults ++ [f] }).flushFaults slot, fs)

end Sys2Proof.Machine
end

