-- ==== Sys2Proof/Machine/Caches.lean ====
section
/-! DEFINITION. What reads and writes do besides moving bytes: L1 copies, replicas, counted lines, counters, seals,
ownership and poison (R63 to R75, R97, R98, R439). None of it changes the value a read returns, except a counted line
dropped at count zero (R72). -/

namespace Sys2Proof.Machine

/-- Who accesses memory. -/
inductive Agent where
  | core (c : Nat)
  /-- A core's fetch unit: through its L1, and no read of R71 (R348). -/
  | fetch (c : Nat)
  /-- An engine of a tower. -/
  | engine (tower : Nat)
  /-- A page walker or a Cupboard fill of a tower: L2 reads that are no read of R71 (R58, R399, R444). -/
  | unit (tower : Nat)
  /-- The host or a peer. -/
  | host
  deriving DecidableEq, Repr

/-- Feature bit n of the locked set (R379). -/
def State.feature (s : State) (n : Nat) : Bool := s.link.set.getLsbD n

/-- The L1 that a core fills: its own, or its quad's when fused (R64). -/
def State.holder (s : State) (c : Nat) : Nat := if (s.quadD (quadOf c)).fused then 640 + quadOf c else c

/-- Add to counter k (offset / 8) of tower t (R69); counters wrap at 2^64. -/
def Caches.count (c : Caches) (t k n : Nat) : Caches :=
  let key := 16 * t + k
  { c with ctr := sput 0 key ((sget 0 key c.ctr + n) % 2 ^ 64) c.ctr }

def Caches.region (c : Caches) (r : Nat) : RegionRep := sget {} r c.regions
def Caches.modRegion (c : Caches) (r : Nat) (f : RegionRep → RegionRep) : Caches :=
  { c with regions := sput {} r (f (c.region r)) c.regions }

/-- The level allows tower t to replicate lines homed on h (R65). -/
def levelAllows (level t h : Nat) : Bool :=
  t != h && (match level with | 0 => false | 1 => t / 2 == h / 2 | 2 => t / 4 == h / 4 | _ => true)

/-- A read at the home slice of a line counted by CPY or CPYT: at count zero the line is dropped, and the contents it
held at the grant stand again, unless it had been evicted before (R71, R72, R105). -/
def State.homeRead (s : State) (line : Nat) : State :=
  match s.caches.counted.find? fun c => c.line == line with
  | none => s
  | some c =>
    let rest := s.caches.counted.filter fun c => c.line != line
    if s.freeBool (fk 20 line) then { s with caches := { s.caches with counted := rest } }
    else if c.cnt ≤ 1 then
      ({ s with caches := { s.caches with counted := rest }.count (homeTower (128 * line)) 5 1 }).putBytes
        (128 * line) c.old
    else { s with caches := { s.caches with counted := { c with cnt := c.cnt - 1 } :: rest } }

/-- Lines that a slice of L2 holds: 32 MiB of the 512 MiB of a tower (R10). -/
def l2Cap : Nat := 262144

/-- The slice of a line within its tower (R62). -/
def sliceOf (line : Nat) : Nat := line % 16

/-- Room for one more line in the slice of tower t that takes `line`: a slice whose counted lines and replicas fill it gives up
one of them, which one is open, and a count goes with its line (R10, R72). -/
def Caches.l2Room (c : Caches) (s : State) (t line : Nat) : Caches :=
  let cs := c.counted.filter fun y => homeTower (128 * y.line) == t && sliceOf y.line == sliceOf line
  let rs := c.repl.filter fun p => p.1 == t && sliceOf p.2 == sliceOf line
  if cs.length + rs.length < l2Cap then c
  else
    let n := s.freeNat (fk 44 line) % (cs.length + rs.length)
    match cs[n]? with
    | some y => { c with counted := c.counted.erase y }
    | none => { c with repl := c.repl.erase (rs.getD (n - cs.length) (0, 0)) }

/-- A line counted at home (R71). -/
def Caches.addCounted (c : Caches) (s : State) (x : Counted) : Caches :=
  let c1 := ({ c with counted := c.counted.filter fun y => y.line != x.line } : Caches).l2Room s (homeTower (128 * x.line)) x.line
  { c1 with counted := x :: c1.counted }

/-- Replicas that a slice of a tower may hold: 8 of 16 ways of 32 MiB (R65). -/
def replCap : Nat := 131072

/-- Allocate a replica in tower t; a full slice evicts one of its replicas, which one is open (R65). -/
def Caches.allocRepl (c : Caches) (s : State) (t line : Nat) : Caches :=
  let mine := c.repl.filter fun p => p.1 == t && sliceOf p.2 == sliceOf line
  let c := if mine.length < replCap then c
    else { c with repl := c.repl.erase (mine.getD (s.freeNat (fk 24 line) % mine.length) (0, 0)) }
  let c := c.l2Room s t line
  { c with repl := (t, line) :: c.repl }

/-- The lines a run of bytes touches. -/
def linesOf (pa n : Nat) : List Nat :=
  if n = 0 then [] else (List.range ((pa + n - 1) / 128 - pa / 128 + 1)).map fun i => pa / 128 + i

/-- A line of n bytes at a physical address is lost (R423). -/
def State.spanLost (s : State) (pa n : Nat) : Bool := s.regs.towerlost != 0 && (linesOf pa n).any fun l => s.lineLost (128 * l)

/-- Local lines of an operation's destination that have no grant yet and translate now: pending grants, which come before
every later access (R97, R98). -/
def State.wantLines (s : State) (o : EngOp) : List Nat :=
  let slot := (s.slotOf o.ctx).getD 0
  o.wants.flatMap fun w => match s.xlate slot w.1 w.2 false true with
    | .ok pa => if isLocal pa then linesOf pa w.2 else []
    | _ => []

/-- The operation owns the line, or its grant of it is pending. -/
def State.owns (s : State) (o : EngOp) (line : Nat) : Bool := o.lines.contains line || (s.wantLines o).contains line

/-- An engine operation owns the line, or its grant is pending: no other grant of it can be taken (R97). -/
def State.granted (s : State) (pa : Nat) : Bool := s.eops.any fun o => s.owns o (lineOf pa)

/-- An operation owns the line, or will before any later access, and has not written its final bytes there: an access waits
(R98). -/
def State.owned (s : State) (pa : Nat) : Bool := s.eops.any fun o => !o.fin.contains (lineOf pa) && s.owns o (lineOf pa)

/-- An operation issued before handle u owns the line, and has not written its final bytes there (R98). -/
def State.ownedBefore (s : State) (u line : Nat) : Bool :=
  s.eops.any fun o => o.u < u && !o.fin.contains line && s.owns o line

/-- The operation with handle u cannot take its grant of the line: another owns it, or one issued before it is to (R97). -/
def State.ownedBut (s : State) (u line : Nat) : Bool :=
  s.eops.any fun o => o.u != u && (o.lines.contains line || (o.u < u && (s.wantLines o).contains line))

/-- An L2 read of a local line from tower t (R65, R67, R69, R72): rd tells whether it is a read of R71. A line that an
engine operation owns gets no replica (R97, R444). -/
def State.l2Read (s : State) (t line : Nat) (rd : Bool := true) : State :=
  let h := homeTower (128 * line)
  let r := regionOf (128 * line)
  let home (s : State) : State := if rd then s.homeRead line else s
  if t = h then home s
  else
    let allowed := levelAllows (s.caches.region r).level t h
    let c := s.caches.modRegion r fun g => { g with x := g.x + 1, n := if allowed then g.n else g.n + 1 }
    if c.counted.any fun x => x.line == line then home { s with caches := c }
    else if c.repl.contains (t, line) && !s.freeBool (fk 21 line) then
      -- also a replica that a lowered level no longer allows, until it is gone (R67)
      { s with caches := c.count t 0 1 }
    else
      let c := { c with repl := c.repl.erase (t, line) }
      if allowed && !s.granted (128 * line) then { s with caches := (c.allocRepl s t line).count t 1 1 } else { s with caches := c }

/-- The L1 line a holder keeps. -/
def L1Line.at_ (h line : Nat) (e : L1Line) : Bool := e.holder == h && e.line == line

/-- What a write of R66 does at the home directory, but for the copies of L1s: the region's count, and replicas, home
counts and bitmap lines that go (R66, R69, R72, R273). A replica or count may have gone before, with nothing to count. -/
def State.collapse (s : State) (line : Nat) : State :=
  let t := homeTower (128 * line)
  let c := s.caches.modRegion (regionOf (128 * line)) fun g => { g with w := g.w + 1 }
  let c := if c.repl.any fun p => p.2 == line then
      let c' := { c with repl := c.repl.filter fun p => p.2 != line }
      if s.freeBool (fk 23 line) then c' else c'.count t 2 1
    else c
  let c := if c.counted.any fun x => x.line == line then
      let c' := { c with counted := c.counted.filter fun x => x.line != line }
      if s.freeBool (fk 20 line) then c' else c'.count t 6 1
    else c
  { s with caches := { c with mlines := c.mlines.filter fun m => m.line != line } }

/-- An Exclusive line leaves an L1: it is written back, which is a write of R66 (R63, R66). -/
def State.writeBack (s : State) (line : Nat) : State :=
  let s1 := s.collapse line
  { s1 with caches := { s1.caches with l1 := s1.caches.l1.filter fun e => e.line != line } }

/-- A line another holder keeps Exclusive is recalled and written back (R63, R66). -/
def State.recall (s : State) (h line : Nat) : State :=
  if s.caches.l1.any fun e => e.excl && e.line == line && e.holder != h then s.writeBack line else s

/-- A holder's line goes, and the words of a line of the system window with it (R107). -/
def Caches.dropLine (c : Caches) (h line : Nat) : Caches :=
  { c with
    l1 := c.l1.filter fun o => !o.at_ h line
    win := if isLocal (128 * line) then c.win else c.win.filter fun w => !(w.holder == h && lineOf w.pa == line) }

/-- A line leaves a holder: silently when Shared, with a write-back when Exclusive (R63). -/
def State.evictLine (s : State) (e : L1Line) : State :=
  if e.excl then s.writeBack e.line else { s with caches := s.caches.dropLine e.holder e.line }

/-- The array that holds a line: of a fused quad's L1 that of the core which PA[8:7] names (R62, R64). -/
def arrayOf (h line : Nat) : Nat := if 640 ≤ h && h < 800 then 4 * (h - 640) + line % 4 else h

/-- Lines that an array has room for: 256 KiB (R63, R64). The spec gives the quad's atomic unit no capacity as a holder of
Exclusive lines (R256): the model gives it as many (log 17, DESIGN CHOICE). -/
def l1Cap : Nat := 2048

/-- A new line of a holder; a full array evicts one of its lines, which one is open (R63, R64). -/
def State.addLine (s : State) (e : L1Line) : State :=
  let mine := s.caches.l1.filter fun o => o.holder == e.holder && arrayOf o.holder o.line == arrayOf e.holder e.line
  let s1 := if mine.length < l1Cap then s
    else match mine[s.freeNat (fk 25 e.line) % mine.length]? with | some o => s.evictLine o | none => s
  { s1 with caches := { s1.caches with l1 := e :: s1.caches.l1 } }

/-- A miss in L1 h of core c: the line is read in L2 and its sectors filled, at least those asked for (R63, R71). The spec
does not say which sectors a fill brings that sets a count: the model takes all four (log 17, DESIGN CHOICE), so that every
later read of the line hits and is counted. rd: the access is a read of R71. -/
def State.fill (s : State) (h c line cnt secs : Nat) (rd : Bool := true) : State :=
  let s1 := (s.recall h line).l2Read (towerOf c) line rd
  let n := if s.feature 5 then cnt else 0
  let had := match s1.caches.l1.find? (L1Line.at_ h line) with | some e => e.valid | none => 0
  let valid := if n ≠ 0 || s.freeBool (fk 26 line) then 15 else Nat.lor had secs
  let s2 : State := { s1 with caches := { s1.caches with l1 := s1.caches.l1.filter fun e => !e.at_ h line } }
  if n = 1 then s2 else s2.addLine ⟨h, line, n - 1, false, valid⟩

/-- A hit in L1 h counts one read of a line counted by VLDN; at zero the line is dropped (R71). -/
def L1Line.hit (h line : Nat) (l : List L1Line) : List L1Line :=
  (l.map fun e => if e.at_ h line && e.cnt != 0 then { e with cnt := e.cnt - 1 } else e).filter
    fun e => !(e.at_ h line && e.cnt == 0 && (l.any fun o => o.at_ h line && o.cnt == 1))

/-- The stored bytes of a line can no longer be revised: another access has met them (R84). -/
def State.settleLine (s : State) (line : Nat) : State := s.settle fun e => e.inMem fun a => lineOf a == line

/-- What a read of a local line by an agent does in the caches, and at home; cnt is VLDN's expected read count, 0 for none,
secs the sectors it reads (R63, R71); without rd the count at home does not fall. -/
def State.readIn (s : State) (a : Agent) (cnt line secs : Nat) (rd : Bool := true) : State :=
  match a with
  | .host => (s.recall 9999 line).homeRead line
  | .engine t => (s.recall 9999 line).l2Read t line rd
  | .unit t => (s.recall 9999 line).l2Read t line false
  | .fetch c =>
    let h := s.holder c
    match s.caches.l1.find? (L1Line.at_ h line) with
    | some e =>
      if s.freeBool (fk 22 line) then (s.evictLine e).fill h c line 0 secs false
      else if Nat.land e.valid secs = secs then s
      else s.fill h c line 0 secs false
    | none => s.fill h c line 0 secs false
  | .core c =>
    let h := s.holder c
    match s.caches.l1.find? (L1Line.at_ h line) with
    | some e =>
      -- a line may have left the L1 before (R63)
      if s.freeBool (fk 22 line) then (s.evictLine e).fill h c line cnt secs rd
      else if Nat.land e.valid secs = secs then { s with caches := { s.caches with l1 := L1Line.hit h line s.caches.l1 } }
      else s.fill h c line 0 secs rd
    | none => s.fill h c line cnt secs rd

/-- A read of a local line by an agent: it moves the caches, and, where it is a read of R71, may drop a counted line, whose
contents then stand again (R72); nothing else changes. -/
def State.noteRead (s : State) (a : Agent) (cnt line : Nat) (secs : Nat := 15) (rd : Bool := true) : State :=
  let s0 := match a with | .core _ | .fetch _ => s | .host | .engine _ | .unit _ => s.settleLine line
  let r := s0.readIn a cnt line secs rd
  { s0 with caches := r.caches, mem := match a with | .fetch _ | .unit _ => s0.mem | .host | .engine _ | .core _ => r.mem }

/-- A write of R66 to a local line: replicas and the L1 copies of others go, an Exclusive one with its write-back, and a
count at home goes (R66, R69, R72). -/
def State.noteWrite (s : State) (a : Agent) (line : Nat) : State :=
  let keep : Nat := match a with | .core c => s.holder c | .fetch c => s.holder c | _ => 9999
  let s0 := match a with | .core _ => s | _ => s.settleLine line
  let c := ((s0.recall keep line).collapse line).caches
  { s0 with caches := { c with l1 := c.l1.filter fun e => e.line != line || e.holder == keep } }

/-- Holder h takes a line Exclusive that it does not hold so: a write of R66 (R63, R256). The spec does not say what becomes
of the count of a line that its holder counts by VLDN and then takes Exclusive: the model drops the count with the Shared
copy (log 17, DESIGN CHOICE). -/
def State.newExcl (s : State) (h line : Nat) : State :=
  let s1 := (s.recall h line).collapse line
  ({ s1 with caches := { s1.caches with l1 := s1.caches.l1.filter fun e => e.line != line } }).addLine ⟨h, line, 0, true, 15⟩

/-- Holder h takes a line Exclusive for an atomic; one that it holds so already needs no write (R63, R66, R256). -/
def State.takeExcl (s : State) (h line : Nat) : State :=
  match s.caches.l1.find? (L1Line.at_ h line) with
  | some e =>
    if !e.excl then s.newExcl h line
    else if s.freeBool (fk 22 line) then (s.evictLine e).newExcl h line else s
  | none => s.newExcl h line

/-- A value-returning atomic takes the line Exclusive in the requester's L1; a reduction at team, block or quad scope
takes it Exclusive in the quad's atomic unit (R256). -/
def State.noteExcl (s : State) (core line : Nat) : State := s.takeExcl (s.holder core) line
def State.noteUnit (s : State) (core line : Nat) : State := s.takeExcl (800 + quadOf core) line

/-- Bitmap lines that a copy engine's metadata cache holds: 32 KiB (R273). -/
def metaCap : Nat := 256

/-- A copy engine reads a bitmap line through its metadata cache, a holder of Shared lines (R273). -/
def State.metaRead (s : State) (tower ctx line : Nat) : State :=
  let hit := s.caches.mlines.any fun m => m.tower == tower && m.line == line
  if hit && !s.freeBool (fk 27 line) then s
  else
    let s1 := ((s.settleLine line).recall 9999 line).l2Read tower line
    let rest := s1.caches.mlines.filter fun m => !(m.tower == tower && m.line == line)
    let mine := rest.filter fun m => m.tower == tower
    let rest := if mine.length < metaCap then rest
      else match mine[s.freeNat (fk 28 line) % mine.length]? with | some m => rest.erase m | none => rest
    { s1 with caches := { s1.caches with mlines := ⟨tower, line, ctx⟩ :: rest } }

/-- The seal entry that covers a local byte (R73). -/
def State.sealAt (s : State) (pa : Nat) : Option Seal := s.seals.find? fun e => e.base ≤ pa && pa < e.base + e.len

/-- A write refused as Sealed-Write is counted at the line's home tower (R69, R73). -/
def State.noteSealed (s : State) (pa : Nat) : State :=
  { s with caches := s.caches.count (homeTower pa) 7 1 }

/-- A read of these local bytes meets a poisoned sector (R439). -/
def State.poisoned (s : State) (pa n : Nat) : Bool :=
  s.poison.any fun q => pa < 32 * q + 32 && 32 * q < pa + n

/-- Sectors wholly covered by a written run are no longer poisoned (R439). -/
def State.clearPoison (s : State) (pa n : Nat) : State :=
  { s with poison := s.poison.filter fun q => !(pa ≤ 32 * q && 32 * q + 32 ≤ pa + n) }

/-- The sectors that a set of written bytes covers whole. -/
def State.clearPoisonBytes (s : State) (written : List Nat) : State :=
  match s.poison with
  | [] => s
  | l => { s with poison := l.filter fun q => !((List.range 32).all fun i => written.contains (32 * q + i)) }

/-- What reading several lines, each once, does to the caches; what writing them does. -/
def State.noteReads (s : State) (a : Agent) (cnt : Nat) (lines : List Nat) : State :=
  lines.dedup.foldl (fun s l => s.noteRead a cnt l) s
def State.noteWrites (s : State) (a : Agent) (lines : List Nat) : State :=
  lines.dedup.foldl (fun s l => s.noteWrite a l) s

/-- This read of a line goes to its home and lowers a count there (R71, R72). -/
def State.countsAtHome (s : State) (a : Agent) (cnt line secs : Nat) : Bool :=
  let at_ (s : State) : Option Counted := s.caches.counted.find? fun c => c.line == line
  (at_ s).isSome && at_ (s.readIn a cnt line secs) != at_ s

/-- Sectors of a line that the bytes [pa, pa + n) touch, one bit each. -/
def secMask (line pa n : Nat) : Nat :=
  (List.range 4).foldl (fun acc k =>
    let a := 128 * line + 32 * k
    if pa < a + 32 && a < pa + n then acc + 2 ^ k else acc) 0

/-- A read of several runs of local bytes by one instruction: one read of each line, of all the sectors it touches
(R63, R71). -/
def State.noteRuns (s : State) (a : Agent) (cnt : Nat) (runs : List (Nat × Nat)) : State :=
  ((runs.flatMap fun r => linesOf r.1 r.2).dedup).foldl (fun s l =>
    s.noteRead a cnt l (runs.foldl (fun m r => Nat.lor m (secMask l r.1 r.2)) 0)) s

/-- A read of several runs of local bytes by an instruction that has read the lines of `seen` and is not done: lines read for
the first time are noted, and the counts at home stand until they are paid (R71). -/
def State.noteOnce (s : State) (a : Agent) (cnt : Nat) (seen : Reads) (runs : List (Nat × Nat)) : State × Reads :=
  (((runs.flatMap fun r => linesOf r.1 r.2).dedup).filter fun l => !seen.lines.contains l).foldl (fun p l =>
    let secs := runs.foldl (fun m r => Nat.lor m (secMask l r.1 r.2)) 0
    let owed := if p.1.countsAtHome a cnt l secs then p.2.owed ++ [l] else p.2.owed
    (p.1.noteRead a cnt l secs false, ⟨p.2.lines ++ [l], owed⟩)) (s, seen)

/-- The instruction is done: the counts at home of what it has read fall (R71). -/
def State.paid (s : State) (r : Reads) : State := r.owed.foldl (fun s l => s.homeRead l) s

/-! ### The device's own reads through page tables (R71, R401, R446) -/

/-- Port of a system-window address, and the address at that port (R392). With REMOTE above 63 the remote address is wider than
44 bits, of which the spec says nothing: the model takes it mod 2^44 (log 89, DESIGN CHOICE). -/
def State.winRoute (s : State) (pa : Nat) : Nat × Nat :=
  let off := pa - Config.windowBase
  let e := sget {} (off / 2 ^ 38) s.regs.window
  (bits e.lo.toNat 5 1, (bits e.hi.toNat 63 38 * 2 ^ 38 + off % 2 ^ 38) % 2 ^ 44)

/-- A fresh tag (R373). -/
def State.newTag (s : State) : State := { s with link := { s.link with tag := (s.link.tag + 1) % 2 ^ 32 } }

/-- An MRD for bytes of the window; answers its tag (R446). -/
def State.sendMrd (s : State) (pa n : Nat) : State × Nat :=
  let s1 := s.newTag
  let (port, addr) := s.winRoute (firstWord pa)
  (s1.send port 0x09 0 s1.link.tag (leBytes 8 addr ++ leBytes 4 (8 * wordCount pa n) ++ leBytes 4 0), s1.link.tag)

/-- A word of the window is on its way to a reader, or has come. -/
def State.asked (s : State) (who : Asker) (w : Nat) : Bool :=
  (s.link.got.any fun g => g.who == who && g.pa == w) ||
  s.link.asks.any fun a => a.who == who && a.w0 ≤ w && w < a.w0 + 8 * a.wn

/-- The context that a reader belongs to; 256, which no context has, where it is gone. -/
def State.askerCtx (s : State) : Asker → Nat
  | .record tid _ => ((s.teams.find? fun t => t.tid == tid).map (·.ctx)).getD 256
  | .code tid _ => ((s.teams.find? fun t => t.tid == tid).map (·.ctx)).getD 256
  | .op u =>
    match s.eops.find? (fun o => o.u == u), (s.quads.flatMap (·.mops)).find? (fun m => m.u == u) with
    | some o, _ => o.ctx
    | none, some m => ((s.grids.find? fun g => g.gid == m.key.gid).map (·.ctx)).getD 256
    | none, none => ((s.teams.find? fun t => t.log.any fun e => e.h == u).map (·.ctx)).getD 256
  | .fill gid _ => ((s.grids.find? fun g => g.gid == gid).map (·.ctx)).getD 256

/-- A reader asks for pieces of the system window: an MRD for each that has a word not asked for before (R446). -/
def State.askFor (s : State) (who : Asker) (runs : Runs) : State :=
  runs.foldl (fun s r =>
    if (wordsAt r.2.1 r.2.2).all (s.asked who) then s
    else
      let (s1, tag) := s.sendMrd r.2.1 r.2.2
      let ask : Ask := { tag := tag, who := who, ctx := s.askerCtx who, at_ := s.free, ptr := r.1, w0 := firstWord r.2.1, wn := wordCount r.2.1 r.2.2 }
      { s1 with link := { s1.link with asks := s1.link.asks ++ [ask] } }) s

/-- The selected team's instruction, and its code fetches, as readers. -/
def State.recordWho (s : State) : Asker := .record s.t.tid s.t.ord
def State.codeWho (s : State) : Asker := .code s.t.tid s.t.ord

/-! ### Page walks as L2 reads (R65, R399, R444) -/

/-- Addresses of the words that a walk through these entries reads, from the table at base on, each with whether the device
may have held the word (R401). -/
def CtxSlot.walkReads (c : CtxSlot) (leaf : Bool) : Nat → List TlbEntry → List (Nat × Bool)
  | _, [] => []
  | base, e :: r =>
    (base + 8 * (e.key % lvlCount e.level), leaf || !(c.held e.level e.key).isEmpty) ::
      c.walkReads leaf (bits e.word 43 8 * 256) r

/-- What translating a pointer reads in L2: the region entry, then a table word at each level, down to the one that ends the
walk (R399, R400). -/
def State.xlReads (s : State) (slot ptr : Nat) : List (Nat × Bool) :=
  let va := ptr % 2 ^ 56
  let id := ptr / 2 ^ 56
  let c := s.slot slot
  let leaf := c.tlb.any fun e => (e.level == 4 || (e.level == 3 && bits e.word 1 1 == 1)) && e.key == va / 2 ^ lvlShift e.level
  let path := match s.walkFrom slot va 5 0 c.ptroot.toNat [] with
    | .page _ p => p
    | .absent p => p ++ [⟨p.length, va / 2 ^ lvlShift p.length, 0⟩]
    | .bad _ => []
  ((c.rbtbase.toNat + 16 * id, c.rcache.any fun p => p.1 == id) ::
    c.walkReads leaf c.ptroot.toNat path).filter fun p => isLocal p.1

/-- A table word is read from tower t; one that the device may have held, freely not (R401). -/
def State.noteWalk (s : State) (t key : Nat) (r : Nat × Bool) : State :=
  let line := lineOf r.1
  let skip := r.2 && s.freeBool (fk 29 key)
  let s1 := s.settle fun e => !skip && e.inMem fun a => lineOf a == line
  { s1 with caches := if skip then s1.caches else ((s1.recall 9999 line).l2Read t line false).caches }

/-- Several accesses on the TLB path from tower t, a walk for each page they name: its L2 reads, and what it leaves in the
device's caches (R65, R399, R401). -/
def State.noteXls (s : State) (t slot : Nat) (ptrs : List Nat) : State :=
  ((ptrs.map fun p => p / 2 ^ 16).dedup).foldl (fun s p =>
    let rs := s.xlReads slot (p * 2 ^ 16)
    (((List.range rs.length).zip rs).foldl (fun s r => s.noteWalk t (8 * p + r.1) r.2) s).keepXl slot (p * 2 ^ 16)) s

/-- The tower that an agent reads from. -/
def Agent.tower : Agent → Nat
  | .core c => towerOf c
  | .fetch c => towerOf c
  | .engine t => t
  | .unit t => t
  | .host => 0

/-- The pieces of runs of virtual bytes: pointer, and where it translates the physical piece. -/
def State.virtPieces (s : State) (slot : Nat) (runs : List (Nat × Nat)) : List (Nat × Option (Nat × Nat)) :=
  (runs.flatMap fun r => pieces (r.2 / 32 + 2) r.1 r.2).map fun p =>
    (p.1, match s.xlate slot p.1 p.2 true false with | .ok pa => some (pa, p.2) | _ => none)

/-- What reading the bytes [ptr, ptr + n) through the page tables does besides giving their value: page walks, and reads of
local lines by the agent (R63, R71, R399, R401). -/
def State.noteVirt (s : State) (a : Agent) (slot : Nat) (runs : List (Nat × Nat)) : State :=
  let ps := s.virtPieces slot runs
  let pas := ps.filterMap (·.2)
  let s1 := (s.noteXls a.tower slot (ps.map (·.1))).noteRuns a 0 (pas.filter fun p => isLocal p.1)
  match a with
  | .core _ => s1.settle fun e => e.inMem fun x => pas.any fun p => p.1 / 32 == x / 32
  | .fetch _ => s1.settle fun e => e.inMem fun x => pas.any fun p => p.1 / 32 == x / 32
  | _ => s1

/-- The same for an instruction that has read the lines of `seen` and is not done (R71). -/
def State.noteVirtOnce (s : State) (a : Agent) (slot : Nat) (seen : Reads) (runs : List (Nat × Nat)) : State × Reads :=
  let ps := s.virtPieces slot runs
  let pas := ps.filterMap (·.2)
  let (s1, r) := (s.noteXls a.tower slot (ps.map (·.1))).noteOnce a 0 seen (pas.filter fun p => isLocal p.1)
  match a with
  | .core _ => (s1.settle fun e => e.inMem fun x => pas.any fun p => p.1 / 32 == x / 32, r)
  | _ => (s1, r)

end Sys2Proof.Machine
end

