-- ==== Sys2Proof/Machine/Fetch.lean ====
section
/-! DEFINITION. Instruction fetch: the line address translation table, line images, landing checks, and the front of an
issue up to the decoded instruction (R165 to R172, R181, R191, R345 to R349). -/

namespace Sys2Proof.Machine

/-- What a fetch finds. -/
inductive Fetched where
  /-- The line's words, mode bit and phase-table slot, and the step of the oldest read it rests on. -/
  | line (words : List Word) (intlk : Bool) (ptab : Nat) (at_ : Nat)
  /-- A cause with the pointer whose read failed (R207); cause 8 waits for the driver's reply (R191). -/
  | fault (cause ptr : Nat)
  | ends (status : Nat)
  /-- Pieces of it are still to come from the system window (R446). -/
  | wait (runs : Runs)
  deriving DecidableEq, Repr

/-- Bytes as 32-bit words (R4). -/
def wordsOf : Nat → List Byte → List Word
  | 0, _ => []
  | n + 1, bs => BitVec.ofNat 32 (leNat (bs.take 4)) :: wordsOf n (bs.drop 4)

/-- The versions of an item that the fetch unit holds and the selected team may use: none read before the writes that
its acquires, or the read that gave its latest jump a target, have observed (R349, R350). -/
def State.items (s : State) (slot kind idx : Nat) : List CodeItem :=
  (s.slot slot).code.filter fun i => i.kind == kind && i.idx == idx && s.t.codeAt ≤ i.at_ + 1

/-- The step of the oldest read that a fetch of the selected team may rest on now: this one, or that of an MRD whose words it
has (R350, R446). -/
def State.codeStep (s : State) : Nat :=
  s.link.got.foldl (fun m g => if g.who == s.codeWho then min m g.at_ else m) s.free

/-- A code item's n bytes at offset off of the held item, with the step they were read in: from memory now, or freely
as the fetch unit still holds them (R349). -/
def State.readItem (s : State) (slot kind idx off ptr n : Nat) : RdV × Nat :=
  let fresh := s.readVirt slot s.codeWho ptr n
  s.pick (fk 30 (8 * (2048 * idx + off) + kind)) (fresh, s.codeStep)
    (((s.items slot kind idx).map fun i => (RdV.ok ((i.data.drop off).take n), i.at_)).filter fun x => x.1 ≠ fresh)

/-- Expand a compressed image: bitmap, then an index byte or a word for each of 32 words (R347). Answers the words and
the bytes left. -/
def expandLine (dict : List Word) (m : Nat) : Nat → Nat → List Byte → Option (List Word × List Byte)
  | 0, _, bs => some ([], bs)
  | n + 1, w, bs =>
    if m / 2 ^ w % 2 = 1 then
      match bs with
      | [] => none
      | b :: r => match expandLine dict m n (w + 1) r with
        | none => none
        | some (ws, rest) => some (dict.getD b.toNat 0 :: ws, rest)
    else
      if bs.length < 4 then none
      else match expandLine dict m n (w + 1) (bs.drop 4) with
        | none => none
        | some (ws, rest) => some (BitVec.ofNat 32 (leNat (bs.take 4)) :: ws, rest)

/-- A LATT entry keeps R346. -/
def lattOk (e : Nat) : Bool := e % 2 == 1 && bits e 23 1 == 0 && (bits e 25 25 == 0 || bits e 27 26 == 3)

/-- Address arithmetic on bits [55:0], the region id kept (R345). -/
def ptrAdd (p n : Nat) : Nat := p / 2 ^ 56 * 2 ^ 56 + (p % 2 ^ 56 + n) % 2 ^ 56

/-- Expand an image by its entry (R348); at_ is the step of the oldest read so far. For an image longer than its sectors, one
with a tail that is not zero, and RAW 0 without CCODE no read has failed and R207 names no pointer: the model gives FREC the
image's (log 16, DESIGN CHOICE). -/
def State.expandBy (s : State) (slot e imgPtr : Nat) (img : List Byte) (at_ : Nat) : Fetched :=
  let intlk := bits e 24 24 == 1 || s.feature 9
  let ptab := bits e 39 32
  if bits e 25 25 = 1 then .line (wordsOf 32 img) intlk ptab at_
  else if !s.feature 6 then .fault 5 imgPtr
  else
    let d := bits e 31 28
    match s.readItem slot 1 d 0 (ptrAdd (s.slot slot).dictbase.toNat (1024 * d)) 1024 with
    | (.fault c p, _) => .fault c p
    | (.ends st, _) => .ends st
    | (.wait l, _) => .wait l
    | (.ok db, k) =>
      match expandLine (wordsOf 256 db) (leNat (img.take 4)) 32 0 (img.drop 4) with
      | none => .fault 5 imgPtr
      | some (ws, rest) => if rest.any fun b => b != 0 then .fault 5 imgPtr else .line ws intlk ptab (min at_ k)

/-- The code address lies in the heap (R345, R348). -/
def State.inHeap (s : State) (slot x : Nat) : Bool :=
  let c := s.slot slot
  let base := c.codebase.toNat
  x / 2 ^ 56 == base / 2 ^ 56 && base % 2 ^ 56 ≤ x % 2 ^ 56 && x % 2 ^ 56 - base % 2 ^ 56 < c.codesize.toNat

/-- Number of the code line of x within the heap, the pointer of its LATT entry, and that of the image an entry names. -/
def State.lineNo (s : State) (slot x : Nat) : Nat := (x % 2 ^ 56 - (s.slot slot).codebase.toNat % 2 ^ 56) / 128
def State.lattPtr (s : State) (slot x : Nat) : Nat := ptrAdd (s.slot slot).lattbase.toNat (8 * s.lineNo slot x)
def State.imagePtr (s : State) (slot e : Nat) : Nat := ptrAdd (s.slot slot).storebase.toNat (32 * bits e 63 40)

/-- The fetch of the line that holds code address x, from memory and held items (R348). -/
def State.fetchFresh (s : State) (slot x : Nat) : Fetched :=
  if !s.inHeap slot x then .fault 5 x
  else
    let ep := s.lattPtr slot x
    match s.readItem slot 0 (s.lineNo slot x) 0 ep 8 with
    | (.fault cs p, _) => .fault cs p
    | (.ends st, _) => .ends st
    | (.wait l, _) => .wait l
    | (.ok eb, k) =>
      let e := leNat eb
      if !lattOk e then .fault 5 ep
      else
        let ip := s.imagePtr slot e
        match s.readVirt slot s.codeWho ip (32 * (bits e 27 26 + 1)) with
        | .fault cs p => .fault cs p
        | .ends st => .ends st
        | .wait l => .wait l
        | .ok img => s.expandBy slot e ip img (min s.codeStep k)

/-- Both are lines of the same content. -/
def Fetched.same (a b : Fetched) : Bool :=
  match a, b with
  | .line w i p _, .line w' i' p' _ => w == w' && i == i' && p == p'
  | _, _ => false

/-- A held line as a fetch. -/
def CodeItem.asLine (i : CodeItem) : Fetched := .line (wordsOf 32 i.data) i.intlk i.ptab i.at_

/-- The fetch of the line that holds x (R348), or freely the line as the fetch unit still holds it (R349). -/
def State.fetchLine (s : State) (slot x : Nat) : Fetched :=
  let fresh := s.fetchFresh slot x
  if !s.inHeap slot x then fresh
  else s.pick (fk 31 (s.lineNo slot x)) fresh
    (((s.items slot 3 (s.lineNo slot x)).map CodeItem.asLine).filter fun f => !f.same fresh)

/-- Hold an item beside the older versions of it. -/
def CtxSlot.keep (c : CtxSlot) (i : CodeItem) : CtxSlot :=
  { c with code := i :: c.code.filter fun j =>
      !(j.kind == i.kind && j.idx == i.idx && j.data == i.data && j.intlk == i.intlk && j.ptab == i.ptab) }

/-- Keep an item that has just been read. Where the fetch unit held the same bytes the read may not have been made, and
only the step changes. -/
def State.keepRead (s : State) (slot kind idx ptr n : Nat) : State :=
  match s.readVirt slot s.codeWho ptr n with
  | .ok bs =>
    if kind = 0 ∧ leNat bs % 2 = 0 then s
    else
      let s1 := if (s.items slot kind idx).any fun i => i.data == bs then s
        else s.noteVirt (.fetch s.t.core) slot [(ptr, n)]
      s1.modSlot slot fun c => c.keep { kind := kind, idx := idx, data := bs, at_ := s.codeStep }
  | _ => s

/-- The fetch unit holds what it read for the line of x (R349): the LATT entry, the dictionary, the line. The reads
go through the L1 of the team's core, and are no reads of R71. -/
def State.keepLine (s : State) (slot x : Nat) (words : List Word) (intlk : Bool) (ptab at_ : Nat) : State :=
  let n := s.lineNo slot x
  let item : CodeItem := ⟨3, n, words.flatMap fun w => leBytes 4 w.toNat, intlk, ptab, at_⟩
  if (s.items slot 3 n).any fun i => i.asLine.same item.asLine then s.modSlot slot fun c => c.keep item
  else
    let ep := s.lattPtr slot x
    let s1 := match s.readVirt slot s.codeWho ep 8 with
      | .ok eb =>
        let e := leNat eb
        let d := bits e 31 28
        let s1 := (s.keepRead slot 0 n ep 8).noteVirt (.fetch s.t.core) slot
          [(s.imagePtr slot e, 32 * (bits e 27 26 + 1))]
        if bits e 25 25 = 1 then s1
        else s1.keepRead slot 1 d (ptrAdd (s.slot slot).dictbase.toNat (1024 * d)) 1024
      | _ => s
    s1.modSlot slot fun c => c.keep item

/-- A fetch by the selected team meets a fault: an absent page sends a FAULT with SRC 1 and the team waits; any other
cause is raised at once with TEPC at x (R191). A word that a port has refused is asked for again by the next fetch. A header that cannot be fetched leaves TCLAUSE.HDR zero (log 16). -/
def State.fetchFault (s : State) (slot x cause ptr idx : Nat) : State :=
  let s : State := { (if cause = 5 then s else s.noteXls (towerOf s.t.core) slot [ptr]) with
    link := { s.link with got := s.link.got.filter fun g => g.who != s.codeWho } }
  if cause = 8 then
    let (s1, fs) := s.sendFault slot 1 s.t.core s.t.place 0 s.t.tid 0 [pageEntry ptr 8 true false]
    s1.hold (.fetch fs ptr x idx)
  else
    let cl : Clause := if idx = 0 then { s.t.cl with idx := 0, hdr := 0 } else { s.t.cl with idx := idx }
    s.decide [⟨cause, 0, BitVec.ofNat 64 ptr, BitVec.ofNat 64 x, cl, false, s.t.ord⟩]

/-- A fault of the context with this number is still outstanding. -/
def State.faultOpen (s : State) (ctx fseq : Nat) : Bool := (s.ctxOf ctx).faults.any fun f => f.fseq == fseq

/-- The word at x by the selected team's fetch. -/
inductive WordAt where
  | ok (w : Word) (intlk : Bool) (ptab : Nat) (s : State)
  | stop (s : State)

/-- The word at x, idx words into the clause, lies in another line than the word before it, while an acquire of the team is
not done: its fetch follows the acquire (R350). -/
def State.fetchWaits (s : State) (x idx : Nat) : Bool :=
  s.acquiring && (if idx = 0 then s.t.last.toNat / 128 != x / 128 else x % 128 == 0)

/-- Fetch the word at x; idx is its position in the clause (R191). -/
def State.wordAt (s : State) (slot x idx : Nat) : WordAt :=
  if s.fetchWaits x idx then .stop (s.hold .other)
  else match s.fetchLine slot x with
  | .line ws il pt k => .ok (ws.getD (x / 4 % 32) 0) il pt (s.keepLine slot x ws il pt k)
  | .fault c p => .stop (s.fetchFault slot x c p idx)
  | .ends st => .stop ((s.endCtx s.t.ctx st).hold .other)
  | .wait l => .stop ((s.askFor s.codeWho l).hold .other)

/-- The word at x without any effect; zero where the fetch fails. -/
def State.peekWord (s : State) (slot x : Nat) : Word × Bool :=
  match s.fetchLine slot x with
  | .line ws il _ _ => (ws.getD (x / 4 % 32) 0, il)
  | _ => (0, false)

/-- What the line of x has still to bring from the system window. -/
def State.peekRuns (s : State) (slot x : Nat) : Runs := match s.fetchLine slot x with | .wait l => l | _ => []

/-- Go on with f once the line of x can be read; until then the team holds, and asks for it (R446). -/
def State.withLine (s : State) (slot x : Nat) (f : State → State) : State :=
  match s.peekRuns slot x with
  | [] => f s
  | l => (s.askFor s.codeWho l).hold .other

/-- The header at a code address as TCLAUSE.HDR gives it: 0 where no header stands (R213, log 16). -/
def State.peekHdr (s : State) (slot : Nat) (x : DWord) : Word :=
  let h := (s.peekWord slot x.toNat).1
  if x.toNat % 4 = 0 && headerOk h then h else 0

/-- Between clauses, the clause state at pc has the header at pc (R213). -/
def State.syncHdr (s : State) : State :=
  if s.t.cl.idx = 0 then
    match s.slotOf s.t.ctx with
    | none => s
    | some slot => { s with t := { s.t with cl := { s.t.cl with hdr := s.peekHdr slot s.t.pc } } }
  else s

/-- An acquire of the selected team is done: its later fetches observe what happens before it (R350). -/
def State.acquired (s : State) : State := s.modT fun t => { t with codeAt := max t.codeAt (s.free + 1) }

/-- A control transfer takes its target from a register whose value comes from this step's read: later fetches observe what
happens before that read (R350). -/
def State.fetchAfter (s : State) (step : Nat) : State := s.modT fun t => { t with codeAt := max t.codeAt step }

/-- The count above which a phase has overrun: E, twice on a half-width core, and its margin (R17, R42). -/
def State.phaseLimit (s : State) (t : Team) : Nat :=
  let e := if (s.core t.core).half then 2 * t.ph.e else t.ph.e
  e + e / 2 ^ t.phmargin.toNat

/-- The team's phase has overrun (R42). -/
def State.phaseOver (s : State) (t : Team) : Bool := t.life == Life.live && t.ph.on && s.phaseLimit t < t.ph.el

/-- Fetch n literal words from x on. -/
def State.litsAt (s : State) (slot : Nat) : Nat → Nat → Nat → List Word → (List Word × State) ⊕ State
  | 0, _, _, acc => .inl (acc, s)
  | n + 1, x, idx, acc =>
    match s.wordAt slot x idx with
    | .ok w _ _ s1 => s1.litsAt slot n (x + 4) (idx + 1) (acc ++ [w])
    | .stop s1 => .inr s1

/-- The front of an issue: the team stays where it is, or an instruction is decoded and runs. -/
inductive Front where
  | stay (s : State)
  | go (i : Instr) (s : State)

/-- Take the word at pc of a clause whose header is known: decode it with its literals (R168, R181). -/
def State.frontWord (s : State) (slot : Nat) : Front :=
  let t := s.t
  let h := t.cl.hdr
  match s.wordAt slot t.pc.toNat t.cl.idx with
  | .stop s1 => .stay s1
  | .ok w _ pt s1 =>
    let s2 := { s1 with t := { s1.t with cl := { s1.t.cl with ptab := pt } } }
    let badFlag (f : Nat) : Bool := f == 0xC || f == 0xD || f == 0xE
    match formOf (opOf w) with
    | none => .go (.reservedOpcode w) s2
    | some f =>
      let n := f.nLits (bOf w)
      if badFlag (hSETA h) || badFlag (hSETB h) || hLEN h < t.cl.idx + n ||
          (f.ctl && t.cl.idx + n < hLEN h) then .go (.reservedOpcode w) s2
      else match s2.litsAt slot n (t.pc.toNat + 4) (t.cl.idx + 1) [] with
        | .inr s3 => .stay s3
        | .inl (ls, s3) =>
          match decodeWords w ls with
          | .ok (i, _) => .go i s3
          | .error _ => .go (.reservedOpcode w) s3

/-- Land on the header at pc, and go on to the clause's first word when its flags are clear (R166, R167, R170); where
the mode changes, once every outstanding instruction is complete and every result available (R172). -/
def State.frontHeader (s : State) (slot : Nat) : Front :=
  let t := s.t
  let fail (s : State) : State :=
    if s.t.landing ≠ 0 then (s.endCtx s.t.ctx (0x30 + s.t.landing)).hold .other
    else s.decide [⟨1, 0, s.t.via, s.t.pc &&& ~~~(3#64), { s.t.cl with idx := 0, hdr := 0 }, false, s.t.ord⟩]
  if t.pc.toNat % 4 ≠ 0 then .stay (fail s)
  else match s.wordAt slot t.pc.toNat 0 with
    | .stop s1 => .stay s1
    | .ok h il pt s1 =>
      if !headerOk h then .stay (fail s1)
      else
        let cl : Clause := { hdr := h, idx := 1, aused := false, arr := false, intlk := il, ptab := pt }
        let turn := il != t.cl.intlk
        let s2 := { s1 with t := { s1.t with
          cl := cl, pc := s1.t.pc + 4, clno := s1.t.clmax + 1, clmax := s1.t.clmax + 1, landing := 0
          cyc := if turn then t.recent.foldl (fun c (x : Recent) => max c x.ready) t.cyc else t.cyc
          recent := if turn then [] else t.recent } }
        if turn && !t.infl.isEmpty then .stay (s1.hold .other)
        else if !il && !s2.t.waitClear then .stay (s1.hold .other)
        else s2.frontWord slot

/-- The team may issue: it is resident on a core that may run its block, its block has started, its context neither ends nor
is suspended, and none of its tile instructions is left from before an eviction (R18, R58, R109, R407, R412). -/
def State.runs (s : State) (t : Team) : Bool :=
  t.life == .live && !((s.grid? t.gid).any fun g => s.barred t.core g.lrec) && !(s.core t.core).fenced &&
    (s.block? t.bid).all (·.started) && !s.ctxEnding t.ctx && !(s.ctxOf t.ctx).susp && !(t.infl.any (·.back))

/-- Enter the trap of a boundary cause, with the header that stands at pc (R213, R214). -/
def State.trapHere (s : State) (slot : Nat) : State :=
  if s.t.cl.idx = 0 then s.withLine slot s.t.pc.toNat fun s => s.syncHdr.tryTrap else s.tryTrap

/-- The selected team's next issue, up to its decoded instruction: a phase that has overrun (R42) and
traps that are due (R40, R206) come first, but for a CMPCT that has appended some of its items (R169, R208), then the landing check, the flags and the word at pc. -/
def State.front (s : State) : Front :=
  let t := s.t
  match s.slotOf t.ctx with
  | none => .stay s
  | some slot =>
    if !s.runs t then .stay s
    else
      let fetching := match t.wait with | .fetch fs .. => s.faultOpen t.ctx fs | _ => false
      if s.phaseOver t then .go (.phaseOverrun t.tid) s
      else if fetching then .stay (s.hold t.wait)
      else if t.appending then (match t.appended with | some i => .go i s | none => .stay s)
      else if !t.dec.isEmpty then .stay s.tryTrap
      else if !t.pendB.isEmpty && !t.hnd then .stay (s.trapHere slot)
      else if t.cl.idx = 0 then s.frontHeader slot
      else s.frontWord slot

end Sys2Proof.Machine
end

