-- ==== Sys2Proof/Machine/Lifecycle.lean ====
section
/-! DEFINITION. Barriers as shared operations, and what a team's exit and a block's retirement free (R29, R46, R47,
R192, R260 to R263, R278, R281). -/

namespace Sys2Proof.Machine

/-- P ≠ W[t]: the phase in which t last arrived has completed (R261). -/
def Barrier.passed (b : Barrier) (t : Nat) : Bool := b.p != b.w.contains t

/-- A phase completes (R261); members that exited leave M (R263). -/
def Barrier.complete (b : Barrier) : Barrier :=
  { b with c := 0, arr := [], p := !b.p, mem := b.mem.filter fun t => !b.gone.contains t, gone := [] }

/-- The phase completes when C = |M|. -/
def Barrier.settle (b : Barrier) : Barrier := if b.c = b.mem.length then b.complete else b

/-- A[t] := 1 and W[t] := P, without counting (R261, R269). -/
def Barrier.reserve (b : Barrier) (t : Nat) : Barrier :=
  { b with arr := b.arr ++ [t], w := if b.p then (b.w.filter fun x => x != t) ++ [t] else b.w.filter fun x => x != t }

/-- C := C + 1, and completion (R261, R269). -/
def Barrier.count (b : Barrier) : Barrier := { b with c := b.c + 1 }.settle

/-- A team's arrival (R261). -/
def Barrier.arrive (b : Barrier) (t : Nat) : Barrier := (b.reserve t).count

/-- A member exits (R263). -/
def Barrier.leave (b : Barrier) (t : Nat) : Barrier :=
  if !b.mem.contains t then b
  else if b.arr.contains t then { b with gone := b.gone ++ [t] }
  else
    let b1 := { b with mem := b.mem.filter fun x => x != t }
    if b1.c = b1.mem.length && b1.c != 0 then b1.complete else b1

/-- Update barrier n of a class that a team of this block can name. -/
def State.modBar (s : State) (gid bid core cluster cls n : Nat) (f : Barrier → Barrier) : State :=
  match cls with
  | 0 => s.modBlock bid fun b => { b with bars := b.bars.modify n f }
  | 1 =>
    let upd (l : List QGrant) : List QGrant :=
      updFirst (fun g => g.gid == gid && g.cluster == cluster) (fun g => { g with bars := g.bars.modify n f }) l
    s.modQuad (quadOf core) fun q => { q with qgrants := upd q.qgrants }
  | 2 => s.modGrid gid fun g => { g with gbars := g.gbars.modify n f }
  | _ => s

/-- Update a barrier of the selected team. -/
def State.modMyBar (s : State) (cls n : Nat) (f : Barrier → Barrier) : State :=
  s.modBar s.t.gid s.t.bid s.t.core s.myCluster cls n f

def State.myBar (s : State) (cls n : Nat) : Barrier := (s.barriers cls).getD n {}

/-- Leave every barrier the selected team is a member of (R263). -/
def State.leaveBarriers (s : State) : State :=
  let f (b : Barrier) : Barrier := b.leave s.t.tid
  let s1 := s.modBlock s.t.bid fun b => { b with bars := b.bars.map f }
  let s2 := s1.modQuad (quadOf s.t.core) fun q =>
    { q with qgrants := q.qgrants.map fun g => if g.gid == s.t.gid then { g with bars := g.bars.map f } else g }
  s2.modGrid s.t.gid fun g => { g with gbars := g.gbars.map f }

/-- Other blocks of a grid that are resident on a quad. -/
def State.gridOnQuad (s : State) (gid q : Nat) : Bool :=
  s.blocks.any fun b => b.gid == gid && b.life == .resident && quadOf b.core == q

/-- Free what a block held on its quad: its quad barriers once no block of its cluster is resident, its grid's tiles
and Cupboard allocation once no block of the grid is resident there (R29, R58, R278). Called after the block has left. -/
def State.freeQuad (s : State) (gid cluster q : Nat) (r : LaunchRec) : State :=
  let clusterHere := s.blocks.any fun b => b.gid == gid && b.life == .resident && quadOf b.core == q &&
    clusterOf r b.rank == cluster
  let gridHere := s.gridOnQuad gid q
  s.modQuad q fun x => { x with
    qgrants := if clusterHere then x.qgrants else x.qgrants.filter fun g => !(g.gid == gid && g.cluster == cluster)
    tgrants := if gridHere then x.tgrants else x.tgrants.filter fun g => g.gid != gid
    cups := if gridHere then x.cups else x.cups.filter fun c => c.gid != gid }

/-- The live teams that a crew lists, by entry (R283). -/
def State.crewTeam (s : State) (k : CrewKey) (e : Nat × Nat) : Option Team :=
  s.teams.find? fun t => t.gid == k.gid && t.idx == e.2 && (t.life == .live || t.life == .evicted) &&
    (match s.block? t.bid, s.grid? k.gid with
     | some b, some g => clusterOf g.lrec b.rank == k.cluster && clusterRank g.lrec b.rank == e.1
     | _, _ => false)

/-- Admit queued requests while entries are free: the highest class first, the oldest on a tie (R280). -/
def admitResv (n : Nat) (q : Quad) : Quad :=
  match n with
  | 0 => q
  | n + 1 =>
    if 8 ≤ q.resv.length then q
    else match q.rqueue with
      | [] => q
      | r :: rest =>
        let best := rest.foldl (fun b x => if b.cls < x.cls || (b.cls == x.cls && x.at_ < b.at_) then x else b) r
        admitResv n { q with resv := q.resv ++ [best], rqueue := q.rqueue.filter fun x => x.key != best.key }

/-- Release the entries and requests of crews that satisfy p, and admit others (R280, R281). -/
def Quad.releaseResv (q : Quad) (p : CrewKey → Bool) : Quad :=
  admitResv 8 { q with resv := q.resv.filter fun r => !p r.key, rqueue := q.rqueue.filter fun r => !p r.key }

/-- A block's last team has exited: it is retired and its resources freed (R47). -/
def State.retireBlock (s : State) (bid : Nat) : State :=
  match s.block? bid with
  | none => s
  | some b =>
    let r := match s.grid? b.gid with | some g => g.lrec | none => {}
    let s1 := { s with blocks := s.blocks.filter fun x => x.bid != bid,
                       others := s.others.filter fun (t : Team) => t.bid != bid || t.life == Life.live }
    let s2 := s1.freeQuad b.gid (clusterOf r b.rank) (quadOf b.core) r
    s2.modGrid b.gid fun g => { g with
      retired := g.retired + 1
      st := if g.retired + 1 == r.nBlocks && g.st == GridSt.running &&
          (s.grids.any fun c => c.parent == some g.gid && c.st != GridSt.complete) then GridSt.draining else g.st }

/-- Window writes and reductions of a team that are not acknowledged go on under its grid and context once it has exited:
they are followed by the grid's completion and the context's end (R91, R106, R258, R391). -/
def State.lateWrites (s : State) (tid gid ctx : Nat) : State :=
  { s with link := { s.link with
      wlate := s.link.wlate ++ ((s.link.wacks.filter fun w => w.2 == tid).map (·.1) ++
        (s.link.reqs.filter fun r => r.tid == tid).map (·.tag)).map fun tag => (tag, gid, ctx) } }

/-- The selected team exits (R46, R192, R263, R268). Every reservation whose listed teams have all exited is released
(R281). -/
def State.exitTeam (s : State) : State :=
  let cluster := s.myCluster
  let s1 := s.leaveBarriers.lateWrites s.t.tid s.t.gid s.t.ctx
  let s2 := { s1 with t := { s1.t with
    life := .exited, ph := { s1.t.ph with on := false }, s := [], v := [], p := [], m := [], evq := [], pendB := []
    recent := [], stack := [], wait := .none } }
  let gone (k : CrewKey) : Bool := k.gid == s2.t.gid && k.cluster == cluster &&
    (crewEntries k.crew).all fun e => (s2.crewTeam k e).isNone
  let q := s2.quadD (quadOf s2.t.core)
  let s3 := if (q.resv ++ q.rqueue).any fun r => gone r.key then
      s2.modQuad (quadOf s2.t.core) fun q => q.releaseResv gone
    else s2
  if s3.teams.all fun t => t.bid != s3.t.bid || t.life == .exited then s3.retireBlock s3.t.bid else s3

end Sys2Proof.Machine
end

