-- ==== Sys2Proof/Machine/Scalar.lean ====
section
/-! DEFINITION. Scalar arithmetic (R195 to R199). -/

namespace Sys2Proof.Machine

/-- The answer of a meaning. -/
abbrev Out := Host.Outcome State Fault Refusal

/-- Leading zeros, trailing zeros, one bits and reversal of w bits (R197, R223). -/
def clzN (w v : Nat) : Nat := w - bitLen (v % 2 ^ w)
def ctzN : Nat → Nat → Nat
  | 0, _ => 0
  | w + 1, v => if v % 2 = 1 then 0 else 1 + ctzN w (v / 2)
def popN : Nat → Nat → Nat
  | 0, _ => 0
  | w + 1, v => v % 2 + popN w (v / 2)
def brevN : Nat → Nat → Nat
  | 0, _ => 0
  | w + 1, v => v % 2 * 2 ^ w + brevN w (v / 2)

/-- Signed division truncated toward zero, and its remainder, with the corners of R195. -/
def sdivVal (a b : DWord) : DWord :=
  if b = 0 then BitVec.ofInt 64 (-1) else BitVec.ofInt 64 (Int.tdiv a.toInt b.toInt)
def sremVal (a b : DWord) : DWord :=
  if b = 0 then a else BitVec.ofInt 64 (Int.tmod a.toInt b.toInt)

/-- High 64 bits of the signed product (R195). -/
def smulhVal (a b : DWord) : DWord := BitVec.ofInt 64 (a.toInt * b.toInt / 2 ^ 64)

/-- −1, 0 or +1 by signed comparison (R195). -/
def scmpVal (a b : DWord) : DWord :=
  if a.toInt < b.toInt then BitVec.ofInt 64 (-1) else if a = b then 0 else 1

/-- Pointer advance within its region (R198). -/
def saddrVal (a b : DWord) : DWord :=
  BitVec.ofNat 64 (a.toNat / 2 ^ 56 * 2 ^ 56 + (a.toNat % 2 ^ 56 + b.toNat) % 2 ^ 56)

/-- s_d := f of two scalar registers, both read before s_d is written (R195). -/
def sBin (i : Instr) (d a b : Nat) (f : DWord → DWord → DWord) (s : State) : State :=
  issue i s fun s => (s.ws d (f (s.rs a) (s.rs b))).done i

/-- s_d := f of one scalar register (R196, R197). -/
def sUn (i : Instr) (d a : Nat) (f : DWord → DWord) (s : State) : State :=
  issue i s fun s => (s.ws d (f (s.rs a))).done i


/-- SADD (R195). -/
def execSadd (d a b : Nat) (s : State) : Out := .next (sBin (.sadd d a b) d a b (fun x y => x + y) s)

/-- SSUB (R195). -/
def execSsub (d a b : Nat) (s : State) : Out := .next (sBin (.ssub d a b) d a b (fun x y => x - y) s)

/-- SMUL (R195). -/
def execSmul (d a b : Nat) (s : State) : Out := .next (sBin (.smul d a b) d a b (fun x y => x * y) s)

/-- SMULH (R195). -/
def execSmulh (d a b : Nat) (s : State) : Out := .next (sBin (.smulh d a b) d a b (smulhVal) s)

/-- SDIV (R195). -/
def execSdiv (d a b : Nat) (s : State) : Out := .next (sBin (.sdiv d a b) d a b (sdivVal) s)

/-- SREM (R195). -/
def execSrem (d a b : Nat) (s : State) : Out := .next (sBin (.srem d a b) d a b (sremVal) s)

/-- SAND (R195). -/
def execSand (d a b : Nat) (s : State) : Out := .next (sBin (.sand d a b) d a b (fun x y => x &&& y) s)

/-- SOR (R195). -/
def execSor (d a b : Nat) (s : State) : Out := .next (sBin (.sor d a b) d a b (fun x y => x ||| y) s)

/-- SXOR (R195). -/
def execSxor (d a b : Nat) (s : State) : Out := .next (sBin (.sxor d a b) d a b (fun x y => x ^^^ y) s)

/-- SSHL (R195). -/
def execSshl (d a b : Nat) (s : State) : Out := .next (sBin (.sshl d a b) d a b (fun x y => x <<< (y.toNat % 64)) s)

/-- SSHR (R195). -/
def execSshr (d a b : Nat) (s : State) : Out := .next (sBin (.sshr d a b) d a b (fun x y => x >>> (y.toNat % 64)) s)

/-- SSAR (R195). -/
def execSsar (d a b : Nat) (s : State) : Out := .next (sBin (.ssar d a b) d a b (fun x y => x.sshiftRight (y.toNat % 64)) s)

/-- SCMP (R195). -/
def execScmp (d a b : Nat) (s : State) : Out := .next (sBin (.scmp d a b) d a b (scmpVal) s)

/-- SMIN (R195). -/
def execSmin (d a b : Nat) (s : State) : Out := .next (sBin (.smin d a b) d a b (fun x y => if x.toInt ≤ y.toInt then x else y) s)

/-- SMAX (R195). -/
def execSmax (d a b : Nat) (s : State) : Out := .next (sBin (.smax d a b) d a b (fun x y => if x.toInt ≤ y.toInt then y else x) s)

/-- SADDI (R196): the immediate is sign-extended. -/
def execSaddi (d a b : Nat) (s : State) : Out := .next (sUn (.saddi d a b) d a (fun x => x + (BitVec.ofNat 8 b).signExtend 64) s)

/-- SSHLI (R196). -/
def execSshli (d a b : Nat) (s : State) : Out := .next (sUn (.sshli d a b) d a (fun x => x <<< b) s)

/-- SSHRI (R196). -/
def execSshri (d a b : Nat) (s : State) : Out := .next (sUn (.sshri d a b) d a (fun x => x >>> b) s)

/-- SMOVL (R196): one literal sign-extended, or two literals, low word first. -/
def execSmovl (d : Nat) (l : Word) (l2 : Option Word) (s : State) : Out :=
  .next (issue (.smovl d l l2) s fun s =>
    (s.ws d (match l2 with | none => l.signExtend 64 | some h => h ++ l)).done (.smovl d l l2))

/-- SMOV (R196). -/
def execSmov (d a : Nat) (s : State) : Out := .next (sUn (.smov d a) d a (fun x => x) s)


/-- SNEG (R197). -/
def execSneg (d a : Nat) (s : State) : Out := .next (sUn (.sneg d a) d a (fun x => -x) s)

/-- SNOT (R197). -/
def execSnot (d a : Nat) (s : State) : Out := .next (sUn (.snot d a) d a (fun x => ~~~x) s)

/-- SABS (R197): −2^63 stays. -/
def execSabs (d a : Nat) (s : State) : Out := .next (sUn (.sabs d a) d a (fun x => if x.toInt < 0 then -x else x) s)

/-- SCLZ (R197). -/
def execSclz (d a : Nat) (s : State) : Out := .next (sUn (.sclz d a) d a (fun x => BitVec.ofNat 64 (clzN 64 x.toNat)) s)

/-- SCTZ (R197). -/
def execSctz (d a : Nat) (s : State) : Out := .next (sUn (.sctz d a) d a (fun x => BitVec.ofNat 64 (ctzN 64 x.toNat)) s)

/-- SPOPC (R197). -/
def execSpopc (d a : Nat) (s : State) : Out := .next (sUn (.spopc d a) d a (fun x => BitVec.ofNat 64 (popN 64 x.toNat)) s)

/-- SBREV (R197). -/
def execSbrev (d a : Nat) (s : State) : Out := .next (sUn (.sbrev d a) d a (fun x => BitVec.ofNat 64 (brevN 64 x.toNat)) s)

/-- SEXT32 (R197). -/
def execSext32 (d a : Nat) (s : State) : Out := .next (sUn (.sext32 d a) d a (fun x => (x.setWidth 32).signExtend 64) s)

/-- SADDR (R198). -/
def execSaddr (d a b : Nat) (s : State) : Out := .next (sBin (.saddr d a b) d a b saddrVal s)

/-- SGETV (R199): the lane of v_a that s_b names; 0 for an absent lane, whatever the mask. -/
def execSgetv (d a b : Nat) (s : State) : Out :=
  .next (issue (.sgetv d a b) s fun s =>
    let l := (s.rs b).toNat
    (s.ws d (if l < s.t.lanes then (s.rv a l).setWidth 64 else 0)).done (.sgetv d a b))

end Sys2Proof.Machine
end

