-- ==== Sys2Proof/Machine/Control.lean ====
section
/-! DEFINITION. MODE, branches, divergence, calls, loops, EXIT, TRAP and ERET (R177, R182 to R192, R215, R216), and
the codes of R180. -/

namespace Sys2Proof.Machine

/-- NOP (R182). -/
def execNop (s : State) : Out := .next (issue .nop s fun s => s.done .nop)

/-- Set MODE after the check of R177. -/
def setMode (i : Instr) (new : Word) (s : State) : State :=
  if modeOk new then ({ s with t := { s.t with mode := new } }).done i else s.illegalMode i.word new

/-- SETM (R177). -/
def execSetm (l : Word) (s : State) : Out := .next (issue (.setm l) s fun s => setMode (.setm l) l s)

/-- SETMK (R177). -/
def execSetmk (l l2 : Word) (s : State) : Out :=
  .next (issue (.setmk l l2) s fun s => setMode (.setmk l l2) ((s.t.mode &&& ~~~l2) ||| (l &&& l2)) s)

/-- A branch: to the target, or on to the next header (R184). -/
def branch (taken : Bool) (l : Word) (s : State) : State := if taken then s.jump (s.t.target l) else s.fall

/-- BRA (R184). -/
def execBra (l : Word) (s : State) : Out := .next (issue (.bra l) s fun s => branch true l s)

/-- The condition of BRS on a signed value (R184). -/
def brsCond (c : Nat) (x : DWord) : Bool :=
  match c with
  | 0 => x == 0
  | 1 => x != 0
  | 2 => decide (x.toInt < 0)
  | 3 => decide (0 ≤ x.toInt)
  | 4 => decide (0 < x.toInt)
  | 5 => decide (x.toInt ≤ 0)
  | 6 => x.toNat % 2 == 1
  | _ => x.toNat % 2 == 0

/-- BRS (R184). -/
def execBrs (a b : Nat) (l : Word) (s : State) : Out :=
  .next (issue (.brs a b l) s fun s => branch (brsCond b (s.rs a)) l s)

/-- BRP (R185): the guard is ignored; divergence pushes the fall-through path. -/
def brp (a : Nat) (l : Word) (s : State) : State :=
  let lanes := s.t.mask &&& s.t.present
  let tk := lanes &&& s.rp a
  let ft := lanes &&& ~~~(s.rp a)
  if tk = 0 then s.fall
  else if ft = 0 then s.jump (s.t.target l)
  else if 16 ≤ s.t.stack.length then s.raise 14 (s.t.target l)
  else
    let e : StackEntry := ⟨true, s.t.nextHdr, ft, s.t.mode⟩
    ({ s with t := { s.t with stack := e :: s.t.stack, mask := tk } }).jump (s.t.target l)

/-- BRP (R185). -/
def execBrp (a : Nat) (l : Word) (s : State) : Out := .next (issue (.brp a l) s fun s => brp a l s)

/-- BRV (R184): a vote over the active lanes, the guard ignored (R182). -/
def execBrv (a b : Nat) (l : Word) (s : State) : Out :=
  .next (issue (.brv a b l) s fun s =>
    let lanes := s.t.mask &&& s.t.present
    let some_ := (lanes &&& s.rp a) != 0
    let all := (lanes &&& ~~~(s.rp a)) == 0
    branch (match b with | 0 => some_ | 1 => all | _ => !some_) l s)

/-- MARK (R186). -/
def execMark (l : Word) (s : State) : Out :=
  .next (issue (.mark l) s fun s =>
    if 16 ≤ s.t.stack.length then s.raise 14 (s.t.target l)
    else
      let e : StackEntry := ⟨false, s.t.target l, s.t.mask, s.t.mode⟩
      ({ s with t := { s.t with stack := e :: s.t.stack } }).done (.mark l))

/-- JOIN (R187). -/
def execJoin (s : State) : Out :=
  .next (issue .join s fun s =>
    match s.t.stack with
    | [] => s.illegal Instr.join.word
    | e :: r => ({ s with t := { s.t with stack := r, mask := e.mask, mode := e.mode } }).jump e.addr)

/-- CALL (R189). -/
def execCall (d : Nat) (l : Word) (s : State) : Out :=
  .next (issue (.call d l) s fun s => (s.ws d s.t.nextHdr).jump (s.t.target l))

/-- CALLI (R189). -/
def execCalli (d a : Nat) (s : State) : Out :=
  .next (issue (.calli d a) s fun s => let t := s.rs a; ((s.ws d s.t.nextHdr).fetchAfter (s.taintOf (.s a))).jump t)

/-- RET (R189). -/
def execRet (a : Nat) (s : State) : Out := .next (issue (.ret a) s fun s => (s.fetchAfter (s.taintOf (.s a))).jump (s.rs a))

/-- JMPI (R189). -/
def execJmpi (a : Nat) (s : State) : Out := .next (issue (.jmpi a) s fun s => (s.fetchAfter (s.taintOf (.s a))).jump (s.rs a))

/-- LOOP (R190). -/
def execLoop (a : Nat) (l : Word) (s : State) : Out :=
  .next (issue (.loop a l) s fun s =>
    let x := s.rs a
    if x = 0 then s.fall
    else branch (x - 1 != 0) l (s.ws a (x - 1)))

/-- EXIT (R192): waits for every log entry and every outstanding instruction. -/
def execExit (s : State) : Out :=
  .next (issue .exit s fun s => if s.t.quietForTrap then s.exitTeam else s.hold .other)

/-- TRAP (R215). -/
def execTrap (b : Nat) (s : State) : Out :=
  .next (issue (.trap b) s fun s =>
    let slot := (s.slotOf s.t.ctx).getD 0
    let h := s.t.nextHdr
    s.withLine slot h.toNat fun s =>
    let cl : Clause := { s.t.cl with hdr := s.peekHdr slot h, idx := 0, aused := false, arr := false }
    s.decide [⟨15, 0, BitVec.ofNat 64 b, h, cl, false, s.t.ord⟩])

/-- Return from a trap (R216): the shared operation beside takeTrap. -/
def returnFromTrap (s : State) : State :=
  let t := s.t
  let c := t.tclause.toNat
  let hdr : Word := BitVec.ofNat 32 c
  let idx := bits c 35 32
  if !t.hnd then s.illegal Instr.eret.word
  else if !modeOk t.tmode then s.illegalMode Instr.eret.word t.tmode
  else if idx ≠ 0 ∧ hLEN hdr < idx then s.illegal Instr.eret.word
  else
    let s1 : State := { s with t := { t with mode := t.tmode, tcause := t.tcause &&& 0x7FFFFFFF } }
    let s2 := (s1.fetchAfter (sget 0 (sysKey 0x0A) t.taint)).jump t.tepc
    if idx = 0 then s2
    else
      let slot := (s.slotOf t.ctx).getD 0
      let at_ := (t.tepc - BitVec.ofNat 64 (4 * idx)).toNat
      s.withLine slot at_ fun s =>
      let il := (s.peekWord slot at_).2
      { s2 with t := { s2.t with clno := t.tclno, cl :=
          { hdr := hdr, idx := idx, aused := bits c 36 36 == 1, arr := bits c 37 37 == 1, intlk := il, ptab := 255 } } }

/-- ERET (R216). -/
def execEret (s : State) : Out := .next (issue .eret s fun s => returnFromTrap s)

/-- The codes of R180, and every word that R181 refuses before its operands matter: Illegal-Instruction. The codes
0x8B and 0xF2 are instructions of their own, with their profile check. -/
def execReservedOpcode (w : Word) (s : State) : Out :=
  .next (match s.blocked (.reservedOpcode w) with | some k => s.hold k | none => s.illegal w)

end Sys2Proof.Machine
end

