-- ==== Sys2Proof/Machine/System.lean ====
section
/-! DEFINITION. SXLATE, system registers and PHASE (R15, R16, R41, R52, R183, R200 to R203). -/

namespace Sys2Proof.Machine

/-- CAP_DP (R15). -/
def State.capDp (s : State) : Word := if s.pkg.profH then 0x01000102 else 0x010006E1

/-- The quad's engine runs at half pass rate (R16). -/
def State.mhalf (s : State) (q : Nat) : Bool := (List.range 4).any fun i => (s.core (4 * q + i)).half

/-- CAP_CORE of a core (R16). -/
def State.capCore (s : State) (c : Nat) : Word :=
  let h := s.core c
  let q := quadOf c
  BitVec.ofNat 32 (q * 2 ^ 24 + (s.quadD q).fused.toNat * 2 ^ 23 + (s.mhalf q).toNat * 2 ^ 22 + h.vp1.toNat * 2 ^ 21 +
    h.vp0.toNat * 2 ^ 20 + (if h.vp0 && h.vp1 then 32 else 16) * 2 ^ 14 + towerOf c * 2 ^ 10 + c)

/-- SXLATE (R52, R200): attaching; complete when m_d is written. -/
def execSxlate (d a : Nat) (s : State) : Out :=
  .next (issue (.sxlate d a) s fun s =>
    let p := s.rs a
    let slot := (s.slotOf s.t.ctx).getD 0
    match s.sxlate slot p.toNat with
    | .violation => s.raise 5 p
    | .ends st => (s.endCtx s.t.ctx st).hold .other
    | .ok x vs =>
      let ptrs := (vs.filter fun va => va < 2 ^ 56).map fun va => p.toNat / 2 ^ 56 * 2 ^ 56 + va
      (((s.noteXls (towerOf s.t.core) slot ptrs).wm d x).attach .ready [] [a] []).done (.sxlate d a))

/-- The value SRD reads, zero-extended (R183). -/
def State.sysRead (s : State) (n : Nat) : DWord :=
  let t := s.t
  match n with
  | 0x00 => s.capDp.setWidth 64
  | 0x01 => (s.capCore t.core).setWidth 64
  | 0x02 => t.mode.setWidth 64
  | 0x03 => t.bthr.setWidth 64
  | 0x04 => t.phmargin.setWidth 64
  | 0x05 => t.srng.setWidth 64
  | 0x06 => BitVec.ofNat 64 t.depth
  | 0x07 => s.pkg.clk
  | 0x08 => t.tvec
  | 0x09 => t.tcause.setWidth 64
  | 0x0A => t.tepc
  | 0x0B => t.tlane.setWidth 64
  | 0x0C => t.tsecond.setWidth 64
  | 0x0D => t.frec
  | 0x0E => t.tmode.setWidth 64
  | 0x0F => t.tclause
  | _ => t.crew.setWidth 64

/-- SRD (R201). -/
def execSrd (d b : Nat) (s : State) : Out :=
  .next (issue (.srd d b) s fun s => (s.ws d (s.sysRead b)).done (.srd d b))

/-- What SWR leaves in the writable registers other than MODE: RO and "—" bits keep reading as they do (R5, R201). -/
def Team.sysWrite (t : Team) (n : Nat) (x : DWord) : Team :=
  let w : Word := x.setWidth 32
  match n with
  | 0x03 => { t with bthr := w &&& 0x1FF }
  | 0x04 => { t with phmargin := w &&& 0xF }
  | 0x05 => { t with srng := srSeed w }
  | 0x08 => { t with tvec := x &&& ~~~(0x7E#64) }
  | 0x09 => { t with tcause := w &&& 0x8000000F }
  | 0x0A => { t with tepc := x &&& ~~~(3#64) }
  | 0x0B => { t with tlane := w &&& 0xC0003FFF }
  | 0x0C => { t with tsecond := w &&& 0xFFFE }
  | 0x0D => { t with frec := x }
  | 0x0E => { t with tmode := w }
  | 0x0F => { t with tclause := x &&& 0x3FFFFFFFFF }
  | _ => t

/-- SWR (R201): to MODE, the check of SETM with b = 0 comes first. -/
def execSwr (a b : Nat) (s : State) : Out :=
  .next (issue (.swr a b) s fun s =>
    let x := s.rs a
    if b = 0x02 then setMode (.swr a b) (x.setWidth 32) s
    else ({ s with t := s.t.sysWrite b x }).done (.swr a b))

/-- Start phase n with expected count e; 0 disables the timer (R41). -/
def Team.startPhase (t : Team) (n e : Nat) : Team :=
  { t with ph := if e = 0 then { on := false, num := n, e := 0, el := 0 } else { on := true, num := n, e := e, el := 0 } }

/-- PHASE (R41, R203, R335): the entry comes from the phase-table slot of the line that holds the word, which the fetch
unit then holds whole (R349). -/
def execPhase (b : Nat) (s : State) : Out :=
  .next (issue (.phase b) s fun s =>
    let pt := s.t.cl.ptab
    let slot := (s.slotOf s.t.ctx).getD 0
    if pt = 0xFF then ({ s with t := s.t.startPhase b 0 }).done (.phase b)
    else
      let base := ptrAdd (s.slot slot).ptabbase.toNat (1024 * pt)
      let ptr := ptrAdd (s.slot slot).ptabbase.toNat (1024 * pt + 4 * b)
      match (s.readItem slot 2 pt (4 * b) ptr 4).1 with
      | .fault c p => s.fetchFault slot s.t.pc.toNat c p s.t.cl.idx
      | .ends st => (s.endCtx s.t.ctx st).hold .other
      | .wait l =>
        let whole := match s.readVirt slot s.codeWho base 1024 with | .wait r => r | _ => l
        (s.askFor s.codeWho whole).hold .other
      | .ok bs =>
        let s1 := s.keepRead slot 2 pt base 1024
        ({ s1 with t := s1.t.startPhase b (leNat bs) }).done (.phase b))

end Sys2Proof.Machine
end

