-- ==== Sys2Proof/Machine/VecInt.lean ====
section
/-! DEFINITION. Vector integer arithmetic, logic, comparisons, moves, predicates and bit fields (R218 to R228). -/

namespace Sys2Proof.Machine

/-- The elements of a container of ET (R114). -/
def elems (et c : Nat) : List Nat := (List.range (etCount et)).map fun k => elemOf (etWidth et) k c

/-- Element by element over one, two or three containers (R218). -/
def map1 (et : Nat) (f : Nat → Nat) (x : Nat) : Nat := packElems (etWidth et) ((elems et x).map f)
def map2 (et : Nat) (f : Nat → Nat → Nat) (x y : Nat) : Nat :=
  packElems (etWidth et) (List.zipWith f (elems et x) (elems et y))
def map3 (et : Nat) (f : Nat → Nat → Nat → Nat) (x y z : Nat) : Nat :=
  packElems (etWidth et) (List.zipWith (fun g z => g z) (List.zipWith f (elems et x) (elems et y)) (elems et z))

/-- Signed division truncated toward zero with the corners of R221. -/
def vdivVal (et : Nat) (sat : Bool) (x y : Nat) : Nat :=
  if y = 0 then 2 ^ etWidth et - 1 else etFit et sat (Int.tdiv (etInt et x) (etInt et y))
def vremVal (et : Nat) (x y : Nat) : Nat :=
  if y = 0 then x else wrapN (etWidth et) (Int.tmod (etInt et x) (etInt et y))

/-- The shifts of R221 by n. -/
def shlVal (et x n : Nat) : Nat := if etWidth et ≤ n then 0 else x * 2 ^ n % 2 ^ etWidth et
def shrVal (et x n : Nat) : Nat := if etWidth et ≤ n then 0 else x / 2 ^ n
def sarVal (et x n : Nat) : Nat :=
  if etSigned et then wrapN (etWidth et) (etInt et x / (2 ^ min n (etWidth et) : Nat)) else shrVal et x n
def rotlVal (et x n : Nat) : Nat :=
  let w := etWidth et
  let k := n % w
  x * 2 ^ k % 2 ^ w + x / 2 ^ (w - k)

/-- Minimum and maximum by the type (R221). -/
def minVal (et x y : Nat) : Nat := if etInt et x ≤ etInt et y then x else y
def maxVal (et x y : Nat) : Nat := if etInt et x ≤ etInt et y then y else x

/-- v_d := f of v_a and v_b in every active lane, under ET and SAT (R218, R221). -/
def vInt2 (i : Instr) (d a b : Nat) (f : Nat → Bool → Nat → Nat → Nat) (s : State) : State :=
  issue i s fun s =>
    let et := mET s.t.mode
    let sat := mSAT s.t.mode
    (s.wc et d (s.actLanes.map fun l => (l, map2 et (f et sat) (s.rc et a l) (s.rc et b l)))).done i

/-- v_d := f of v_a (R222, R223). -/
def vInt1 (i : Instr) (d a : Nat) (f : Nat → Bool → Nat → Nat) (s : State) : State :=
  issue i s fun s =>
    let et := mET s.t.mode
    let sat := mSAT s.t.mode
    (s.wc et d (s.actLanes.map fun l => (l, map1 et (f et sat) (s.rc et a l)))).done i

/-- v_d := f of whole 32-bit registers (class Raw). -/
def vRaw2 (i : Instr) (d a b : Nat) (f : Word → Word → Word) (s : State) : State :=
  issue i s fun s => (s.wv d (s.actLanes.map fun l => (l, f (s.rv a l) (s.rv b l)))).done i
def vRaw1 (i : Instr) (d a : Nat) (f : Word → Word) (s : State) : State :=
  issue i s fun s => (s.wv d (s.actLanes.map fun l => (l, f (s.rv a l)))).done i

/-- p_d := the relation of v_a and v_b in every active lane (R224). -/
def vCmp (i : Instr) (d a b : Nat) (f : Int → Int → Bool) (s : State) : State :=
  issue i s fun s =>
    let et := mET s.t.mode
    let x := laneSet s.t.lanes fun l => s.active.getLsbD l && f (etInt et (s.rc et a l)) (etInt et (s.rc et b l))
    (s.wp d s.active x).done i

/-- p_d := f of two predicates in every active lane (R226). -/
def pOp (i : Instr) (d a b : Nat) (f : Lanes → Lanes → Lanes) (s : State) : State :=
  issue i s fun s => (s.wp d s.active (f (s.rp a) (s.rp b))).done i


/-- VADD (R221). -/
def execVadd (d a b : Nat) (s : State) : Out :=
  .next (vInt2 (.vadd d a b) d a b (fun et sat x y => etFit et sat (etInt et x + etInt et y)) s)

/-- VSUB (R221). -/
def execVsub (d a b : Nat) (s : State) : Out :=
  .next (vInt2 (.vsub d a b) d a b (fun et sat x y => etFit et sat (etInt et x - etInt et y)) s)

/-- VMUL (R221). -/
def execVmul (d a b : Nat) (s : State) : Out :=
  .next (vInt2 (.vmul d a b) d a b (fun et sat x y => etFit et sat (etInt et x * etInt et y)) s)

/-- VMULH (R221). -/
def execVmulh (d a b : Nat) (s : State) : Out :=
  .next (vInt2 (.vmulh d a b) d a b (fun et _ x y => wrapN (etWidth et) (etInt et x * etInt et y / (2 ^ etWidth et : Nat))) s)

/-- VDIV (R221). -/
def execVdiv (d a b : Nat) (s : State) : Out :=
  .next (vInt2 (.vdiv d a b) d a b (fun et sat x y => vdivVal et sat x y) s)

/-- VREM (R221). -/
def execVrem (d a b : Nat) (s : State) : Out :=
  .next (vInt2 (.vrem d a b) d a b (fun et _ x y => vremVal et x y) s)

/-- VMIN (R221). -/
def execVmin (d a b : Nat) (s : State) : Out :=
  .next (vInt2 (.vmin d a b) d a b (fun et _ x y => minVal et x y) s)

/-- VMAX (R221). -/
def execVmax (d a b : Nat) (s : State) : Out :=
  .next (vInt2 (.vmax d a b) d a b (fun et _ x y => maxVal et x y) s)

/-- VABSD (R221). -/
def execVabsd (d a b : Nat) (s : State) : Out :=
  .next (vInt2 (.vabsd d a b) d a b (fun et _ x y => wrapN (etWidth et) (etInt et x - etInt et y).natAbs) s)

/-- VSHL (R221). -/
def execVshl (d a b : Nat) (s : State) : Out :=
  .next (vInt2 (.vshl d a b) d a b (fun et _ x y => shlVal et x y) s)

/-- VSHR (R221). -/
def execVshr (d a b : Nat) (s : State) : Out :=
  .next (vInt2 (.vshr d a b) d a b (fun et _ x y => shrVal et x y) s)

/-- VSAR (R221). -/
def execVsar (d a b : Nat) (s : State) : Out :=
  .next (vInt2 (.vsar d a b) d a b (fun et _ x y => sarVal et x y) s)

/-- VROTL (R221). -/
def execVrotl (d a b : Nat) (s : State) : Out :=
  .next (vInt2 (.vrotl d a b) d a b (fun et _ x y => rotlVal et x y) s)

/-- VMAD (R221). -/
def execVmad (d a b : Nat) (s : State) : Out :=
  .next (issue (.vmad d a b) s fun s =>
    let et := mET s.t.mode
    let sat := mSAT s.t.mode
    let f (x y z : Nat) : Nat := etFit et sat (etInt et x * etInt et y + etInt et z)
    (s.wc et d (s.actLanes.map fun l => (l, map3 et f (s.rc et a l) (s.rc et b l) (s.rc et d l)))).done (.vmad d a b))

/-- VAND (R221). -/
def execVand (d a b : Nat) (s : State) : Out := .next (vRaw2 (.vand d a b) d a b (fun x y => x &&& y) s)

/-- VOR (R221). -/
def execVor (d a b : Nat) (s : State) : Out := .next (vRaw2 (.vor d a b) d a b (fun x y => x ||| y) s)

/-- VXOR (R221). -/
def execVxor (d a b : Nat) (s : State) : Out := .next (vRaw2 (.vxor d a b) d a b (fun x y => x ^^^ y) s)

/-- VANDN (R221). -/
def execVandn (d a b : Nat) (s : State) : Out := .next (vRaw2 (.vandn d a b) d a b (fun x y => x &&& ~~~y) s)

/-- VADDI (R222). -/
def execVaddi (d a b : Nat) (s : State) : Out := .next (vInt1 (.vaddi d a b) d a (fun et sat x => etFit et sat (etInt et x + sgnOf 8 b)) s)

/-- VSHLI (R222). -/
def execVshli (d a b : Nat) (s : State) : Out := .next (vInt1 (.vshli d a b) d a (fun et _ x => shlVal et x b) s)

/-- VSHRI (R222). -/
def execVshri (d a b : Nat) (s : State) : Out := .next (vInt1 (.vshri d a b) d a (fun et _ x => shrVal et x b) s)

/-- VSARI (R222). -/
def execVsari (d a b : Nat) (s : State) : Out := .next (vInt1 (.vsari d a b) d a (fun et _ x => sarVal et x b) s)

/-- VNEG (R223). -/
def execVneg (d a : Nat) (s : State) : Out := .next (vInt1 (.vneg d a) d a (fun et sat x => etFit et sat (-(etInt et x))) s)

/-- VABS (R223). -/
def execVabs (d a : Nat) (s : State) : Out := .next (vInt1 (.vabs d a) d a (fun et sat x => etFit et sat (etInt et x).natAbs) s)

/-- VCLZ (R223). -/
def execVclz (d a : Nat) (s : State) : Out := .next (vInt1 (.vclz d a) d a (fun et _ x => clzN (etWidth et) x) s)

/-- VCTZ (R223). -/
def execVctz (d a : Nat) (s : State) : Out := .next (vInt1 (.vctz d a) d a (fun et _ x => ctzN (etWidth et) x) s)

/-- VCNT (R223). -/
def execVcnt (d a : Nat) (s : State) : Out := .next (vInt1 (.vcnt d a) d a (fun et _ x => popN (etWidth et) x) s)

/-- VBREV (R223). -/
def execVbrev (d a : Nat) (s : State) : Out := .next (vInt1 (.vbrev d a) d a (fun et _ x => brevN (etWidth et) x) s)

/-- VSGN (R223). -/
def execVsgn (d a : Nat) (s : State) : Out := .next (vInt1 (.vsgn d a) d a (fun et _ x => wrapN (etWidth et) (etInt et x).sign) s)

/-- VNOT (R223). -/
def execVnot (d a : Nat) (s : State) : Out := .next (vRaw1 (.vnot d a) d a (fun x => ~~~x) s)

/-- VCMPEQ (R224). -/
def execVcmpeq (d a b : Nat) (s : State) : Out := .next (vCmp (.vcmpeq d a b) d a b (fun x y => x == y) s)

/-- VCMPNE (R224). -/
def execVcmpne (d a b : Nat) (s : State) : Out := .next (vCmp (.vcmpne d a b) d a b (fun x y => x != y) s)

/-- VCMPLT (R224). -/
def execVcmplt (d a b : Nat) (s : State) : Out := .next (vCmp (.vcmplt d a b) d a b (fun x y => decide (x < y)) s)

/-- VCMPLE (R224). -/
def execVcmple (d a b : Nat) (s : State) : Out := .next (vCmp (.vcmple d a b) d a b (fun x y => decide (x ≤ y)) s)

/-- VMOV (R225). -/
def execVmov (d a : Nat) (s : State) : Out := .next (vRaw1 (.vmov d a) d a (fun x => x) s)

/-- VMOVS (R225). -/
def execVmovs (d a : Nat) (s : State) : Out :=
  .next (issue (.vmovs d a) s fun s =>
    let x : Word := (s.rs a).setWidth 32
    (s.wv d (s.actLanes.map fun l => (l, x))).done (.vmovs d a))

/-- VMOVL (R225). -/
def execVmovl (d : Nat) (l : Word) (l2 : Option Word) (s : State) : Out :=
  .next (issue (.vmovl d l l2) s fun s =>
    let s1 := s.wv d (s.actLanes.map fun n => (n, l))
    (match l2 with
     | none => s1
     | some h => s1.wv (d + 1) (s.actLanes.map fun n => (n, h))).done (.vmovl d l l2))


/-- PAND (R226). -/
def execPand (d a b : Nat) (s : State) : Out := .next (pOp (.pand d a b) d a b (fun x y => x &&& y) s)

/-- POR (R226). -/
def execPor (d a b : Nat) (s : State) : Out := .next (pOp (.por d a b) d a b (fun x y => x ||| y) s)

/-- PXOR (R226). -/
def execPxor (d a b : Nat) (s : State) : Out := .next (pOp (.pxor d a b) d a b (fun x y => x ^^^ y) s)

/-- PNOT (R226). -/
def execPnot (d a : Nat) (s : State) : Out := .next (pOp (.pnot d a) d a a (fun x _ => ~~~x) s)

/-- The field LEN bits long from bit POS, sign-extended when SGN (R227). -/
def bfeVal (l x : Nat) : Nat :=
  let len := bits l 13 8
  let f := x / 2 ^ bits l 4 0 % 2 ^ len
  if bits l 16 16 = 1 then wrapN 32 (sgnOf len f) else f

/-- z with the field replaced by the low LEN bits of x (R227). -/
def bfiVal (l x z : Nat) : Nat :=
  let len := bits l 13 8
  let pos := bits l 4 0
  z / 2 ^ (pos + len) * 2 ^ (pos + len) + x % 2 ^ len * 2 ^ pos + z % 2 ^ pos

/-- VBFE (R227). -/
def execVbfe (d a : Nat) (l : Word) (s : State) : Out :=
  .next (vRaw1 (.vbfe d a l) d a (fun x => BitVec.ofNat 32 (bfeVal l.toNat x.toNat)) s)

/-- VBFI (R227). -/
def execVbfi (d a : Nat) (l : Word) (s : State) : Out :=
  .next (vRaw2 (.vbfi d a l) d a d (fun x z => BitVec.ofNat 32 (bfiVal l.toNat x.toNat z.toNat)) s)

/-- Four products of bytes and a 32-bit accumulator (R228). -/
def dot4Val (et : Nat) (sat : Bool) (x y z : Nat) : Nat :=
  let big := if et = 9 then 13 else 14
  let terms := List.zipWith (fun p q => etInt et p * etInt et q) (elems et x) (elems et y)
  etFit big sat (terms.foldl (fun (acc t : Int) => acc + t) (etInt big z))

/-- VDOT4 (R228). -/
def execVdot4 (d a b : Nat) (s : State) : Out :=
  .next (issue (.vdot4 d a b) s fun s =>
    let et := mET s.t.mode
    let sat := mSAT s.t.mode
    (s.wv d (s.actLanes.map fun l =>
      (l, BitVec.ofNat 32 (dot4Val et sat (s.rv a l).toNat (s.rv b l).toNat (s.rv d l).toNat)))).done (.vdot4 d a b))

end Sys2Proof.Machine
end

