-- ==== Sys2Proof/Machine/VecFloat.lean ====
section
/-! DEFINITION. Vector floating-point arithmetic, comparisons and classes, with the stochastic generator and the
Non-Finite hold (R116 to R126, R133, R229 to R234). -/

namespace Sys2Proof.Machine

/-! ### The stochastic generator (R120) -/

/-- The generator state that each group's pass uses: it advances once for every pass whose active(G) is not empty. -/
def srTable (act : Lanes) : List Nat → Word → List Word
  | [], _ => []
  | g :: r, st =>
    let st' := if groupWord act g = 0 then st else srAdvance st
    st' :: srTable act r st'

/-- States by group, for an instruction that rounds; sr is false for one that does not round under SR. -/
def State.srTab (s : State) : List Word := srTable s.active (List.range s.t.ngroups) s.t.srng

/-- The generator after the instruction's last advance. -/
def State.srLast (s : State) : Word := s.srTab.getLastD s.t.srng

/-- Rounding of element k in a lane, with RND, SAT and FTZ of MODE (R117, R118, R120, R124). -/
def State.rmAt (s : State) (tab : List Word) (lane k : Nat) : Rm :=
  rmOf s.t.mode (if mRND s.t.mode = 5 then srValue (tab.getD (lane / 32) 0) (lane + k) else 0)

/-- The instruction rounds: under SR the generator has advanced (R120). -/
def State.srStep (s : State) (rounds : Bool) : State :=
  if rounds && mRND s.t.mode == 5 then { s with t := { s.t with srng := s.srLast } } else s

/-! ### Results and the Non-Finite hold (R125, R126) -/

/-- What a lane writes: a value for each destination register in order, and whether it raises Non-Finite. -/
structure LaneOut where
  lane : Nat
  vals : List Nat
  bad : Bool
  /-- The values that FREC may record (R207). -/
  frec : List Nat
  deriving DecidableEq, Repr

/-- Registers of a container of ET. -/
def contVals (et c : Nat) : List Nat := if etPair et then [c % 2 ^ 32, c / 2 ^ 32] else [c]

/-- Write v_d, v_(d+1), … in the lanes given. -/
def State.wvRegs (s : State) (outs : List LaneOut) : Nat → Nat → State
  | _, 0 => s
  | d, n + 1 => State.wvRegs
      (s.wv d (outs.map fun o => (o.lane, BitVec.ofNat 32 (o.vals.getD (o.vals.length - (n + 1)) 0)))) outs (d + 1) n

/-- Finish a floating-point instruction: with NFT and a lane that raises, no lane writes (R126). The value of FREC is
the one the lane would have written; of several registers' values any one (R207, log 7). -/
def State.finishF (s : State) (i : Instr) (d n : Nat) (outs : List LaneOut) : State :=
  let bads := outs.filter fun o => o.bad
  if mNFT s.t.mode && !bads.isEmpty then
    s.raiseLanes (bads.map fun o => ⟨o.lane, 10, o.frec.getD (s.freeNat (fk 40 o.lane) % max 1 o.frec.length) 0⟩)
  else if i.attaches then ((s.wvRegs outs d n).attach .ready [] [] []).done i
  else (s.wvRegs outs d n).done i

/-- One container of ET per lane, element by element (R218). -/
def outC (et lane : Nat) (es : List Nat) : LaneOut :=
  let c := packElems (etWidth et) es
  let f := (etFmt et).getD .fp32
  ⟨lane, contVals et c, es.any f.nonFinite, [c]⟩

/-- Number of registers of a container of ET. -/
def etRegs (et : Nat) : Nat := if etPair et then 2 else 1

/-- Elements of a container as values, FTZ applied (R124). -/
def State.fins (s : State) (et c : Nat) : List Ex :=
  (elems et c).map (((etFmt et).getD .fp32).decZ (mFTZ s.t.mode))

/-- v_d := round (f a b d), the element's exact result rounded once into ET (R133, R229). -/
def State.fpLane (s : State) (tab : List Word) (et lane : Nat) (xs ys zs : List Ex)
    (f : Ex → Ex → Ex → Ex) : LaneOut :=
  outC et lane ((List.range (etCount et)).map fun k =>
    ((etFmt et).getD .fp32).round (s.rmAt tab lane k)
      (f (xs.getD k (.zero false)) (ys.getD k (.zero false)) (zs.getD k (.zero false))))

/-- The form of R229 over registers x, y and z. -/
def vFlt (i : Instr) (rounds : Bool) (d x y z : Nat) (f : Nat → Ex → Ex → Ex → Ex) (s : State) : State :=
  issue i s fun s =>
    let et := mET s.t.mode
    let tab := s.srTab
    let outs := s.actLanes.map fun l =>
      s.fpLane tab et l (s.fins et (s.rc et x l)) (s.fins et (s.rc et y l)) (s.fins et (s.rc et z l)) (f (mRND s.t.mode))
    (s.srStep rounds).finishF i d (etRegs et) outs

/-- min and max (R230): the other input for one NaN, −0 below +0. -/
def Ex.minF (a b : Ex) : Ex :=
  if a.isNan then b else if b.isNan then a
  else if a.lt b || (a.eqv b && a.isZero true) then a else b
def Ex.maxF (a b : Ex) : Ex :=
  if a.isNan then b else if b.isNan then a
  else if a.lt b || (a.eqv b && a.isZero true) then b else a


/-- VFADD (R229). -/
def execVfadd (d a b : Nat) (s : State) : Out := .next (vFlt (.vfadd d a b) true d a b b (fun r x y _ => Ex.sum r [x, y]) s)

/-- VFSUB (R229). -/
def execVfsub (d a b : Nat) (s : State) : Out := .next (vFlt (.vfsub d a b) true d a b b (fun r x y _ => Ex.sum r [x, y.neg]) s)

/-- VFMUL (R229). -/
def execVfmul (d a b : Nat) (s : State) : Out := .next (vFlt (.vfmul d a b) true d a b b (fun _ x y _ => x.mul y) s)

/-- VFMA (R229). -/
def execVfma (d a b : Nat) (s : State) : Out := .next (vFlt (.vfma d a b) true d a b d (fun r x y z => Ex.sum r [x.mul y, z]) s)

/-- VFMS (R229). -/
def execVfms (d a b : Nat) (s : State) : Out := .next (vFlt (.vfms d a b) true d a b d (fun r x y z => Ex.sum r [x.mul y, z.neg]) s)

/-- VFNMA (R229). -/
def execVfnma (d a b : Nat) (s : State) : Out := .next (vFlt (.vfnma d a b) true d a b d (fun r x y z => Ex.sum r [(x.mul y).neg, z]) s)

/-- VFDIV (R229). -/
def execVfdiv (d a b : Nat) (s : State) : Out := .next (vFlt (.vfdiv d a b) true d a b b (fun _ x y _ => x.div y) s)

/-- VFMIN, which never rounds (R230). -/
def execVfmin (d a b : Nat) (s : State) : Out := .next (vFlt (.vfmin d a b) false d a b b (fun _ x y _ => x.minF y) s)

/-- VFMAX (R230). -/
def execVfmax (d a b : Nat) (s : State) : Out := .next (vFlt (.vfmax d a b) false d a b b (fun _ x y _ => x.maxF y) s)

/-- VFSQRT (R229, R230). -/
def execVfsqrt (d a : Nat) (s : State) : Out := .next (vFlt (.vfsqrt d a) true d a a a (fun _ x _ _ => x.sqrt) s)

/-- VFABS (R229, R230). -/
def execVfabs (d a : Nat) (s : State) : Out := .next (vFlt (.vfabs d a) false d a a a (fun _ x _ _ => x.abs) s)

/-- VFNEG (R229, R230). -/
def execVfneg (d a : Nat) (s : State) : Out := .next (vFlt (.vfneg d a) false d a a a (fun _ x _ _ => x.neg) s)

/-- VFRCP (R229, R230). -/
def execVfrcp (d a : Nat) (s : State) : Out := .next (vFlt (.vfrcp d a) true d a a a (fun _ x _ _ => (Ex.ofInt 1).div x) s)

/-- VFRSQ (R229, R230). -/
def execVfrsq (d a : Nat) (s : State) : Out := .next (vFlt (.vfrsq d a) true d a a a (fun _ x _ _ => x.rsqrt) s)

/-- VFEXP2 (R229, R230). -/
def execVfexp2 (d a : Nat) (s : State) : Out := .next (vFlt (.vfexp2 d a) true d a a a (fun _ x _ _ => x.exp2) s)

/-- VFLOG2 (R229, R230). -/
def execVflog2 (d a : Nat) (s : State) : Out := .next (vFlt (.vflog2 d a) true d a a a (fun _ x _ _ => x.log2) s)

/-- VFSIN (R229, R230). -/
def execVfsin (d a : Nat) (s : State) : Out := .next (vFlt (.vfsin d a) true d a a a (fun _ x _ _ => x.sinpi) s)

/-- VFCOS (R229, R230). -/
def execVfcos (d a : Nat) (s : State) : Out := .next (vFlt (.vfcos d a) true d a a a (fun _ x _ _ => x.cospi) s)

/-- A value with a given sign (R230): a NaN stays. -/
def Ex.withSign (neg : Bool) : Ex → Ex
  | .nan => .nan
  | .inf _ => .inf neg
  | .fin _ m e st => .fin neg m e st
  | .btw _ lo hi e => .btw neg lo hi e

/-- VFCOPYS (R229, R230): the stored sign bit of b, NaN or not. -/
def execVfcopys (d a b : Nat) (s : State) : Out :=
  .next (issue (.vfcopys d a b) s fun s =>
    let et := mET s.t.mode
    let f := (etFmt et).getD .fp32
    let outs := s.actLanes.map fun l =>
      outC et l (List.zipWith (fun x (y : Nat) => f.round {} (x.withSign (y / 2 ^ (etWidth et - 1) % 2 == 1)))
        (s.fins et (s.rc et a l)) (elems et (s.rc et b l)))
    s.finishF (.vfcopys d a b) d (etRegs et) outs)

/-- p_d := the relation of R231, after FTZ. -/
def vfCmp (i : Instr) (d a b : Nat) (f : Ex → Ex → Bool) (s : State) : State :=
  issue i s fun s =>
    let et := mET s.t.mode
    let x := laneSet s.t.lanes fun l => s.active.getLsbD l &&
      f ((s.fins et (s.rc et a l)).headD .nan) ((s.fins et (s.rc et b l)).headD .nan)
    (s.wp d s.active x).done i

/-- Either input is NaN. -/
def unord (x y : Ex) : Bool := x.isNan || y.isNan


/-- VFCMPEQ (R231). -/
def execVfcmpeq (d a b : Nat) (s : State) : Out :=
  .next (vfCmp (.vfcmpeq d a b) d a b (fun x y => !unord x y && x.eqv y) s)

/-- VFCMPNE (R231). -/
def execVfcmpne (d a b : Nat) (s : State) : Out :=
  .next (vfCmp (.vfcmpne d a b) d a b (fun x y => unord x y || !x.eqv y) s)

/-- VFCMPLT (R231). -/
def execVfcmplt (d a b : Nat) (s : State) : Out :=
  .next (vfCmp (.vfcmplt d a b) d a b (fun x y => !unord x y && x.lt y) s)

/-- VFCMPLE (R231). -/
def execVfcmple (d a b : Nat) (s : State) : Out :=
  .next (vfCmp (.vfcmple d a b) d a b (fun x y => !unord x y && (x.lt y || x.eqv y)) s)

/-- VFCMPUN (R231). -/
def execVfcmpun (d a b : Nat) (s : State) : Out :=
  .next (vfCmp (.vfcmpun d a b) d a b (fun x y => unord x y) s)

/-- The class bit of a stored bit pattern (R232). -/
def Fmt.classOf (f : Fmt) (w : Nat) : Nat :=
  match f.dec w with
  | .inf true => 0
  | .inf false => 7
  | .fin neg m _ _ =>
    if m = 0 then (if neg then 3 else 4)
    else if m < 2 ^ f.man then (if neg then 2 else 5)
    else if neg then 1 else 6
  | _ => 8

/-- VFCLASS (R232): the stored bits; never Non-Finite. -/
def execVfclass (d a : Nat) (s : State) : Out :=
  .next (issue (.vfclass d a) s fun s =>
    let et := mET s.t.mode
    let f := (etFmt et).getD .fp32
    (s.wc et d (s.actLanes.map fun l => (l, map1 et (fun x => 2 ^ f.classOf x) (s.rc et a l)))).done (.vfclass d a))

/-- The constant of R233 as a value: FP32 widened exactly, or L1[15:0] in ET. FTZ applies to it as an input of ET. -/
def State.fltLit (s : State) (et : Nat) (l : Word) : Ex :=
  match et with
  | 0 => Fmt.fp32.decZ (mFTZ s.t.mode) l.toNat
  | 1 => Fmt.fp32.dec l.toNat
  | _ => ((etFmt et).getD .fp16).decZ (mFTZ s.t.mode) (l.toNat % 2 ^ 16)

/-- The form of R233. -/
def vfLit (i : Instr) (d x y : Nat) (l : Word) (f : Nat → Ex → Ex → Ex → Ex) (s : State) : State :=
  issue i s fun s =>
    let et := mET s.t.mode
    let tab := s.srTab
    let c := s.fltLit et l
    let outs := s.actLanes.map fun n =>
      s.fpLane tab et n (s.fins et (s.rc et x n)) (s.fins et (s.rc et y n)) [] (fun p q _ => f (mRND s.t.mode) p q c)
    (s.srStep true).finishF i d (etRegs et) outs

/-- VFMULL (R233). -/
def execVfmull (d a : Nat) (l : Word) (s : State) : Out :=
  .next (vfLit (.vfmull d a l) d a a l (fun _ x _ c => x.mul c) s)

/-- VFADDL (R233). -/
def execVfaddl (d a : Nat) (l : Word) (s : State) : Out :=
  .next (vfLit (.vfaddl d a l) d a a l (fun r x _ c => Ex.sum r [x, c]) s)

/-- VFFMAL (R233): a × C + b; v_d is not read. -/
def execVffmal (d a b : Nat) (l : Word) (s : State) : Out :=
  .next (vfLit (.vffmal d a b l) d a b l (fun r x y c => Ex.sum r [x.mul c, y]) s)

/-- VFLDEXP (R234): n from v_b, INT32, or the INT16 element in the same position. -/
def execVfldexp (d a b : Nat) (s : State) : Out :=
  .next (issue (.vfldexp d a b) s fun s =>
    let et := mET s.t.mode
    let f := (etFmt et).getD .fp32
    let tab := s.srTab
    let outs := s.actLanes.map fun l =>
      let xs := s.fins et (s.rc et a l)
      let y := (s.rv b l).toNat
      outC et l ((List.range (etCount et)).map fun k =>
        let n := if etCount et = 1 then sgnOf 32 y else sgnOf 16 (elemOf 16 k y)
        f.round (s.rmAt tab l k) ((xs.getD k .nan).scale n))
    (s.srStep true).finishF (.vfldexp d a b) d (etRegs et) outs)

/-- Rounding to an integral value; a zero result keeps the sign (R234). -/
def Ex.rint (rm : Rm) : Ex → Ex
  | .fin neg m e st =>
    if 0 ≤ e then .fin neg m e st
    else .fin neg (roundUp rm neg (m / 2 ^ (-e).toNat) (m % 2 ^ (-e).toNat) (-e).toNat st) 0 false
  | x => x

/-- VFRINT (R234): b 0 to 4 a fixed rounding, 5 MODE.RND. -/
def execVfrint (d a b : Nat) (s : State) : Out :=
  .next (issue (.vfrint d a b) s fun s =>
    let et := mET s.t.mode
    let f := (etFmt et).getD .fp32
    let tab := s.srTab
    let outs := s.actLanes.map fun l =>
      let xs := s.fins et (s.rc et a l)
      outC et l ((List.range (etCount et)).map fun k =>
        let rm := s.rmAt tab l k
        f.round rm ((xs.getD k .nan).rint (if b = 5 then rm else { rm with rnd := b })))
    (s.srStep (b == 5)).finishF (.vfrint d a b) d (etRegs et) outs)

/-- VFDOT2 (R234): two products and an FP32 accumulator, one rounding. -/
def execVfdot2 (d a b : Nat) (s : State) : Out :=
  .next (issue (.vfdot2 d a b) s fun s =>
    let et := mET s.t.mode
    let tab := s.srTab
    let outs := s.actLanes.map fun l =>
      let xs := s.fins et (s.rv a l).toNat
      let ys := s.fins et (s.rv b l).toNat
      let z := Fmt.fp32.decZ (mFTZ s.t.mode) (s.rv d l).toNat
      outC 0 l [Fmt.fp32.round (s.rmAt tab l 0) (Ex.sum (mRND s.t.mode) (z :: List.zipWith Ex.mul xs ys))]
    (s.srStep true).finishF (.vfdot2 d a b) d 1 outs)

end Sys2Proof.Machine
end

