-- ==== Sys2Proof/Machine/Codebook.lean ====
section
/-! DEFINITION. The CB2 codebook (R130 to R132): ROM words, 2 B[i] element e in bits [3e+2:3e]. -/

namespace Sys2Proof.Machine

/-- Entries 0 to 31. -/
def cbRom0 : List Nat := [
   0x0, 0x480000, 0x410000, 0x90000, 0x402000, 0x82000, 0x12000, 0x400400,
   0x80400, 0x10400, 0x2400, 0x400080, 0x80080, 0x10080, 0x2080, 0x480,
   0x400010, 0x80010, 0x10010, 0x2010, 0x410, 0x90, 0x249249, 0x400002,
   0x80002, 0x10002, 0x2002, 0x402, 0x82, 0x12, 0x800000, 0x100000]

/-- Entries 32 to 63. -/
def cbRom1 : List Nat := [
   0x20000, 0x492000, 0x4000, 0x490400, 0x482400, 0x412400, 0x92400, 0x800,
   0x490080, 0x482080, 0x412080, 0x92080, 0x480480, 0x410480, 0x90480, 0x402480,
   0x82480, 0x12480, 0x100, 0x490010, 0x482010, 0x412010, 0x92010, 0x480410,
   0x410410, 0x90410, 0x402410, 0x82410, 0x12410, 0x480090, 0x410090, 0x90090]

/-- Entries 64 to 95. -/
def cbRom2 : List Nat := [
   0x402090, 0x82090, 0x12090, 0x400490, 0x80490, 0x10490, 0x2490, 0x20,
   0x490002, 0x482002, 0x412002, 0x92002, 0x480402, 0x410402, 0x90402, 0x402402,
   0x82402, 0x12402, 0x480082, 0x410082, 0x90082, 0x402082, 0x82082, 0x12082,
   0x400482, 0x80482, 0x10482, 0x2482, 0x480012, 0x410012, 0x90012, 0x402012]

/-- Entries 96 to 127. -/
def cbRom3 : List Nat := [
   0x82012, 0x12012, 0x400412, 0x80412, 0x10412, 0x2412, 0x400092, 0x80092,
   0x10092, 0x2092, 0x492, 0x4, 0x890000, 0x510000, 0x4a0000, 0x882000,
   0x502000, 0x812000, 0x112000, 0x422000, 0xa2000, 0x484000, 0x414000, 0x94000,
   0x880400, 0x500400, 0x810400, 0x110400, 0x420400, 0xa0400, 0x802400, 0x102400]

/-- Entries 128 to 159. -/
def cbRom4 : List Nat := [
   0x22400, 0x404400, 0x84400, 0x14400, 0x480800, 0x410800, 0x90800, 0x402800,
   0x82800, 0x12800, 0x880080, 0x500080, 0x810080, 0x110080, 0x420080, 0xa0080,
   0x802080, 0x102080, 0x22080, 0x404080, 0x84080, 0x14080, 0x800480, 0x100480,
   0x20480, 0x492480, 0x4480, 0x400880, 0x80880, 0x10880, 0x2880, 0x480100]

/-- Entries 160 to 191. -/
def cbRom5 : List Nat := [
   0x410100, 0x90100, 0x402100, 0x82100, 0x12100, 0x400500, 0x80500, 0x10500,
   0x2500, 0x880010, 0x500010, 0x810010, 0x110010, 0x420010, 0xa0010, 0x802010,
   0x102010, 0x22010, 0x404010, 0x84010, 0x14010, 0x800410, 0x100410, 0x20410,
   0x492410, 0x4410, 0x400810, 0x80810, 0x10810, 0x2810, 0x800090, 0x100090]

/-- Entries 192 to 223. -/
def cbRom6 : List Nat := [
   0x20090, 0x492090, 0x4090, 0x490490, 0x482490, 0x412490, 0x92490, 0x890,
   0x400110, 0x80110, 0x10110, 0x2110, 0x510, 0x480020, 0x410020, 0x90020,
   0x402020, 0x82020, 0x12020, 0x400420, 0x80420, 0x10420, 0x2420, 0x4000a0,
   0x800a0, 0x100a0, 0x20a0, 0x4a0, 0x6c9249, 0x659249, 0x2d9249, 0x64b249]

/-- Entries 224 to 255. -/
def cbRom7 : List Nat := [
   0x2cb249, 0x25b249, 0x649649, 0x2c9649, 0x259649, 0x24b649, 0x6492c9, 0x2c92c9,
   0x2592c9, 0x24b2c9, 0x2496c9, 0x649259, 0x2c9259, 0x259259, 0x24b259, 0x249659,
   0x2492d9, 0x880002, 0x500002, 0x810002, 0x110002, 0x420002, 0xa0002, 0x802002,
   0x102002, 0x22002, 0x404002, 0x84002, 0x14002, 0x800402, 0x100402, 0x20402]

/-- Entries 256 to 287. -/
def cbRom8 : List Nat := [
   0x492402, 0x4402, 0x400802, 0x80802, 0x10802, 0x2802, 0x800082, 0x100082,
   0x20082, 0x492082, 0x4082, 0x490482, 0x482482, 0x412482, 0x92482, 0x882,
   0x400102, 0x80102, 0x10102, 0x2102, 0x502, 0x800012, 0x100012, 0x20012,
   0x492012, 0x4012, 0x490412, 0x482412, 0x412412, 0x92412, 0x812, 0x490092]

/-- Entries 288 to 319. -/
def cbRom9 : List Nat := [
   0x482092, 0x412092, 0x92092, 0x480492, 0x410492, 0x90492, 0x402492, 0x82492,
   0x12492, 0x112, 0x400022, 0x80022, 0x10022, 0x2022, 0x422, 0xa2,
   0x64924b, 0x2c924b, 0x25924b, 0x24b24b, 0x24964b, 0x2492cb, 0x24925b, 0x480004,
   0x410004, 0x90004, 0x402004, 0x82004, 0x12004, 0x400404, 0x80404, 0x10404]

/-- Entries 320 to 351. -/
def cbRom10 : List Nat := [
   0x2404, 0x400084, 0x80084, 0x10084, 0x2084, 0x484, 0x400014, 0x80014,
   0x10014, 0x2014, 0x414, 0x94, 0x900000, 0x820000, 0x120000, 0x804000,
   0x104000, 0x24000, 0x892400, 0x512400, 0x4a2400, 0x494400, 0x800800, 0x100800,
   0x20800, 0x492800, 0x4800, 0x892080, 0x512080, 0x4a2080, 0x494080, 0x890480]

/-- Entries 352 to 383. -/
def cbRom11 : List Nat := [
   0x510480, 0x4a0480, 0x882480, 0x502480, 0x812480, 0x112480, 0x422480, 0xa2480,
   0x484480, 0x414480, 0x94480, 0x490880, 0x482880, 0x412880, 0x92880, 0x800100,
   0x100100, 0x20100, 0x492100, 0x4100, 0x490500, 0x482500, 0x412500, 0x92500,
   0x900, 0x892010, 0x512010, 0x4a2010, 0x494010, 0x890410, 0x510410, 0x4a0410]

/-- Entries 384 to 415. -/
def cbRom12 : List Nat := [
   0x882410, 0x502410, 0x812410, 0x112410, 0x422410, 0xa2410, 0x484410, 0x414410,
   0x94410, 0x490810, 0x482810, 0x412810, 0x92810, 0x890090, 0x510090, 0x4a0090,
   0x882090, 0x502090, 0x812090, 0x112090, 0x422090, 0xa2090, 0x484090, 0x414090,
   0x94090, 0x880490, 0x500490, 0x810490, 0x110490, 0x420490, 0xa0490, 0x802490]

/-- Entries 416 to 447. -/
def cbRom13 : List Nat := [
   0x102490, 0x22490, 0x404490, 0x84490, 0x14490, 0x480890, 0x410890, 0x90890,
   0x402890, 0x82890, 0x12890, 0x490110, 0x482110, 0x412110, 0x92110, 0x480510,
   0x410510, 0x90510, 0x402510, 0x82510, 0x12510, 0x800020, 0x100020, 0x20020,
   0x492020, 0x4020, 0x490420, 0x482420, 0x412420, 0x92420, 0x820, 0x4900a0]

/-- Entries 448 to 479. -/
def cbRom14 : List Nat := [
   0x4820a0, 0x4120a0, 0x920a0, 0x4804a0, 0x4104a0, 0x904a0, 0x4024a0, 0x824a0,
   0x124a0, 0x120, 0xa49249, 0x349249, 0x269249, 0x24d249, 0x249a49, 0x249349,
   0x249269, 0x892002, 0x512002, 0x4a2002, 0x494002, 0x890402, 0x510402, 0x4a0402,
   0x882402, 0x502402, 0x812402, 0x112402, 0x422402, 0xa2402, 0x484402, 0x414402]

/-- Entries 480 to 511. -/
def cbRom15 : List Nat := [
   0x94402, 0x490802, 0x482802, 0x412802, 0x92802, 0x890082, 0x510082, 0x4a0082,
   0x882082, 0x502082, 0x812082, 0x112082, 0x422082, 0xa2082, 0x484082, 0x414082,
   0x94082, 0x880482, 0x500482, 0x810482, 0x110482, 0x420482, 0xa0482, 0x802482,
   0x102482, 0x22482, 0x404482, 0x84482, 0x14482, 0x480882, 0x410882, 0x90882]

/-- The base table (R130). -/
def cbRom : List Nat :=
  cbRom0 ++ cbRom1 ++ cbRom2 ++ cbRom3 ++ cbRom4 ++ cbRom5 ++ cbRom6 ++ cbRom7 ++
  cbRom8 ++ cbRom9 ++ cbRom10 ++ cbRom11 ++ cbRom12 ++ cbRom13 ++ cbRom14 ++ cbRom15

/-- The sign of element e of an index (R132): the eighth makes the count of negatives even. -/
def cbNeg (c e : Nat) : Bool :=
  if e < 7 then bits c (9 + e) (9 + e) == 1 else popN 7 (bits c 15 9) % 2 == 1

/-- Weight e of index c with scale code x: NaN under 0xFF, +0 where the base is 0 (R132, R239). R239 gives the NaN for CBDEC;
of code 0xFF in a matrix operand or a CPYT source no rule speaks: the model takes every weight as NaN there too, those with
base 0 among them (log 88, DESIGN CHOICE). -/
def cbWeight (c x e : Nat) : Ex :=
  if x = 0xFF then .nan
  else
    let b := bits (cbRom.getD (c % 512) 0) (3 * e + 2) (3 * e)
    if b = 0 then .zero false else .fin (cbNeg c e) b ((x : Int) - 128) false

end Sys2Proof.Machine
end

