-- ==== Sys2Proof/Machine/Convert.lean ====
section
/-! DEFINITION. Conversions and packing (R118, R127 to R129, R235 to R239). -/

namespace Sys2Proof.Machine

/-- A destination that holds neither NaN nor infinity: integers, E3M2, E2M3, E2M1 (R125). -/
def etNoSpecial (et : Nat) : Bool := (etFmt et).isNone || (6 ≤ et && et ≤ 8)

/-- One element converted from type et to type dt, and whether it raises Non-Finite (R118, R125, R235). -/
def cvtElem (rm : Rm) (et dt x : Nat) : Nat × Bool :=
  match etFmt et, etFmt dt with
  | none, none => (etFit dt rm.sat (etInt et x), false)
  | none, some g =>
    let r := g.round rm (Ex.ofInt (etInt et x))
    (r, g.nonFinite r)
  | some f, none =>
    (wrapN (etWidth dt) ((f.decZ rm.ftz x).toRange rm (etLo dt) (etHi dt)), f.nonFinite x)
  | some f, some g =>
    let r := g.round rm (f.decZ rm.ftz x)
    (r, if etNoSpecial dt then f.nonFinite x else g.nonFinite r)

/-- CVT (R235). It rounds unless both types are integer types. -/
def execCvt (d a b : Nat) (s : State) : Out :=
  .next (issue (.cvt d a b) s fun s =>
    let et := mET s.t.mode
    let tab := s.srTab
    let n := min (etCount et) (etCount b)
    let outs := s.actLanes.map fun l =>
      let xs := elems et (s.rc et a l)
      let es := (List.range n).map fun k => cvtElem (s.rmAt tab l k) et b (xs.getD k 0)
      let c := packElems (etWidth b) (es.map fun e => e.1)
      (⟨l, contVals b c, es.any fun e => e.2, [c]⟩ : LaneOut)
    (s.srStep ((etFmt et).isSome || (etFmt b).isSome)).finishF (.cvt d a b) d (etRegs b) outs)

/-- Exponent of the largest finite value of an MX element type (R129). -/
def mxEmax (et : Nat) : Int :=
  match et with | 4 => 8 | 5 => 15 | 6 => 4 | _ => 2

/-- floor (log2 |x|) of a finite non-zero value. -/
def Ex.floorLog2 : Ex → Int
  | .fin _ m e _ => e + bitLen m - 1
  | _ => 0

/-- The larger magnitude of finite values. -/
def Ex.amax (l : List Ex) : Ex := l.foldl (fun m x => if m.lt x.abs then x.abs else m) (.zero false)

/-- An MX block (R129): the scale code, the element of each value with its own rounding, and whether a value is NaN
or infinite. R129 gives blocks of FP32, FP16 and BF16 values; drains and CPYT convert FP64 values too (R153, R272), by the
same rule here, and the scale that this would put above 0xFE, which the spec does not state, is a free byte (log 85, DESIGN
CHOICE). -/
def mxBlock (et : Nat) (l : List (Ex × Rm)) : Nat × List Nat × Bool :=
  let bad := l.any fun p => match p.1 with | .fin .. => false | _ => true
  if bad then (0xFF, l.map fun _ => 0, true)
  else
    let m := Ex.amax (l.map fun p => p.1)
    let e : Int := max (-127) (if m.isZero false then -127 else m.floorLog2 - mxEmax et)
    let f := (etFmt et).getD .e4m3
    let n := (e + 127).toNat
    (if n ≤ 0xFE then n else Config.mxScaleOver n % 256, l.map fun p => f.round { p.2 with sat := true } (p.1.scale (-e)), false)

/-- CVTMX (R236): every present lane of a pass with an active lane is written. -/
def execCvtmx (d a b : Nat) (s : State) : Out :=
  .next (issue (.cvtmx d a b) s fun s =>
    let et := mET s.t.mode
    let tab := s.srTab
    let act := s.active
    let blocks := ((List.range s.t.ngroups).filter fun g => groupWord act g != 0).map fun g =>
      let ls := s.actLanes.filter fun l => l / 32 == g
      let vs := ls.map fun l => (Fmt.fp32.decZ (mFTZ s.t.mode) (s.rv a l).toNat, s.rmAt tab l 0)
      (g, ls, vs, mxBlock et vs)
    let bads := blocks.flatMap fun k => (List.zip k.2.1 k.2.2.1).filterMap fun p =>
      match p.2.1 with | .fin .. => none | _ => some p.1
    if mNFT s.t.mode && !bads.isEmpty then
      (s.srStep true).raiseLanes (bads.map fun l => ⟨l, 10, [0, 0xFF].getD (s.freeNat (fk 40 l) % 2) 0⟩)
    else
      let present (g : Nat) : List Nat := (List.range s.t.lanes).filter fun l => l / 32 == g
      let ds := blocks.flatMap fun k => (present k.1).map fun l =>
        (l, BitVec.ofNat 32 (match (List.zip k.2.1 k.2.2.2.2.1).find? fun p => p.1 == l with
          | some p => p.2 | none => 0))
      let bs := blocks.flatMap fun k => (present k.1).map fun l => (l, BitVec.ofNat 32 k.2.2.2.1)
      (((s.srStep true).wv d ds).wv b bs).done (.cvtmx d a b))

/-- An MX element times its scale (R127, R128, R237). -/
def mxValue (et c x : Nat) : Ex :=
  if c = 0xFF then .nan else (((etFmt et).getD .e4m3).dec x).scale ((c : Int) - 127)

/-- CVTXM (R237). -/
def execCvtxm (d a b : Nat) (s : State) : Out :=
  .next (issue (.cvtxm d a b) s fun s =>
    let et := mET s.t.mode
    let tab := s.srTab
    let outs := s.actLanes.map fun l =>
      outC 0 l [Fmt.fp32.round (s.rmAt tab l 0)
        (mxValue et ((s.rv b l).toNat % 256) ((s.rv a l).toNat % 2 ^ etWidth et))]
    (s.srStep true).finishF (.cvtxm d a b) d 1 outs)

/-- CBDEC (R239): element m of the 16 weights is element m mod 2 of its register. -/
def execCbdec (d a b : Nat) (s : State) : Out :=
  .next (issue (.cbdec d a b) s fun s =>
    let tab := s.srTab
    let outs := s.actLanes.map fun l =>
      let x := (s.rv a l).toNat
      let c := (s.rv b l).toNat % 256
      let w (m : Nat) : Nat := Fmt.bf16.round (s.rmAt tab l (m % 2)) (cbWeight (elemOf 16 (m / 8) x) c (m % 8))
      let vals := (List.range 8).map fun r => w (2 * r) + 2 ^ 16 * w (2 * r + 1)
      let badR (v : Nat) : Bool := Fmt.bf16.nonFinite (v % 2 ^ 16) || Fmt.bf16.nonFinite (v / 2 ^ 16)
      (⟨l, vals, vals.any badR, vals.filter badR⟩ : LaneOut)
    (s.srStep true).finishF (.cbdec d a b) d 8 outs)

/-- VPACK (R238): bits above the last element are zero (R114). -/
def execVpack (d a b : Nat) (s : State) : Out :=
  .next (issue (.vpack d a b) s fun s =>
    let et := mET s.t.mode
    (s.wv d (s.actLanes.map fun l =>
      let k := (s.rv b l).toNat % 8 % etCount et
      let x := elemOf (etWidth et) 0 (s.rv a l).toNat
      (l, BitVec.ofNat 32 (packElems (etWidth et) ((elems et (s.rv d l).toNat).set k x))))).done (.vpack d a b))

/-- VUNPK (R238). -/
def execVunpk (d a b : Nat) (s : State) : Out :=
  .next (issue (.vunpk d a b) s fun s =>
    let et := mET s.t.mode
    (s.wv d (s.actLanes.map fun l =>
      (l, BitVec.ofNat 32 (elemOf (etWidth et) b (s.rv a l).toNat)))).done (.vunpk d a b))

end Sys2Proof.Machine
end

