-- ==== Sys2Proof/Machine/Cross.lean ====
section
/-! DEFINITION. Cross-lane operations, predicate summaries and lane matrix-vector products (R134, R135, R240 to R244). -/

namespace Sys2Proof.Machine

/-- v_a of any present lane, whatever the mask; 0 for an absent lane (R19, R240). -/
def State.gather (s : State) (a src : Nat) : Word := if src < s.t.lanes then s.rv a src else 0

/-- SHFL (R240). -/
def execShfl (d a b : Nat) (s : State) : Out :=
  .next (issue (.shfl d a b) s fun s =>
    (s.wv d (s.actLanes.map fun l => (l, s.gather a (s.rv b l).toNat))).done (.shfl d a b))

/-- SHFLX (R240). -/
def execShflx (d a b : Nat) (s : State) : Out :=
  .next (issue (.shflx d a b) s fun s =>
    (s.wv d (s.actLanes.map fun l => (l, s.gather a (l ^^^ b)))).done (.shflx d a b))

/-- PERMB (R241): byte i of the result is the table byte that byte i of v_b selects. -/
def execPermb (d a b : Nat) (s : State) : Out :=
  .next (issue (.permb d a b) s fun s =>
    (s.wv d (s.actLanes.map fun l =>
      let c := (s.rv b l).toNat
      let byte (i : Nat) : Nat :=
        let k := elemOf 8 i c
        if 128 ≤ k then 0 else elemOf 8 (k % 4) (s.rv (a + k % 16 / 4) l).toNat
      (l, BitVec.ofNat 32 (packElems 8 [byte 0, byte 1, byte 2, byte 3])))).done (.permb d a b))

/-! ### Reduction trees (R134, R135, R242) -/

/-- Identity of a SCAN or REDV operation in an element of ET (R242). -/
def redIdentity (et op : Nat) : Nat :=
  match op with
  | 0 => 0
  | 1 => match etFmt et with
    | some f => (2 ^ f.exp - 1) * 2 ^ f.man
    | none => wrapN (etWidth et) (etHi et)
  | 2 => match etFmt et with
    | some f => f.sgn true + (2 ^ f.exp - 1) * 2 ^ f.man
    | none => wrapN (etWidth et) (etLo et)
  | 3 => 2 ^ etWidth et - 1
  | _ => 0

/-- One combination of two elements (R123, R133, R230, R242). -/
def redComb (et op : Nat) (rm : Rm) (x y : Nat) : Nat :=
  match op with
  | 3 => Nat.land x y
  | 4 => Nat.lor x y
  | 5 => Nat.xor x y
  | _ =>
    match etFmt et with
    | some f =>
      let a := f.decZ rm.ftz x
      let b := f.decZ rm.ftz y
      f.round rm (match op with | 0 => Ex.sum rm.rnd [a, b] | 1 => a.minF b | _ => a.maxF b)
    | none =>
      match op with
      | 0 => etFit et rm.sat (etInt et x + etInt et y)
      | 1 => minVal et x y
      | _ => maxVal et x y

/-- One level of the tree of R134: node i of the level below step apart; empty nodes are skipped. -/
def redLevel (f : Nat → Nat → Nat → Nat) : Nat → List (Option Nat) → List (Option Nat)
  | i, a :: b :: r =>
    (match a, b with
     | none, b => b
     | a, none => a
     | some x, some y => some (f i x y)) :: redLevel f (i + 1) r
  | _, l => l

/-- All levels of the tree, from level k on: element k of the answer is level k (R134). -/
def redTree (f : Nat → Nat → Nat → Nat → Nat) : Nat → Nat → List (Option Nat) → List (List (Option Nat))
  | 0, _, l => [l]
  | n + 1, k, l => l :: redTree f n (k + 1) (redLevel (f (k + 1)) 0 l)

/-- The fold of R135 over lanes 0 to n - 1, largest block first; pos is the first lane not yet folded. -/
def redFold (f : Nat → Nat → Nat) (tree : List (List (Option Nat))) (n : Nat) :
    Nat → Nat → Option Nat → Option Nat
  | 0, _, acc => acc
  | k + 1, pos, acc =>
    if n / 2 ^ k % 2 = 1 then
      let node := ((tree.getD k []).getD (pos / 2 ^ k) none)
      let acc' := match acc, node with
        | none, y => y
        | x, none => x
        | some x, some y => some (f x y)
      redFold f tree n k (pos + 2 ^ k) acc'
    else redFold f tree n k pos acc

/-- A leaf of the tree: an input flushed under FTZ, a NaN canonical, whether or not it is combined with another (R116,
R124, R242). -/
def redLeaf (et op : Nat) (rm : Rm) (x : Nat) : Nat :=
  match etFmt et with
  | some f => if op ≤ 2 then f.round rm (f.decZ rm.ftz x) else x
  | none => x

/-- The tree of element position e of v_a (R134, R242). Roundings use the state after the last advance. -/
def State.redTreeOf (s : State) (et op a e : Nat) : List (List (Option Nat)) :=
  let act := s.active
  let base := (List.range 1024).map fun l =>
    if act.getLsbD l then
      some (redLeaf et op (rmOf s.t.mode (srValue s.srLast e)) (elemOf (etWidth et) e (s.rc et a l)))
    else none
  redTree (fun k i => redComb et op (rmOf s.t.mode (srValue s.srLast (i * 2 ^ k + e)))) 10 0 base

/-- SCAN (R242). Under SR the exclusive form of lane L rounds its fold with the rotation of L, the lane that receives it,
where R242 does not say whether it is that of the last lane folded (log 86, DESIGN CHOICE). -/
def execScan (d a b : Nat) (s : State) : Out :=
  .next (issue (.scan d a b) s fun s =>
    let et := mET s.t.mode
    let op := b % 8
    let excl := 8 ≤ b
    let trees := (List.range (etCount et)).map fun e => s.redTreeOf et op a e
    let outs := s.actLanes.map fun l =>
      let es := (List.range (etCount et)).map fun e =>
        redFold (redComb et op (rmOf s.t.mode (srValue s.srLast (l + e)))) (trees.getD e [])
          (if excl then l else l + 1) 11 0 none
      let c := packElems (etWidth et) (es.map fun x => x.getD (redIdentity et op))
      let bad := match etFmt et with
        | some f => es.any fun x => match x with | some v => f.nonFinite v | none => false
        | none => false
      (⟨l, contVals et c, bad, [c]⟩ : LaneOut)
    (s.srStep (etFmt et).isSome).finishF (.scan d a b) d (etRegs et) outs)

/-- REDV (R242): no pass, no effect on s_d; an empty tree gives the identity. -/
def execRedv (d a b : Nat) (s : State) : Out :=
  .next (issue (.redv d a b) s fun s =>
    if s.t.passes.isEmpty then s.done (.redv d a b)
    else
      let et := mET s.t.mode
      let es := (List.range (etCount et)).map fun e => ((s.redTreeOf et b a e).getD 10 []).getD 0 none
      let c := packElems (etWidth et) (es.map fun x => x.getD (redIdentity et b))
      let bad := match etFmt et with
        | some f => es.any fun x => match x with | some v => f.nonFinite v | none => false
        | none => false
      let s1 := s.srStep (etFmt et).isSome
      if mNFT s.t.mode && bad then s1.raiseLanes [⟨s.actLanes.headD 0, 10, c⟩]
      else (s1.ws d (BitVec.ofNat 64 c)).done (.redv d a b))

/-- The active lanes where p_a is true, ascending. -/
def State.trueLanes (s : State) (a : Nat) : List Nat := s.t.lanesIn (s.active &&& s.rp a)

/-- BALLOT (R243). -/
def execBallot (d a b : Nat) (s : State) : Out :=
  .next (issue (.ballot d a b) s fun s =>
    if s.t.passes.isEmpty then s.done (.ballot d a b)
    else
      let k := (s.rs b).toNat
      let m := s.active &&& s.rp a
      (s.ws d (if 16 ≤ k then 0 else BitVec.ofNat 64 (m.toNat / 2 ^ (64 * k)))).done (.ballot d a b))

/-- POPC (R243). -/
def execPopc (d a : Nat) (s : State) : Out :=
  .next (issue (.popc d a) s fun s =>
    if s.t.passes.isEmpty then s.done (.popc d a)
    else (s.ws d (BitVec.ofNat 64 (s.trueLanes a).length)).done (.popc d a))

/-- VFIRST (R243). -/
def execVfirst (d a : Nat) (s : State) : Out :=
  .next (issue (.vfirst d a) s fun s =>
    if s.t.passes.isEmpty then s.done (.vfirst d a)
    else (s.ws d (match (s.trueLanes a).head? with
      | some l => BitVec.ofNat 64 l
      | none => 0xFFFFFFFFFFFFFFFF)).done (.vfirst d a))

/-! ### Lane matrix-vector products (R244) -/

/-- The Cupboard allocation of the team's grid on its quad: its size, and its bytes (R58, R61). -/
def State.myCup (s : State) : Option Cup := (s.quadD (quadOf s.t.core)).cups.find? fun c => c.gid == s.t.gid
def State.cupSize (s : State) : Nat := match s.myCup with | some c => c.size | none => 0
def State.cupNat (s : State) (o n : Nat) : Nat :=
  match s.myCup with
  | some c => leNat (sgets 0 o n c.bytes)
  | none => 0

/-- What a Cupboard access of `size` bytes at `off` raises: Misaligned and Region-Violation are tested apart, and both may
hold (R61, R206, R244, R251). -/
def cupCauses (lane align size cup off : Nat) : List LaneCause :=
  (if off % align ≠ 0 then [⟨lane, 6, off⟩] else []) ++ (if cup < off + size then [⟨lane, 5, off⟩] else [])

/-- LMV4 and LMV8 for matrices of size n (R244). -/
def lmv (i : Instr) (n d a b : Nat) (s : State) : State :=
  issue i s fun s =>
    let lanes := s.actLanes
    let off (l : Nat) : Nat := (s.rv b l).toNat
    let causes := lanes.flatMap fun l => cupCauses l 64 (4 * n * n) s.cupSize (off l)
    if !causes.isEmpty then s.raiseLanes causes
    else
      let tab := s.srTab
      let ftz := mFTZ s.t.mode
      let outs := lanes.map fun l =>
        let xs := (List.range n).map fun j => Fmt.fp32.decZ ftz (s.rv (a + j) l).toNat
        let row (k : Nat) : List Ex := (List.range n).map fun j =>
          Fmt.fp32.decZ ftz (s.cupNat (off l + 4 * (n * k + j)) 4)
        let vals := (List.range n).map fun k =>
          Fmt.fp32.round (s.rmAt tab l k) (Ex.sum (mRND s.t.mode) (List.zipWith Ex.mul (row k) xs))
        (⟨l, vals, vals.any Fmt.fp32.nonFinite, vals.filter Fmt.fp32.nonFinite⟩ : LaneOut)
      (s.srStep true).finishF i d n outs

/-- LMV4 (R244). -/
def execLmv4 (d a b : Nat) (s : State) : Out := .next (lmv (.lmv4 d a b) 4 d a b s)

/-- LMV8 (R244). -/
def execLmv8 (d a b : Nat) (s : State) : Out := .next (lmv (.lmv8 d a b) 8 d a b s)

end Sys2Proof.Machine
end

