-- ==== Sys2Proof/Machine/Window.lean ====
section
/-! DEFINITION. Accesses to the system window: the messages the device forms, and the words an L1 holds (R107, R392,
R446, R447). -/

namespace Sys2Proof.Machine

/-- Byte enables of the word at w for the bytes [pa, pa + n) (R446). -/
def byteEn (w pa n : Nat) : Nat :=
  (List.range 8).foldl (fun acc b => if pa ≤ w + b && w + b < pa + n then acc + 2 ^ b else acc) 0

/-- Payload of a device MWR (R446): bytes that are not enabled are free (log 7). -/
def State.mwrPayload (s : State) (pa : Nat) (data : List Byte) : List Byte :=
  let n := data.length
  let (_, addr) := s.winRoute (firstWord pa)
  let w := firstWord pa
  let k := wordCount pa n
  let last := w + 8 * (k - 1)
  let lastBE := if k = 1 then 0 else byteEn last pa n
  leBytes 8 (addr + byteEn w pa n * 2 ^ 52 + lastBE * 2 ^ 44) ++
    (List.range (8 * k)).map fun i =>
      if pa ≤ w + i && w + i < pa + n then data.getD (w + i - pa) 0 else s.freeByte (fk 15 (w + i))

/-- Bytes [a, a + n) and [b, b + k) meet. -/
def overlap (a n b k : Nat) : Bool := a < b + k && b < a + n

/-- Outstanding reads that cover bytes [pa, pa + n) no longer fill L1 h: a later access of the L1's teams has passed
them (R84). -/
def State.noFill (s : State) (h pa n : Nat) : State :=
  let f (r : WinReq) : WinReq :=
    if r.l1 == h && overlap pa n r.w0 (8 * r.wn) then { r with fill := false } else r
  { s with link := { s.link with reqs := s.link.reqs.map f } }

/-- Words of the system window that an L1 holds: update those that a write changes (R63, R84, R107). -/
def State.winUpdate (s : State) (h pa : Nat) (data : List Byte) : State :=
  let s1 := s.noFill h pa data.length
  { s1 with caches := { s1.caches with win := s1.caches.win.map fun w =>
      if w.holder == h then
        { w with data := leNat ((List.range 8).map fun i =>
            if pa ≤ w.pa + i && w.pa + i < pa + data.length then data.getD (w.pa + i - pa) 0
            else BitVec.ofNat 8 (w.data / 256 ^ i)) }
      else w } }

/-- Words of [pa, pa + n) leave an L1, and outstanding reads of them do not bring them back (R63, R84). -/
def State.winForget (s : State) (h pa n : Nat) : State :=
  let s1 := s.noFill h pa n
  let win := s1.caches.win.filter fun w => !(w.holder == h && overlap pa n w.pa 8)
  { s1 with caches := { s1.caches with
      win := win
      l1 := s1.caches.l1.filter fun e => isLocal (128 * e.line) || e.holder != h || win.any fun w =>
        w.holder == h && lineOf w.pa == e.line } }

/-- A device-originated write of bytes to the window, on behalf of team tid (R375, R446). -/
def State.winWrite (s : State) (tid pa : Nat) (data : List Byte) : State :=
  let s1 := s.newTag
  let (port, _) := s.winRoute pa
  let s2 := s1.send port 0x08 0 s1.link.tag (s.mwrPayload pa data)
  { s2 with link := { s2.link with wacks := s2.link.wacks ++ [(s2.link.tag, tid)] } }

/-- Accesses whose reads one MRD carries: its first word, how many, and the accesses. -/
abbrev WinGroup := Nat × Nat × List WinReq

/-- An access joins those of its sector, so that the bytes one instruction reads in a sector are read at one instant, and
lanes on one location return the same write (R85, R87, R446). -/
def joinGroup (gs : List WinGroup) (r : WinReq) : List WinGroup :=
  let a := firstWord r.pa
  let n := wordCount r.pa r.op.size
  let hit (g : WinGroup) : Bool := g.1 / 32 == a / 32
  let mine := gs.filter hit
  let lo := mine.foldl (fun m g => min m g.1) a
  let hi := mine.foldl (fun m g => max m (g.1 + 8 * g.2.1)) (a + 8 * n)
  gs.filter (fun g => !hit g) ++ [(lo, (hi - lo) / 8, mine.flatMap (fun g => g.2.2) ++ [r])]

/-- A device-originated read for L1 h (R446): it misses, so earlier copies of its words have left (R84). -/
def State.winRead (s : State) (h : Nat) (g : WinGroup) : State :=
  let (s1, tag) := (s.winForget h g.1 (8 * g.2.1)).sendMrd g.1 (8 * g.2.1)
  { s1 with link := { s1.link with
      reqs := s1.link.reqs ++ g.2.2.map fun r => { r with tag := tag, l1 := h, w0 := g.1, wn := g.2.1 } } }

/-- RND of a MATOM: MODE.RND, a free one of 0 to 4 where the operation rounds nothing under SR (R447, log 28). -/
def State.atomRnd (s : State) (rnd : Nat) : Nat := if rnd = 5 then s.freeNat (fk 43 s.link.tag) % 5 else rnd

/-- An atomic or reduction carried to the owning port (R447); C is zero but for cas. L1 h drops the words. -/
def State.winAtom (s : State) (h : Nat) (r : WinReq) (op rnd : Nat) (ret : Bool) : State :=
  let s1 := (s.winForget h r.pa r.op.size).newTag
  let (port, addr) := s.winRoute r.pa
  let s2 := s1.send port 0x0D 0 s1.link.tag
    (leBytes 8 addr ++ leBytes 1 op ++ leBytes 1 r.op.size ++ leBytes 1 r.op.et ++ leBytes 1 (s1.atomRnd rnd) ++
      leBytes 1 ret.toNat ++ leBytes 3 0 ++ leBytes 8 r.acc.x ++ leBytes 8 (if op = 7 then r.acc.c else 0) ++ leBytes 8 0)
  { s2 with link := { s2.link with reqs := s2.link.reqs ++ [{ r with tag := s2.link.tag, l1 := h }] } }

/-- The words of an access that the L1 holds all of, as bytes of the access (R63, R107). The words of one sector come from
one fill (R87, R88). -/
def State.winHeld (s : State) (h pa n : Nat) : Option Nat :=
  let ws := wordsAt pa n
  let vals := ws.filterMap fun w => (s.caches.win.find? fun x => x.holder == h && x.pa == w).map fun x => x.data
  if vals.length = ws.length then
    some (leNat (((vals.flatMap (leBytes 8)).drop (pa - firstWord pa)).take n))
  else none

/-- A system-scope acquire drops the window words of an L1, and what outstanding reads would still bring it (R107). -/
def State.winDrop (s : State) (h : Nat) : State :=
  { s with
    caches := { s.caches with
      win := s.caches.win.filter fun w => w.holder != h
      l1 := s.caches.l1.filter fun e => isLocal (128 * e.line) || e.holder != h }
    link := { s.link with reqs := s.link.reqs.map fun r => if r.l1 == h then { r with fill := false } else r } }

/-- One instruction's read hits a window line of an L1: a count falls, and at zero the line goes (R71, R247). -/
def State.winHit (s : State) (h line : Nat) : State :=
  let left := L1Line.hit h line s.caches.l1
  { s with caches :=
      if left.any (L1Line.at_ h line) then { s.caches with l1 := left } else s.caches.dropLine h line }

/-- L1 h takes the words that a reply brings, in place of every word it held of their sectors (R63, R87, R107); cnt is VLDN's
expected read count for a line that they fill, of which the filling read is the first (R71, R247). -/
def State.winFill (s : State) (h cnt pa : Nat) (words : List Nat) : State :=
  let line := lineOf pa
  let present := s.caches.l1.any (L1Line.at_ h line)
  let n := if s.feature 5 then cnt else 0
  if !present && n = 1 then s
  else
    let new := (List.zip (List.range words.length) words).map fun p => (⟨h, firstWord pa + 8 * p.1, p.2⟩ : WinWord)
    let s1 := if present then s else s.addLine ⟨h, line, n - 1, false, 15⟩
    { s1 with caches := { s1.caches with
        win := new ++ s1.caches.win.filter fun w => !(w.holder == h && new.any fun x => x.pa / 32 == w.pa / 32) } }

/-- The team's window reads, atomics and reductions have all been answered. -/
def State.readsDone (s : State) (tid : Nat) : Bool := s.link.reqs.all fun r => r.tid != tid

/-- The team's window writes have all been acknowledged (R107). -/
def State.writesDone (s : State) (tid : Nat) : Bool := s.link.wacks.all fun w => w.2 != tid

/-- The team's window reductions at this scope or a narrower one have been answered (R258, R447). -/
def State.redsDone (s : State) (tid scope : Nat) : Bool :=
  s.link.reqs.all fun r => r.tid != tid || (match r.op.kind with | .red _ => scope < r.op.scope | _ => true)

/-- The team's destination pieces that wait for a translation have all been granted, or their operations have ended (R97). -/
def State.grantsDone (s : State) (tid : Nat) : Bool :=
  s.eops.all fun o => o.tid != tid || o.sent || o.status.isSome || o.wants.isEmpty

/-- A release at this scope need not wait any longer (R92, R97, R107, R258): at any scope the team's reductions have been
performed and its engine operations have their grants; above team scope its other accesses have been performed; at system
scope the window writes have been acknowledged. -/
def State.released (s : State) (scope : Nat) : Bool :=
  s.redsDone s.t.tid 4 && s.grantsDone s.t.tid &&
    (scope == 0 || (s.readsDone s.t.tid && (scope != 4 || s.writesDone s.t.tid)))

end Sys2Proof.Machine
end

