-- ==== Sys2Proof/Machine/Memory.lean ====
section
/-! DEFINITION. Loads, stores, prefetch, scratchpad and Cupboard forms, fences, seals and replication pins (R37, R53,
R68, R73 to R75, R84 to R108, R245 to R253). -/

namespace Sys2Proof.Machine

/-! ### One lane's access -/

/-- Reads and writes of an access kind: an atomic needs both permissions (R399). -/
def AccKind.reads : AccKind → Bool
  | .store => false
  | _ => true
def AccKind.writes : AccKind → Bool
  | .load => false
  | _ => true

/-- An atomic or reduction, naturally aligned (R89). -/
def AccKind.atomic : AccKind → Bool
  | .load => false
  | .store => false
  | _ => true

/-- The pointer of an access (R207), and its virtual address. -/
def LaneAcc.ptr (a : LaneAcc) : Nat := a.m.ptr a.off % 2 ^ 64
def LaneAcc.va (a : LaneAcc) : Nat := a.m.vbase.toNat + a.off

/-- Misaligned (R89, R246): a natural alignment for atomics, else no crossing of a 32-byte boundary. -/
def misaligned (atomic : Bool) (addr size : Nat) : Bool :=
  if atomic then addr % size != 0 else 32 < addr % 32 + size

/-- What the resolution of a lane gives (R53, R205). -/
inductive LaneRes where
  | ok (pa : Nat)
  /-- An issue cause. -/
  | issue (cause : Nat)
  /-- A cause of the TLB path. -/
  | park (cause : Nat)
  | ends (status : Nat)
  deriving DecidableEq, Repr

/-- Resolve one lane (R25, R53, R54, R423, R439). An empty translation register raises Region-Violation in every active
lane, also in one that is misaligned. -/
def State.resolve (s : State) (slot : Nat) (op : MemOp) (a : LaneAcc) : LaneRes :=
  let rd := op.kind.reads
  let wr := op.kind.writes
  if !a.m.v then .issue 5
  else if misaligned op.kind.atomic a.va op.size then .issue 6
  else
    let r : LaneRes :=
      if a.off + op.size ≤ a.m.limit.toNat then
        let pa := a.m.phys + a.off
        if !s.paOk pa || (rd && !a.m.rd) || (wr && !a.m.w) then .issue 7
        else if s.lineLost pa then .ends 0x41 else .ok pa
      else if 2 ^ 56 < a.va + op.size then .park 5
      else match s.xlate slot (a.m.region.toNat * 2 ^ 56 + a.va) op.size rd wr with
        | .ok pa => .ok pa
        | .fault c => .park c
        | .ends st => .ends st
    match r with
    | .ok pa => if rd && s.poisoned pa op.size then .ends 0x44 else .ok pa
    | r => r

/-- The issue causes of a resolved lane: through an empty translation register a misaligned lane raises Misaligned as
well (R25, R89, R206). -/
def MemOp.issueCauses (op : MemOp) (x : LaneAcc × LaneRes) : List LaneCause :=
  match x.2 with
  | .issue c => ⟨x.1.lane, c, x.1.ptr⟩ ::
      (if !x.1.m.v && misaligned op.kind.atomic x.1.va op.size then [⟨x.1.lane, 6, x.1.ptr⟩] else [])
  | _ => []

/-- New value of an atomic (R255): x operand, c comparison value, on the stored bits. -/
def atomNew (op : MemOp) (old x c : Nat) : Nat :=
  let w := 8 * op.size
  match op.kind with
  | .cas => if old = c then x else old
  | .atom k => f k w
  | .red k => f k w
  | .load => old
  | .store => x
where
  f (k w : Nat) : Nat :=
    match k with
    | 3 => Nat.land old x
    | 4 => Nat.lor old x
    | 5 => Nat.xor old x
    | 6 => x
    | _ =>
      match etFmt op.et with
      | some g =>
        let rm : Rm := ⟨op.rnd, op.sat, false, 0⟩
        let p := g.dec old
        let q := g.dec x
        g.round rm (match k with | 0 => Ex.sum op.rnd [p, q] | 1 => p.minF q | _ => p.maxF q)
      | none =>
        match k with
        | 0 => wrapN w (etInt op.et old + etInt op.et x)
        | 1 => minVal op.et old x
        | _ => maxVal op.et old x

/-- What performing lanes gives: the state, the values that return, the lanes refused as Sealed-Write (R73). -/
structure Perf where
  s : State
  vals : List (Nat × Nat) := []
  refused : List LaneCause := []
  wrote : List Nat := []
  reads : Reads := {}

/-- Perform one lane on local memory (R73, R87, R90, R257). -/
def Perf.lane (op : MemOp) (p : Perf) (x : LaneAcc × Nat) : Perf :=
  let (a, pa) := x
  let old := p.s.memNat pa op.size
  if op.kind.writes && (p.s.sealAt pa).isSome then
    { p with s := p.s.noteSealed pa, refused := p.refused ++ [⟨a.lane, 9, a.ptr⟩] }
  else
    { p with
      s := if op.kind.writes then p.s.putNat pa op.size (atomNew op old a.x a.c) else p.s
      vals := if op.kind.reads then p.vals ++ [(a.lane, old)] else p.vals
      wrote := if op.kind.writes then p.wrote ++ [pa] else p.wrote }

/-- Take elements in a free order (R85). -/
def State.shuffle {α : Type} (s : State) (key : Nat) : Nat → List α → List α
  | 0, l => l
  | n + 1, l =>
    match l with
    | [] => []
    | x :: r =>
      let k := s.freeNat (fk key n) % (r.length + 1)
      (l.getD k x) :: State.shuffle s key n (l.eraseIdx k)

/-- Perform lanes on local memory (R85): stores ascending, so that the highest lane's byte stands; atomics of colliding
lanes in a free order. Then what the access does to caches and poison (R63 to R72, R256, R439), and to stores whose bytes it meets
(R84). seen are the lines that the instruction has read before; the counts at home are still to be paid (R71). -/
def State.performLocal (s : State) (core : Nat) (op : MemOp) (l : List (LaneAcc × Nat)) (seen : Reads := {}) : Perf :=
  let collide := (l.map fun x => x.2).dedup.length != l.length
  let order := if op.kind.atomic && collide then s.shuffle 41 l.length l else l
  let p := order.foldl (Perf.lane op) { s := s }
  let s1 := if op.kind.writes then p.s.clearPoisonBytes (p.wrote.flatMap fun pa => (List.range op.size).map fun i => pa + i)
    else p.s
  let wlines := (p.wrote.map lineOf).dedup
  let (s2, r) : State × Reads := match op.kind with
    | .load => s1.noteOnce (.core core) op.cnt seen (l.map fun (x : LaneAcc × Nat) => (x.2, op.size))
    | .store => (s1.noteWrites (.core core) wlines, seen)
    | .red _ =>
      (if op.scope ≤ 2 then wlines.foldl (fun s n => s.noteUnit core n) s1
       else s1.noteWrites (.engine (towerOf core)) wlines, seen)
    | _ => (wlines.foldl (fun s n => s.noteExcl core n) s1, seen)
  let secs := (l.map fun x => x.2 / 32).dedup
  { p with s := s2.settle (fun e => e.inMem fun x => secs.contains (x / 32)), reads := r }

/-- Deliver values to the destination of an access. -/
def State.deliver (s : State) (op : MemOp) (vals : List (Nat × Nat)) : State :=
  match op.dst with
  | .none => s
  | .v n => s.wc op.et n vals
  | .s n => vals.foldl (fun s x => s.ws n (BitVec.ofNat 64 x.2)) s

/-- Deliver a value that comes later, from a read of this step: the register is interlocked or its overtaking has been
settled (R31, R170, R350). -/
def State.deliverLate (s : State) (op : MemOp) (vals : List (Nat × Nat)) : State :=
  match op.dst with
  | .none => s
  | .s n => vals.foldl (fun s x => s.modT fun t => { t with
      s := sput 0 n (BitVec.ofNat 64 x.2) t.s, taint := sput 0 n (s.free + 1) t.taint }) s
  | .v n =>
    let lo := vals.map fun x => (1024 * n + x.1, BitVec.ofNat 32 x.2)
    let hi := if etPair op.et then vals.map fun x => (1024 * (n + 1) + x.1, BitVec.ofNat 32 (x.2 / 2 ^ 32)) else []
    let keys := (64 + n) :: if etPair op.et then [65 + n] else []
    s.modT fun t => { t with
      v := sputs 0 (lo ++ hi) t.v, taint := sputs 0 (keys.map fun k => (k, s.free + 1)) t.taint }

/-- The sectors that the not-done lanes, rows or record read of an entry still name (R38). -/
def LogEntry.names (e : LogEntry) : List Nat :=
  match e.kind with
  | .lanes _ todo => todo.map fun b => b.va / 32
  | .redo _ => e.spans.flatMap fun x => (pieces (x.2.2 / 32 + 2) x.2.1 x.2.2).map fun p => p.1 / 32
  | .rows _ todo => (e.spans.filter fun x => todo.contains x.1).flatMap fun x =>
      (pieces (x.2.2 / 32 + 2) x.2.1 x.2.2).map fun p => p.1 / 32

/-- The physical sector of a virtual one, where its page has a translation. -/
def State.physSec (s : State) (slot k : Nat) : Option Nat :=
  match s.pageOf slot (32 * k) with
  | .page l _ => some ((l.frame + 32 * k % l.size) / 32)
  | _ => none

/-- Bytes of these ranges of virtual addresses lie in a sector that a log entry still names, by its virtual address or, where
both translate, by its physical one (R38, R84, log 15). -/
def State.spanHeld (s : State) (l : List (Nat × Nat)) : Bool :=
  s.t.log.any fun e =>
    let slot := (s.slotOf s.t.ctx).getD 0
    e.names.any fun k => l.any fun r => overlap r.1 r.2 (32 * k) 32 || (match s.physSec slot k with
      | some p => (pieces (r.2 / 32 + 2) r.1 r.2).any fun q => s.physSec slot (q.1 / 32) == some p
      | none => false)

/-- A 32-byte sector of the accesses is also named by a not-done lane of a log entry, by its virtual or its physical address
(R38, R84, log 15). -/
def State.sectorHeld (s : State) (rs : List (LaneAcc × LaneRes)) : Bool :=
  s.t.log.any fun e =>
    let slot := (s.slotOf s.t.ctx).getD 0
    e.names.any fun k => rs.any fun x => x.1.va / 32 == k || (match x.2 with
      | .ok pa => s.physSec slot k == some (pa / 32)
      | _ => false)

/-- The loads of one instruction from the window: each sector is freely served from the words the L1 holds, if it holds
all of them, or read at its port, alike for every lane (R85, R107, R446). Answers the values known at once. -/
def State.winLoads (s : State) (core : Nat) (op : MemOp) (rs : List WinReq) : State × List (Nat × Nat) :=
  let h := s.holder core
  let held (r : WinReq) : Option Nat := s.winHeld h r.pa op.size
  let served (r : WinReq) : Bool :=
    (rs.all fun q => q.pa / 32 != r.pa / 32 || (held q).isSome) && s.freeBool (fk 42 (r.pa / 32))
  let hits := rs.filter served
  let s1 := ((hits.map fun r => lineOf r.pa).dedup).foldl (fun s n => s.winHit h n) s
  let groups := (rs.filter fun r => !served r).foldl joinGroup []
  (groups.foldl (fun s g => s.winRead h g) s1, hits.filterMap fun r => (held r).map fun v => (r.acc.lane, v))

/-- A store, atomic or reduction on the window (R446, R447). -/
def State.winPut (s : State) (core : Nat) (op : MemOp) (r : WinReq) : State :=
  let h := s.holder core
  match op.kind with
  | .load => s
  | .store =>
    let data := leBytes op.size r.acc.x
    (s.winWrite r.tid r.pa data).winUpdate h r.pa data
  | .atom k => s.winAtom h r k op.rnd true
  | .red k => s.winAtom h r k op.rnd false
  | .cas => s.winAtom h r 7 op.rnd true

/-- The window accesses of one instruction: stores in ascending lane order, so that the highest lane's byte stands; atomics
and reductions of colliding lanes in a free order (R85, log 7). -/
def State.winAccesses (s : State) (core : Nat) (op : MemOp) (rs : List WinReq) : State × List (Nat × Nat) :=
  let collide := op.kind.atomic && (rs.map (·.pa)).dedup.length != rs.length
  match op.kind with
  | .load => s.winLoads core op rs
  | _ => ((if collide then s.shuffle 46 rs.length rs else rs).foldl (fun s r => s.winPut core op r) s, [])

/-- A request of the instruction with handle u at pc for lane access x at pa. -/
def newReq (t : Team) (op : MemOp) (pc : DWord) (cl : Clause) (ord u : Nat) (x : LaneAcc × Nat) : WinReq :=
  { tag := 0, tid := t.tid, ctx := t.ctx, op := op, acc := x.1, pa := x.2, pc := pc, cl := cl, ord := ord, u := u }

/-- The instruction with handle u still waits for a reply; a reduction is complete without it (R258). -/
def State.awaits (s : State) (u : Nat) : Bool :=
  s.link.reqs.any fun r => r.u == u && (match r.op.kind with | .red _ => false | _ => true)

/-- An acquire at system scope (R107). -/
def MemOp.sysAcq (op : MemOp) : Bool := op.acq && op.scope == 4

/-- An acquire is done: at system scope what the L1 may have taken since its issue goes too (R92, R107, R350). -/
def State.acqDone (s : State) (op : MemOp) : State :=
  if op.acq then (if op.sysAcq then s.winDrop (s.holder s.t.core) else s).acquired else s

/-- The lowest free operand-log entry (R37). -/
def Team.freeEntry (t : Team) : Nat := ((List.range 4).find? fun n => !t.log.any fun e => e.u == n).getD 0

/-- Stored bytes whose source register may still be overwritten (R170). -/
def lateOf (d : Nat) (blk : Option Nat) (size : Nat) (lane addr : Nat) : List LateSrc :=
  (List.range size).map fun i => ⟨d + i / 4, some lane, blk, addr + i, i % 4⟩

/-- Of several stored bytes at one address, the one that stands: the last (R85). -/
def lastLate : List LateSrc → List LateSrc
  | [] => []
  | e :: r => if r.any fun o => o.addr == e.addr then lastLate r else e :: lastLate r

/-- A PAGE entry for a lane of an access (R403). -/
def MemOp.page (op : MemOp) (ptr cause : Nat) : Nat := pageEntry ptr cause op.kind.reads op.kind.writes

/-- The lanes that a test picks out of the resolved ones. -/
def pickPa (p : Nat → Bool) (rs : List (LaneAcc × LaneRes)) : List (LaneAcc × Nat) :=
  rs.filterMap fun x => match x.2 with | .ok pa => if p pa then some (x.1, pa) else none | _ => none

/-- The status with which the lanes end the context: the lowest, should several do so at once (R408). -/
def lowestEnd (rs : List (LaneAcc × LaneRes)) : Option Nat :=
  rs.foldl (fun m x => match x.2, m with
    | .ends st, none => some st
    | .ends st, some k => some (min st k)
    | _, m => m) none

/-- Pointers of the lanes that took the TLB path (R53, R401). -/
def tlbPtrs (op : MemOp) (rs : List (LaneAcc × LaneRes)) : List Nat :=
  (rs.filter fun x => x.1.m.v && x.1.m.limit.toNat < x.1.off + op.size).map fun x => x.1.ptr

/-- The access of a memory instruction through translation registers, for all its lanes: issue causes first, then what
holds it back (R38, R98), then the lanes performed, sent to the window, refused or parked (R37, R53, R73, R205, R246).
uni: a team-uniform form (R207). -/
def State.access (i : Instr) (op : MemOp) (uni : Bool) (accs : List LaneAcc) (srcV srcS : List Nat)
    (late : LaneAcc → Nat → List LateSrc) (s : State) : State :=
  let t := s.t
  let slot := (s.slotOf t.ctx).getD 0
  let rs := accs.map fun a => (a, s.resolve slot op a)
  let kind := if uni then 0 else 1
  let bad := rs.flatMap op.issueCauses
  let ends := lowestEnd rs
  let parked := rs.filterMap fun x => match x.2 with | .park c => some (x.1, c) | _ => none
  let locs := pickPa isLocal rs
  let wins := pickPa (fun pa => !isLocal pa) rs
  let owned := locs.any fun x => s.owned x.2
  if !bad.isEmpty then s.decide (laneDecs kind 0 bad t.pc t.cl t.ord)
  else if s.sectorHeld rs || (!parked.isEmpty && 4 ≤ t.log.length) then s.hold (if owned then .other else .held)
  else match ends with
    | some st => (s.endCtx t.ctx st).hold .other
    | none =>
      if owned then s.hold .other
      else
        let s1 := if op.sysAcq then s.winDrop (s.holder t.core) else s
        let p := (s1.noteXls (towerOf t.core) slot (tlbPtrs op rs)).performLocal t.core op locs
        let s1 := if parked.isEmpty then p.s.paid p.reads else p.s
        let u := s1.uid
        let (s2, wvals) := s1.winAccesses t.core op (wins.map (newReq t op t.pc t.cl t.ord u))
        let waits := s2.awaits u
        let s3 := (if parked.isEmpty && !waits then s2.acqDone op else s2).deliver op (p.vals ++ wvals)
        let lates := lastLate
          ((locs.filter fun x => !p.refused.any fun r => r.lane == x.1.lane).flatMap fun x => late x.1 x.2)
        if parked.isEmpty then
          if p.refused.isEmpty then
            (if i.attaches then s3.attach (if waits then .window else .ready) srcV srcS lates else s3).done i
          else if waits then
            (s3.attach .window srcV srcS lates).decide (laneDecs kind 0 p.refused t.pc t.cl t.ord)
          else s3.decide (laneDecs kind 0 p.refused t.pc t.cl t.ord)
        else
          let e := t.freeEntry
          let pages := sortPages (parked.map fun x => op.page x.1.ptr x.2)
          let (s4, fs) := s3.sendFault slot 0 t.core t.place e t.tid 0 pages
          let entry : LogEntry :=
            { u := e, h := s4.uid, instr := i, pc := t.pc, cl := t.cl, ord := t.ord, mode := t.mode
              xreg := (parked.head?.map fun x => x.1.m).getD {}, fseq := fs
              kind := .lanes op (parked.map fun x => x.1), grps := (parked.map fun x => x.1.lane / 32).dedup
              done := laneSet t.lanes fun l => accs.any fun a => a.lane == l && !(parked.any fun x => x.1.lane == l)
              pages := pages.map (BitVec.ofNat 64), causes := p.refused, reads := p.reads }
          let s5 := s4.attach (if waits then .window else .ready) srcV srcS lates
          ({ s5 with t := { s5.t with log := s5.t.log ++ [entry] } }).done i

/-! ### Global forms (R247 to R249) -/

/-- The active lanes' accesses at offsets v_a through m_n (R247). -/
def State.laneAccs (s : State) (a m : Nat) (x c : Nat → Nat) : List LaneAcc :=
  let regs := (List.range s.t.ngroups).map fun g => s.rm m g
  s.actLanes.map fun l => ⟨l, (s.rv a l).toNat, regs.getD (l / 32) {}, x l, c l⟩

/-- What a vector load or store does per lane (R245). -/
def State.memOp (s : State) (kind : AccKind) (dst : Dst) : MemOp :=
  { kind := kind, et := mET s.t.mode, size := etBytes (mET s.t.mode), dst := dst
    rnd := mRND s.t.mode, sat := mSAT s.t.mode }

/-- Registers of a vector operand under ET. -/
def etSpan (et d : Nat) : List Nat := if etPair et then [d, d + 1] else [d]

/-- A vector load, an acquire at a scope if one is given (R247). -/
def vload (i : Instr) (d a m cnt : Nat) (acq : Option Nat) (s : State) : State :=
  issue i s fun s =>
    s.access i { s.memOp .load (.v d) with cnt := cnt, acq := acq.isSome, scope := acq.getD 3 } false
      (s.laneAccs a m (fun _ => 0) (fun _ => 0)) [] [] (fun _ _ => [])

/-- A vector store (R247); a release waits for its scope (R92, R107). -/
def vstore (i : Instr) (d a m : Nat) (rel : Option Nat) (s : State) : State :=
  issue i s fun s =>
    if !(match rel with | some sc => s.released sc | none => true) then s.hold .other
    else
      let op := s.memOp .store .none
      s.access i op false (s.laneAccs a m (s.rc op.et d) (fun _ => 0)) (etSpan op.et d ++ [a]) []
        (fun x pa => lateOf d none op.size x.lane pa)

/-- VLD (R247). -/
def execVld (d a m : Nat) (s : State) : Out := .next (vload (.vld d a m) d a m 0 none s)

/-- VST (R247). -/
def execVst (d a m : Nat) (s : State) : Out := .next (vstore (.vst d a m) d a m none s)

/-- VLDN (R71, R247). -/
def execVldn (d a m k : Nat) (s : State) : Out := .next (vload (.vldn d a m k) d a m k none s)

/-- VLDA (R92, R247). -/
def execVlda (d a m k : Nat) (s : State) : Out := .next (vload (.vlda d a m k) d a m 0 (some k) s)

/-- VSTR (R92, R247). -/
def execVstr (d a m k : Nat) (s : State) : Out := .next (vstore (.vstr d a m k) d a m (some k) s)

/-- The one access of a scalar form, after the check of s_a[63:32] (R248). -/
def scalarAccess (i : Instr) (op : MemOp) (a m : Nat) (x : Nat) (srcS : List Nat)
    (late : LaneAcc → Nat → List LateSrc) (s : State) : State :=
  let off := s.rs a
  if 2 ^ 32 ≤ off.toNat then
    let acc : LaneAcc := ⟨0, off.toNat % 2 ^ 32, s.rm m 0, 0, 0⟩
    s.decide (laneDecs 0 0 (⟨0, 5, off.toNat⟩ ::
      (if misaligned op.kind.atomic acc.va op.size then [⟨0, 6, off.toNat⟩] else [])) s.t.pc s.t.cl s.t.ord)
  else s.access i op true [⟨0, off.toNat, s.rm m 0, x, 0⟩] [] srcS late

/-- SLD (R248). -/
def execSld (d a m : Nat) (s : State) : Out :=
  .next (issue (.sld d a m) s fun s =>
    scalarAccess (.sld d a m) { kind := .load, et := 15, size := 8, dst := .s d } a m 0 [] (fun _ _ => []) s)

/-- SST (R248). -/
def execSst (d a m : Nat) (s : State) : Out :=
  .next (issue (.sst d a m) s fun s =>
    scalarAccess (.sst d a m) { kind := .store, et := 15, size := 8 } a m (s.rs d).toNat [d, a]
      (fun _ pa => (List.range 8).map fun i => ⟨d, none, none, pa + i, i⟩) s)

/-- A prefetch fills the L1 with one line: no read of R71, no count, no line counted at home (R249). -/
def State.prefetch (s : State) (core line : Nat) : State :=
  let h := s.holder core
  if (s.caches.counted.any fun c => c.line == line) || (s.caches.l1.any fun e => e.holder == h && e.line == line) then s
  else s.fill h core line 0 15

/-- A prefetch of window words: a read at their port, of no team, whose reply fills the L1 (R249, R446). -/
def State.winPrefetch (s : State) (core pa : Nat) : State :=
  let h := s.holder core
  if (s.winHeld h pa 4).isSome then s
  else s.winRead h (firstWord pa, wordCount pa 4, [newReq { ctx := s.t.ctx } { kind := .load } 0 {} 0 0 (⟨0, 0, {}, 0, 0⟩, pa)])

/-- VPREF (R249): lanes that would raise a cause are dropped; one that meets a lost line or a poisoned sector, in its walk or
at its address, ends the context (R423, R439). -/
def execVpref (a m : Nat) (s : State) : Out :=
  .next (issue (.vpref a m) s fun s =>
    let slot := (s.slotOf s.t.ctx).getD 0
    let op : MemOp := { kind := .load }
    let rs := (s.laneAccs a m (fun _ => 0) (fun _ => 0)).map fun x => (x, s.resolve slot op x)
    let lines := ((pickPa isLocal rs).map fun x => lineOf x.2).dedup
    let wins := ((pickPa (fun pa => !isLocal pa) rs).map fun x => x.2).dedup
    match lowestEnd rs with
    | some st => (s.endCtx s.t.ctx st).hold .other
    | none =>
      let s1 := lines.foldl (fun s n => s.prefetch s.t.core n) (s.noteXls (towerOf s.t.core) slot (tlbPtrs op rs))
      (wins.foldl (fun s pa => s.winPrefetch s.t.core pa) s1).done (.vpref a m))

/-! ### Scratchpad and Cupboard (R250, R251) -/

/-- The block that a remote form names (R56): none where the lanes raise Region-Violation. -/
def State.remoteBlock (s : State) (rank : Nat) : Option Block :=
  if !s.myRec.gang then none
  else s.blocks.find? fun b => b.gid == s.t.gid && b.rank == rank && b.life != .retired

/-- Issue causes of scratchpad or Cupboard offsets against an allocation: both checks are made (R206, R246). -/
def spaceCauses (atomic : Bool) (size alloc : Nat) (l : List (Nat × Nat)) : List LaneCause :=
  l.flatMap fun x =>
    (if misaligned atomic x.2 size then [⟨x.1, 6, x.2⟩] else []) ++
      (if alloc < x.2 + size then [⟨x.1, 5, x.2⟩] else [])

/-- A scratchpad load or store in block b (R250). -/
def scratchForm (i : Instr) (d a : Nat) (store : Bool) (b : State → Option Block) (s : State) : State :=
  issue i s fun s =>
    let et := mET s.t.mode
    let size := etBytes et
    let offs := s.actLanes.map fun l => (l, (s.rv a l).toNat)
    let blk := b s
    let bad := spaceCauses false size (match blk with | some k => k.scratchSize | none => 0) offs
    if !bad.isEmpty then s.raiseLanes bad
    else match blk with
      | none => (s.attach .ready [] [] []).done i
      | some k =>
        let secs := offs.map fun x => x.2 / 32
        let s := s.settle fun e => e.blk == some k.bid && secs.contains (e.addr / 32)
        if store then
          let s1 := s.modBlock k.bid fun k => { k with
            scratch := offs.foldl (fun m x => sputRun 0 x.2 (leBytes size (s.rc et d x.1)) m) k.scratch }
          (s1.attach .ready (etSpan et d ++ [a]) []
            (lastLate (offs.flatMap fun x => lateOf d (some k.bid) size x.1 x.2))).done i
        else
          ((s.wc et d (offs.map fun x => (x.1, leNat (sgets 0 x.2 size k.scratch)))).attach .ready [] [] []).done i

/-- VLDS (R250). -/
def execVlds (d a : Nat) (s : State) : Out := .next (scratchForm (.vlds d a) d a false State.myBlock? s)

/-- VSTS (R250). -/
def execVsts (d a : Nat) (s : State) : Out := .next (scratchForm (.vsts d a) d a true State.myBlock? s)

/-- VLDSR (R56, R250). -/
def execVldsr (d a b : Nat) (s : State) : Out :=
  .next (scratchForm (.vldsr d a b) d a false (fun s => s.remoteBlock (s.rs b).toNat) s)

/-- VSTSR (R56, R250). -/
def execVstsr (d a b : Nat) (s : State) : Out :=
  .next (scratchForm (.vstsr d a b) d a true (fun s => s.remoteBlock (s.rs b).toNat) s)

/-- VLDC (R251). -/
def execVldc (d a : Nat) (s : State) : Out :=
  .next (issue (.vldc d a) s fun s =>
    let et := mET s.t.mode
    let offs := s.actLanes.map fun l => (l, (s.rv a l).toNat)
    let bad := spaceCauses false (etBytes et) s.cupSize offs
    if !bad.isEmpty then s.raiseLanes bad
    else ((s.wc et d (offs.map fun x => (x.1, s.cupNat x.2 (etBytes et)))).attach .ready [] [] []).done (.vldc d a))

/-- SLDC (R251). -/
def execSldc (d a : Nat) (s : State) : Out :=
  .next (issue (.sldc d a) s fun s =>
    let o := (s.rs a).toNat
    let bad := (if misaligned false o 8 then [(⟨0, 6, o⟩ : LaneCause)] else []) ++
      (if s.cupSize < o + 8 ∨ 2 ^ 32 ≤ o then [⟨0, 5, o⟩] else [])
    if !bad.isEmpty then s.decide (laneDecs 0 0 bad s.t.pc s.t.cl s.t.ord)
    else ((s.ws d (BitVec.ofNat 64 (s.cupNat o 8))).attach .ready [] [] []).done (.sldc d a))

/-! ### Fences (R252) -/

/-- FENCE (R252, R258): kind b[7:6], scope b[2:0]. Writes to local memory are performed when the team issues them. -/
def execFence (b : Nat) (s : State) : Out :=
  .next (issue (.fence b) s fun s =>
    let kind := b / 64
    let scope := b % 8
    if 2 ≤ kind && !s.released scope then s.hold .other
    else if kind != 2 && (!s.redsDone s.t.tid scope || (scope != 0 && !s.readsDone s.t.tid)) then s.hold .other
    else
      let s1 := if kind != 2 && scope == 4 then s.winDrop (s.holder s.t.core) else s
      (if kind != 2 then s1.acquired else s1).done (.fence b))

/-! ### Seals and pins (R253) -/

/-- The range check of SEAL and UNSEAL (R253). -/
def sealRangeOk (x : XReg) (len : Nat) : Bool :=
  x.v && x.vbase.toNat % 0x10000 == 0 && len != 0 && len % 0x10000 == 0 && len ≤ 0x200000 && len ≤ x.limit.toNat

/-- Some engine operation owns a line of the range (R103). -/
def State.rangeOwned (s : State) (base len : Nat) : Bool :=
  s.eops.any fun o => (o.lines ++ s.wantLines o).any fun n => base ≤ 128 * n && 128 * n < base + len

/-- SEAL (R73, R74, R103, R253): waits until no engine operation owns a line of the range, and writes back the lines of it
that an L1 keeps Exclusive, so that no write follows. A range of the system window takes an
entry too; engines and drains are refused there, and stores and atomics of teams pass to the port (log 79). -/
def execSeal (d a m : Nat) (s : State) : Out :=
  .next (issue (.seal d a m) s fun s =>
    let x := s.rm m 0
    let len := (s.rs a).toNat
    let base := x.phys
    if !sealRangeOk x len then s.raise 5 (BitVec.ofNat 64 (x.ptr 0))
    else if !s.released 3 || s.rangeOwned base len then s.hold .other
    else
      let no := 64 ≤ s.seals.length || s.seals.any fun e => e.base < base + len && base < e.base + e.len
      let s0 := s.settle fun e => e.inMem fun p => base ≤ p && p < base + len
      let dirty := s0.caches.l1.filter fun e => e.excl && base ≤ 128 * e.line && 128 * e.line < base + len
      let s1 : State := if no then s0
        else dirty.foldl (fun s e => s.writeBack e.line) { s0 with seals := s0.seals ++ [⟨base, len, s.t.ctx, 0⟩] }
      ((s1.ws d (if no then 0 else 1)).attach .ready [] [a] []).done (.seal d a m))

/-- An entry of the context covers exactly the range. -/
def Seal.covers (base len ctx : Nat) (e : Seal) : Bool := e.base == base && e.len == len && e.ctx == ctx

/-- Free a seal entry: every copy of its lines is invalidated (R75, R104). -/
def State.dropSeal (s : State) (base len ctx : Nat) : State :=
  let inR (n : Nat) : Bool := base ≤ 128 * n && 128 * n < base + len
  { s with
    seals := s.seals.filter fun e => !e.covers base len ctx
    caches := { s.caches with
      l1 := s.caches.l1.filter fun e => !inR e.line
      win := s.caches.win.filter fun w => !inR (lineOf w.pa)
      repl := s.caches.repl.filter fun p => !inR p.2
      mlines := s.caches.mlines.filter fun m => !inR m.line } }

/-- UNSEAL (R75, R104, R253): it waits for the copy reference count, with s_d pending; done, it is an acquire. -/
def execUnseal (d a m : Nat) (s : State) : Out :=
  .next (issue (.unseal d a m) s fun s =>
    let x := s.rm m 0
    let len := (s.rs a).toNat
    let base := x.phys
    if !sealRangeOk x len then s.raise 5 (BitVec.ofNat 64 (x.ptr 0))
    else if !s.released 3 then s.hold .other
    else match s.seals.find? (Seal.covers base len s.t.ctx) with
      | none => ((s.acquired.ws d 0).attach .ready [] [a] []).done (.unseal d a m)
      | some e =>
        if e.refs = 0 then
          (((s.dropSeal base len s.t.ctx).acquired.ws d 1).attach .ready [] [a] []).done (.unseal d a m)
        else (s.attach (.unseal base len d) [] [a] []).done (.unseal d a m))

/-- The address is mapped by a 2 MiB page (R68), or the status that its walk ends the context with (R423, R439). -/
def State.bigPage (s : State) (slot va : Nat) : Nat ⊕ Bool :=
  match s.pageOf slot va with
  | .page l _ => .inr (l.size == 2 ^ 21)
  | .absent _ => .inr false
  | .bad st => .inl st

/-- A pin or unpin of level n by a context, and whether it is accepted (R68). An unpin ends the pin at once, and R67 may
change the level at the end of the epoch then running, by that epoch's counts (log 80). -/
def RegionRep.pinTo (r : RegionRep) (ctx n : Nat) : Option RegionRep :=
  match r.pin with
  | none => if n < 4 then some { r with pin := some ctx, level := n } else none
  | some c => if c ≠ ctx then none else some (if n < 4 then { r with level := n } else { r with pin := none })

/-- REPL (R68, R253): it walks where its result can depend on the page. -/
def execRepl (d a m : Nat) (s : State) : Out :=
  .next (issue (.repl d a m) s fun s =>
    let x := s.rm m 0
    let n := (s.rs a).toNat
    let slot := (s.slotOf s.t.ctx).getD 0
    if !x.v then s.raise 5 (BitVec.ofNat 64 (x.ptr 0))
    else match (if 4 < n || x.limit = 0 then .inr false else s.bigPage slot x.vbase.toNat) with
      | .inl st => (s.endCtx s.t.ctx st).hold .other
      | .inr big =>
        let r := regionOf x.phys
        let new := if big then (s.caches.region r).pinTo s.t.ctx n else none
        let s1 : State := match new with
          | none => s
          | some g => { s with caches := s.caches.modRegion r fun _ => g }
        ((s1.ws d (if new.isSome then 1 else 0)).attach .ready [] [a] []).done (.repl d a m))

end Sys2Proof.Machine
end

