-- ==== Sys2Proof/Machine/Atomic.lean ====
section
/-! DEFINITION. Atomics and reductions (R85, R90, R254 to R259). -/

namespace Sys2Proof.Machine

/-- Fields of the literal (R254). -/
def litOrd (l : Word) : Nat := bits l.toNat 15 13
def litScope (l : Word) : Nat := bits l.toNat 12 10
def litOp (l : Word) : Nat := bits l.toNat 7 4

/-- Release ordering waits for its scope; acquire ordering (R107, R254). -/
def State.ordHeld (s : State) (l : Word) : Bool := 2 ≤ litOrd l && !s.released (litScope l)
def litAcq (l : Word) : Bool := litOrd l % 2 == 1

/-- An atomic access under ET: 4 bytes, or 8 for a pair (R255). -/
def State.atomOp (s : State) (kind : AccKind) (dst : Dst) (l : Word) : MemOp :=
  { s.memOp kind dst with size := if etPair (mET s.t.mode) then 8 else 4, acq := litAcq l, scope := litScope l }

/-- VATOM, VRED and VCAS: x and c are the registers that hold the operand and the comparison value (R257, R258). -/
def atomForm (i : Instr) (kind : AccKind) (dst : Dst) (a m x c : Nat) (srcV : List Nat) (l : Word) (s : State) : State :=
  issue i s fun s =>
    let op := s.atomOp kind dst l
    if s.ordHeld l then s.hold .other
    else s.access i op false (s.laneAccs a m (s.rc op.et x) (s.rc op.et c)) srcV [] (fun _ _ => [])

/-- VATOM (R257). -/
def execVatom (d a m : Nat) (l : Word) (s : State) : Out :=
  .next (atomForm (.vatom d a m l) (.atom (litOp l)) (.v d) a m d d [] l s)

/-- VRED (R258). -/
def execVred (d a m : Nat) (l : Word) (s : State) : Out :=
  .next (atomForm (.vred d a m l) (.red (litOp l)) .none a m d d (etSpan (mET s.t.mode) d ++ [a]) l s)

/-- VCAS (R257): c in v_d or its pair, x in the next register or pair. -/
def execVcas (d a m : Nat) (l : Word) (s : State) : Out :=
  .next (atomForm (.vcas d a m l) .cas (.v d) a m (if etPair (mET s.t.mode) then d + 2 else d + 1) d [] l s)

/-- SATOM (R257): once for the team. -/
def execSatom (d a m : Nat) (l : Word) (s : State) : Out :=
  .next (issue (.satom d a m l) s fun s =>
    let op := s.atomOp (.atom (litOp l)) (.s d) l
    let off := (s.rs a).toNat % 2 ^ 32
    if s.ordHeld l then s.hold .other
    else s.access (.satom d a m l) op true [⟨0, off, s.rm m 0, (s.rs d).toNat % 2 ^ (8 * op.size), 0⟩] [] []
      (fun _ _ => []))

/-- Apply lanes to scratchpad bytes one after another: the bytes after, and each lane's old value (R85, R257). -/
def scratchAtoms (op : MemOp) (x : Nat → Nat) : List (Nat × Nat) → SMap Byte → SMap Byte × List (Nat × Nat)
  | [], m => (m, [])
  | (lane, off) :: r, m =>
    let old := leNat (sgets 0 off op.size m)
    let (m1, vs) := scratchAtoms op x r (sputRun 0 off (leBytes op.size (atomNew op old (x lane) 0)) m)
    (m1, (lane, old) :: vs)

/-- VATOMS and VREDS (R256 to R258). -/
def scratchAtom (i : Instr) (kind : AccKind) (dst : Dst) (d a : Nat) (srcV : List Nat) (l : Word) (s : State) : State :=
  issue i s fun s =>
    let op := s.atomOp kind dst l
    let offs := s.actLanes.map fun n => (n, (s.rv a n).toNat)
    let bad := spaceCauses true op.size (match s.myBlock? with | some k => k.scratchSize | none => 0) offs
    if s.ordHeld l then s.hold .other
    else if !bad.isEmpty then s.raiseLanes bad
    else
      let collide := (offs.map fun x => x.2).dedup.length != offs.length
      let order := if collide then s.shuffle 41 offs.length offs else offs
      let (m, vs) := scratchAtoms op (s.rc op.et d) order (match s.myBlock? with | some k => k.scratch | none => [])
      let secs := offs.map fun x => x.2 / 32
      let s0 := s.settle fun e => e.blk == some s.t.bid && secs.contains (e.addr / 32)
      let s1 := s0.modBlock s.t.bid fun k => { k with scratch := m }
      (((s1.acqDone op).deliver op vs).attach .ready srcV [] []).done i

/-- VATOMS (R257). -/
def execVatoms (d a : Nat) (l : Word) (s : State) : Out :=
  .next (scratchAtom (.vatoms d a l) (.atom (litOp l)) (.v d) d a [] l s)

/-- VREDS (R258). -/
def execVreds (d a : Nat) (l : Word) (s : State) : Out :=
  .next (scratchAtom (.vreds d a l) (.red (litOp l)) .none d a (etSpan (mET s.t.mode) d ++ [a]) l s)

end Sys2Proof.Machine
end

