-- ==== Sys2Proof/Machine/Barrier.lean ====
section
/-! DEFINITION. Barrier instructions and the timed wait (R260 to R264). -/

namespace Sys2Proof.Machine

/-- Scope of an arrival and of a wait, by class (R260). -/
def barScope (cls : Nat) : Nat := cls + 1

/-- The selected team may arrive now: its earlier arrival's phase is over, and its release need not wait (R91, R261). -/
def State.canArrive (s : State) (cls n : Nat) : Bool :=
  !(s.myBar cls n).arr.contains s.t.tid && s.released (barScope cls)

/-- ARRK, ARRQ and ARRG (R261). -/
def arriveForm (i : Instr) (cls n : Nat) (s : State) : State :=
  issue i s fun s =>
    if s.canArrive cls n then (s.modMyBar cls n fun b => b.arrive s.t.tid).done i else s.hold .bar

/-- WAITK, WAITQ and WAITG (R261); the completed wait is an acquire (R91). -/
def waitForm (i : Instr) (cls n : Nat) (s : State) : State :=
  issue i s fun s => if (s.myBar cls n).passed s.t.tid then s.acquired.done i else s.hold .bar

/-- SYNCK, SYNCQ and SYNCG (R261, R262): arrive once, then wait. The arrival is a release also where the wait goes on: no
store of the team may read its source any later (R91, R92, R170). -/
def syncForm (i : Instr) (cls n : Nat) (s : State) : State :=
  issue i s fun s =>
    if s.t.cl.arr then (if (s.myBar cls n).passed s.t.tid then s.acquired.done i else s.hold .bar)
    else if s.canArrive cls n then
      let s1 := s.modMyBar cls n fun b => b.arrive s.t.tid
      if (s1.myBar cls n).passed s.t.tid then s1.acquired.done i
      else (s1.modT fun t => { t with
          cl := { t.cl with arr := true }, infl := t.infl.map fun f => { f with late := [] } }).hold .bar
    else s.hold .bar

/-- ARRK (R262). -/
def execArrk (a : Nat) (s : State) : Out := .next (arriveForm (.arrk a) 0 a s)

/-- WAITK (R262). -/
def execWaitk (a : Nat) (s : State) : Out := .next (waitForm (.waitk a) 0 a s)

/-- SYNCK (R262). -/
def execSynck (a : Nat) (s : State) : Out := .next (syncForm (.synck a) 0 a s)

/-- ARRQ (R262). -/
def execArrq (a : Nat) (s : State) : Out := .next (arriveForm (.arrq a) 1 a s)

/-- WAITQ (R262). -/
def execWaitq (a : Nat) (s : State) : Out := .next (waitForm (.waitq a) 1 a s)

/-- SYNCQ (R262). -/
def execSyncq (a : Nat) (s : State) : Out := .next (syncForm (.syncq a) 1 a s)

/-- ARRG (R262). -/
def execArrg (a : Nat) (s : State) : Out := .next (arriveForm (.arrg a) 2 a s)

/-- WAITG (R262). -/
def execWaitg (a : Nat) (s : State) : Out := .next (waitForm (.waitg a) 2 a s)

/-- SYNCG (R262). -/
def execSyncg (a : Nat) (s : State) : Out := .next (syncForm (.syncg a) 2 a s)

/-- TWAIT (R264): the limit counts from the cycle it first issues. -/
def execTwait (d a b : Nat) (s : State) : Out :=
  .next (issue (.twait d a b) s fun s =>
    match s.t.wait with
    | .expired _ => (s.ws d 1).done (.twait d a b)
    | .twait limit bar d' =>
      if (s.myBar (a / 64) (a % 64)).passed s.t.tid then (s.acquired.ws d 0).done (.twait d a b)
      else s.hold (.twait limit bar d')
    | _ =>
      if (s.myBar (a / 64) (a % 64)).passed s.t.tid then (s.acquired.ws d 0).done (.twait d a b)
      else s.hold (.twait (s.pkg.clk.toNat + (s.rs b).toNat) a d))

/-- A boundary cause abandons the waits of R206. -/
def Team.abandons (t : Team) : Bool := !t.pendB.isEmpty && !t.hnd

/-- The timed wait of a team has passed its limit with its phase open: the register it answers in (R264). A boundary
cause that came first has abandoned the wait (R206). -/
def State.twaitOver (s : State) (t : Team) : Option Nat :=
  if t.abandons then none
  else match t.wait with
  | .expired d => some d
  | .twait limit bar d =>
    if limit < s.pkg.clk.toNat && !(({ s with t := t }).myBar (bar / 64) (bar % 64)).passed t.tid then some d else none
  | _ => none

/-- A timed wait for s_d on barrier bar ends without its phase: s_d := 1, available like TWAIT's own result (R264,
R357). -/
def State.timedOut (s : State) (bar d : Nat) : State := record (.twait d bar 0) s ((s.ws d 1).adv 1)

/-- TWAIT_TIMEOUT (R264): the limit has passed without the phase; s_d := 1, and no acquire. -/
def execTwaitTimeout (tid : Nat) (s : State) : Out :=
  .next (match s.team? tid with
  | none => s
  | some t =>
    if t.life != .live then s
    else match s.twaitOver t with
      | none => s
      | some d =>
        let bar := match t.wait with | .twait _ b _ => b | _ => 0
        ((s.select tid).timedOut bar d).select s.t.tid)

end Sys2Proof.Machine
end

