-- ==== Sys2Proof/Machine/Record.lean ====
section
/-! DEFINITION. The bytes of a save record (R414 to R419), written when a block is evicted and when something happens to
a team while it is. Where the layout leaves the order of sections open the model fixes one (log 10). -/

namespace Sys2Proof.Machine

/-- Bytes laid out at rising offsets, zero between them and up to n. -/
def layOut (n : Nat) (l : List (Nat × List Byte)) : List Byte :=
  let out := l.foldl (fun (acc : List Byte) p => acc ++ List.replicate (p.1 - acc.length) 0 ++ p.2) []
  out ++ List.replicate (n - out.length) 0

/-- A number rounded up to a multiple. -/
def alignTo (k n : Nat) : Nat := (n + k - 1) / k * k

/-- A translation register's 16 bytes (R51). -/
def XReg.toBytes (m : XReg) : List Byte :=
  leBytes 16 (m.region.toNat * 2 ^ 120 + m.vbase.toNat * 2 ^ 64 + m.framepg.toNat * 2 ^ 36 + m.limit.toNat * 2 ^ 14 +
    m.w.toNat * 4 + m.rd.toNat * 2 + m.v.toNat)

/-- Bits n to n + length of a list of truths. -/
def bitList (l : List Bool) (n : Nat) : Nat :=
  ((List.range l.length).zip l).foldl (fun acc p => if p.2 then acc + 2 ^ (n + p.1) else acc) 0

/-- STATE of a team record (R416) of a team in this wait. -/
def Wait.code : Wait → Nat
  | .none => 0
  | .bar => 0x11
  | .twait .. => 0x11
  | .expired _ => 0x11
  | .event => 0x21
  | .wltake => 0x31
  | .cwait => 0x41
  | .latch => 0x51
  | .queue _ => 0x01
  | .engine _ => 0x01
  | .fetch .. => 0x61
  | .cmpct .. => 0x01
  | .held => 0x02
  | .other => 0x01

/-- Bytes of a lane's data in an operand-log section, a 3-byte element in 4 (R417). -/
def MemOp.dataSize (op : MemOp) : Nat := if op.size ≤ 4 then 4 else 8

/-- Bytes per not-done lane of an operand-log section: 4 and data of 0, 4, 8 or 16. A row, or a record read, has its first
two scalar operands as data (R417, log 10). -/
def LogEntry.opSize (e : LogEntry) : Nat :=
  match e.kind with
  | .lanes op _ => 4 + (match op.kind with | .load => 0 | .cas => 2 * op.dataSize | _ => op.dataSize)
  | .redo _ => 20
  | .rows _ _ => 20

/-- One entry of OPS: an offset, or a row's number, and data. -/
def opsEntry (off : Nat) (data : List DWord) : List Byte :=
  leBytes 4 off ++ leBytes 8 (data.getD 0 0).toNat ++ leBytes 8 (data.getD 1 0).toNat

/-- An operand-log section (R417). -/
def LogEntry.section (e : LogEntry) : List Byte :=
  let ops := match e.kind with
    | .lanes op l => l.flatMap fun a => leBytes 4 a.off ++ (match op.kind with
        | .load => []
        | .cas => leBytes op.dataSize a.x ++ leBytes op.dataSize a.c
        | _ => leBytes op.dataSize a.x)
    | .redo l => opsEntry 0 l
    | .rows l todo => todo.flatMap fun r => opsEntry r l
  let lits := (match e.instr.raw with | some r => r.lits | none => [])
  let lc := (List.range 512).map fun k =>
    let c (l : Nat) : Nat := ((e.causes.find? fun x => x.lane == l).map (·.cause)).getD 0
    BitVec.ofNat 8 (c (2 * k) + 16 * c (2 * k + 1))
  layOut 0 [(0x000, leBytes 4 e.instr.word.toNat),
    (0x004, leBytes 4 (lits.getD 0 0).toNat ++ leBytes 4 (lits.getD 1 0).toNat), (0x00C, leBytes 4 e.mode.toNat),
    (0x010, e.xreg.toBytes), (0x020, leBytes 4 e.fseq), (0x024, leBytes 4 e.opSize),
    (0x028, leBytes 128 e.done.toNat), (0x0B0, lc), (0x2B0, ops)]

/-- The barriers that a team of a block can name, k, q and g, padded to the places of R415. -/
def State.recordBars (s : State) (q : List QGrant) (b : Block) : List (Option Barrier) :=
  let pad (n : Nat) (l : List Barrier) : List (Option Barrier) :=
    (l.map some ++ List.replicate n none).take n
  let g := (s.grid? b.gid).getD Grid.none
  let qs := ((q.find? fun x => x.gid == b.gid && x.cluster == clusterOf g.lrec b.rank).map (·.bars)).getD []
  pad 32 b.bars ++ pad 8 qs ++ pad 4 g.gbars

/-- A bit per barrier. -/
def barBits (l : List (Option Barrier)) (f : Barrier → Bool) : Nat :=
  bitList (l.map fun b => match b with | some b => f b | none => false) 0

/-- A team record, without its operand-log sections, which start at logs (R416). -/
def Team.record (t : Team) (bars : List (Option Barrier)) (logs : List Nat) : List Byte :=
  let w (x : Word) : List Byte := leBytes 4 x.toNat
  let dw (x : DWord) : List Byte := leBytes 8 x.toNat
  let entry (e : StackEntry) : List Byte := layOut 160
    [(0, leBytes 8 (e.addr.toNat / 4 * 4 + e.path.toNat)), (8, w e.mode), (0xC, leBytes 4 (groupMask e.mask)),
     (0x10, leBytes 128 e.mask.toNat)]
  let ev (r : EvRec) : List Byte :=
    dw r.data ++ leBytes 8 (match r.act with | some (c, n) => 1 + 2 * c + 8 * n | none => 0)
  layOut 0
    [(0x000, dw t.pc), (0x008, w t.mode ++ w t.srng ++ w t.phmargin ++ w t.bthr ++ w t.tcause ++ w t.tlane ++ w t.tsecond ++
        w t.tmode), (0x028, dw t.tvec ++ dw t.tepc ++ dw t.frec ++ dw t.tclause),
     (0x048, dw t.cl.toDWord), (0x050, w t.crew),
     (0x054, leBytes 2 (t.pendB.foldl (fun acc d => Nat.lor acc (2 ^ d.cause)) 0)), (0x056, leBytes 2 t.eseq),
     (0x058, leBytes 4 (256 * t.ph.on.toNat + t.ph.num)), (0x05C, leBytes 4 t.ph.e), (0x060, leBytes 4 t.ph.el),
     (0x064, leBytes 4 (t.stat + 256 * t.stack.length)),
     (0x068, leBytes 8 (barBits bars fun b => b.mem.contains t.tid) ++ leBytes 8 (barBits bars fun b => b.arr.contains t.tid) ++
        leBytes 8 (barBits bars fun b => b.w.contains t.tid)),
     (0x080, (List.range 64).flatMap fun n => dw (sget 0 n t.s)),
     (0x280, (List.range 8).flatMap fun n => (sget {} n t.m).toBytes),
     (0x300, leBytes 4 (groupMask t.mask)), (0x304, leBytes 128 t.mask.toNat),
     (0x384, leBytes 4 t.evq.length), (0x400, t.evq.flatMap ev), (0x500, t.stack.reverse.flatMap entry),
     (0xF00, (List.range 4).flatMap fun n => leBytes 8 (logs.getD n 0)),
     (0x1000, (List.range 15).flatMap fun n => leBytes 128 (sget 0 (n + 1) t.p).toNat),
     (0x1800, (List.range t.vregs).flatMap fun n =>
        ((List.range (32 * t.ngroups)).flatMap fun l => leBytes 4 (sget 0 (1024 * n + l) t.v).toNat))]

/-- A team record followed by its operand-log sections; off is the record's offset within the block record. -/
def Team.recordAt (t : Team) (bars : List (Option Barrier)) (off : Nat) : List Byte :=
  let size := alignTo 64 (0x1800 + t.vregs * t.ngroups * 128)
  let secs := (List.range 4).map fun n => ((t.log.find? fun e => e.u == n).map LogEntry.section).getD []
  let start (n : Nat) : Nat := off + size + ((secs.take n).foldl (fun acc x => acc + alignTo 64 x.length) 0)
  let logs := (List.range 4).map fun n => if (secs.getD n []).isEmpty then 0 else start n
  layOut size [(0, t.record bars logs)] ++ secs.flatMap fun x => layOut (alignTo 64 x.length) [(0, x)]

/-- The barrier section (R415): HELD for the k barriers, and in the record of the lowest rank for q and g. -/
def barSection (bars : List (Option Barrier)) (lowQ lowG : Bool) : List Byte :=
  ((List.range 44).zip bars).flatMap fun p => leBytes 8 (match p.2 with
    | none => 0
    | some b => b.mem.length * 2 ^ 32 + b.c * 2 ^ 8 + b.p.toNat +
        (if p.1 < 32 || (p.1 < 40 && lowQ) || (40 ≤ p.1 && lowG) then 2 else 0))

/-- A matrix section (R418): steps, group and copies of the operation that runs, or else of the latch; what is the latch's
own is that of the latch that holds arrivals, or else of the operation (log 10). -/
def SavedQuad.matrix (q : SavedQuad) : List Byte :=
  let run? := q.mops.find? (·.fired)
  let latch? := q.mops.find? fun m => !m.fired
  let m? := match latch? with | some m => some m | none => run?
  let r? := match m? with
    | some m => q.resv.find? fun (r : Resv × Bool) => r.1.key == m.key
    | none => q.resv.head?
  let flags := run?.isSome.toNat + 2 * (run?.any (·.wide)).toNat + 4 * latch?.isSome.toNat + 8 * q.wide.isSome.toNat +
    (match r? with | some (r, held) => (if held then 16 else 32) + 64 * r.cls | none => 0)
  let arr (n : Nat) : Option Arrival := m?.bind fun m => m.arrived.find? fun a => a.entry == n
  let num (g : MOp → Nat) : Nat := (m?.map g).getD 0
  let op (g : MOp → Nat) : Nat := match run? with | some m => g m | none => num g
  layOut 0
    [(0x000, leBytes 4 q.ntile ++ leBytes 4 flags ++ leBytes 4 (op (·.step)) ++ leBytes 4 (op (·.group)) ++
        leBytes 4 (op fun m => m.gen.toNat) ++
        leBytes 4 (op fun m => (m.md.map fun x => x.1.toNat).getD 0) ++
        leBytes 4 (op fun m => (m.md.map fun x => x.2.1.toNat).getD 0) ++
        leBytes 4 (num fun m => m.op * 2 ^ 24 + m.d * 2 ^ 16) ++ leBytes 4 (num fun m => m.lit.toNat) ++
        leBytes 4 (num fun m => m.key.crew.toNat) ++
        leBytes 4 (num fun m => m.arrived.foldl (fun acc a => acc + 2 ^ a.entry) 0)),
     (0x030, (List.range 6).flatMap fun n => match arr n with
        | some a => leBytes 8 a.sa.toNat ++ leBytes 8 a.sb.toNat | none => leBytes 16 0),
     (0x090, (List.range 6).flatMap fun n => match arr n with
        | some a => layOut 64 [(0, a.tlr)] | none => leBytes 64 0),
     (0x400, (List.range q.ntile).flatMap fun n => (srow 0 (16384 * n) 16384 q.tiles).flatMap fun x => leBytes 4 x.toNat),
     (0, (List.range q.ntile).flatMap fun n => layOut 1024
        [(0, (srow 0 (128 * n) 128 q.bounds).flatMap fun x => leBytes 4 x.toNat),
         (0x200, leBytes 4 (sget 0 n q.bstat).toNat)]),
     (0, match q.wide with
        | none => []
        | some w => ((srow 0 0 16384 w.tile).flatMap fun x => leBytes 4 x.toNat) ++
            layOut 1024 [(0, (srow 0 0 128 w.bound).flatMap fun x => leBytes 4 x.toNat), (0x200, leBytes 4 w.stat.toNat)] ++
            (srow 0 0 16384 w.acc).flatMap fun x => leBytes 8 x.toNat)]

/-- An entry of the merge section (R419): a merge stops with every formed record written and none open (log 11). -/
def EngOp.mergeEntry (o : EngOp) (idx : Nat) : List Byte :=
  layOut 0x160
    [(0x00, leBytes 4 o.seq), (0x04, leBytes 2 idx), (0x08, leBytes 8 (o.ops.getD 0 0).toNat),
     (0x10, leBytes 4 o.lit.toNat ++ leBytes 4 (o.ops.getD 1 0).toNat), (0x18, leBytes 4 o.mode.toNat),
     (0x1C, leBytes 4 o.outN), (0x20, (List.range 8).flatMap fun n => leBytes 4 (o.inN.getD n 0))]

/-- A team whose clause state has the header at its pc (R213, R416). -/
def State.headed (s : State) (t : Team) : Team := ({ s with t := t } : State).syncHdr.t

/-- The record of a block of an evicted unit (R414). -/
def State.blockRecord (s : State) (u : SavedUnit) (b : Block) : List Byte :=
  let g := (s.grid? b.gid).getD Grid.none
  let r := g.lrec
  let sq? := u.quads.find? fun q => q.blocks.contains b.bid
  let bars := s.recordBars ((sq?.map (·.qgrants)).getD []) b
  let ranks (l : List Nat) : List Nat := l.filterMap fun k => (s.block? k).map (·.rank)
  let lowest (l : List Nat) : Bool := (ranks l).all fun k => b.rank ≤ k
  let peers := if r.cluster = 0 then [b.bid] else u.blocks.filter fun k =>
    (s.block? k).any fun x => clusterOf r x.rank == clusterOf r b.rank
  let teams := sortBy' (s.teams.filter fun t => t.bid == b.bid)
  let recs := teams.foldl (fun (acc : List (Nat × List Byte) × Nat) t =>
    let x := (s.headed t).recordAt bars acc.2
    (acc.1 ++ [(acc.2, x)], acc.2 + x.length)) ([], 0x80)
  let mx := match sq? with
    | some q => if r.tiles != 0 && lowest q.blocks then q.matrix else []
    | none => []
  let merges := s.eops.filter fun o => o.stopped && teams.any fun t => t.tid == o.tid
  let mg := merges.flatMap fun o => o.mergeEntry (((teams.find? fun t => t.tid == o.tid).map (·.idx)).getD 0)
  let spOff := alignTo 64 recs.2
  let barOff := spOff + b.scratchSize
  let mxOff := alignTo 64 (barOff + 44 * 8)
  let mgOff := alignTo 64 (mxOff + mx.length)
  let size := alignTo 4096 (mgOff + mg.length)
  let crew := match sq? with | some q => !q.mops.isEmpty | none => false
  let next := ((u.blocks.dropWhile fun k => k != b.bid).drop 1).head?.bind fun k => (s.block? k).bind (·.save)
  layOut size
    ([(0x00, leBytes 4 0x4B424C53 ++ leBytes 2 1 ++ leBytes 2 teams.length ++ leBytes 4 size ++ leBytes 4 g.lid ++
        leBytes 4 b.x ++ leBytes 4 b.y ++ leBytes 4 b.z ++ leBytes 2 b.core ++
        leBytes 2 (r.gang.toNat + 2 * (r.cluster != 0).toNat + 4 * (r.tiles != 0).toNat + 8 * crew.toNat) ++
        leBytes 4 spOff ++ leBytes 4 b.scratchSize ++ leBytes 4 barOff ++ leBytes 4 (if mx.isEmpty then 0 else mxOff) ++
        leBytes 4 (if mg.isEmpty then 0 else mgOff) ++ leBytes 4 merges.length ++
        leBytes 8 ((next.map fun x => 4096 * x.1).getD 0) ++ recs.1.flatMap fun p => leBytes 4 p.1)] ++
      recs.1 ++
      [(spOff, srow 0 0 b.scratchSize b.scratch), (barOff, barSection bars (lowest peers) (lowest u.blocks)),
       (mxOff, mx), (mgOff, mg)])
where
  sortBy' (l : List Team) : List Team :=
    (List.range 16).flatMap fun i => l.filter fun t => t.idx == i

/-- Physical address of a unit of a slot's save area. -/
def CtxSlot.unitPa (c : CtxSlot) (n : Nat) : Nat := c.savebase.toNat + 4096 * n

/-- Write the record of an evicted block where it lies; each line is a write of R66, of whole sectors (R439). A lost line
ends the context (R423). -/
def State.writeRecord (s : State) (u : SavedUnit) (b : Block) : State :=
  match b.save, (s.grid? b.gid).bind fun g => s.slotOf g.ctx with
  | some (first, _), some slot =>
    let a := (s.slot slot).unitPa first
    let bs := s.blockRecord u b
    if s.spanLost a bs.length then s.endCtx (s.slot slot).ctxid 0x41 else
    ((s.noteWrites .host (linesOf a bs.length)).putBytes a bs).clearPoison a bs.length
  | _, _ => s

/-- Write an evicted block's record again, after something has happened to it (R413). -/
def State.resave (s : State) (bid : Nat) : State :=
  match s.saved.find? fun u => u.blocks.contains bid, s.block? bid with
  | some u, some b => if u.pend then s else s.writeRecord u b
  | _, _ => s

end Sys2Proof.Machine
end

