-- ==== Sys2Proof/Machine/Tensor.lean ====
section
/-! DEFINITION. Tensor layout records, the reading of their rows, conversion of elements and the bound arithmetic that
the copy and matrix engines share (R98, R128, R129, R141, R142, R147, R153, R271, R272). -/

namespace Sys2Proof.Machine

/-! ### Reads that may stop -/

/-- What an engine's read or write gives. -/
inductive Got (α : Type) where
  | ok (x : α)
  /-- A cause found on the TLB path, with its pointer and whether it was a write. -/
  | fault (cause ptr : Nat) (wr : Bool)
  /-- The context ends with this status (R423, R439). -/
  | ends (status : Nat)
  /-- A line is owned by an operation granted earlier (R98), or these pieces of the system window have not come (R446). -/
  | wait (runs : Runs)
  /-- A reserved address: an engine operation ends with this STATUS (R392). -/
  | stat (n : Nat)
  deriving DecidableEq, Repr

def Got.bind {α β : Type} : Got α → (α → Got β) → Got β
  | .ok x, f => f x
  | .fault c p w, _ => .fault c p w
  | .ends st, _ => .ends st
  | .wait l, _ => .wait l
  | .stat n, _ => .stat n

def Got.map {α β : Type} (f : α → β) (g : Got α) : Got β := g.bind fun x => .ok (f x)

/-- All of them, or the first that stops; what waits behind one that waits waits with it. -/
def gotAll {α β : Type} (f : α → Got β) : List α → Got (List β)
  | [] => .ok []
  | x :: r => match f x with
    | .wait l => match gotAll f r with
      | .wait k => .wait (l ++ k)
      | _ => .wait l
    | g => g.bind fun y => (gotAll f r).map fun ys => y :: ys

/-- The page of a pointer maps a reserved physical address (R54, R392). -/
def State.reserved (s : State) (slot ptr : Nat) : Bool :=
  match s.pageOf slot (ptr % 2 ^ 56) with
  | .page l _ => !s.paOk (l.frame + ptr % 2 ^ 56 % l.size)
  | _ => false

/-- Translate for an engine (R53, R392). -/
def State.engXl (s : State) (slot ptr n : Nat) (wr : Bool) : Got Nat :=
  match s.xlate slot ptr n (!wr) wr with
  | .ok pa => .ok pa
  | .ends st => .ends st
  | .fault c => if c = 7 && s.reserved slot ptr then .stat 2 else .fault c ptr wr

/-- Pieces of the range of n bytes at offset off of a pointer; none past the end of its region (R271). -/
def ptrPieces (ptr off n : Nat) : Got (List (Nat × Nat)) :=
  let va := ptr % 2 ^ 56 + off
  if 2 ^ 56 < va + n then .fault 5 ptr false
  else .ok (pieces (n / 32 + 2) (ptr / 2 ^ 56 * 2 ^ 56 + va) n)

/-- Bytes at a physical address for a reader; a word that its port has refused stops it as refused says (R392, R446). -/
def State.gotFor (s : State) (who : Asker) (refused : Got (List Byte)) (ptr pa n : Nat) : Got (List Byte) :=
  match s.dataFor who pa n with
  | .ok bs => .ok bs
  | .refused => refused
  | .missing => .wait [(ptr, pa, n)]

/-- An engine reads n bytes at offset off of a pointer (R97, R98); u is the handle of its operation. Lines that a later
operation has overwritten read as before its grant (R98). -/
def State.engRead (s : State) (slot u : Nat) (shadow : List (Nat × List Byte)) (ptr off n : Nat) : Got (List Byte) :=
  (ptrPieces ptr off n).bind fun ps =>
    (gotAll (fun (p : Nat × Nat) =>
      (s.engXl slot p.1 p.2 false).bind fun pa =>
        if isLocal pa && s.ownedBefore u (lineOf pa) then .wait []
        else if s.poison.contains (pa / 32) then .ends 0x44
        else match shadow.find? fun q => isLocal pa && q.1 == lineOf pa with
          | some q => .ok ((q.2.drop (pa % 128)).take p.2)
          | none => s.gotFor (.op u) (.stat 2) p.1 pa p.2) ps).map fun l => l.flatten

/-- Local bytes as a read sees them whose place in the order of grants is handle u: a line that an operation granted
later owns reads as before that grant (R98). -/
def State.priorBytes (s : State) (u pa n : Nat) : List Byte :=
  match s.eops.findSome? fun o =>
      if u ≤ o.u && o.lines.contains (lineOf pa) then o.pre.find? fun p => p.1 == lineOf pa else none with
  | some p => (p.2.drop (pa % 128)).take n
  | none => s.bytes pa n

/-- A read of n bytes at offset off of a pointer on the TLB path, by the matrix engine or a load of tile rows (R53,
R98, R296, R403): it waits for lines of operations granted before handle u, and for words of the system window; a refused
word is a reserved address (R392). -/
def State.rdVirt (s : State) (slot : Nat) (who : Asker) (u ptr off n : Nat) : Got (List Byte) :=
  (ptrPieces ptr off n).bind fun ps =>
    (gotAll (fun (p : Nat × Nat) =>
      match s.xlate slot p.1 p.2 true false with
      | .fault c => .fault c p.1 false
      | .ends st => .ends st
      | .ok pa =>
        if isLocal pa && s.ownedBefore u (lineOf pa) then .wait []
        else if s.poison.contains (pa / 32) then .ends 0x44
        else if isLocal pa then .ok (s.priorBytes u pa p.2)
        else s.gotFor who (.fault 7 p.1 false) p.1 pa p.2) ps).map fun l => l.flatten

/-- Local lines that a range touches, as far as they translate. -/
def State.engLines (s : State) (slot ptr off n : Nat) (wr : Bool) : List Nat :=
  match ptrPieces ptr off n with
  | .ok ps => (ps.filterMap fun p => match s.engXl slot p.1 p.2 wr with
    | .ok pa => if isLocal pa then some (lineOf pa) else none
    | _ => none).dedup
  | _ => []

/-! ### Tensor layout records (R271) -/

structure Tlr where
  base : Nat
  dim0 : Nat
  dim1 : Nat
  dim2 : Nat
  dim3 : Nat
  str1 : Nat
  str2 : Nat
  str3 : Nat
  fmt : Nat
  scale : Nat
  bmap : Nat
  bound : Nat
  deriving DecidableEq, Repr

/-- A record from its 64 bytes. -/
def Tlr.of (bs : List Byte) : Tlr :=
  let f (o n : Nat) : Nat := leNat ((bs.drop o).take n)
  ⟨f 0 8, f 8 4, f 12 4, f 16 4, f 20 4, f 24 4, f 28 4, f 32 4, f 36 4, f 40 8, f 48 8, f 56 8⟩

def Tlr.et (t : Tlr) : Nat := bits t.fmt 4 0
def Tlr.sf (t : Tlr) : Nat := bits t.fmt 11 8
def Tlr.sparse (t : Tlr) : Bool := bits t.fmt 12 12 == 1

/-- Elements of a container; under CB2 an element is a weight (R271). -/
def perCont (et : Nat) : Nat := if et = 17 then 16 else etCount et

/-- Elements per scale (R128). -/
def scaleBlock (sf : Nat) : Nat := if sf = 2 then 64 else 32

/-- R128's pairing of scale format and type. -/
def sfPairs (sf et : Nat) : Bool :=
  sf == 0 || (sf == 1 && 4 ≤ et && et ≤ 8) || (sf == 2 && et == 17)

/-- Valid (R271). -/
def Tlr.valid (t : Tlr) : Bool :=
  bits t.fmt 7 5 == 0 && t.fmt / 2 ^ 13 == 0 && t.et ≤ 17 && sfPairs t.sf t.et &&
  1 ≤ t.dim0 && 1 ≤ t.dim1 && 1 ≤ t.dim2 && 1 ≤ t.dim3 && t.dim0 % perCont t.et == 0 &&
  !(t.sparse && t.bmap == 0) && !(t.sf != 0 && t.scale == 0)

/-- Rows of the tensor, and the byte offset of a row's start from BASE. -/
def Tlr.rows (t : Tlr) : Nat := t.dim1 * t.dim2 * t.dim3
def Tlr.rowOff (t : Tlr) (r : Nat) : Nat :=
  r % t.dim1 * t.str1 + r / t.dim1 % t.dim2 * t.str2 + r / (t.dim1 * t.dim2) * t.str3

/-- Bytes of n elements in consecutive containers, of a row's scales, of a row's bitmap. -/
def Tlr.dataLen (t : Tlr) (n : Nat) : Nat := (n + perCont t.et - 1) / perCont t.et * etBytes t.et
def Tlr.scaleLen (t : Tlr) : Nat := if t.sf = 0 then 0 else (t.dim0 + scaleBlock t.sf - 1) / scaleBlock t.sf
def Tlr.mapLen (t : Tlr) : Nat := if t.sparse then (t.dim0 + 7) / 8 else 0

/-- The arrays that a record spans, valid or not: pointer and length; none of no byte, and none of a zero side pointer. -/
def Tlr.arrays (t : Tlr) : List (Nat × Nat) :=
  ([(t.base, if t.rows * t.dim0 = 0 then 0
      else (t.dim1 - 1) * t.str1 + (t.dim2 - 1) * t.str2 + (t.dim3 - 1) * t.str3 + t.dataLen t.dim0)] ++
  (if t.sf = 0 || t.scale == 0 then [] else [(t.scale, t.rows * t.scaleLen)]) ++
  (if t.sparse && t.bmap != 0 then [(t.bmap, t.rows * t.mapLen)] else []) ++
  (if t.bound = 0 then [] else [(t.bound, 4 * t.rows)])).filter fun p => p.2 != 0

/-- An element as read: whether it is stored, its bits (under CB2 8 times the index plus the weight's number), and its
scale code (127, one, without scales). -/
structure Elem where
  st : Bool
  raw : Nat
  sc : Nat
  deriving DecidableEq, Repr

/-- Element k of packed containers. -/
def contElem (et : Nat) (bs : List Byte) (k : Nat) : Nat :=
  let c := leNat ((bs.drop (k / perCont et * etBytes et)).take (etBytes et))
  if et = 17 then 8 * elemOf 16 (k % 16 / 8) c + k % 8
  else elemOf (etWidth et) (k % perCont et) c

/-- The exact value of an element, scales applied (R115, R128, R129, R132). -/
def Elem.val (et : Nat) (e : Elem) : Ex :=
  if !e.st then .zero false
  else if et = 17 then cbWeight (e.raw / 8) e.sc (e.raw % 8)
  else match etFmt et with
    | some _ => mxValue et e.sc e.raw
    | none => Ex.ofInt (etInt et e.raw)

/-- The bitmap of row r up to column n. -/
def Tlr.readMap (t : Tlr) (rd : Nat → Nat → Nat → Got (List Byte)) (r n : Nat) : Got (List Bool) :=
  if t.sparse then
    (rd t.bmap (r * t.mapLen) ((n + 7) / 8)).map fun bs =>
      (List.range n).map fun i => (bs.getD (i / 8) 0).getLsbD (i % 8)
  else .ok (List.replicate n true)

/-- Columns lo to lo + n - 1 of row r: the elements read through rdD (pointer, offset, length), bitmap and scales
through rd. -/
def Tlr.readRow (t : Tlr) (rdD rd : Nat → Nat → Nat → Got (List Byte)) (r lo n : Nat) : Got (List Elem) :=
  (t.readMap rd r (lo + n)).bind fun m =>
    let before := ((m.take lo).filter fun b => b).length
    let count := ((m.drop lo).filter fun b => b).length
    let c0 := before / perCont t.et
    let c1 := if count = 0 then c0 else (before + count - 1) / perCont t.et + 1
    (rdD t.base (t.rowOff r + c0 * etBytes t.et) ((c1 - c0) * etBytes t.et)).bind fun bs =>
      let b0 := lo / scaleBlock t.sf
      let b1 := if n = 0 then b0 else (lo + n - 1) / scaleBlock t.sf + 1
      (if t.sf = 0 then Got.ok [] else rd t.scale (r * t.scaleLen + b0) (b1 - b0)).map fun scs =>
        (List.range n).map fun i =>
          let st := m.getD (lo + i) false
          let k := ((m.take (lo + i)).filter fun b => b).length - c0 * perCont t.et
          ⟨st, if st then contElem t.et bs k else 0,
           if t.sf = 0 then 127 else (scs.getD ((lo + i) / scaleBlock t.sf - b0) 0).toNat⟩

/-- The address at an offset from a pointer, its region kept. -/
def ptrAt (ptr off : Nat) : Nat := ptr / 2 ^ 56 * 2 ^ 56 + (ptr % 2 ^ 56 + off)

/-- The bytes that reading columns lo to lo + n - 1 of row r, and its bound, touches apart from its bitmap; those of the
bitmap; both: pointers and lengths. -/
def Tlr.dataRuns (t : Tlr) (rd : Nat → Nat → Nat → Got (List Byte)) (data : Bool) (r lo n : Nat) : List (Nat × Nat) :=
  let m := match t.readMap rd r (lo + n) with | .ok m => m | _ => []
  let before := ((m.take lo).filter fun b => b).length
  let count := ((m.drop lo).filter fun b => b).length
  let c0 := before / perCont t.et
  let c1 := if count = 0 then c0 else (before + count - 1) / perCont t.et + 1
  let b0 := lo / scaleBlock t.sf
  let b1 := if n = 0 then b0 else (lo + n - 1) / scaleBlock t.sf + 1
  (if data then [(ptrAt t.base (t.rowOff r + c0 * etBytes t.et), (c1 - c0) * etBytes t.et)] else []) ++
  (if t.sf = 0 then [] else [(ptrAt t.scale (r * t.scaleLen + b0), b1 - b0)]) ++
  (if t.bound = 0 then [] else [(ptrAt t.bound (4 * r), 4)])
def Tlr.mapRuns (t : Tlr) (r n : Nat) : List (Nat × Nat) :=
  if t.sparse then [(ptrAt t.bmap (r * t.mapLen), (n + 7) / 8)] else []
def Tlr.rowRuns (t : Tlr) (rd : Nat → Nat → Nat → Got (List Byte)) (data : Bool) (r lo n : Nat) : List (Nat × Nat) :=
  t.dataRuns rd data r lo n ++ t.mapRuns r (lo + n)

/-! ### Bound arithmetic (R141 to R147, R153) -/

/-- The FP32 value of a bound. -/
def boundEx (w : Word) : Ex := Fmt.fp32.dec w.toNat

/-- Rounded once to FP32 toward +∞ (R142). -/
def boundUp (x : Ex) : Word := BitVec.ofNat 32 (Fmt.fp32.round { rnd := 2 } x)
def boundInf : Word := 0x7F800000

/-- Sums and products of bounds: an infinite one makes the result infinite (R147). The spec does not say what an infinite
magnitude times a bound of +0 is in R146: the model takes +∞ (log 36, DESIGN CHOICE). -/
def bAdd (l : List Ex) : Ex := if l.any (Ex.isInf false) then .inf false else Ex.sum 2 l
def bMul (x y : Ex) : Ex := if x.isInf false || y.isInf false then .inf false else x.mul y

/-- The larger of several non-negative values. -/
def bMax (l : List Ex) : Ex := l.foldl (fun m x => if m.lt x then x else m) (.zero false)

/-- A bound side-array entry as read (R147). -/
def readBound (w : Nat) : Word :=
  match Fmt.fp32.dec w with
  | .nan => boundInf
  | .inf _ => boundInf
  | .fin n m _ _ => if m = 0 then 0 else if n then boundInf else BitVec.ofNat 32 w
  | .btw .. => boundInf

/-- The bound of row r of an operand; +0 without a side array (R147, R155). -/
def Tlr.readBoundOf (t : Tlr) (rd : Nat → Nat → Nat → Got (List Byte)) (r : Nat) : Got Word :=
  if t.bound = 0 then .ok 0 else (rd t.bound (4 * r) 4).map fun bs => readBound (leNat bs)

/-- ulp_T(x) for a floating-point format (R141), x finite. -/
def Fmt.ulp (f : Fmt) (x : Ex) : Ex :=
  match x with
  | .fin _ m _ _ => .fin false 1 (if m = 0 then f.qmin else max (x.floorLog2 - f.man) f.qmin) false
  | _ => .zero false

/-- rho of R143 and R153: one half for RNE and RNA. -/
def rhoMul (rnd : Nat) (x : Ex) : Ex := if rnd = 0 ∨ rnd = 4 then x.scale (-1) else x

/-- A finite value. -/
def Ex.isFin : Ex → Bool
  | .fin .. => true
  | _ => false

/-- The largest finite value of a type, and the smallest (R153). -/
def etMaxEx (et : Nat) : Ex :=
  match etFmt et with
  | some f => f.dec f.maxBits
  | none => Ex.ofInt (etHi et)
def etMinEx (et : Nat) : Ex :=
  match etFmt et with
  | some f => (f.dec f.maxBits).neg
  | none => Ex.ofInt (etLo et)

/-- Every value of type et is one of type dt (R153's itself or wider). -/
def etHolds (et dt : Nat) : Bool :=
  et == dt ||
  (match etFmt et, etFmt dt with
   | some f, some g => f.man ≤ g.man && g.qmin ≤ f.qmin && !(etMaxEx dt).lt (etMaxEx et)
   | none, none => etLo dt ≤ etLo et && etHi et ≤ etHi dt
   | _, _ => false)

/-- A converted row: the elements' bits, the scale codes, and c_ij of R153 for each element with none for one that
makes the bound infinite. -/
structure ConvRow where
  raws : List Nat
  scales : List Nat
  cs : List (Option Ex)
  deriving DecidableEq, Repr

/-- One element converted outside MX (R118, R153, R235). -/
def convElem (dt : Nat) (p : Ex × Rm) : Nat × Option Ex :=
  match etFmt dt with
  | some f =>
    let y := f.round p.2 p.1
    let v := f.dec y
    (y, if v.isFin && p.1.isFin then
          some (bAdd [rhoMul p.2.rnd (f.ulp v), bMax [Ex.sum 0 [p.1, (etMaxEx dt).neg], Ex.sum 0 [etMinEx dt, p.1.neg]]])
        else none)
  | none =>
    (wrapN (etWidth dt) (p.1.toRange p.2 (etLo dt) (etHi dt)),
     if p.1.isFin then
       some (bAdd [rhoMul p.2.rnd (.fin false 1 0 false),
         bMax [Ex.sum 0 [p.1, (etMaxEx dt).neg], Ex.sum 0 [etMinEx dt, p.1.neg]]])
     else none)

/-- One MX block converted (R129, R141, R153). -/
def convBlock (dt : Nat) (l : List (Ex × Rm)) : ConvRow :=
  let (sc, es, bad) := mxBlock dt l
  let f := (etFmt dt).getD .e4m3
  if bad then ⟨es, [sc], l.map fun _ => none⟩
  else ⟨es, [sc], (List.zip es l).map fun p =>
    some (rhoMul p.2.2.rnd ((f.ulp (f.dec p.1)).scale ((sc : Int) - 127)))⟩

/-- Cut a list into blocks of n. -/
def chunks {α : Type} (n : Nat) : Nat → List α → List (List α)
  | 0, _ => []
  | k + 1, l => if l.isEmpty then [] else l.take n :: chunks n k (l.drop n)

/-- A row converted to type dt and scale format sf (R129, R153, R235). -/
def convRow (dt sf : Nat) (l : List (Ex × Rm)) : ConvRow :=
  if sf = 1 then
    let bs := (chunks 32 (l.length / 32 + 1) l).map (convBlock dt)
    ⟨bs.flatMap (·.raws), bs.flatMap (·.scales), bs.flatMap (·.cs)⟩
  else
    let es := l.map (convElem dt)
    ⟨es.map (·.1), [], es.map (·.2)⟩

/-- b' of R153 from the row's own bound. -/
def boundConv (exact : Bool) (b : Word) (cs : List (Option Ex)) : Word :=
  if cs.any Option.isNone then boundInf
  else if exact then b
  else boundUp (bAdd [boundEx b, bMax (cs.filterMap id)])

/-- Elements as consecutive containers (R114). -/
def packRow (et : Nat) (raws : List Nat) : List Byte :=
  (chunks (perCont et) (raws.length + 1) raws).flatMap fun c => leBytes (etBytes et) (packElems (etWidth et) c)

/-- A bitmap as bytes, bit i for element i (R271). -/
def packMap (l : List Bool) : List Byte :=
  (chunks 8 (l.length + 1) l).map fun c => BitVec.ofNat 8 (packElems 1 (c.map Bool.toNat))

end Sys2Proof.Machine
end

