-- ==== Sys2Proof/Machine/Collective.lean ====
section
/-! DEFINITION. The fabric reduction collective: streams, arrivals and emissions (R156, R394, R395). -/

namespace Sys2Proof.Machine

/-- Fields of a stream entry (R394). -/
def Stream.v (st : Stream) : Bool := st.w0.toNat % 2 == 1
def Stream.port (st : Stream) : Nat := bits st.w0.toNat 5 1
def Stream.ncontrib (st : Stream) : Nat := bits st.w0.toNat 13 8
def Stream.outKind (st : Stream) : Nat := bits st.w0.toNat 16 16
def Stream.outPort (st : Stream) : Nat := bits st.w0.toNat 21 17
def Stream.outStream (st : Stream) : Nat := bits st.w0.toNat 31 24
def Stream.ctx (st : Stream) : Nat := bits st.w0.toNat 39 32

def State.stream (s : State) (n : Nat) : Stream := sget {} n s.regs.streams
def State.putStream (s : State) (n : Nat) (st : Stream) : State :=
  { s with regs := { s.regs with streams := sput {} n st s.regs.streams } }
def State.pctl (s : State) (p : Nat) : Pctl := sget {} p s.regs.pctl
def State.modPctl (s : State) (p : Nat) (f : Pctl → Pctl) : State :=
  { s with regs := { s.regs with pctl := sput {} p (f (s.pctl p)) s.regs.pctl } }

/-- The partial rows go (R393, R394). -/
def Stream.clear (st : Stream) : Stream := { st with rows := [], cnt := [], bnd := [] }

/-- A discarded row is counted at a port (R393, R395). -/
def State.dropRow (s : State) (p : Nat) : State := s.modPctl p fun c => { c with drop := (c.drop + 1) % 2 ^ 32 }

/-- Addresses an emission of slot i writes: address and bytes (R395). -/
def Stream.targets (st : Stream) (i : Nat) : List (Nat × Nat) :=
  [(st.dest.toNat + 512 * i, 512)] ++ (if st.bdest = 0 then [] else [(st.bdest.toNat + 4 * i, 4)]) ++
    (if st.seqa = 0 then [] else [(st.seqa.toNat, 8)])

/-- A device write of R66 to local memory: bytes on sealed lines are refused (R73). -/
def State.devWrite (s : State) (a : Nat) (bs : List Byte) : State :=
  let ps := (pieces (bs.length / 32 + 2) a bs.length).map fun p => (p.1, (bs.drop (p.1 - a)).take p.2)
  let bad := ps.filter fun p => (s.sealAt p.1).isSome
  let ok := ps.filter fun p => (s.sealAt p.1).isNone
  let s1 := (bad.map fun p => lineOf p.1).dedup.foldl (fun s n => s.noteSealed (128 * n)) s
  let s2 := s1.noteWrites .host (ok.map fun p => lineOf p.1)
  (ok.foldl (fun s p => s.putBytes p.1 p.2) s2).clearPoisonBytes
    (ok.flatMap fun p => (List.range p.2.length).map fun k => p.1 + k)

/-- Emit slot i of stream n (R395). -/
def State.emit (s : State) (n i : Nat) (row : List Word) (bound : Word) : State :=
  let st := s.stream n
  let bytes := row.flatMap fun w => leBytes 4 w.toNat
  if st.outKind = 1 then
    if (s.pctl st.outPort).up then
      s.send st.outPort 0x100 0 (256 * st.outStream + i) (bytes ++ leBytes 4 bound.toNat)
    else s.dropRow st.outPort
  else if (st.targets i).any fun p => Config.dramSize < p.1 + p.2 then s.dropRow st.port
  -- a line that the stream's context writes is lost (R423)
  else if (st.targets i).any fun p => s.spanLost p.1 p.2 then s.endCtx st.ctx 0x41
  else
    let s1 := s.devWrite (st.dest.toNat + 512 * i) bytes
    let s2 := if st.bdest = 0 then s1 else s1.devWrite (st.bdest.toNat + 4 * i) (leBytes 4 bound.toNat)
    if st.seqa = 0 then s2
    -- the count cannot be read: the stream's context ends (R439)
    else if s2.poisoned st.seqa.toNat 8 then s2.endCtx st.ctx 0x44
    else s2.devWrite st.seqa.toNat (leBytes 8 (s2.memNat st.seqa.toNat 8 + 1))

/-- The stream takes rows: it is valid, and its port is UP (R395). -/
def State.takesRows (s : State) (n : Nat) : Bool := (s.stream n).v && (s.pctl (s.stream n).port).up

/-- The place of a peer's port among the sources of one fabric cycle: behind every core (R395). -/
def peerSrc (p : Nat) : Nat := 1000 + p

/-- A row arrives for stream n, slot i, over its port, from a source: a core, or a peer (R156, R395). -/
def State.rowArrive (s : State) (src n i : Nat) (row : List Word) (bound : Word) : State :=
  let st := s.stream n
  if !s.takesRows n then s.dropRow st.port
  else
    let s : State := { s with regs := { s.regs with rowAt := s.fab, rowSrc := src } }
    let c := sget 0 i st.cnt
    let old := sgets 0 (128 * i) 128 st.rows
    let sums := List.zipWith (fun (a b : Word) =>
      Fmt.fp32.round {} (Ex.sum 0 [Fmt.fp32.dec a.toNat, Fmt.fp32.dec b.toNat])) old row
    let vals := sums.map Fmt.fp32.dec
    let new := if c = 0 then row else sums.map (BitVec.ofNat 32)
    let bnd : Word := if c = 0 then bound
      else if vals.any fun x => !x.isFin then boundInf
      else boundUp (bAdd [boundEx (sget 0 i st.bnd), boundEx bound, (bMax (vals.map Fmt.fp32.ulp)).scale (-1)])
    if c + 1 = st.ncontrib then
      let st1 := { st with
        cnt := sput 0 i 0 st.cnt, rows := sclear (128 * i) (128 * i + 128) st.rows, bnd := sput 0 i 0 st.bnd }
      (s.putStream n st1).emit n i new bnd
    else
      s.putStream n { st with
        cnt := sput 0 i (c + 1) st.cnt, rows := sputRun 0 (128 * i) new st.rows, bnd := sput 0 i bnd st.bnd }

/-- An emission of slot i would write a line that an engine operation owns (R98). -/
def State.emitHeld (s : State) (n i : Nat) : Bool :=
  let st := s.stream n
  st.outKind == 0 && sget 0 i st.cnt + 1 == st.ncontrib &&
  (st.targets i).any fun p => (linesOf p.1 p.2).any fun l => s.owned (128 * l)

/-- An arrival that the stream takes waits: for its emission's lines, or, since a source after its own has been taken in this
fabric cycle, for the next (R98, R395). -/
def State.rowWaits (s : State) (src n i : Nat) : Bool :=
  s.takesRows n && ((src < s.regs.rowSrc && s.regs.rowAt == s.fab) || s.emitHeld n i)

/-- A row from a peer that waits, of an event (R395). -/
def State.arrivalWaits (s : State) (e : Instr) : Bool :=
  match e with
  | .reductionRowArrival p st i _ _ => (s.stream st).port == p && s.rowWaits (peerSrc p) st i
  | _ => false

/-- REDUCTION_ROW_ARRIVAL (R395): a row from a peer over port p, tagged with the stream and the row number; one that waits
changes nothing yet. Of a row for a stream of another port the spec says nothing: the model discards it and counts it in DROP
of the port that it came over (log 37, DESIGN CHOICE). -/
def execReductionRowArrival (p st i : Nat) (row : List Word) (bound : Word) (s : State) : Out :=
  .next (if (s.stream st).port ≠ p then s.dropRow p
    else if s.rowWaits (peerSrc p) st i then s
    else s.rowArrive (peerSrc p) st i row bound)

end Sys2Proof.Machine
end

