-- ==== Sys2Proof/Machine/Engine.lean ====
section
/-! DEFINITION. The copy and merge engines: CPY, CPYT, MERGE, EVWAIT, EVPOP, and the events by which an operation
completes or stops (R74, R97 to R100, R265 to R275, R392, R403, R405, R413). -/

namespace Sys2Proof.Machine

/-! ### Team-uniform instructions that read a record first (R193, R265, R285) -/

/-- What the start of such an instruction gives. -/
inductive Start where
  /-- Issue causes, each with its FREC. -/
  | trap (cs : List (Nat × Nat))
  /-- A record read fails on the TLB path; the records that the instruction reads, pointer and length (R38). -/
  | park (cause ptr : Nat) (runs : List (Nat × Nat))
  | ends (status : Nat)
  /-- It cannot go on yet; the team is not ready with this wait, which keeps the records read (R193, R265). -/
  | wait (w : Wait) (s : State)
  /-- It has started; the value of its destination, if any, and what its flag waits for. -/
  | go (s : State) (res : Option DWord) (on : Until)

/-- Read a record through the scalar path (R193, R265), for the team's instruction or its replay: a line that an engine owns
is waited for (R98). -/
def State.readRecord (s : State) (who : Asker) (ptr n : Nat) : RdV := s.readVirt ((s.slotOf s.t.ctx).getD 0) who ptr n

/-- Record k of those that a waiting instruction has read, or else read it now. -/
def State.recordOr (s : State) (who : Asker) (recs : List (List Byte)) (k ptr n : Nat) : RdV :=
  match recs[k]? with | some bs => .ok bs | none => s.readRecord who ptr n

/-- Two reads of which one stops, or else both go on: what both have to ask for is asked for at once (R446). -/
def RdV.both (a b : RdV) : RdV :=
  match a, b with
  | .ok x, .ok y => .ok (x ++ y)
  | .wait l, .wait k => .wait (l ++ k)
  | .wait l, _ => .wait l
  | .ok _, y => y
  | x, _ => x

/-- The wait for words of the system window (R446). -/
def State.askStart (s : State) (who : Asker) (runs : Runs) : Start := .wait .other (s.askFor who runs)

/-- What a reader has been given of the window goes: a word that was refused is asked for again by a replay (R39, R392). -/
def State.dropGot (s : State) (who : Asker) : State :=
  { s with link := { s.link with got := s.link.got.filter fun g => g.who != who } }

/-- What reading records does besides giving their bytes (R71, R401, R446). -/
def State.noteRecords (s : State) (runs : List (Nat × Nat)) : State :=
  s.noteVirt (.core s.t.core) ((s.slotOf s.t.ctx).getD 0) runs

/-- The same for an instruction that has more to read (R71). -/
def State.recordReads (s : State) (slot : Nat) (runs : List (Nat × Nat)) : State × Reads :=
  s.noteVirtOnce (.core s.t.core) slot {} runs

/-- The records that a waiting instruction holds. -/
def Wait.recs : Wait → List (List Byte)
  | .queue r => [r]
  | .engine l => l
  | _ => []

/-- The record's lines are owned by an engine operation. -/
def State.recordOwned (s : State) (ptr n : Nat) : Bool :=
  (s.engLines ((s.slotOf s.t.ctx).getD 0) ptr 0 n false).any fun l => s.owned (128 * l)

/-- What keeps records from being read now: an engine owns a line (R98), or else a parked access of the team names a sector of
them (R38, R84). -/
def State.recordStop (s : State) (runs : List (Nat × Nat)) : Option Wait :=
  if runs.any fun r => s.recordOwned r.1 r.2 then some .other
  else if s.spanHeld (runs.map fun r => (r.1 % 2 ^ 56, r.2)) then some .held
  else none

/-- The same of an instruction that may hold the records already. -/
def State.recordWait (s : State) (held : List (List Byte)) (runs : List (Nat × Nat)) : Option Wait :=
  if held.isEmpty then s.recordStop runs else none

/-- The records as spans of a log entry: row 0, virtual address, length (R38). -/
def recordSpans (runs : List (Nat × Nat)) : List (Nat × Nat × Nat) := runs.map fun r => (0, r.1 % 2 ^ 56, r.2)

/-- Park the selected team's instruction with the scalar operands it read (R37, R265); every sector of its records stays
named by the entry (R38), and the registers that it is still to read by its outstanding instruction (R171). -/
def State.parkRedo (s : State) (i : Instr) (ops : List DWord) (srcV srcS : List Nat) (cause ptr : Nat)
    (runs : List (Nat × Nat)) : State :=
  let t := s.t
  if 4 ≤ t.log.length then s.hold .held
  else
    let s := (s.noteXls (towerOf t.core) ((s.slotOf t.ctx).getD 0) [ptr]).dropGot s.recordWho
    let e := t.freeEntry
    let pages := [pageEntry ptr cause true false]
    let (s1, fs) := s.sendFault ((s.slotOf t.ctx).getD 0) 0 t.core t.place e t.tid 0 pages
    let entry : LogEntry :=
      { u := e, h := s1.uid, instr := i, pc := t.pc, cl := t.cl, ord := t.ord, mode := t.mode, xreg := {}, fseq := fs
        kind := .redo ops, spans := recordSpans runs, done := 0, pages := pages.map (BitVec.ofNat 64), causes := [⟨0, 0, ptr⟩] }
    let s2 := s1.attach (.log e) srcV srcS []
    ({ s2 with t := { s2.t with log := s2.t.log ++ [entry] } }).done i

/-- Carry out a start at issue; d is the destination register, if any. -/
def State.begin_ (s : State) (i : Instr) (d : Option Nat) (ops : List DWord) (srcV srcS : List Nat) : Start → State
  | .trap cs => s.decide (cs.map fun c => ⟨c.1, 0, BitVec.ofNat 64 c.2, s.t.pc, s.t.cl, false, s.t.ord⟩)
  | .park c p rs => s.parkRedo i ops srcV srcS c p rs
  | .ends st => (s.endCtx s.t.ctx st).hold .other
  | .wait w s1 => s1.hold w
  | .go s1 res on =>
    let s2 := match d, res with
      | some n, some x => s1.ws n x
      | _, _ => s1
    (s2.attach on srcV srcS []).done i

/-! ### Issue (R97, R265 to R272, R274) -/

/-- Fields of the literal (R266). -/
def eRCNT (l : Word) : Nat := bits l.toNat 31 28
def eARR (l : Word) : Bool := bits l.toNat 27 27 == 1
def eBCLS (l : Word) : Nat := bits l.toNat 26 25
def eBNUM (l : Word) : Nat := bits l.toNat 24 20
def eNOREC (l : Word) : Bool := bits l.toNat 19 19 == 1
def eTAG (l : Word) : Nat := bits l.toNat 11 0

/-- Operations that hold a channel of a tower's copy or merge engine (R265). -/
def State.channels (s : State) (tower : Nat) (merge : Bool) : List EngOp :=
  s.eops.filter fun o => towerOf o.core == tower && (if merge then o.kind == 2 else o.kind ≤ 1) && !o.stopped

/-- The channel that an operation takes: the spec does not say which of the free ones; the model takes the lowest (log 19,
DESIGN CHOICE). UNIT of a FAULT with SRC 2 or 3 names it (R403). -/
def State.freeChan (s : State) (tower : Nat) (merge : Bool) : Nat :=
  ((List.range 16).find? fun n => !(s.channels tower merge).any fun o => o.chan == n).getD 0

/-- A channel, the quota and the barrier let the selected team's operation start (R265, R269). -/
def State.engReady (s : State) (merge : Bool) (l : Word) : Bool :=
  (s.channels (towerOf s.t.core) merge).length < (if merge then 4 else 16) && s.t.quota < 16 &&
  !(eARR l && (s.myBar (eBCLS l) (eBNUM l)).arr.contains s.t.tid) && s.released 3

/-- Seal entries, by base, that cover a line (R74). -/
def State.sealsOf (s : State) (lines : List Nat) : List Nat :=
  (s.seals.filter fun e => lines.any fun n => e.base ≤ 128 * n && 128 * n < e.base + e.len).map (·.base)

/-- Change the copy reference counts of seal entries (R74). -/
def State.refSeals (s : State) (bases : List Nat) (up : Bool) : State :=
  { s with seals := s.seals.map fun e =>
      if bases.contains e.base then { e with refs := if up then e.refs + 1 else e.refs - 1 } else e }

/-- The grants of an operation, line by line: up to the first sealed line (R97, R267). -/
def State.grant (s : State) (tower : Nat) : List Nat → State × Bool
  | [] => (s, true)
  | n :: r =>
    if (s.sealAt (128 * n)).isSome then (s.noteSealed (128 * n), false)
    else (s.noteWrite (.engine tower) n).grant tower r

/-- Pieces of memory: pointer, offset, length. -/
abbrev Spans := List (Nat × Nat × Nat)

/-- Local lines of pieces of memory, as far as they translate. -/
def State.spanLines (s : State) (slot : Nat) (l : Spans) (wr : Bool) : List Nat :=
  (l.flatMap fun p => s.engLines slot p.1 p.2.1 p.2.2 wr).dedup

/-- Virtual and physical 64 KiB pages of pieces of memory, as far as they translate (R402). -/
def State.spanPages (s : State) (slot : Nat) (l : Spans) : List (Nat × Nat) :=
  (l.flatMap fun p => match ptrPieces p.1 p.2.1 p.2.2 with
    | .ok ps => ps.filterMap fun q => match s.engXl slot q.1 q.2 true with
        | .ok pa => some (q.1 % 2 ^ 56 / 2 ^ 16, pa / 2 ^ 16)
        | _ => none
    | _ => []).dedup

/-- Cut a range at 64 KiB boundaries. -/
def pagePieces : Nat → Nat → Nat → List (Nat × Nat)
  | 0, _, _ => []
  | fuel + 1, a, n =>
    if n = 0 then [] else
    let k := min n (65536 - a % 65536)
    (a, k) :: pagePieces fuel (a + k) (n - k)

/-- Pieces of memory, each within a 64 KiB page, that cannot be written now: their grants are pending (R97). -/
def State.spanWants (s : State) (slot : Nat) (l : Spans) : List (Nat × Nat) :=
  (l.flatMap fun p => pagePieces (p.2.2 / 65536 + 2) (ptrAt p.1 p.2.1) p.2.2).filter fun q =>
    match s.xlate slot q.1 q.2 false true with | .ok _ => false | _ => true

/-- The destination that an operation owns: what is granted under the seal test at issue, and what is tested when it is
written. -/
structure Dests where
  now : Spans := []
  late : Spans := []

/-- The rows that CPYT names: the first and how many (R272). -/
def cpytRows (t : Tlr) (sb : DWord) : Nat × Nat :=
  let first := bits sb.toNat 31 0
  let n := bits sb.toNat 63 32
  (first, if n = 0 then t.rows - first else n)

/-- The arrays of a row of a record: pointer, offset and length; a sparse row at its full extent (R271). -/
def Tlr.rowArrays (t : Tlr) (r : Nat) : Spans :=
  [(t.base, t.rowOff r, t.dataLen t.dim0)] ++
    (if t.sf = 0 then [] else [(t.scale, r * t.scaleLen, t.scaleLen)]) ++
    (if t.sparse then [(t.bmap, r * t.mapLen, t.mapLen)] else []) ++
    (if t.bound = 0 then [] else [(t.bound, 4 * r, 4)])

/-- A merge descriptor (R274). -/
structure MergeDesc where
  outp : Nat
  ctrl : Nat
  zero : Bool
  inputs : List (Nat × Nat)
  deriving DecidableEq, Repr

/-- The descriptor of these bytes. -/
def MergeDesc.of (bs : List Byte) : MergeDesc :=
  let f (o n : Nat) : Nat := leNat ((bs.drop o).take n)
  let ins := (List.range ((bs.length - 16) / 16)).map fun i => 16 + 16 * i
  ⟨f 0 8, f 8 4, f 12 4 == 0 && ins.all (fun o => f (o + 12) 4 == 0), ins.map fun o => (f o 8, f (o + 8) 4)⟩

def MergeDesc.nin (m : MergeDesc) : Nat := bits m.ctrl 23 20
def MergeDesc.keepZero (m : MergeDesc) : Bool := bits m.ctrl 19 19 == 1
def MergeDesc.op (m : MergeDesc) : Nat := bits m.ctrl 18 16
def MergeDesc.vet (m : MergeDesc) : Nat := bits m.ctrl 15 11
def MergeDesc.keyLen (m : MergeDesc) : Nat := if bits m.ctrl 10 10 = 1 then 8 else 4
def MergeDesc.valLen (m : MergeDesc) : Nat := if m.vet = 31 then 0 else if etPair m.vet then 8 else 4
def MergeDesc.recLen (m : MergeDesc) : Nat := m.keyLen + m.valLen

/-- Every field is valid (R274). -/
def MergeDesc.valid (m : MergeDesc) : Bool :=
  m.zero && bits m.ctrl 31 24 == 0 && bits m.ctrl 9 0 == 0 && 1 ≤ m.nin && m.nin ≤ 8 && m.op ≤ 4 &&
  [0, 1, 13, 14, 15, 31].contains m.vet && !(m.op ≤ 2 && m.vet == 31)

/-- The destination of an operation of a kind, from its operands and records (R270, R272, R274, and R298 for MDRM): under
a sparse destination, which data lines are written is known only as they are. -/
def destsOf (kind : Nat) (ops : List DWord) (recs : List (List Byte)) : Dests :=
  match kind with
  | 0 => ⟨[((ops.getD 0 0).toNat, 0, (ops.getD 2 0).toNat)], []⟩
  | 1 =>
    let td := Tlr.of (recs.getD 0 [])
    let (first, n) := cpytRows (Tlr.of (recs.getD 1 [])) (ops.getD 2 0)
    let rows := (List.range n).map fun k => first + k
    if td.sparse then
      ⟨rows.flatMap fun r => (td.rowArrays r).drop 1, rows.map fun r => (td.base, td.rowOff r, td.dataLen td.dim0)⟩
    else ⟨rows.flatMap td.rowArrays, []⟩
  | 2 =>
    let m := MergeDesc.of (recs.getD 0 [])
    ⟨[(m.outp, 0, (ops.getD 1 0).toNat * m.recLen)], []⟩
  | _ =>
    let t := Tlr.of (recs.getD 0 [])
    let x := (ops.getD 1 0).toNat
    ⟨(List.range (bits x 13 7 + 1)).flatMap fun k => t.rowArrays (bits x 63 32 + k), []⟩

/-- The source of an operation: its data and side arrays, and apart from them its bitmaps (R273); of rows beyond the tensor,
and of an invalid record, nothing (R272). -/
def srcsOf (kind : Nat) (ops : List DWord) (recs : List (List Byte)) : Spans × Spans :=
  match kind with
  | 0 => ([((ops.getD 1 0).toNat, 0, (ops.getD 2 0).toNat)], [])
  | 1 =>
    let ts := Tlr.of (recs.getD 1 [])
    let (first, n) := cpytRows ts (ops.getD 2 0)
    let rows := if ts.valid then ((List.range n).map fun k => first + k).filter fun r => r < ts.rows else []
    let isMap (p : Nat × Nat × Nat) : Bool := ts.sparse && p.1 == ts.bmap && p.2.2 == ts.mapLen
    let all := rows.flatMap ts.rowArrays
    (all.filter fun p => !isMap p, all.filter isMap)
  | 2 =>
    let m := MergeDesc.of (recs.getD 0 [])
    (m.inputs.map fun i => (i.1, 0, i.2 * m.recLen), [])
  | _ => ([], [])

/-- Start an operation: sequence number, grants, references of its sources' seals, reservation of the arrival (R74, R97, R265,
R269); one whose status is decided already takes no grant. recs are the records it has read. -/
def State.engStart (s : State) (kind : Nat) (l mode : Word) (ops : List DWord) (recs : List (List Byte))
    (status : Option Nat) : Start :=
  let t := s.t
  let slot := (s.slotOf t.ctx).getD 0
  let d : Dests := if status.isSome then {} else destsOf kind ops recs
  let src : Spans × Spans := srcsOf kind ops recs
  let lines := s.spanLines slot d.now true
  -- a sealed line that may not be written is no destination line yet: its grant is refused when it is (R103)
  let late := (s.spanLines slot d.late true).filter fun n => (s.sealAt (128 * n)).isNone
  if !s.engReady (kind == 2) l || (lines ++ late).any (fun n => s.granted (128 * n)) then .wait (.engine recs) s
  else
    let (s1, ok) := match status with
      | some _ => (s, true)
      | none => s.grant (towerOf t.core) (lines ++ late)
    let seals := s1.sealsOf (s.spanLines slot (src.1 ++ src.2) false)
    let op : EngOp :=
      { u := s1.uid, kind := kind, tid := t.tid, ctx := t.ctx, gid := t.gid, core := t.core, seq := t.eseq, lit := l
        mode := mode, ops := ops, recs := recs
        chan := s.freeChan (towerOf t.core) (kind == 2), place := t.place
        bid := t.bid, cluster := s.myCluster, vpages := s.spanPages slot (d.now ++ d.late)
        wants := if status.isNone && ok then s.spanWants slot (d.now ++ d.late) else []
        lines := if status.isNone && ok then (lines ++ late).dedup else []
        olds := [], status := if status.isNone && !ok then some 1 else status, fseq := 0, pages := [], seals := seals }
    let s2 := s1.refSeals seals true
    let s3 := { s2 with
      uid := s2.uid + 1, eops := s2.eops ++ [op]
      t := { s2.t with eseq := (t.eseq + 1) % 2 ^ 14, quota := t.quota + 1 } }
    let s4 := if eARR l then s3.modMyBar (eBCLS l) (eBNUM l) fun b => b.reserve t.tid else s3
    .go s4 (some (BitVec.ofNat 64 t.eseq)) .ready

/-- The region check of several ranges (R50): the trap or the context's end for the first that fails. -/
def State.regionsFail (s : State) (slot : Nat) : List (Nat × Nat) → Option Start
  | [] => none
  | p :: r =>
    match s.regionBad slot p.1 with
    | some st => some (.ends st)
    | none => if s.inRegion slot p.1 p.2 then s.regionsFail slot r else some (.trap [(5, p.1)])

/-- The start of CPY from its operands: destination, source, length (R270). -/
def State.startCpy (s : State) (l mode : Word) (ops : List DWord) : Start :=
  let dst := (ops.getD 0 0).toNat
  let src := (ops.getD 1 0).toNat
  let len := (ops.getD 2 0).toNat
  let slot := (s.slotOf s.t.ctx).getD 0
  if 2 ^ 36 ≤ len then .trap [(5, len)]
  else match s.regionsFail slot (if 0 < len then [(dst, len), (src, len)] else []) with
    | some f => f
    | none => s.engStart 0 l mode ops [] none

/-- CPY (R270). -/
def execCpy (d a b : Nat) (l : Word) (s : State) : Out :=
  .next (issue (.cpy d a b l) s fun s =>
    let ops := [s.rs a, s.rs (a + 1), s.rs b]
    s.begin_ (.cpy d a b l) (some d) ops [] [a, a + 1, b] (s.startCpy l s.t.mode ops))

/-- The capability bit that a type and scale format lack on the profile, if any (R12). -/
def State.fmtMissing (s : State) (et sf : Nat) : Option Nat :=
  if !etOn s.pkg.profH et then some (etCapBit et)
  else if s.pkg.profH && sf == 2 then some 7 else none

/-- The start of CPYT (R272): FREC of Unsupported-Profile and Illegal-Mode as R204 has it, w the instruction word. held
are the records that it waited with. Where both pointers or both records fail one check, the spec does not say which of them
FREC holds: the model takes the destination's, and of the arrays that the records span the first that fails (log 88, DESIGN
CHOICE). -/
def State.startCpyt (s : State) (who : Asker) (w l mode : Word) (ops : List DWord) (held : List (List Byte)) : Start :=
  let pd := (ops.getD 0 0).toNat
  let ps := (ops.getD 1 0).toNat
  let slot := (s.slotOf s.t.ctx).getD 0
  if pd % 64 ≠ 0 then .trap [(6, pd)]
  else if ps % 64 ≠ 0 then .trap [(6, ps)]
  else match s.recordWait held [(pd, 64), (ps, 64)] with
  | some w => .wait w s
  | none => match (s.recordOr who held 0 pd 64).both (s.recordOr who held 1 ps 64) with
    | .fault c p => .park c p [(pd, 64), (ps, 64)]
    | .ends st => .ends st
    | .wait l => s.askStart who l
    | .ok both =>
      let bd := both.take 64
      let bs := both.drop 64
      let s := if held.isEmpty then s.noteRecords [(pd, 64), (ps, 64)] else s
      let td := Tlr.of bd
      let ts := Tlr.of bs
      let conv := td.et != ts.et || td.sf != ts.sf || td.sparse != ts.sparse
      let missing := match s.fmtMissing td.et td.sf with | some b => some b | none => s.fmtMissing ts.et ts.sf
      match (if conv then missing else none) with
      | some b => .trap [(3, w.toNat * 2 ^ 32 + b)]
      | none =>
        if conv && mRND mode == 5 then .trap [(4, w.toNat * 2 ^ 32 + mode.toNat)]
        else match s.regionsFail slot (td.arrays ++ ts.arrays) with
          | some f => f
          | none =>
            let (first, n) := cpytRows ts (ops.getD 2 0)
            let status : Option Nat :=
              if !td.valid || !ts.valid || (td.et == 17 && ts.et != 17) then some 7
              else if td.dim0 != ts.dim0 || td.dim1 != ts.dim1 || td.dim2 != ts.dim2 || td.dim3 != ts.dim3 ||
                  ts.rows < first + n then some 6
              else none
            s.engStart 1 l mode ops [bd, bs] status

/-- CPYT (R272). -/
def execCpyt (d a b : Nat) (l : Word) (s : State) : Out :=
  .next (issue (.cpyt d a b l) s fun s =>
    let ops := [s.rs a, s.rs (a + 1), s.rs b]
    s.begin_ (.cpyt d a b l) (some d) ops [] [a, a + 1, b] (s.startCpyt s.recordWho (Instr.cpyt d a b l).word l s.t.mode ops s.t.wait.recs))

/-- Bytes of the descriptor: none of the inputs when NIN is out of range. -/
def descLen (hdr : List Byte) : Nat :=
  let n := (MergeDesc.of hdr).nin
  16 + (if 1 ≤ n ∧ n ≤ 8 then 16 * n else 0)

/-- The start of MERGE from descriptor pointer and capacity (R274). Of several ranges that fail the region check the spec does
not say which FREC names: the model takes OUTP, then the first of the inputs (log 88, DESIGN CHOICE). -/
def State.startMerge (s : State) (who : Asker) (w l mode : Word) (ops : List DWord) (held : List (List Byte)) : Start :=
  let p := (ops.getD 0 0).toNat
  let cap := (ops.getD 1 0).toNat
  let slot := (s.slotOf s.t.ctx).getD 0
  let bad := (if 2 ^ 32 ≤ cap then [(5, cap)] else []) ++ (if p % 16 ≠ 0 then [(6, p)] else [])
  if !bad.isEmpty then .trap bad
  else match s.recordWait held [(p, 16)] with
  | some w => .wait w s
  | none => match s.recordOr who held 0 p 16 with
    | .fault c q => .park c q [(p, 16)]
    | .ends st => .ends st
    | .wait l => s.askStart who l
    | .ok hdr =>
      let n := descLen hdr
      match s.recordWait held [(p, n)] with
      | some w => .wait w s
      | none => match s.recordOr who held 0 p n with
        | .fault c q => .park c q [(p, n)]
        | .ends st => .ends st
        | .wait l => s.askStart who l
        | .ok bs =>
          let s := if held.isEmpty then s.noteRecords [(p, n)] else s
          let m := MergeDesc.of bs
          let ranges := (m.outp, cap * m.recLen) :: m.inputs.map fun i => (i.1, i.2 * m.recLen)
          if mRND mode == 5 && m.valid && m.op == 0 && (m.vet == 0 || m.vet == 1) then
            .trap [(4, w.toNat * 2 ^ 32 + mode.toNat)]
          else if !m.valid then s.engStart 2 l mode ops [bs] (some 7)
          else match s.regionsFail slot (ranges.filter fun r => r.2 != 0) with
            | some f => f
            | none => s.engStart 2 l mode ops [bs] none

/-- MERGE (R274). -/
def execMerge (d a b : Nat) (l : Word) (s : State) : Out :=
  .next (issue (.merge d a b l) s fun s =>
    let ops := [s.rs a, s.rs b]
    s.begin_ (.merge d a b l) (some d) ops [] [a, b] (s.startMerge s.recordWho (Instr.merge d a b l).word l s.t.mode ops s.t.wait.recs))

/-! ### Event records (R268) -/

/-- Take the oldest record, and return its unit of the quota. -/
def State.takeRecord (s : State) (d : Nat) (r : EvRec) (rest : List EvRec) : State :=
  ({ s with t := { s.t with evq := rest, quota := s.t.quota - 1 } }).ws d r.data

/-- EVWAIT (R268): taking a record is an acquire. -/
def execEvwait (d : Nat) (s : State) : Out :=
  .next (issue (.evwait d) s fun s =>
    match s.t.evq with
    | [] => s.hold .event
    | r :: rest => (s.acquired.takeRecord d r rest).done (.evwait d))

/-- EVPOP (R268): taking a record is an acquire. -/
def execEvpop (d : Nat) (s : State) : Out :=
  .next (issue (.evpop d) s fun s =>
    match s.t.evq with
    | [] => (s.ws d 0xFFFFFFFFFFFFFFFF).done (.evpop d)
    | r :: rest => (s.acquired.takeRecord d r rest).done (.evpop d))

/-! ### What an operation writes -/

/-- A plan: pieces to write (pointer, length, bytes unless they could not be read), what stopped the reading, the
STATUS and the COUNT if it completes. -/
structure Plan where
  writes : List (Nat × Nat × Option (List Byte))
  stop : Got Unit
  status : Nat
  cnt : Nat

/-- Pieces of a range with its bytes. -/
def planPieces (ptr off : Nat) (n : Nat) (bs : Option (List Byte)) : List (Nat × Nat × Option (List Byte)) :=
  match ptrPieces ptr off n with
  | .ok ps =>
    let base := ptr % 2 ^ 56 + off
    ps.map fun p => (p.1, p.2, bs.map fun l => (l.drop (p.1 % 2 ^ 56 - base)).take p.2)
  | _ => []

/-- The first that stopped; what waits behind one that waits waits with it. -/
def firstStop : List (Got Unit) → Got Unit
  | [] => .ok ()
  | .ok _ :: r => firstStop r
  | .wait l :: r => match firstStop r with | .wait k => .wait (l ++ k) | _ => .wait l
  | g :: _ => g

/-- The plan of CPY (R270). -/
def State.planCpy (s : State) (slot : Nat) (o : EngOp) : Plan :=
  let dst := (o.ops.getD 0 0).toNat
  let src := (o.ops.getD 1 0).toNat
  let len := (o.ops.getD 2 0).toNat
  let ps := (planPieces dst 0 len none).map fun p =>
    (p, s.engRead slot o.u o.olds src (p.1 % 2 ^ 56 - dst % 2 ^ 56) p.2.1)
  { writes := ps.map fun p => (p.1.1, p.1.2.1, match p.2 with | .ok b => some b | _ => none)
    stop := firstStop (ps.map fun p => p.2.map fun _ => ()), status := 0, cnt := len }

/-- One row as it is written: pointer, offset, bytes (R272). -/
def State.cpytRow (s : State) (slot : Nat) (o : EngOp) (td ts : Tlr) (r : Nat) : Got (List (Nat × Nat × List Byte)) :=
  let rd := s.engRead slot o.u o.olds
  let conv := td.et != ts.et || td.sf != ts.sf || td.sparse != ts.sparse
  (ts.readRow rd rd r 0 ts.dim0).bind fun es =>
    (ts.readBoundOf rd r).bind fun b =>
      let bnd (w : Word) : List (Nat × Nat × List Byte) :=
        if td.bound = 0 then [] else [(td.bound, 4 * r, leBytes 4 w.toNat)]
      if !conv then
        let n := (es.filter fun e => e.st).length
        (rd ts.base (ts.rowOff r) (ts.dataLen n)).bind fun data =>
          (if ts.sparse then rd ts.bmap (r * ts.mapLen) ts.mapLen else .ok []).bind fun map =>
          (if ts.sf = 0 then Got.ok [] else rd ts.scale (r * ts.scaleLen) ts.scaleLen).map fun scs =>
            [(td.base, td.rowOff r, data)] ++
            (if td.sf = 0 then [] else [(td.scale, r * td.scaleLen, scs)]) ++
            (if td.sparse then [(td.bmap, r * td.mapLen, map)] else []) ++ bnd b
      else
        let rm : Rm := ⟨mRND o.mode, mSAT o.mode, mFTZ o.mode, 0⟩
        let val (e : Elem) : Ex :=
          match etFmt ts.et with
          | some f => if e.st && ts.sf == 0 then f.decZ rm.ftz e.raw else e.val ts.et
          | none => e.val ts.et
        let row := convRow td.et td.sf (es.map fun e => (val e, rm))
        let raws := if (etFmt ts.et).isNone && (etFmt td.et).isNone && ts.et != 17 then
            es.map fun e => etFit td.et rm.sat (if e.st then etInt ts.et e.raw else 0)
          else row.raws
        -- an element of a block whose scale is NaN is no zero (R128, R272)
        let nz (k x : Nat) : Bool := (td.sf == 1 && row.scales.getD (k / 32) 0 == 0xFF) || (match etFmt td.et with
          | some f => x % 2 ^ (f.width - 1) != 0
          | none => x != 0)
        let st := if td.et = 17 then es.map fun e => e.st && !((e.val 17).isZero false)
          else ((List.range raws.length).zip raws).map fun p => nz p.1 p.2
        let kept := if td.sparse then ((List.zip st raws).filter fun p => p.1).map (·.2) else raws
        let nKept := if td.sparse then (st.filter fun x => x).length else td.dim0
        let exact := ts.sf == 0 && td.sf == 0 && etHolds ts.et td.et
        .ok ([(td.base, td.rowOff r,
              if td.et = 17 then (List.range (td.dataLen nKept)).map fun i => s.freeByte (fk 61 (r * 2 ^ 36 + i))
              else packRow td.et kept)] ++
            (if td.sf = 0 then [] else [(td.scale, r * td.scaleLen,
              if td.et = 17 then (List.range td.scaleLen).map fun i => s.freeByte (fk 62 (r * 2 ^ 36 + i))
              else row.scales.map fun x => BitVec.ofNat 8 x)]) ++
            (if td.sparse then [(td.bmap, r * td.mapLen, packMap st)] else []) ++ bnd (boundConv exact b row.cs))

/-- The plan of CPYT (R272). -/
def State.planCpyt (s : State) (slot : Nat) (o : EngOp) : Plan :=
  let td := Tlr.of (o.recs.getD 0 [])
  let ts := Tlr.of (o.recs.getD 1 [])
  let (first, n) := cpytRows ts (o.ops.getD 2 0)
  let rows := (List.range n).map fun k => (first + k, s.cpytRow slot o td ts (first + k))
  let writes := rows.flatMap fun p => match p.2 with
    | .ok l => l.flatMap fun x => planPieces x.1 x.2.1 x.2.2.length (some x.2.2)
    | _ => (td.rowArrays p.1).flatMap fun x => planPieces x.1 x.2.1 x.2.2 none
  { writes := writes, stop := firstStop (rows.map fun p => p.2.map fun _ => ()), status := 0
    cnt := writes.foldl (fun a x => a + x.2.1) 0 }

/-- A key with its value's bits. -/
abbrev KeyVal := Nat × Nat

/-- A record of an input, with the input's number. -/
structure MRec where
  key : Nat
  val : Nat
  inp : Nat

/-- What the reading of one input gives: its records up to the first disorder or failure, the key p before a disorder
(R275), the failure, and the last key read. -/
structure MergeIn where
  recs : List MRec
  disorder : Option Nat
  stop : Got Unit
  last : Nat

/-- Read input i record by record, from record k on; prev is the preceding key. -/
def MergeIn.read (m : MergeDesc) (i : Nat) (rd : Nat → Got (List Byte)) : Nat → Nat → Option Nat → MergeIn
  | 0, _, prev => ⟨[], none, .ok (), prev.getD 0⟩
  | n + 1, k, prev =>
    match rd k with
    | .ok bs =>
      let key := leNat (bs.take m.keyLen)
      let bad : Bool := match prev with | some p => decide (key < p) | none => false
      if bad then ⟨[], prev, .ok (), prev.getD 0⟩
      else
        let r := MergeIn.read m i rd n (k + 1) (some key)
        { r with recs := ⟨key, leNat (bs.drop m.keyLen), i⟩ :: r.recs }
    | g => ⟨[], none, g.map fun _ => (), prev.getD 0⟩

/-- Insert a record of a later input behind every record of the same key (R275). -/
def insertKey (x : MRec) : List MRec → List MRec
  | [] => [x]
  | y :: r => if x.key < y.key then x :: y :: r else y :: insertKey x r

/-- The smaller of several keys. -/
def minKey (l : List Nat) : Option Nat :=
  l.foldl (fun m x => match m with | none => some x | some y => some (min x y)) none

/-- One record formed from records of equal key under add, min or max (R275): none when it is not written. -/
def MergeDesc.fold (m : MergeDesc) (rm : Rm) (k v : Nat) (vs : List Nat) : Option KeyVal :=
  match vs with
  | [] => some (k, v)
  | _ =>
    let r := vs.foldl (redComb m.vet m.op rm) v
    let zero := match etFmt m.vet with | some f => r % 2 ^ (f.width - 1) == 0 | none => r == 0
    if zero && !m.keepZero then none else some (k, r)

/-- An output record, unless it is not written, with the inputs of the records that it is formed from. -/
abbrev Formed := Option KeyVal × List Nat

/-- The output records of records in key order (R275). -/
def MergeDesc.form (m : MergeDesc) (rm : Rm) : Nat → List MRec → List Formed
  | 0, _ => []
  | _, [] => []
  | n + 1, x :: r =>
    if m.op = 4 then (some (x.key, x.val), [x.inp]) :: m.form rm n r
    else
      let same := r.takeWhile fun y => y.key == x.key
      let rest := r.dropWhile fun y => y.key == x.key
      (if m.op = 3 then some (x.key, x.val) else m.fold rm x.key x.val (same.map (·.val)), x.inp :: same.map (·.inp)) ::
        m.form rm n rest

/-- What the inputs of a merge give from its cursors on (R275, R419). -/
def State.mergeIns (s : State) (slot : Nat) (o : EngOp) (m : MergeDesc) : List MergeIn :=
  ((List.range 8).zip m.inputs).map fun p =>
    let rd (k : Nat) : Got (List Byte) := s.engRead slot o.u o.olds p.2.1 (k * m.recLen) m.recLen
    let from_ := o.inN.getD p.1 0
    let prev : Option Nat := if from_ = 0 then none
      else match rd (from_ - 1) with | .ok bs => some (leNat (bs.take m.keyLen)) | _ => none
    MergeIn.read m p.1 rd (p.2.2 - from_) from_ prev

/-- Keys below the first are before every disorder, keys below the second are known from every input (R275). -/
def mergeBounds (ins : List MergeIn) : Option Nat × Option Nat :=
  (minKey (ins.filterMap (·.disorder)),
   minKey (ins.filterMap fun i => match i.stop with | .ok _ => none | _ => some i.last))

/-- What can be formed of the inputs (R275). -/
def mergeFormed (o : EngOp) (m : MergeDesc) (ins : List MergeIn) : List Formed :=
  let (p, lim) := mergeBounds ins
  let below (b : Option Nat) (r : MRec) : Bool := match b with | some b => Decidable.decide (r.key < b) | none => true
  let all := (ins.flatMap fun i => i.recs.filter fun r => below p r && below lim r).foldl (fun acc x => insertKey x acc) []
  m.form ⟨mRND o.mode, mSAT o.mode, false, 0⟩ (all.length + 1) all

/-- The bytes of output records. -/
def MergeDesc.bytes (m : MergeDesc) (l : List KeyVal) : List Byte :=
  l.flatMap fun r => leBytes m.keyLen r.1 ++ leBytes m.valLen r.2

/-- The plan of MERGE (R275): what it has still to write. -/
def State.planMerge (s : State) (slot : Nat) (o : EngOp) : Plan :=
  let m := MergeDesc.of (o.recs.getD 0 [])
  let room := (o.ops.getD 1 0).toNat - o.outN
  let ins := s.mergeIns slot o m
  let (p, lim) := mergeBounds ins
  let formed := (mergeFormed o m ins).filterMap (·.1)
  let out := formed.take room
  let off := o.outN * m.recLen
  let bytes := m.bytes out
  let full := Decidable.decide (room < formed.length)
  let known := full || (match p, lim with
    | some a, some b => Decidable.decide (a ≤ b)
    | some _, none => true
    | none, some _ => false
    | none, none => true)
  { writes := planPieces m.outp off bytes.length (some bytes) ++
      (if known then [] else planPieces m.outp (off + bytes.length) 1 none)
    stop := if known then .ok () else firstStop (ins.map (·.stop))
    status := if full then 5 else if p.isSome then 4 else 0
    cnt := o.outN + out.length }

def State.plan (s : State) (slot : Nat) (o : EngOp) : Plan :=
  match o.kind with
  | 0 => s.planCpy slot o
  | 1 => s.planCpyt slot o
  | _ => s.planMerge slot o

/-! ### Execution and completion (R97 to R100, R267 to R269) -/

/-- Update an operation. -/
def State.modOp (s : State) (u : Nat) (f : EngOp → EngOp) : State :=
  { s with eops := updFirst (fun o => o.u == u) f s.eops }

/-- Physical pieces of the plan: every piece that translates and whose bytes are known. -/
def State.planPa (s : State) (slot : Nat) (w : List (Nat × Nat × Option (List Byte))) : Got (List (Nat × List Byte)) :=
  gotAll (fun (p : Nat × Nat × Option (List Byte)) =>
    (s.engXl slot p.1 p.2.1 true).map fun pa => (pa, p.2.2.getD [])) w

/-- Write pieces: local ones as writes of R66 unless their line's grant was one, with what other operations still see of their
lines kept (R97, R98); window ones as messages (R446). -/
def State.engWrite (s : State) (o : EngOp) (l : List (Nat × List Byte)) : State :=
  let locs := l.filter fun p => isLocal p.1
  let lines := (locs.map fun p => lineOf p.1).dedup
  let olds := lines.map fun n => (n, s.bytes (128 * n) 128)
  let add (l : List (Nat × List Byte)) : List (Nat × List Byte) := l ++ olds.filter fun p => !l.any fun q => q.1 == p.1
  let keep (e : EngOp) : EngOp :=
    if e.u < o.u then { e with olds := add e.olds } else if e.u == o.u then { e with pre := add e.pre } else e
  let s1 := { s with eops := s.eops.map keep }
  let s2 := s1.noteWrites (.engine (towerOf o.core)) (lines.filter fun n => !o.lines.contains n)
  let s3 := locs.foldl (fun s p => s.putBytes p.1 p.2) s2
  let s4 := s3.clearPoisonBytes (locs.flatMap fun p => (List.range p.2.length).map fun i => p.1 + i)
  let s5 : State := if eRCNT o.lit = 0 || o.kind ≥ 2 || !s.feature 5 then s4
    else { s4 with caches := olds.foldl (fun c p => c.addCounted s ⟨p.1, eRCNT o.lit, p.2⟩) s4.caches }
  (l.filter fun p => !isLocal p.1).foldl (fun s p => s.winWrite o.u p.1 p.2) s5

/-- The lines of a plan that an operation which ends early may have finished, each freely; a line that a stopped merge
has begun and not finished gets its prior contents back (R100, R267). The subset is open also for pieces in the system
window: the model finishes none of them (log 7, DESIGN CHOICE). -/
def State.engPartial (s : State) (slot : Nat) (o : EngOp) : State :=
  let ws := (s.plan slot o).writes.map fun p => (p.2.2, s.engXl slot p.1 p.2.1 true)
  let known := ws.filterMap fun p => match p.1, p.2 with
    | some b, .ok pa => some (pa, b)
    | _, _ => none
  let open_ := ws.filterMap fun p => match p.1, p.2 with
    | none, .ok pa => some (lineOf pa)
    | _, _ => none
  let fin (line : Nat) : Bool := o.lines.contains line && !open_.contains line && s.freeBool (fk 60 line)
  let begun := o.pre.filter fun p => (open_.contains p.1 || known.any fun q => lineOf q.1 == p.1) && !fin p.1
  let s1 := s.engWrite o (known.filter fun p => isLocal p.1 && fin (lineOf p.1))
  begun.foldl (fun s p => s.putBytes (128 * p.1) p.2) s1

/-- An event record (R267). -/
def EngOp.record (o : EngOp) (status cnt : Nat) : DWord :=
  BitVec.ofNat 64 (eTAG o.lit * 2 ^ 52 + status * 2 ^ 48 + o.kind * 2 ^ 46 + o.seq * 2 ^ 32 +
    (if [1, 2, 3, 6, 7].contains status then 0 else min cnt 0xFFFFFFFF))

/-- The barrier arrival that an operation makes at its completion; it stands after its team and block have gone, and
reaches the saved barrier of an evicted block (R263, R269, R413). -/
def State.engArrive (s : State) (o : EngOp) : State :=
  let n := eBNUM o.lit
  let mine (b : Block) : Bool := b.gid == o.gid && (match s.grid? o.gid with
    | some g => clusterOf g.lrec b.rank == o.cluster
    | none => false)
  let s1 : State := match eBCLS o.lit, s.blocks.find? mine with
    | 1, some b =>
      if b.life == .evicted then
        let upd (g : QGrant) : QGrant := { g with bars := g.bars.modify n Barrier.count }
        { s with saved := s.saved.map fun u => { u with quads := u.quads.map fun q => { q with
            qgrants := updFirst (fun g => g.gid == o.gid && g.cluster == o.cluster) upd q.qgrants } } }
      else s.modBar o.gid b.bid b.core o.cluster 1 n Barrier.count
    | 1, none => s
    | c, _ => s.modBar o.gid o.bid o.core o.cluster c n Barrier.count
  (s1.blocks.filter fun b => b.gid == o.gid && b.life == .evicted).foldl (fun s b => s.resave b.bid) s1

/-- The operation ends: record, arrival, quota, seals, ownership (R97, R267 to R269, R413). -/
def State.engFinish (s : State) (o : EngOp) (status cnt : Nat) : State :=
  let s1 := { (s.refSeals o.seals false) with eops := s.eops.filter fun e => e.u != o.u }
  match s1.team? o.tid with
  | none => if eARR o.lit then s1.engArrive o else s1
  | some t =>
    let saved := t.life == .evicted
    let act := if saved && eARR o.lit && !eNOREC o.lit then some (eBCLS o.lit, eBNUM o.lit) else none
    let s2 := s1.modTeam o.tid fun t =>
      if t.life == .exited then t
      else if eNOREC o.lit then { t with quota := t.quota - 1 }
      else { t with evq := t.evq ++ [⟨o.record status cnt, act⟩] }
    let s3 := if eARR o.lit && act.isNone then s2.engArrive o else s2
    if saved then s3.resave t.bid else s3

/-- What an operation reads: its data and side arrays, and apart from them its bitmaps (R271, R273). -/
def State.srcRuns (s : State) (slot : Nat) (o : EngOp) : List (Nat × Nat) × List (Nat × Nat) :=
  match o.kind with
  | 1 =>
    let ts := Tlr.of (o.recs.getD 1 [])
    let (first, n) := cpytRows ts (o.ops.getD 2 0)
    let rows := (List.range n).map fun k => first + k
    (rows.flatMap fun r => ts.dataRuns (s.engRead slot o.u o.olds) true r 0 ts.dim0, rows.flatMap fun r => ts.mapRuns r ts.dim0)
  | _ => ((srcsOf o.kind o.ops o.recs).1.map fun p => (ptrAt p.1 p.2.1, p.2.2), [])

/-- What reading its sources does besides giving their bytes: page walks, and one read of each line by the engine, of a line
that holds nothing but bitmap bytes of it through the metadata cache (R71, R273, R401, R444). -/
def State.noteSrc (s : State) (slot : Nat) (o : EngOp) : State :=
  let tower := towerOf o.core
  let src := s.srcRuns slot o
  let ps (l : List (Nat × Nat)) : List (Nat × Nat) := l.flatMap fun r => pieces (r.2 / 32 + 2) r.1 r.2
  let lines (l : List (Nat × Nat)) : List Nat := ((ps l).filterMap fun p =>
    match s.engXl slot p.1 p.2 false with | .ok pa => if isLocal pa then some (lineOf pa) else none | _ => none).dedup
  let data := lines src.1
  let s1 := s.noteXls tower slot ((ps src.1 ++ ps src.2).map (·.1))
  let s2 := data.foldl (fun s n => s.noteRead (.engine tower) 0 n) s1
  ((lines src.2).filter fun n => !data.contains n).foldl (fun s n =>
    if o.lines.contains n then s.noteRead (.engine tower) 0 n else s.metaRead tower o.ctx n) s2

/-- Of an operation's pending grants, the lines that can be granted now, since they translate and no other operation comes
before, and the pieces that stay pending (R97). -/
def State.dueWants (s : State) (slot : Nat) (o : EngOp) : List Nat × List (Nat × Nat) :=
  let due (w : Nat × Nat) : Option (List Nat) := match s.xlate slot w.1 w.2 false true with
    | .ok pa =>
      let ls := if isLocal pa then linesOf pa w.2 else []
      if ls.any (s.ownedBut o.u) then none else some ls
    | _ => none
  ((o.wants.flatMap fun w => (due w).getD []).dedup.filter fun n => !o.lines.contains n,
   o.wants.filter fun w => (due w).isNone)

/-- The line is not sealed. -/
def State.unsealed (s : State) (line : Nat) : Bool := (s.sealAt (128 * line)).isNone

/-- Grants of destination lines that could not be translated at issue: a sealed one ends the operation (R97, R267), unless
it may never be written. -/
def State.engGrow (s : State) (slot : Nat) (o : EngOp) : State :=
  if o.kind == 3 || o.sent || o.status.isSome || o.stopped || o.wants.isEmpty then s
  else
    let d := destsOf o.kind o.ops o.recs
    let now := s.spanLines slot d.now true
    let (lines, wants) := s.dueWants slot o
    let late := lines.filter fun n => !now.contains n && s.unsealed n
    let (s1, ok) := s.grant (towerOf o.core) (lines.filter now.contains ++ late)
    s1.modOp o.u fun o =>
      if ok then { o with lines := o.lines ++ lines.filter now.contains ++ late, wants := wants
                          vpages := (o.vpages ++ s.spanPages slot (d.now ++ d.late)).dedup }
      else { o with lines := [], wants := [], status := some 1 }

/-- Execute an operation whole, if nothing stops it (R97 to R99): the state after, or what stopped it. -/
def State.engRun (s : State) (slot : Nat) (o : EngOp) : Got State :=
  let p := s.plan slot o
  p.stop.bind fun _ =>
    (s.planPa slot p.writes).bind fun l =>
      let late := ((l.filter fun x => isLocal x.1 && !o.lines.contains (lineOf x.1)).map fun x => lineOf x.1).dedup
      let sealed := (l.map fun x => x.1).find? fun pa => (s.sealAt pa).isSome
      if late.any (s.ownedBut o.u) then .wait []
      else match sealed with
        | some pa => .ok ((s.noteSealed pa).modOp o.u fun o => { o with sent := true, status := some 1 })
        | none =>
          let s1 := (s.noteSrc slot o).noteXls (towerOf o.core) slot (p.writes.map (·.1))
          -- its local lines have their final bytes (R98)
          .ok ((s1.engWrite o l).modOp o.u fun o =>
            { o with sent := true, status := some p.status, cnt := p.cnt, fin := o.lines })

/-- A merge of an evicted team stops at a record boundary: of the output records that it can form, it has written some
number, which is free, and none while a fault of it is open or when its output and inputs meet (R99, R413, R419,
log 11). It holds its lines (R100) and frees its channel. -/
def State.stopMerge (s : State) (o : EngOp) : State :=
  if o.kind != 2 || o.sent || o.status.isSome then s
  else
    let slot := (s.slotOf o.ctx).getD 0
    let m := MergeDesc.of (o.recs.getD 0 [])
    let src := (srcsOf 2 o.ops o.recs).1
    let apart := src.all fun p => match ptrPieces p.1 p.2.1 p.2.2 with
      | .ok ps => ps.all fun q => match s.engXl slot q.1 q.2 false with
        | .ok pa => isLocal pa && !o.lines.contains (lineOf pa)
        | _ => false
      | _ => false
    let formed := mergeFormed o m (s.mergeIns slot o m)
    let gs := formed.take (if o.fseq = 0 && apart then s.freeNat (fk 63 o.u) % (formed.length + 1) else 0)
    let out := gs.filterMap (·.1)
    let bytes := m.bytes out
    let fits := o.outN + out.length ≤ (o.ops.getD 1 0).toNat
    let stopped (s : State) (k : Nat) (used : List Nat) : State := s.modOp o.u fun o => { o with
      stopped := true, outN := o.outN + k
      inN := (List.range m.inputs.length).map fun i => o.inN.getD i 0 + used.count i }
    match s.planPa slot (planPieces m.outp (o.outN * m.recLen) bytes.length (some bytes)) with
    | .ok l =>
      if fits && l.all fun x => !isLocal x.1 || o.lines.contains (lineOf x.1) then
        stopped (s.engWrite o l) out.length (gs.flatMap (·.2))
      else stopped s 0 []
    | _ => stopped s 0 []

/-- A stopped merge goes on from its cursors, on the engine of its team's tower, once a channel is free (R413, R421). -/
def State.resumeMerge (s : State) (o : EngOp) : State :=
  match s.team? o.tid with
  | none => s
  | some t =>
    if t.life != Life.live || 4 ≤ (s.channels (towerOf t.core) true).length then s
    else s.modOp o.u fun o => { o with
      stopped := false, core := t.core, place := t.place, chan := s.freeChan (towerOf t.core) true }

/-- An operation of the engines, with the grants that it can have had by now. -/
def State.engReadyOp (s : State) (u : Nat) : Option (State × Nat × EngOp) :=
  match s.eops.find? fun o => o.u == u with
  | none => none
  | some o =>
    let slot := (s.slotOf o.ctx).getD 0
    if o.kind == 3 || o.fseq ≠ 0 || s.ctxEnding o.ctx then none
    else
      let s1 := s.engGrow slot o
      (s1.eops.find? fun o => o.u == u).map fun o => (s1, slot, o)

/-- ENGINE_OPERATION_COMPLETE (R97): the operation executes when it can, and completes when its window writes are
acknowledged. -/
def execEngineOperationComplete (u : Nat) (s : State) : Out :=
  .next (match s.engReadyOp u with
  | none => s
  | some (s, slot, o) =>
    if o.stopped then s.resumeMerge o
    else
      let s1 : Got State := if o.sent then .ok s
        else match o.status with
          | some _ => .ok (s.modOp u fun o => { o with sent := true })
          | none => s.engRun slot o
      match s1 with
      | .ok s1 =>
        if s1.writesDone u then
          match s1.eops.find? fun o => o.u == u with
          | some o => s1.engFinish o (o.status.getD 0) o.cnt
          | none => s1
        else s1
      | .stat n => (s.engPartial slot o).engFinish o n 0
      | .ends st => s.endCtx o.ctx st
      | .wait l => s.askFor (.op u) l
      | .fault .. => s)

/-- The fault that stops an operation now, if one does. -/
def State.engFault (s : State) (slot : Nat) (o : EngOp) : Option (Nat × Nat × Bool) :=
  if o.kind == 3 || o.sent || o.status.isSome then none
  else match s.engRun slot o with
    | .fault c p w => some (c, p, w)
    | _ => none

/-- ENGINE_OPERATION_STOPPED (R403): a fault during execution stops the operation, which keeps its lines (R100). The
message names its channel, and its team's place and core at issue or resume. -/
def execEngineOperationStopped (u : Nat) (s : State) : Out :=
  .next (match s.engReadyOp u with
  | none => s
  | some (s, slot, o) =>
    if o.stopped then s
    else match s.engFault slot o with
      | none => s
      | some (c, p, w) =>
        let pages := [pageEntry p c (!w) w]
        let (s1, fs) := (s.noteXls (towerOf o.core) slot [p]).sendFault slot (if o.kind == 2 then 3 else 2) o.core o.place o.chan u 0 pages
        s1.modOp u fun o => { o with fseq := fs, pages := pages.map (BitVec.ofNat 64) })

/-- A reply declines the fault of an operation (R100, R267, R405). -/
def State.engDecline (s : State) (o : EngOp) (cause : Nat) : State :=
  let slot := (s.slotOf o.ctx).getD 0
  (s.engPartial slot o).engFinish { o with fseq := 0 } (if cause = 8 then 3 else 2) 0

end Sys2Proof.Machine
end

