-- ==== Sys2Proof/Machine/Lists.lean ====
section
/-! DEFINITION. Work lists: CMPCT, WLTAKE and the quiet grid (R44, R45, R276, R277). -/

namespace Sys2Proof.Machine

/-- List n of the selected team's grid exists with a capacity (R276, R383). -/
def State.listOk (s : State) (n : Nat) : Bool := n < 64 && n < s.myRec.wlcnt && s.myRec.wlcap != 0

/-- Items of list n of the selected team's grid. -/
def State.listOf (s : State) (n : Nat) : List DWord := s.myGrid.lists.getD n []

def State.setList (s : State) (n : Nat) (l : List DWord) : State :=
  s.modGrid s.t.gid fun g => { g with
    lists := (List.range (max (n + 1) g.lists.length)).map fun k => if k = n then l else g.lists.getD k [] }

/-- CMPCT (R276): items in ascending lane order; it goes on from where a full list stopped it (R44, R208). -/
def execCmpct (a b : Nat) (s : State) : Out :=
  .next (issue (.cmpct a b) s fun s =>
    let n := (s.rs b).toNat
    if s.t.passes.isEmpty then (s.attach .ready [] [] []).done (.cmpct a b)
    else if !s.listOk n then s.raise 5 (s.rs b)
    else
      let doneN := match s.t.wait with | .cmpct k _ => k | _ => 0
      let items := (s.actLanes.drop doneN).map fun l => (s.rv (a + 1) l) ++ (s.rv a l)
      let room := s.myRec.wlcap - (s.listOf n).length
      let s1 := s.setList n (s.listOf n ++ items.take room)
      if items.length ≤ room then (s1.attach .ready [] [] []).done (.cmpct a b)
      else s1.hold (.cmpct (doneN + min room items.length) (.cmpct a b)))

/-- Write an item's two words, lane by lane (R277). -/
def State.writeItems (s : State) (d : Nat) (l : List (Nat × DWord)) : State :=
  (s.wv d (l.map fun p => (p.1, p.2.setWidth 32))).wv (d + 1) (l.map fun p => (p.1, (p.2.ushiftRight 32).setWidth 32))

/-- WLTAKE (R277): items in an unspecified order; taking one is an acquire (R44). -/
def execWltake (d a : Nat) (s : State) : Out :=
  .next (issue (.wltake d a) s fun s =>
    let n := (s.rs a).toNat
    if s.t.passes.isEmpty then s.done (.wltake d a)
    else if !s.listOk n then s.raise 5 (s.rs a)
    else
      let lanes := s.actLanes
      let items := s.shuffle 45 (s.listOf n).length (s.listOf n)
      let k := min lanes.length items.length
      if k ≠ 0 then
        let got := List.zip lanes (items.take k ++ List.replicate (lanes.length - k) 0xFFFFFFFF00000000)
        ((s.acquired.setList n (items.drop k)).writeItems d got).done (.wltake d a)
      else if s.myGrid.quiet then
        (s.writeItems d (lanes.map fun l => (l, 0xFFFFFFFF00000001))).done (.wltake d a)
      else s.hold .wltake)

/-- A team is idle (R45). -/
def Team.idle (t : Team) : Bool := t.wait == .wltake || t.life == .exited

/-- The grid is quiet in this fabric cycle (R45): teams of evicted blocks count, since they could append again. -/
def State.quietNow (s : State) (g : Grid) : Bool :=
  (g.lists.all fun l => l.isEmpty) && g.next == g.lrec.nBlocks &&
  s.teams.all fun t => t.gid != g.gid || t.idle

/-- WORK_LIST_QUIET (R45). -/
def execWorkListQuiet (gid : Nat) (s : State) : Out :=
  .next (match s.grid? gid with
  | none => s
  | some g =>
    if g.st == GridSt.running && s.quietNow g && !g.quiet then
      s.modGrid gid fun g => { g with quiet := true }
    else s)

end Sys2Proof.Machine
end

