-- ==== Sys2Proof/Machine/Matrix.lean ====
section
/-! DEFINITION. The matrix engine: reservations, crews, rendezvous latches, passes, propagation, thresholds and
completion (R136 to R159, R280 to R295). -/

namespace Sys2Proof.Machine

/-! ### Crews (R283) -/

/-- MCREW accepts its literal (R284). -/
def State.crewOk (s : State) (c : Word) : Bool :=
  let n := c.toNat
  let cnt := bits n 27 25
  let es := crewEntries c
  let size := max 1 s.myRec.cluster
  let b := crewB c
  bits n 31 30 == 0 && bits n 29 28 != 3 && 2 ≤ cnt && cnt ≤ 6 &&
  ((List.range 6).all fun i => i < cnt || bits n (4 * i + 3) (4 * i) == 0) &&
  b + (crewSink c).toNat + 1 ≤ cnt && es.dedup.length == es.length &&
  ((es.take b).map (·.1)).dedup.length == b &&
  (es.all fun e => e.1 < size && e.2 < s.myRec.teams) && (s.entryIn c).isSome

/-- A latch holds an arrival of the team and has not fired. -/
def State.latched (s : State) (tid : Nat) : Bool :=
  s.quads.any fun q => q.mops.any fun m => !m.fired && m.arrived.any fun a => a.tid == tid

/-- MCREW (R284). The spec does not say whether its Illegal-Instruction comes before or after the wait for the team's unfired
latch: the model raises it first (log 77, DESIGN CHOICE). -/
def execMcrew (l : Word) (s : State) : Out :=
  .next (issue (.mcrew l) s fun s =>
    if !s.crewOk l then s.illegal (Instr.mcrew l).word
    else if s.latched s.t.tid then s.hold .latch
    else ({ s with t := { s.t with crew := l } }).done (.mcrew l))

/-! ### Reservation (R280, R281) -/

/-- Write p_d in every present lane, whatever the mask (R280). -/
def State.setPred (s : State) (d : Nat) (b : Bool) : State := s.wp d s.t.present (if b then s.t.present else 0)

/-- MRSV (R280). -/
def execMrsv (d a : Nat) (s : State) : Out :=
  .next (issue (.mrsv d a) s fun s =>
    let x := (s.rs a).toNat
    let q := quadOf s.t.core
    let quad := s.myQuad
    if s.t.crew = 0 || (s.entryIn s.t.crew).isNone || 4 ≤ x then s.illegal (Instr.mrsv d a).word
    else if !s.engineOn q then (s.setPred d false).done (.mrsv d a)
    else if quad.resv.any fun r => r.key == s.myKey then (s.setPred d true).done (.mrsv d a)
    else if quad.rqueue.any fun r => r.key == s.myKey then (s.setPred d false).done (.mrsv d a)
    else
      let now := s.pkg.clk.toNat
      let r : Resv := { key := s.myKey, cls := min x s.myRec.prio, at_ := now, marked := false, since := now }
      let free := quad.resv.length < 8
      ((s.modQuad q fun k => if free then { k with resv := k.resv ++ [r] } else { k with rqueue := k.rqueue ++ [r] }).setPred
        d free).done (.mrsv d a))

/-- Free the marked entries whose crews have no fired operation left (R281). -/
def Quad.freeMarked (q : Quad) : Quad :=
  q.releaseResv fun k => (q.resv.any fun r => r.key == k && r.marked) && !q.mops.any fun m => m.fired && m.key == k

/-- MREL (R281). -/
def execMrel (s : State) : Out :=
  .next (issue .mrel s fun s =>
    let k := s.myKey
    let f (r : Resv) : Resv := if r.key == k then { r with marked := true } else r
    let g (q : Quad) : Quad := { q with rqueue := q.rqueue.filter (fun (r : Resv) => r.key != k), resv := q.resv.map f }
    (s.modQuad (quadOf s.t.core) fun q => (g q).freeMarked).done .mrel)

/-- MATRIX_RESERVATION_ADMIT (R280): queued requests are admitted while entries are free. -/
def execMatrixReservationAdmit (q : Nat) (s : State) : Out :=
  .next (if s.quads.any fun x => x.q == q then s.modQuad q (admitResv 8) else s)

/-! ### Fields of an operation (R136, R286, R289, R290, R294) -/

/-- Combinations of R290. -/
def matModeOk (profH : Bool) (op : Nat) (m : Word) : Bool :=
  let et := mET m
  let sf := mSF m
  let acc := mACC m
  let acc0 := acc == 0 || (acc == 1 && profH)
  if op = 0xF2 then et == 1 && sf == 0 && acc == 1
  else match et with
    | 4 => sf ≤ 1 && acc0
    | 5 => sf ≤ 1 && acc0
    | 6 => sf ≤ 1 && acc == 0
    | 7 => sf ≤ 1 && acc == 0
    | 8 => sf ≤ 1 && acc == 0
    | 17 => sf == 2 && acc == 0 && op != 0xF0
    | 0 => sf == 0 && acc0
    | 2 => sf == 0 && acc0
    | 3 => sf == 0 && acc0
    | 9 => sf == 0 && acc == 2
    | 10 => sf == 0 && acc == 2
    | 16 => sf == 0 && acc == 2
    | _ => false

/-- The profile check of a matrix MODE: type, scale format, accumulate type, and FP64 operands (R12, R137, R290). -/
def matProfile (profH : Bool) (m : Word) : Option Nat :=
  if !etOn profH (mET m) then some (etCapBit (mET m))
  else if profH && mSF m == 2 then some 7
  else if !profH && (mACC m == 1 || mET m == 1) then some 8
  else none

def MOp.bthr (m : MOp) : Word := match m.md with | some x => x.2.1 | none => 0
def MOp.tiles (m : MOp) : List Nat := matTiles m.op m.d m.lit (mACC m.mode)

/-- The team takes part in the operation. -/
def MOp.has (m : MOp) (tid : Nat) : Bool := m.arrived.any fun a => a.tid == tid

/-- Tiles of a parked MLD or MDRM (R296, R299). -/
def LogEntry.tiles (e : LogEntry) : List Nat :=
  let two (n : Nat) : List Nat := if mACC e.mode = 1 then [n, n + 1] else [n]
  match e.kind, e.instr with
  | .lanes .., _ => []
  | _, .mld d _ => two d
  | _, .mdrm _ a _ => two a
  | _, _ => []

/-- A load or drain of the grid on the quad, issued before handle u, names one of the tiles and is incomplete past its turn
at the port: it is parked, or its window writes are not all performed (R97, R296, R299, R445). -/
def State.tileParked (s : State) (gid q u : Nat) (tiles : List Nat) : Bool :=
  s.teams.any fun t => t.gid == gid && quadOf t.core == q &&
    ((t.log.any fun e => e.h < u && e.tiles.any tiles.contains) ||
     t.infl.any fun f => f.u < u && f.on == .window && f.tiles.any tiles.contains && !s.writesDone f.u)

/-- Of the causes of R181 only the first that applies is raised: Illegal-Instruction, Unsupported-Profile, then
Illegal-Mode; the others stand beside each other. -/
def firstCauses (l : List (Nat × Nat)) : List (Nat × Nat) :=
  let of (c : Nat) : List (Nat × Nat) := l.filter fun x => x.1 == c
  match [2, 3, 4].find? fun c => !(of c).isEmpty with | some c => (of c).take 1 | none => l

/-! ### Arrival (R285, R287) -/

/-- The A rows of an issuer: first row and count, of A-issuer j (R285). -/
def aRows (m na first j : Nat) : Nat × Nat :=
  let c := (m + na - 1) / na
  (first, min c (m - j * c))

/-- The profile check of a member: MMD on N, and the types of its own MODE, which R327 checks for every member (R12,
R289, R290, log 77). -/
def State.matProf (s : State) (w : Word) (op : Nat) : List (Nat × Nat) :=
  (match (if op = 0xF2 && !s.pkg.profH then some 8 else matProfile s.pkg.profH s.t.mode) with
   | some b => [(3, w.toNat * 2 ^ 32 + b)]
   | none => [])

/-- A B-holder's share does not fit below V under a MODE (R285, R286). -/
def shareOver (mode crew l : Word) (op lanes vregs vb e : Nat) : Bool :=
  (shareSpan mode crew l op lanes vb e).any fun n => vregs ≤ n

/-- The tiles that an operation names under an accumulate type are not a pair, or not all granted (R279, R294). -/
def State.tilesBad (s : State) (op d : Nat) (l : Word) (acc : Nat) : Bool :=
  (acc = 1 && d % 2 == 1) || (matTiles op d l acc).any fun n => s.myTiles.length ≤ n

/-- Causes found before any record is read (R285, R287, R289, R290, R294). e is the team's entry. -/
def State.matEarly (s : State) (w : Word) (op d : Nat) (l : Word) (sa sb e : Nat) : List (Nat × Nat) :=
  let t := s.t
  let c := t.crew
  let ill := [(2, w.toNat)]
  let isSink := crewSink c && e + 1 == bits c.toNat 27 25
  let isA := crewB c ≤ e && !isSink
  let combos : List (Nat × Nat) :=
    if e ≠ 0 || matModeOk s.pkg.profH op t.mode then [] else [(4, w.toNat * 2 ^ 32 + t.mode.toNat)]
  -- the last tile of MMG is the A-issuer's to check, and entry 0's once it makes the operation a pair
  let issuerIn := match s.myLatch with | some m => m.arrived.any fun a => !a.groups.isEmpty | none => false
  let acc := match s.matMode with | some m => mACC m | none => 0
  let tiles : List (Nat × Nat) :=
    if op = 0xF1 && !(isA || (e == 0 && issuerIn)) then (if acc = 1 && d % 2 == 1 then ill else [])
    else if s.tilesBad op d l acc then ill else []
  let latch : List (Nat × Nat) := match s.myLatch with
    | some m => if m.op != op || m.d != d || m.lit != l || m.key.crew != c then ill else []
    | none => []
  let role : List (Nat × Nat) :=
    if e < crewB c then
      let beyond : Bool := match s.matMode with
        | some k => shareOver k c l op t.lanes t.vregs sb e
        | none => Decidable.decide (t.vregs ≤ sb)
      (if t.lanes % 32 != 0 || sb % 8 != 0 || beyond then [(2, sa)] else []) ++
      (if sa ≠ 0 ∧ sa % 64 ≠ 0 then [(6, sa)] else [])
    else if isSink then []
    else
      -- a first A row of 2^32 or more, and a misaligned group table (log 77)
      (if sa % 64 ≠ 0 then [(6, sa)] else []) ++ (if op = 0xF1 ∧ sb % 8 ≠ 0 then [(6, sb)] else []) ++
      (if (!mmASP l && !(s.quadD (quadOf t.core)).fused) || (op != 0xF1 && 2 ^ 32 ≤ sb) then [(5, sa)] else [])
  firstCauses (tiles ++ latch ++ role ++ combos)

/-- What entry 0's arrival finds wrong with those that have arrived: a TLR of another type, a share that does not fit
under its MODE (R285, R287, log 77). -/
def State.matOthers (s : State) (w : Word) (op : Nat) (l : Word) : List (Nat × Nat) :=
  match s.myLatch with
  | none => []
  | some m => m.arrived.flatMap fun a =>
    (if !a.tlr.isEmpty && ((Tlr.of a.tlr).et != mET s.t.mode || (Tlr.of a.tlr).sf != mSF s.t.mode) then
      [(4, w.toNat * 2 ^ 32 + s.t.mode.toNat)] else []) ++
    (match s.team? a.tid with
     | some t => if a.entry < crewB s.t.crew && shareOver s.t.mode s.t.crew l op t.lanes t.vregs a.sb.toNat a.entry then
         [(2, w.toNat)] else []
     | none => [])

/-- Causes of the TLR read and of the group table (R271, R285, R287, R294); an A TLR without SPARSE under MMS counts as a
record of the wrong form (R293, log 77). -/
def State.matLate (s : State) (w : Word) (op : Nat) (l : Word) (sa sb e : Nat) (tlr : List Byte)
    (groups : List DWord) : List (Nat × Nat) :=
  let c := s.t.crew
  let isB := e < crewB c
  let t := Tlr.of tlr
  let own : List (Nat × Nat) :=
    if tlr.isEmpty then []
    else if !t.valid || (match s.matMode with | some m => t.et != mET m || t.sf != mSF m | none => false) ||
        (isB && t.sparse && op != 0xF0) || (!isB && op == 0xF0 && !t.sparse) then [(4, sa)]
    else
      let j := e - crewB c
      let ranges : List (Nat × Nat) := if isB then []
        else if op = 0xF1 then groups.map fun g => (bits g.toNat 31 0, bits g.toNat 39 32)
        else [aRows (mmM l) (crewA c) sb j]
      let rowsOut := ranges.any fun r => r.2 != 0 && t.rows < r.1 + r.2
      let spad := !isB && mmASP l && ranges.any fun r => (List.range r.2).any fun i =>
        (match s.myBlock? with | some b => b.scratchSize | none => 0) <
          t.base % 2 ^ 32 + t.rowOff (r.1 + i) + (if t.sparse then 1 else t.dataLen (mmK l))
      if rowsOut || spad || (if isB then t.rows < mmK l else t.dim0 < mmK l) then [(5, sa)] else []
  let table := if groups.any fun g => g.toNat / 2 ^ 40 != 0 || 128 < bits g.toNat 39 32 then [(2, w.toNat)] else []
  let others := if e = 0 then s.matOthers w op l else []
  let fire := match s.myLatch with
    | some m => if op = 0xF1 && crewA c != 1 && m.arrived.length + 1 == bits c.toNat 27 25 then [(2, w.toNat)] else []
    | none => []
  firstCauses (own ++ table ++ others ++ fire)

/-- Once entry 0's MODE is known, so are the tiles that those who have arrived name, and the registers of their shares that
their outstanding instructions read (R171, R279, R288). -/
def State.fixShares (s : State) (m : MOp) (mode : Word) : State :=
  let fix (a : Arrival) (t : Team) (f : Infl) : Infl :=
    if f.on == .matrix m.u then { f with
      tiles := matTiles m.op m.d m.lit (mACC mode)
      srcV := if crewB m.key.crew ≤ a.entry then f.srcV
        else shareSpan mode m.key.crew m.lit m.op t.lanes a.sb.toNat a.entry } else f
  m.arrived.foldl (fun s a => s.modTeam a.tid fun t => { t with infl := t.infl.map (fix a t) }) s

/-- The arrival itself (R287): what the team has stored is ordered before the operation's reads (R101); rd is what the
instruction has read of its records (R71). -/
def State.arriveAt (s : State) (op d : Nat) (l : Word) (ops : List DWord) (e : Nat) (tlr : List Byte)
    (groups : List DWord) (rd : Reads) : Start :=
  let t := s.t
  let q := quadOf t.core
  let sb := (ops.getD 1 0).toNat
  let a : Arrival :=
    { entry := e, tid := t.tid, sa := ops.getD 0 0, sb := ops.getD 1 0, tlr := tlr, groups := groups
      share := if e < crewB t.crew then sfrom (1024 * sb) (1024 * 256) t.v else [] }
  let md := if e = 0 then some (t.mode, t.bthr, t.srng) else none
  let latch := s.myLatch
  let s := s.modT fun t => { t with infl := t.infl.map fun f => { f with late := [] } }
  match latch with
  | some m =>
    let s := if e = 0 then s.fixShares m t.mode else s
    .go (s.modQuad q fun x => { x with mops := updFirst (fun o => o.u == m.u) (fun o =>
      { o with arrived := o.arrived ++ [a], reads := sput {} e rd o.reads
               md := match md with | some x => some x | none => o.md }) x.mops })
      none (.matrix m.u)
  | none =>
    let m : MOp :=
      { u := s.uid, key := s.myKey, op := op, d := d, lit := l, md := md, arrived := [a], fired := false, step := 0
        group := 0, gen := 0, wide := false, passed := false, fseq := 0, pages := [], trip := none
        reads := sput {} e rd [] }
    .go { (s.modQuad q fun x => { x with mops := x.mops ++ [m] }) with uid := s.uid + 1 } none (.matrix m.u)

/-- The records of a member that may arrive, and its arrival (R285, R287). -/
def State.matGo (s : State) (who : Asker) (w : Word) (op d : Nat) (l : Word) (ops : List DWord) (c : Word)
    (sa sb e : Nat) : Start :=
  let early := s.matEarly w op d l sa sb e
  if !early.isEmpty then .trap early
  else
    let sink := crewSink c && e + 1 == bits c.toNat 27 25
    let reads := !sink && !(e < crewB c && sa == 0)
    let table := op == 0xF1 && !sink && crewB c ≤ e
    let n := 8 * mmG l
    let runs := (if reads then [(sa, 64)] else []) ++ if table then [(sb, n)] else []
    match s.recordStop runs with
    | some w => .wait w s
    | none => match (if reads then s.readRecord who sa 64 else .ok []).both (if table then s.readRecord who sb n else .ok []) with
      | .fault x p => .park x p runs
      | .ends st => .ends st
      | .wait k => s.askStart who k
      | .ok both =>
        let tlr := if reads then both.take 64 else []
        let g := if reads then both.drop 64 else both
        let (s, rd) := s.recordReads ((s.slotOf s.t.ctx).getD 0) runs
        let groups := (chunks 8 (g.length + 1) g).map fun b => BitVec.ofNat 64 (leNat b)
        let late := s.matLate w op l sa sb e tlr groups
        if !late.isEmpty then .trap late else s.arriveAt op d l ops e tlr groups rd

/-- The start of a matrix instruction from its operands s_a and s_b (R285, R287): the profile comes before the crew and
what the instruction's own rules call Illegal-Instruction (R279, R289, R290, log 77). -/
def State.matStart (s : State) (who : Asker) (w : Word) (op d : Nat) (l : Word) (ops : List DWord) : Start :=
  let c := s.t.crew
  let sa := (ops.getD 0 0).toNat
  let sb := (ops.getD 1 0).toNat
  if !(s.matProf w op).isEmpty then .trap (s.matProf w op)
  else match (if c = 0 then none else s.entryIn c) with
  | none => .trap [(2, w.toNat)]
  | some e =>
    match s.myLatch with
    | some m => if m.key.crew = c ∧ m.has s.t.tid then .wait .latch s else s.matGo who w op d l ops c sa sb e
    | none => s.matGo who w op d l ops c sa sb e

/-- An instruction that arrives at a rendezvous. -/
def isMatrix (i : Instr) : Bool := match i.raw with | some r => 0xEF ≤ r.op && r.op ≤ 0xF2 | none => false

/-- A matrix instruction (R289): a team's arrivals are in program order, so it waits for an earlier one that is parked on its
records (R287). -/
def matrixForm (i : Instr) (op d a b : Nat) (l : Word) (s : State) : State :=
  issue i s fun s =>
    let ops := [s.rs a, s.rs b]
    if s.t.log.any fun e => isMatrix e.instr then s.hold .other
    else s.begin_ i none ops (s.shareRegs op l (ops.getD 1 0)) [] (s.matStart s.recordWho i.word op d l ops)

/-- MMJ (R291). -/
def execMmj (d a b : Nat) (l : Word) (s : State) : Out := .next (matrixForm (.mmj d a b l) 0xEF d a b l s)

/-- MMS (R293). -/
def execMms (d a b : Nat) (l : Word) (s : State) : Out := .next (matrixForm (.mms d a b l) 0xF0 d a b l s)

/-- MMG (R294). -/
def execMmg (d a b : Nat) (l : Word) (s : State) : Out := .next (matrixForm (.mmg d a b l) 0xF1 d a b l s)

/-- MMD (R291): profile H only. -/
def execMmd (d a b : Nat) (l : Word) (s : State) : Out := .next (matrixForm (.mmd d a b l) 0xF2 d a b l s)

/-! ### The fire (R287) -/

/-- Groups, and rows of a group (R294). -/
def MOp.nGroups (m : MOp) : Nat := if m.op = 0xF1 then mmG m.lit else 1
def MOp.table (m : MOp) : List DWord := (m.arrived.find? fun a => !a.groups.isEmpty).elim [] (·.groups)
def MOp.rows (m : MOp) (g : Nat) : Nat := if m.op = 0xF1 then bits (m.table.getD g 0).toNat 39 32 else mmM m.lit

/-- Go past groups of no rows; past the last one every pass is done (R294). -/
def MOp.skipEmpty (m : MOp) : Nat → MOp
  | 0 => m
  | n + 1 =>
    if m.nGroups ≤ m.group then { m with passed := true }
    else if m.rows m.group = 0 then { m with group := m.group + 1 }.skipEmpty n
    else m

/-- Update an operation of a quad. -/
def State.modMop (s : State) (q u : Nat) (f : MOp → MOp) : State :=
  s.modQuad q fun x => { x with mops := updFirst (fun o => o.u == u) f x.mops }

/-- Post a request for a crew without one (R280). -/
def Quad.post (q : Quad) (r : Resv) : Quad :=
  if q.resv.any (fun x => x.key == r.key) || q.rqueue.any (fun x => x.key == r.key) then q
  else admitResv 8 { q with rqueue := q.rqueue ++ [r] }

/-- MATRIX_LATCH_FIRE (R287): every listed team has arrived. -/
def execMatrixLatchFire (q u : Nat) (s : State) : Out :=
  .next (match (s.quadD q).mops.find? fun m => m.u == u with
  | none => s
  | some m =>
    if m.fired || m.arrived.length != bits m.key.crew.toNat 27 25 then s
    else
      let snap (a : Arrival) : Arrival :=
        match s.team? a.tid with
        | some t => match s.block? t.bid with
          | some b => if mmASP m.lit then { a with scr := b.scratch } else a
          | none => a
        | none => a
      let gen := match m.md with | some x => x.2.2 | none => 0
      let m1 := { m with fired := true, arrived := m.arrived.map snap, gen := gen, gen0 := gen, at_ := s.uid }.skipEmpty 17
      let prio := match s.grid? m.key.gid with | some g => g.lrec.prio | none => 0
      let now := s.pkg.clk.toNat
      ({ s with uid := s.uid + 1 } : State).modQuad q fun x =>
        ({ x with mops := (x.mops.filter fun o => o.u != u) ++ [m1] } : Quad).post
          { key := m.key, cls := prio, at_ := now, marked := false, since := now })

/-! ### Operands of a pass (R286, R288, R291, R293) -/

/-- The word of a register and lane of a B share, as it was at the arrival or as it is now. -/
def Arrival.word (a : Arrival) (t : Team) (fresh : Bool) (key : Nat) : Nat :=
  (if fresh then sget 0 key t.v else sget 0 key a.share).toNat

/-- Byte o of a B-holder's share from register VB + base on (R286). -/
def Arrival.byte (a : Arrival) (t : Team) (fresh : Bool) (base o : Nat) : Nat :=
  let r := a.sb.toNat + base + o / (4 * t.lanes)
  a.word t fresh (1024 * r + o / 4 % t.lanes) / 256 ^ (o % 4) % 256

/-- Element kk of column n of a local slice, freely as at the arrival or as now (R286, R288). -/
def State.bElem (s : State) (a : Arrival) (t : Team) (et sf base kk n : Nat) : Elem :=
  let fresh := s.freeBool (fk 70 (a.tid * 2 ^ 40 + base * 2 ^ 20 + kk * 128 + n))
  let byte (o : Nat) : Nat := a.byte t fresh base o
  let sc := if sf = 1 then byte (128 * colBytes et + n * (kGroup et / 32) + kk / 32)
    else if sf = 2 then byte (128 * colBytes et + n) else 127
  if et = 17 then
    let o := n * colBytes et + kk / 8 * 2
    ⟨true, 8 * (byte o + 256 * byte (o + 1)) + kk % 8, sc⟩
  else
    let w := etWidth et
    let o := n * colBytes et + kk * w / 8
    let x := (List.range ((w + 15) / 8)).foldl (fun acc i => acc + byte (o + i) * 256 ^ i) 0
    ⟨true, x / 2 ^ (kk * w % 8) % 2 ^ w, sc⟩

/-- The arrival of an entry, and its team. -/
def MOp.entry? (m : MOp) (e : Nat) : Option Arrival := m.arrived.find? fun a => a.entry == e

/-- The slot of an operation's context. -/
def State.mopSlot (s : State) (m : MOp) : Nat :=
  match s.grid? m.key.gid with | some g => (s.slotOf g.ctx).getD 0 | none => 0

/-- How the engine reads global memory for an operation: its place in the order of grants is that of its fire (R97,
R98, R287). -/
def State.matRead (s : State) (m : MOp) : Nat → Nat → Nat → Got (List Byte) := s.rdVirt (s.mopSlot m) (.op m.u) m.at_

/-- B element (k, n) of group g of the operation. -/
def State.bAt (s : State) (m : MOp) (g k n : Nat) : Elem :=
  let et := mET m.mode
  let sf := mSF m.mode
  let b := crewB m.key.crew
  let p := k / kGroup et
  match m.entry? (p % b) with
  | none => ⟨false, 0, 127⟩
  | some a =>
    match s.team? a.tid with
    | none => ⟨false, 0, 127⟩
    | some t =>
      s.bElem a t et sf (groupShare et sf t.lanes (mmK m.lit) b g + p / b * sliceRegs et sf t.lanes) (k % kGroup et) n

/-- The TLR of the B-holder of row k, if it gave one. -/
def MOp.bTlr (m : MOp) (k : Nat) : Option Tlr :=
  match m.entry? (k / kGroup (mET m.mode) % crewB m.key.crew) with
  | some a => if a.tlr.isEmpty then none else some (Tlr.of a.tlr)
  | none => none

/-- Which columns below N row k of B stores (R293). -/
def State.bStored (s : State) (m : MOp) (k : Nat) : Got (List Bool) :=
  let n := mmN m.lit
  match (if m.op = 0xF0 then m.bTlr k else none) with
  | some t => if t.sparse then
      (t.readMap (s.matRead m) k (min n t.dim0)).map fun l => l ++ List.replicate (n - l.length) false
    else .ok (List.replicate n true)
  | none => .ok (List.replicate n true)

/-- The A-issuer of tile row i of group g: its arrival, TLR and A row (R285, R294). -/
def MOp.aSource (m : MOp) (g i : Nat) : Option (Arrival × Tlr × Nat) :=
  let b := crewB m.key.crew
  if m.op = 0xF1 then
    (m.entry? b).map fun a => (a, Tlr.of a.tlr, bits (m.table.getD g 0).toNat 31 0 + i)
  else
    let c := (mmM m.lit + crewA m.key.crew - 1) / crewA m.key.crew
    (m.entry? (b + i / c)).map fun a => (a, Tlr.of a.tlr, a.sb.toNat + i % c)

/-- How the engine reads the elements of A: from scratchpad, as at the fire or as now, or from memory (R285, R288). -/
def State.aRead (s : State) (m : MOp) (a : Arrival) (fresh : Bool) (ptr off n : Nat) : Got (List Byte) :=
  if mmASP m.lit then
    let now := match s.team? a.tid with
      | some t => match s.block? t.bid with | some b => b.scratch | none => []
      | none => []
    .ok (srow 0 (ptr % 2 ^ 32 + off) n (if fresh then now else a.scr))
  else s.matRead m ptr off n

/-- Columns lo to lo + n - 1 of tile row i's A row. -/
def State.aRow (s : State) (m : MOp) (g i lo n : Nat) : Got (List Elem) :=
  match m.aSource g i with
  | none => .ok (List.replicate n ⟨false, 0, 127⟩)
  | some (a, t, r) =>
    (t.readRow (s.aRead m a true) (s.matRead m) r lo n).bind fun new =>
      if mmASP m.lit then
        (t.readRow (s.aRead m a false) (s.matRead m) r lo n).map fun old =>
          (List.zip (List.range n) (List.zip new old)).map fun x =>
            if s.freeBool (fk 71 (i * 2 ^ 20 + lo + x.1)) then x.2.1 else x.2.2
      else .ok new

/-- Live indices of an MMS (R293); every index of the others. -/
def State.liveK (s : State) (m : MOp) : Got (List Nat) :=
  let k := mmK m.lit
  if m.op ≠ 0xF0 then .ok (List.range k)
  else
    (gotAll (fun i => match m.aSource 0 i with
      | some (_, t, r) => t.readMap (s.matRead m) r k
      | none => .ok []) (List.range (mmM m.lit))).bind fun am =>
    (gotAll (s.bStored m) (List.range k)).map fun bm =>
      (List.range k).filter fun j => (am.any fun l => l.getD j false) && ((bm.getD j []).any fun x => x)

/-- Indices of step p. -/
def stepK (et : Nat) (live : List Nat) (p : Nat) : List Nat := (live.drop (p * kGroup et)).take (kGroup et)

/-- A rows over the indices of a step. -/
def State.aOver (s : State) (m : MOp) (g : Nat) (ks : List Nat) : Got (List (List Elem)) :=
  let lo := ks.headD 0
  let n := (ks.getLast?.getD 0) + 1 - lo
  gotAll (fun i => (s.aRow m g i lo n).map fun l => ks.map fun k => l.getD (k - lo) ⟨false, 0, 127⟩)
    (List.range (m.rows g))

/-- B rows over the indices of a step, marked by their bitmaps. -/
def State.bOver (s : State) (m : MOp) (g : Nat) (ks : List Nat) : Got (List (List Elem)) :=
  gotAll (fun k => (s.bStored m k).map fun st =>
    (List.range (mmN m.lit)).map fun n => { s.bAt m g k n with st := st.getD n false }) ks

/-- One product: under MMS +0 when an element is not stored, whatever the other is (R293, log 77); under a dense form an
element that a sparse A does not store is a zero like any other (R271, R285). -/
def elemMul (op et : Nat) (x y : Elem) : Ex :=
  if op = 0xF0 && !(x.st && y.st) then .zero false else (x.val et).mul (y.val et)

/-! ### Tiles and their bounds (R138 to R145, R278, R279) -/

/-- Physical tiles of a grid on a quad. -/
def Quad.phys (q : Quad) (gid n : Nat) : Nat :=
  match q.tgrants.find? fun g => g.gid == gid with | some g => g.tiles.getD n 0 | none => 0

/-- Row r of a tile, or of a tile pair, as bits of the accumulate type (R279). -/
def Quad.accRow (q : Quad) (gid acc n r : Nat) : List Nat :=
  let lo := (srow 0 (16384 * q.phys gid n + 128 * r) 128 q.tiles).map BitVec.toNat
  if acc = 1 then
    let hi := (srow 0 (16384 * q.phys gid (n + 1) + 128 * r) 128 q.tiles).map BitVec.toNat
    List.zipWith (fun a b => a + 2 ^ 32 * b) lo hi
  else lo

def Quad.setAccRow (q : Quad) (gid acc n r : Nat) (l : List Nat) : Quad :=
  let put (k : Nat) (l : List Nat) (m : SMap Word) : SMap Word :=
    sputRow 0 (16384 * k + 128 * r) (l.map (BitVec.ofNat 32)) m
  let m1 := put (q.phys gid n) l q.tiles
  { q with tiles := if acc = 1 then put (q.phys gid (n + 1)) (l.map (· / 2 ^ 32)) m1 else m1 }

def Quad.bound (q : Quad) (gid n r : Nat) : Word := sget 0 (128 * q.phys gid n + r) q.bounds
def Quad.setBound (q : Quad) (gid n r : Nat) (b : Word) : Quad :=
  { q with bounds := sput 0 (128 * q.phys gid n + r) b q.bounds }
def Quad.stat (q : Quad) (gid n : Nat) : Word := sget 0 (q.phys gid n) q.bstat
def Quad.setStat (q : Quad) (gid n : Nat) (w : Word) : Quad := { q with bstat := sput 0 (q.phys gid n) w q.bstat }

/-- PROP of the status word (R139). -/
def setProp (b : Bool) (w : Word) : Word := if b then w ||| 4 else w &&& ~~~(4#32)

/-- The accumulate type of ACC (R137). -/
def accFmt (acc : Nat) : Option Fmt := match acc with | 0 => some .fp32 | 1 => some .fp64 | _ => none

/-- One accumulator element after a pass, and the excess of an INT32 that left its range (R136, R144). -/
def passElem (f : Option Fmt) (rm : Rm) (x : Nat) (ps : List Ex) : Nat × Option Ex :=
  match f with
  | some f => (f.round rm (Ex.sum rm.rnd (f.dec x :: ps)), none)
  | none =>
    let v := (Ex.sum 0 ps).over 0 + etInt 13 x
    (etFit 13 rm.sat v,
      if v = clamp (etLo 13) (etHi 13) v then none else some (Ex.ofInt ((v - clamp (etLo 13) (etHi 13) v).natAbs)))

/-- The largest ulp of finite values; none when one is not finite (R142, R143). -/
def ulpMax (f : Fmt) (l : List Nat) : Option Ex :=
  let vs := l.map f.dec
  if vs.all Ex.isFin then some (bMax (vs.map f.ulp)) else none

/-- A row bound after a pass (R143, R144). -/
def passBound (f : Option Fmt) (rm : Rm) (b : Word) (vals : List Nat) (exc : List Ex) : Word :=
  match f with
  | some f => match ulpMax f vals with
    | some u => boundUp (bAdd [boundEx b, rhoMul rm.rnd u])
    | none => boundInf
  | none => if exc.isEmpty then b else if rm.sat then boundUp (bAdd [boundEx b, bMax exc]) else boundInf

/-! ### Passes (R136, R143, R151, R152, R282, R293) -/

/-- The destination tile of a group (R294). -/
def MOp.tile (m : MOp) (g : Nat) : Nat := m.d + (if mACC m.mode = 1 then 2 * g else g)

/-- The operation may be re-issued wide (R150, R152). -/
def MOp.wantsWide (m : MOp) : Bool := mBWIDE m.mode && bits m.bthr.toNat 8 8 == 1 && mACC m.mode == 0

/-- Copy a tile and its bound register into the wide store (R152). -/
def Quad.claimWide (q : Quad) (m : MOp) : Quad :=
  let n := q.phys m.key.gid (m.tile m.group)
  let tile := (sfrom (16384 * n) (16384 * n + 16384) q.tiles).map fun p => (p.1 - 16384 * n, p.2)
  let bound := (sfrom (128 * n) (128 * n + 128) q.bounds).map fun p => (p.1 - 128 * n, p.2)
  { q with wide := some ⟨m.u, tile, bound, sget 0 n q.bstat, []⟩ }

/-- Row r of the accumulator of the running pass: the tile, or the wide store's FP64 accumulator. -/
def Quad.workRow (q : Quad) (m : MOp) (r : Nat) : List Nat :=
  if m.wide then match q.wide with
    | some w => (srow 0 (128 * r) 128 w.acc).map BitVec.toNat
    | none => []
  else q.accRow m.key.gid (mACC m.mode) (m.tile m.group) r

def Quad.setWorkRow (q : Quad) (m : MOp) (r : Nat) (l : List Nat) : Quad :=
  if m.wide then { q with wide := q.wide.map fun (w : WideStore) =>
      { w with acc := sputRow 0 (128 * r) (l.map (BitVec.ofNat 64)) w.acc } }
  else q.setAccRow m.key.gid (mACC m.mode) (m.tile m.group) r l

/-- The rounding of tile row i under the operation's MODE and a generator state (R136). -/
def MOp.rm (m : MOp) (gen : Word) (i : Nat) : Rm := ⟨mRND m.mode, mSAT m.mode, false, srValue gen i⟩

/-- One pass over rows of A and B (R143, R291): a and b hold the step's elements, b by index and column; the zero products that
pad a step that is not full are no terms (R133, R136). -/
def Quad.pass (q : Quad) (m : MOp) (gen : Word) (a b : List (List Elem)) : Quad :=
  let et := mET m.mode
  let f := if m.wide then some Fmt.fp64 else accFmt (mACC m.mode)
  let n := mmN m.lit
  (List.zip (List.range a.length) a).foldl (fun q p =>
    let old := q.workRow m p.1
    let rm := m.rm gen p.1
    let cells := (List.range n).map fun j =>
      passElem f rm (old.getD j 0) ((List.zip p.2 b).map fun x => elemMul m.op et x.1 (x.2.getD j ⟨false, 0, 127⟩))
    let t := m.tile m.group
    (q.setWorkRow m p.1 (cells.map (·.1) ++ old.drop n)).setBound m.key.gid t p.1
      (passBound f rm (q.bound m.key.gid t p.1) (cells.map (·.1)) (cells.filterMap (·.2)))) q

/-- The end of a wide re-issue's passes: each element rounded to FP32, and its bound (R151). -/
def Quad.narrow (q : Quad) (m : MOp) (gen : Word) : Quad :=
  let t := m.tile m.group
  (List.range (m.rows m.group)).foldl (fun q i =>
    let rm := m.rm gen i
    let n := mmN m.lit
    let row := (q.workRow m i).map fun x => Fmt.fp32.round rm (Fmt.fp64.dec x)
    let old := q.accRow m.key.gid 0 t i
    let b := match ulpMax .fp32 (row.take n) with
      | some u => boundUp (bAdd [boundEx (q.bound m.key.gid t i), rhoMul rm.rnd u])
      | none => boundInf
    (q.setAccRow m.key.gid 0 t i (row.take n ++ old.drop n)).setBound m.key.gid t i b) q

/-- A bound value: never NaN (R142). A sum of R146 and R147 over a NaN magnitude has no value in the spec: the model makes it
+∞ (log 36, DESIGN CHOICE). -/
def bUp (x : Ex) : Ex := if x.isNan then .inf false else boundEx (boundUp x)

/-- The propagation terms P_i of a group (R146): over the K extent, under MMS over the stored entries of each operand
(R157). -/
def State.propTerms (s : State) (m : MOp) : Got (List Ex) :=
  let live := List.range (mmK m.lit)
  let g := m.group
  let et := mET m.mode
  let rd := s.matRead m
  let mag (e : Elem) : Ex := if e.st then (e.val et).abs else .zero false
  (s.aOver m g live).bind fun a =>
  (s.bOver m g live).bind fun b =>
  (gotAll (fun k => match m.bTlr k with
    | some t => t.readBoundOf rd k
    | none => .ok 0) live).bind fun db =>
  (gotAll (fun i => match m.aSource g i with
    | some (_, t, r) => t.readBoundOf rd r
    | none => .ok 0) (List.range (m.rows g))).map fun da =>
    let cols := (List.range (mmN m.lit)).map fun j =>
      b.foldl (fun acc row => bUp (bAdd [acc, mag (row.getD j ⟨false, 0, 127⟩)])) (.zero false)
    let maxB := bMax cols
    (List.zip a da).map fun p =>
      let s2 := (List.zip p.1 db).foldl (fun acc x =>
        if x.1.st || m.op != 0xF0 then bUp (bAdd [acc, bUp (bMul (mag x.1) (boundEx x.2))]) else acc) (.zero false)
      bUp (bAdd [bUp (bMul (boundEx p.2) maxB), s2])

/-- Row i fails the threshold test (R149). -/
def Quad.rowFails (q : Quad) (m : MOp) (i : Nat) : Bool :=
  let acc := mACC m.mode
  let row := (q.accRow m.key.gid acc (m.tile m.group) i).take (mmN m.lit)
  let vals := row.map fun x => match accFmt acc with | some f => f.dec x | none => Ex.ofInt (etInt 13 x)
  let lam : Ex := match acc with
    | 0 => .fin false 1 (-126) false
    | 1 => .fin false 1 (-1022) false
    | _ => .fin false 1 0 false
  let h := sgnOf 8 m.bthr.toNat
  vals.all Ex.isFin && ((bMax (lam :: vals.map Ex.abs)).scale h).lt (boundEx (q.bound m.key.gid (m.tile m.group) i))

/-- The lowest non-finite element of a group's rows, with its bits (R292). -/
def Quad.nonFinite (q : Quad) (m : MOp) : Option (Nat × Nat × Nat) :=
  match accFmt (mACC m.mode) with
  | none => none
  | some f => (List.range (m.rows m.group)).findSome? fun i =>
      (((q.accRow m.key.gid (mACC m.mode) (m.tile m.group) i).take (mmN m.lit)).find? f.nonFinite).map fun x =>
        (m.tile m.group, i, x)

/-- Restore the tile and its row bounds from the wide store, and start again with an FP64 accumulator (R151). -/
def Quad.reissue (q : Quad) (m : MOp) : Quad :=
  match q.wide with
  | none => q
  | some w =>
    let n := q.phys m.key.gid (m.tile m.group)
    let tile := (List.range 16384).map fun k => sget (0 : Word) k w.tile
    { q with
      tiles := sputRow 0 (16384 * n) tile q.tiles
      bounds := sputRow 0 (128 * n) (sgets 0 0 128 w.bound) q.bounds
      wide := some { w with acc := (w.tile.map fun p =>
        (p.1, BitVec.ofNat 64 (Fmt.fp64.round {} (Fmt.fp32.dec p.2.toNat)))).filter fun p => p.2 ≠ 0 } }

/-- Go on to the next group that has rows (R294), with the non-finite check of the one that ends (R292). The next group
draws from the generator where this one has left it, a wide re-issue and its narrowing included (log 77). -/
def Quad.nextGroup (q : Quad) (m : MOp) : Quad × MOp :=
  let nf := match m.nf with
    | some x => some x
    | none => if mNFT m.mode then q.nonFinite m else none
  (q, { m with nf := nf, group := m.group + 1, step := 0, wide := false, gen0 := m.gen }.skipEmpty 17)

/-- The end of a group after its passes and its propagation term (R146, R149 to R151, R292): ran tells whether it
made any pass. -/
def Quad.endGroup (q : Quad) (m : MOp) (ran : Bool) : Quad × MOp :=
  let gid := m.key.gid
  let t := m.tile m.group
  let st0 := setProp (mBPROP m.mode) (q.stat gid t)
  let st1 := if m.wide then st0 ||| 1 else st0
  let fails := if bits m.bthr.toNat 8 8 = 1 ∧ ran then (List.range (m.rows m.group)).filter (q.rowFails m) else []
  match fails with
  | i :: _ =>
    let st2 := (st1 &&& 0xFFFF00FF) ||| BitVec.ofNat 32 (256 * i) ||| 2
    let q1 := q.setStat gid t st2
    if m.wantsWide && !m.wide then (q1.reissue m, { m with wide := true, step := 0, gen := m.gen0 })
    else q1.nextGroup { m with trip := match m.trip with | some x => some x | none => some (t, i) }
  | [] => (q.setStat gid t st1).nextGroup m

/-- Effective class of an entry with a ready operation (R282). -/
def State.resvClass (s : State) (r : Resv) : Nat := min 3 (r.cls + (s.pkg.clk.toNat - r.since) / 4096)

/-- An access that a member made before its arrival is parked: the operation's reads come after it (R101). -/
def State.parkedBefore (s : State) (m : MOp) : Bool :=
  s.teams.any fun t => m.has t.tid && t.infl.any fun f => f.on == .matrix m.u && t.log.any fun e => e.h < f.u

/-- The operation would claim the wide store: under MMS only if an index is live, since it makes no pass otherwise (R152,
R293). -/
def State.claimsWide (s : State) (m : MOp) : Bool :=
  m.wantsWide && (m.op != 0xF0 || (match s.liveK m with | .ok l => !l.isEmpty | _ => true))

/-- The operation is ready for a pass (R282). -/
def State.mopReady (s : State) (q : Nat) (m : MOp) : Bool :=
  let quad := s.quadD q
  m.fired && !m.passed && m.fseq == 0 && s.engineOn q &&
  (quad.resv.any fun r => r.key == m.key) &&
  ((quad.mops.takeWhile fun o => o.u != m.u).all fun o =>
    !o.fired || o.passed || o.key.gid != m.key.gid || !o.tiles.any m.tiles.contains) &&
  !s.tileParked m.key.gid q m.at_ m.tiles && !s.parkedBefore m &&
  !(quad.port.any fun p => p.u < m.at_ && p.gid == m.key.gid && p.tiles.any m.tiles.contains) &&
  !(s.claimsWide m && (match quad.wide with | some w => w.u != m.u | none => false)) &&
  !(match s.grid? m.key.gid with | some g => s.ctxEnding g.ctx | none => true)

/-- The arbiter's choice (R282): the highest effective class, the earliest admitted entry on a tie. Of several ready operations
of one crew, and so of one entry, the spec does not say which comes first: the model takes the one that fired earliest (log
77, DESIGN CHOICE). -/
def State.arbiter (s : State) (q : Nat) : Option Nat :=
  let quad := s.quadD q
  let cands := quad.resv.filterMap fun r =>
    (quad.mops.find? fun m => m.key == r.key && s.mopReady q m).map fun m => (m.u, s.resvClass r)
  (cands.foldl (fun (best : Option (Nat × Nat)) c => match best with
    | none => some c
    | some b => if b.2 < c.2 then some c else some b) none).map (·.1)

/-- What one grant does to a ready operation: a pass, or the propagation term after the last pass, which an operation
without any pass gains too (R146, R291, R293). The spec does not say whether a wide re-issue reads A and B anew, where
another agent may have written them meanwhile (R288), or keeps what the first run read: the model reads them anew (log 77,
DESIGN CHOICE). -/
def State.grantPass (s : State) (q : Nat) (m : MOp) : Got (Quad × MOp) :=
  (s.liveK m).bind fun live =>
    let et := mET m.mode
    let quad0 := s.quadD q
    let quad := if m.wantsWide && !live.isEmpty && m.step == 0 && !m.wide then quad0.claimWide m else quad0
    let total := (live.length + kGroup et - 1) / kGroup et
    let prop := mBPROP m.mode
    if total = 0 ∧ !prop then .ok (quad.endGroup m false)
    else if m.step < total then
      let ks := stepK et live m.step
      (s.aOver m m.group ks).bind fun a =>
      (s.bOver m m.group ks).map fun b =>
        let gen := if mRND m.mode = 5 then srAdvance m.gen else m.gen
        let q1 := quad.pass m gen a b
        let m1 := { m with step := m.step + 1, gen := gen }
        if m1.step < total then (q1, m1)
        else
          let gen2 := if m.wide && mRND m.mode == 5 then srAdvance gen else gen
          let q2 := if m.wide then q1.narrow m gen2 else q1
          let m2 := { m1 with gen := gen2 }
          if prop then (q2, m2) else q2.endGroup m2 true
    else
      (s.propTerms m).map fun ps =>
        let t := m.tile m.group
        let q1 := (List.zip (List.range ps.length) ps).foldl (fun (x : Quad) p =>
          x.setBound m.key.gid t p.1 (boundUp (bAdd [boundEx (x.bound m.key.gid t p.1), p.2]))) quad
        q1.endGroup m (total != 0)

/-- Replace a quad's record. -/
def State.setQuad (s : State) (q : Quad) : State := s.modQuad q.q fun _ => q

/-- A read of the operation meets a fault (R293, R295, R403): SRC 4, with the core and place of the member that it is read for:
the A-issuer of the row whose arrays hold the pointer, or else the B-holder whose record names the memory. -/
def State.mopFault (s : State) (q : Nat) (m : MOp) (c p : Nat) : State :=
  let within (ptr off n : Nat) : Bool := ptr / 2 ^ 56 == p / 2 ^ 56 && ptr % 2 ^ 56 + off ≤ p % 2 ^ 56 &&
    p % 2 ^ 56 < ptr % 2 ^ 56 + off + n
  let row := (List.range (m.rows m.group)).findSome? fun i => match m.aSource m.group i with
    | some (a, t, r) => if (t.rowArrays r).any fun x => within x.1 x.2.1 x.2.2 then some a else none
    | none => none
  let reads (a : Arrival) : Bool := (Tlr.of a.tlr).arrays.any fun x => within x.1 0 x.2
  let (bs, as) := (m.arrived.filter fun a => !a.tlr.isEmpty).partition fun a => a.entry < crewB m.key.crew
  let a := ((row.orElse fun _ => (bs ++ as).find? reads).orElse fun _ => (as ++ bs).head?).orElse fun _ => m.arrived.head?
  let t := (a.bind fun a => s.team? a.tid).getD {}
  let pages := [pageEntry p c true false]
  let (s1, fs) := ((s.noteXls (towerOf t.core) (s.mopSlot m) [p]).dropGot (.op m.u)).sendFault (s.mopSlot m) 4 t.core t.place (m.tile m.group) m.u q pages
  s1.modMop q m.u fun o => { o with fseq := fs, pages := pages.map (BitVec.ofNat 64) }

/-- What one grant reads of memory: runs of A for its issuer, and of the bitmaps and side arrays of B for its
holder, each with the reader's entry and core; a grant that only finds that no index is live reads the bitmaps (R147, R293,
R295). -/
def State.passRuns (s : State) (m : MOp) : List (Nat × Nat × List (Nat × Nat)) × List (Nat × List (Nat × Nat)) :=
  let rd := s.matRead m
  let live := match s.liveK m with | .ok l => l | _ => []
  let et := mET m.mode
  let last := (live.length + kGroup et - 1) / kGroup et ≤ m.step
  let ks := if last then List.range (mmK m.lit) else stepK et live m.step
  let lo := ks.headD 0
  let n := (ks.getLast?.getD 0) + 1 - lo
  let core (a : Arrival) : Nat := match s.team? a.tid with | some t => t.core | none => 0
  let maps := last && !mBPROP m.mode
  ((List.range (m.rows m.group)).filterMap fun i => (m.aSource m.group i).map fun x =>
      (x.1.entry, core x.1, if maps then x.2.1.mapRuns x.2.2 n else x.2.1.rowRuns rd (!mmASP m.lit) x.2.2 lo n),
   ks.map fun k => match m.bTlr k with
    | some t => (k / kGroup et % crewB m.key.crew,
        (if t.sparse then [(ptrAt t.bmap (k * t.mapLen), (min (mmN m.lit) t.dim0 + 7) / 8)] else []) ++
        (if last && !maps && t.bound != 0 then [(ptrAt t.bound (4 * k), 4)] else []))
    | none => (0, []))

/-- What reads for a member's instruction do besides giving their bytes: page walks, and each line counts once as a read of
that instruction (R71, R399, R401). -/
def State.noteMat (s : State) (slot : Nat) (a : Agent) (e : Nat) (reads : SMap Reads) (runs : List (Nat × Nat)) :
    State × SMap Reads :=
  let ps := s.virtPieces slot runs
  let (s1, r) := (s.noteXls a.tower slot (ps.map (·.1))).noteOnce a 0 (sget {} e reads)
    ((ps.filterMap (·.2)).filter fun p => isLocal p.1)
  (s1, sput {} e r reads)

/-- The reads of one grant, noted. -/
def State.notePass (s : State) (q : Nat) (m : MOp) : State :=
  let slot := s.mopSlot m
  let (as, bs) := s.passRuns m
  let r := as.foldl (fun (x : State × SMap Reads) p => x.1.noteMat slot (.core p.2.1) p.1 x.2 p.2.2) (s, m.reads)
  let r := bs.foldl (fun (x : State × SMap Reads) p => x.1.noteMat slot (.engine (q / 20)) p.1 x.2 p.2) r
  r.1.modMop q m.u fun o => { o with reads := r.2 }

/-- MATRIX_PASS (R282): the arbiter's choice runs one pass, and its entry's age starts again. -/
def execMatrixPass (q u : Nat) (s : State) : Out :=
  .next (match (s.quadD q).mops.find? fun m => m.u == u with
  | none => s
  | some m =>
    if s.arbiter q ≠ some u then s
    else match s.grantPass q m with
      | .ok (quad, m1) =>
        let young (r : Resv) : Resv := if r.key == m.key then { r with since := s.pkg.clk.toNat } else r
        let s1 := s.notePass q m
        s1.modQuad q fun x => { x with
          tiles := quad.tiles, bounds := quad.bounds, bstat := quad.bstat, wide := quad.wide
          resv := x.resv.map young
          mops := updFirst (fun o => o.u == u) (fun o => { m1 with reads := o.reads }) x.mops }
      | .fault c p _ => s.mopFault q m c p
      | .ends st => match s.grid? m.key.gid with | some g => s.endCtx g.ctx st | none => s
      | .stat _ => s.mopFault q m 7 0
      | .wait l => s.askFor (.op u) l)

/-- Entries without a ready operation do not age, nor do queued requests (R282). -/
def State.tickQuad (s : State) (q : Nat) : State :=
  let ready (r : Resv) : Bool := (s.quadD q).mops.any fun m => m.key == r.key && s.mopReady q m
  let f (r : Resv) : Resv := if ready r then r else { r with since := s.pkg.clk.toNat }
  s.modQuad q fun x => { x with resv := x.resv.map f, rqueue := x.rqueue.map fun r => { r with since := s.pkg.clk.toNat } }

/-- The boundary causes that a complete operation leaves in each crew team (R150, R292). -/
def MOp.pendIn (m : MOp) (t : Team) : Team :=
  let t1 := match m.nf with
    | some (tile, row, x) => t.pend 10 (tlaneWord 2 tile row) (BitVec.ofNat 64 x)
    | none => t
  match m.trip with
  | some (tile, row) => t1.pend 11 (tlaneWord 2 tile row) (BitVec.ofNat 64 tile)
  | none => t1

/-- MATRIX_OPERATION_COMPLETE (R295): flags are released, traps become pending, the wide store and a marked entry
are freed; what its instructions have read counts at home (R71). -/
def execMatrixOperationComplete (q u : Nat) (s : State) : Out :=
  .next (match (s.quadD q).mops.find? fun m => m.u == u with
  | none => s
  | some m =>
    if !(m.fired && m.passed && m.fseq == 0) then s
    else
      ((m.reads.foldl (fun s p => s.paid p.2) s).modQuad q fun x => ({ x with
        mops := x.mops.filter fun o => o.u != u
        wide := match x.wide with | some w => if w.u = u then none else some w | none => none } : Quad).freeMarked).modTeams
        (fun t => m.has t.tid && (t.life == Life.live || t.life == Life.evicted)) fun t =>
          m.pendIn { t with infl := t.infl.filter fun f => f.on != .matrix u })

end Sys2Proof.Machine
end

