-- ==== Sys2Proof/Machine/Tile.lean ====
section
/-! DEFINITION. Single-team tile instructions: MZERO, MLD, the drains, MCVT and the bound registers (R101, R139, R142,
R147, R153 to R156, R296 to R301). -/

namespace Sys2Proof.Machine

/-- Act on a team as the selected one, and select the earlier one again. -/
def State.onTeam (s : State) (tid : Nat) (f : State → State) : State := (f (s.select tid)).select s.t.tid

/-- Causes of a tile instruction under MODE.ACC with those of its own rules: FP64 accumulation on N comes first, and of
the causes of R181 only one is raised (R137, R181, R278, R279). -/
def State.tileCauses (s : State) (w : Word) (n : Nat) (own : List (Nat × Nat)) : List (Nat × Nat) :=
  let acc := mACC s.t.mode
  if acc = 1 && !s.pkg.profH then [(3, w.toNat * 2 ^ 32 + 8)]
  else firstCauses ((if (acc = 1 && n % 2 == 1) || (accTiles n acc).any fun k => s.myTiles.length ≤ k then
    [(2, w.toNat)] else []) ++ own)

/-- Raise causes of the instruction as a whole. -/
def State.raiseAll (s : State) (cs : List (Nat × Nat)) : State :=
  s.decide (cs.map fun c => ⟨c.1, 0, BitVec.ofNat 64 c.2, s.t.pc, s.t.cl, false, s.t.ord⟩)

/-- Update the quad of the selected team. -/
def State.modMyQuad (s : State) (f : Quad → Quad) : State := s.modQuad (quadOf s.t.core) f

/-! ### The tile memory port (R159, R445) -/

/-- The port's work for instruction i of the selected team, issued now. -/
def State.portOp (s : State) (i : Instr) (ops : List DWord) (rec_ : List Byte) (tiles regs : List Nat) : PortOp :=
  { u := s.uid, tid := s.t.tid, gid := s.t.gid, instr := i, pc := s.t.pc, cl := s.t.cl, ord := s.t.ord, mode := s.t.mode
    gen := s.t.srng, ops := ops, rec_ := rec_, tiles := tiles, regs := regs }

/-- An earlier operation on its tiles is incomplete (R159). -/
def State.tileBusy (s : State) (p : PortOp) : Bool :=
  (s.myQuad.mops.any fun m => m.fired && m.at_ ≤ p.u && m.key.gid == p.gid && m.tiles.any p.tiles.contains) ||
  s.tileParked p.gid (quadOf s.t.core) p.u p.tiles

/-- What the port's work gives: its effect, with what its completion then waits for; or it cannot go on yet; or the
context ends. -/
inductive TileRes where
  | go (s : State) (on : Until)
  | wait
  | ends (status : Nat)

/-- The instruction with handle u has had its turn: its completion waits for something else. -/
def State.portEnd (s : State) (u : Nat) (on : Until) : State :=
  s.modT fun t => { t with infl := t.infl.map fun f => if f.u == u && f.on == .port then { f with on := on } else f }

/-- The scalar operands of the port's work. -/
def PortOp.op (p : PortOp) (n : Nat) : DWord := p.ops.getD n 0

/-- MZERO at the port (R142, R296). -/
def State.mzeroRun (s : State) (p : PortOp) (d : Nat) : TileRes :=
  let gid := s.t.gid
  let zero (q : Quad) : Quad :=
    let tiles := (accTiles d (mACC p.mode)).foldl (fun m n =>
      sclear (16384 * q.phys gid n) (16384 * q.phys gid n + 16384) m) q.tiles
    let k := q.phys gid d
    ({ q with tiles := tiles, bounds := sclear (128 * k) (128 * k + 128) q.bounds } : Quad).setStat gid d
      (setProp false (q.stat gid d))
  .go (s.modMyQuad zero) .ready

/-! ### MLD (R296) -/

/-- The ET of the accumulate type (R137). -/
def accEt (acc : Nat) : Nat := match acc with | 0 => 0 | 1 => 1 | _ => 13

/-- Row r of a load: its elements' bits and its bound; u is the load's place in the order of grants (R98). -/
def State.mldRow (s : State) (slot : Nat) (who : Asker) (u : Nat) (t : Tlr) (r : Nat) : Got (List Nat × Word) :=
  let rd := s.rdVirt slot who u
  (t.readRow rd rd r 0 (min t.dim0 128)).bind fun es =>
    (t.readBoundOf rd r).map fun b => (es.map (·.raw), b)

/-- The bytes that a load reads for row r. -/
def State.mldRuns (s : State) (slot : Nat) (who : Asker) (u : Nat) (t : Tlr) (r : Nat) : List (Nat × Nat) :=
  t.rowRuns (s.rdVirt slot who u) true r 0 (min t.dim0 128)

/-- Write a row of a tile with its bound, which is +∞ when an element is not finite (R142); columns not given are zero. -/
def Quad.loadRow (q : Quad) (gid acc d r : Nat) (x : List Nat × Word) : Quad :=
  let bad := match accFmt acc with | some f => x.1.any f.nonFinite | none => false
  (q.setAccRow gid acc d r (x.1 ++ List.replicate (128 - x.1.length) 0)).setBound gid d r (if bad then boundInf else x.2)

/-- The rows that a load reads; the others are zero with bound +0. -/
def mldRows (t : Tlr) : List Nat := List.range (min t.rows 128)

/-- Words of a record, as logged operands. -/
def recWords (bs : List Byte) : List DWord := (chunks 8 (bs.length + 1) bs).map fun b => BitVec.ofNat 64 (leNat b)
def wordsRec (l : List DWord) : List Byte := l.flatMap fun w => leBytes 8 w.toNat

/-- What rows of a load or drain give: those done, those parked with cause, pointer and access, whether one waits, with the
pieces of the system window that it has to ask for, an end. -/
structure RowRes (α : Type) where
  ok : List (Nat × α)
  parked : List (Nat × Nat × Nat × Bool)
  wait : Bool
  runs : Runs
  ends : Option Nat

def rowRes {α : Type} (l : List (Nat × Got α)) : RowRes α :=
  { ok := l.filterMap fun p => match p.2 with | .ok x => some (p.1, x) | _ => none
    parked := l.filterMap fun p => match p.2 with
      | .fault c q w => some (p.1, c, q, w)
      | .stat _ => some (p.1, 7, 0, true)
      | _ => none
    wait := l.any fun p => match p.2 with | .wait _ => true | _ => false
    runs := l.flatMap fun p => match p.2 with | .wait k => k | _ => []
    ends := l.findSome? fun p => match p.2 with | .ends st => some st | _ => none }

/-- PAGE entries of parked rows (R403). -/
def rowPages (l : List (Nat × Nat × Nat × Bool)) : List Nat :=
  sortPages (l.map fun p => pageEntry p.2.2.1 p.2.1 (!p.2.2.2) p.2.2.2)

/-- Park rows of a load or drain under the handle of its instruction (R296, R299); causes are those of rows already
refused, spans the bytes that the rows are still to access (R38), reads the lines that its instruction has read (R71). -/
def State.parkRows (s : State) (p : PortOp) (ops : List DWord) (parked : List (Nat × Nat × Nat × Bool))
    (causes : List LaneCause) (spans : Spans) (reads : Reads := {}) : State :=
  let t := s.t
  let e := t.freeEntry
  let pages := rowPages parked
  let slot := (s.slotOf t.ctx).getD 0
  let s0 := (s.noteXls (towerOf t.core) slot (parked.map fun p => p.2.2.1)).dropGot s.recordWho
  let (s1, fs) := s0.sendFault slot 0 t.core t.place e t.tid 0 pages
  let todo := parked.map (·.1)
  let entry : LogEntry :=
    { u := e, h := p.u, instr := p.instr, pc := p.pc, cl := p.cl, ord := p.ord, mode := p.mode, xreg := {}, fseq := fs
      kind := .rows ops todo, spans := spans, done := laneSet 128 fun r => !todo.contains r
      pages := pages.map (BitVec.ofNat 64), causes := causes ++ parked.map fun p => ⟨p.1, 0, p.2.2.1⟩
      reads := reads }
  let on (f : Infl) : Infl := if f.u == p.u then { f with on := .log e } else f
  s1.modT fun t => { t with log := t.log ++ [entry], infl := t.infl.map on }

/-- MLD at the port: the rows it has read are written (R296). -/
def State.mldRun (s : State) (p : PortOp) (d : Nat) : TileRes :=
  let load (q : Quad) : Quad :=
    let q1 := p.rows.foldl (fun q x => q.loadRow p.gid (mACC p.mode) d x.1 x.2) q
    q1.setStat p.gid d (setProp false (q1.stat p.gid d))
  .go (s.modMyQuad load) .ready

/-! ### Drains (R297 to R299) -/

/-- Fields of s_b (R297). -/
def dXTRA (x : DWord) : Nat := bits x.toNat 63 32
def dVBND (x : DWord) : Nat := bits x.toNat 23 16
def dBEN (x : DWord) : Bool := bits x.toNat 14 14 == 1
def dCNT (x : DWord) : Nat := bits x.toNat 13 7
def dFIRST (x : DWord) : Nat := bits x.toNat 6 0

/-- The layout of R297 is kept: xtra, vbnd and ben tell whether the form has these fields. -/
def drainOk (x : DWord) (xtra vbnd ben : Bool) : Bool :=
  bits x.toNat 31 24 == 0 && bits x.toNat 15 15 == 0 && dFIRST x + dCNT x ≤ 127 &&
  (xtra || dXTRA x == 0) && (vbnd || dVBND x == 0) && (ben || !dBEN x)

/-- The type check of a drain to type et under scale format sf (R12, R132, R297, R298). -/
def State.drainType (s : State) (w mode : Word) (et sf : Nat) (ok : Bool) : List (Nat × Nat) :=
  if !etOn s.pkg.profH et then [(3, w.toNat * 2 ^ 32 + etCapBit et)]
  else if !ok || et == 17 || !sfPairs sf et || (mACC mode == 2 && et != 13) then
    [(4, w.toNat * 2 ^ 32 + mode.toNat)]
  else []

/-- The generator state after n advances (R120). -/
def srAfter (st : Word) : Nat → Word
  | 0 => st
  | n + 1 => srAfter (srAdvance st) n

/-- Tile row r drained to type et and scale format sf over its first n columns, as the k-th row of the drain: the
converted row and b' (R153, R297). -/
def State.drainRow (s : State) (mode gen : Word) (tile r k et sf n : Nat) : ConvRow × Word :=
  let acc := mACC mode
  let q := s.myQuad
  let gid := s.t.gid
  let st := srAfter gen (k + 1)
  let vals := ((q.accRow gid acc tile r).take n).map fun x => match accFmt acc with
    | some f => f.dec x
    | none => Ex.ofInt (etInt 13 x)
  let row := convRow et sf ((List.zip (List.range n) vals).map fun p =>
    (p.2, (⟨mRND mode, mSAT mode, false, srValue st p.1⟩ : Rm)))
  (row, boundConv (sf == 0 && etHolds (accEt acc) et) (q.bound gid tile r) row.cs)

/-- The drained rows in order. -/
def State.drainRows (s : State) (p : PortOp) (x : DWord) (tile et sf n : Nat) : List (ConvRow × Word) :=
  (List.range (dCNT x + 1)).map fun k => s.drainRow p.mode p.gen tile (dFIRST x + k) k et sf n

/-- The image of R297: the rows, then under MX their scale bytes. A block of FP64 values (ACC 1) is
`mxBlock`'s choice (log 85). -/
def drainImage (et : Nat) (rows : List (ConvRow × Word)) : List Byte :=
  rows.flatMap (fun r => packRow et r.1.raws) ++ rows.flatMap fun r => r.1.scales.map fun x => BitVec.ofNat 8 x

/-- Under SR the team's generator advances once per row, at issue (R297, log 13). -/
def State.drainSr (s : State) (n : Nat) : State :=
  if mRND s.t.mode = 5 then { s with t := { s.t with srng := srAfter s.t.srng n } } else s

/-- MDRN and MDRS take these types (R298). -/
def drainEt (et : Nat) : Bool := et == 0 || et == 2 || et == 3 || et == 13 || (4 ≤ et && et ≤ 8)

/-- MDRN at the port (R298): bytes that no image covers are open. -/
def State.mdrnRun (s : State) (p : PortOp) (d a : Nat) : TileRes :=
  let x := p.op 0
  let lanes := s.t.lanes
  let et := mET p.mode
  let rows := s.drainRows p x a et (mSF p.mode) 128
  let img := drainImage et rows
  let word (o : Nat) : Word :=
    if o < img.length then BitVec.ofNat 32 (leNat ((img.drop o).take 4)) else BitVec.ofNat 32 (s.freeNat (fk 72 o))
  let image := (List.range ((img.length + 4 * lanes - 1) / (4 * lanes))).flatMap fun k =>
    (List.range lanes).map fun l => (1024 * (d + k) + l, word (4 * (k * lanes + l)))
  let bnds := if dBEN x then (List.zip (List.range rows.length) rows).map fun r => (1024 * dVBND x + r.1, r.2.2) else []
  .go (s.modT fun t => { t with v := sputs 0 ((image ++ bnds).filter fun w => !p.skip.contains w.1) t.v }) .ready

/-- MDRS at the port (R101, R298); stores whose bytes it overwrites read their source no later (R84, R170). -/
def State.mdrsRun (s : State) (p : PortOp) (a : Nat) : TileRes :=
  let x := p.op 0
  let et := mET p.mode
  let rows := s.drainRows p x a et (mSF p.mode) 128
  let img := drainImage et rows
  let bnd := if dBEN x then rows.flatMap fun r => leBytes 4 r.2.toNat else []
  let at_ := (p.op 1).toNat
  let hit (n : Nat) : Bool := (at_ ≤ n && n < at_ + img.length) || (dXTRA x ≤ n && n < dXTRA x + bnd.length)
  let s1 := s.settle fun e => e.blk == some s.t.bid && hit e.addr
  .go (s1.modBlock s.t.bid fun k => { k with scratch := sputRun 0 (dXTRA x) bnd (sputRun 0 at_ img k.scratch) }) .ready

/-- Pieces that MDRM writes for one row: pointer, offset, bytes (R155, R298). -/
def drainPieces (t : Tlr) (r : Nat) (row : ConvRow) (b : Word) : List (Nat × Nat × List Byte) :=
  [(t.base, t.rowOff r, packRow t.et row.raws)] ++
  (if t.sf = 0 then [] else [(t.scale, r * t.scaleLen, row.scales.map fun x => BitVec.ofNat 8 x)]) ++
  (if t.bound = 0 then [] else [(t.bound, 4 * r, leBytes 4 b.toNat)])

/-- The physical pieces of one row of MDRM, operation u, or what stops it (R98, R299). -/
def State.drainPa (s : State) (slot u : Nat) (l : List (Nat × Nat × List Byte)) : Got (List (Nat × Nat × List Byte)) :=
  (gotAll (fun (x : Nat × Nat × List Byte) =>
    (ptrPieces x.1 x.2.1 x.2.2.length).bind fun ps =>
      gotAll (fun (p : Nat × Nat) =>
        match s.xlate slot p.1 p.2 false true with
        | .fault c => .fault c p.1 true
        | .ends st => .ends st
        | .ok pa =>
          if isLocal pa && s.ownedBut u (lineOf pa) then .wait []
          else .ok (pa, p.1, (x.2.2.drop (p.1 % 2 ^ 56 - (x.1 % 2 ^ 56 + x.2.1))).take p.2)) ps) l).map fun x => x.flatten

/-- Write one row's pieces, unless one lies on a sealed line (R299): the state, and the pointer of a refused piece. -/
def State.drainWrite (s : State) (u : Nat) (l : List (Nat × Nat × List Byte)) : State × Option Nat :=
  match l.find? fun p => (s.sealAt p.1).isSome with
  | some p => (s.noteSealed p.1, some p.2.1)
  | none => (match s.eops.find? fun o => o.u == u with
    | some o => s.engWrite o (l.map fun p => (p.1, p.2.2))
    | none => s, none)

/-- The tensor rows of a drain to memory that belong to tile rows, as pieces of memory (R298). -/
def drainDest (o : EngOp) (rows : List Nat) : Spans :=
  let x := o.ops.getD 1 0
  rows.flatMap fun r => (Tlr.of (o.recs.getD 0 [])).rowArrays (dXTRA x + (r - dFIRST x))

/-- The rows of MDRM: rows k of the drain, in order; u is the handle of its operation, and rest are the rows still to come: the
lines of no such row have their final bytes (R98). -/
def State.drainMem (s : State) (slot u : Nat) (l : List (Nat × List (Nat × Nat × List Byte))) (rest : List Nat) :
    State × List (Nat × Nat) :=
  let r := l.foldl (fun (acc : State × List (Nat × Nat)) p => match acc.1.drainWrite u p.2 with
    | (s1, some ptr) => (s1, acc.2 ++ [(p.1, ptr)])
    | (s1, none) => (s1, acc.2)) (s, [])
  (r.1.modOp u fun o =>
    let open_ := r.1.spanLines slot (drainDest o rest) true
    { o with fin := o.lines.filter fun n => !open_.contains n }, r.2)

/-- MDRM's rows from the record, for tile rows todo (R155, R298, R299). -/
def State.mdrmRows (s : State) (slot u : Nat) (mode gen : Word) (tile : Nat) (x : DWord) (t : Tlr) (todo : List Nat) :
    RowRes (List (Nat × Nat × List Byte)) :=
  rowRes (todo.map fun r =>
    let k := r - dFIRST x
    let (row, b) := s.drainRow mode gen tile r k t.et t.sf t.dim0
    (r, s.drainPa slot u (drainPieces t (dXTRA x + k) row b)))

/-- Lines that MDRM, an engine operation, will write and that could not be translated at issue, are granted to it as they can
be; rows on sealed lines are refused (R97, R299). -/
def State.drainGrant (s : State) (slot u : Nat) : State :=
  match s.eops.find? fun o => o.u == u with
  | none => s
  | some o =>
    if o.wants.isEmpty then s
    else
      let (due, wants) := s.dueWants slot o
      let lines := due.filter s.unsealed
      (s.grant (towerOf o.core) lines).1.modOp u fun o => { o with
        lines := o.lines ++ lines, wants := wants
        vpages := (o.vpages ++ s.spanPages slot (destsOf o.kind o.ops o.recs).now).dedup }

/-- Bytes that row r of a drain is to write: row, virtual address, length (R38). -/
def drainSpans (t : Tlr) (x : DWord) (r : Nat) : Spans :=
  (t.rowArrays (dXTRA x + (r - dFIRST x))).map fun p => (r, (p.1 + p.2.1) % 2 ^ 56, p.2.2)

/-- MDRM at the port (R298, R299): rows that fault are parked, rows on sealed lines are refused, and it is complete when its
writes are performed. -/
def State.mdrmRun (s : State) (p : PortOp) (a : Nat) : TileRes :=
  let slot := (s.slotOf s.t.ctx).getD 0
  let x := p.op 1
  let t := Tlr.of p.rec_
  let s := s.drainGrant slot p.u
  let rr := s.mdrmRows slot p.u p.mode p.gen a x t ((List.range (dCNT x + 1)).map fun k => dFIRST x + k)
  match rr.ends with
  | some st => .ends st
  | none =>
    if rr.wait || (!rr.parked.isEmpty && 4 ≤ s.t.log.length) then .wait
    else
      let (s1, refused) := s.drainMem slot p.u rr.ok (rr.parked.map (·.1))
      let s1 := s1.noteXls (towerOf s.t.core) slot (rr.ok.flatMap fun r => r.2.map fun q => q.2.1)
      let causes := refused.map fun r => (⟨r.1, 9, r.2⟩ : LaneCause)
      if !rr.parked.isEmpty then
        .go (s1.parkRows p ([p.op 0, x, p.gen.setWidth 64] ++ recWords p.rec_) rr.parked causes
          (rr.parked.flatMap fun r => drainSpans t x r.1)) .ready
      else
        .go (s1.modT fun t => { t with dec := t.dec ++ laneDecs 2 a causes p.pc p.cl p.ord }) .window

/-- An MDRF of the team may name the stream (R394). -/
def State.streamKnown (s : State) (n : Nat) : Bool :=
  n < 256 && (s.stream n).v && (s.stream n).ctx == s.t.ctx && s.feature 8

/-- MDRF at the port (R156, R298, R395). -/
def State.mdrfRun (s : State) (p : PortOp) (a : Nat) : TileRes :=
  let x := p.op 0
  let st := (p.op 1).toNat
  if (List.range (dCNT x + 1)).any fun k => s.rowWaits s.t.core st (dFIRST x + k) then .wait
  else
    let rows := s.drainRows p x a 0 0 128
    .go ((List.zip (List.range rows.length) rows).foldl (fun s r =>
      s.rowArrive s.t.core st (dFIRST x + r.1) (r.2.1.raws.map (BitVec.ofNat 32)) r.2.2) s) .ready

/-! ### MCVT and the bound registers (R300, R301) -/

/-- The FP32 value of a converted element (R300). -/
def cvtBack (dt : Nat) (sc : Nat) (raw : Nat) : Nat := Fmt.fp32.round {} (mxValue dt sc raw)

/-- MCVT at the port (R300). -/
def State.mcvtRun (s : State) (p : PortOp) (d a b : Nat) : TileRes :=
  let gid := s.t.gid
  let sf := mSF p.mode
  let rows := (List.range 128).map fun r => s.drainRow p.mode p.gen a r r b sf 128
  let f (q : Quad) : Quad :=
    let q1 := (List.zip (List.range 128) rows).foldl (fun q r =>
      let row := (List.zip (List.range 128) r.2.1.raws).map fun e =>
        cvtBack b (if sf = 1 then r.2.1.scales.getD (e.1 / 32) 127 else 127) e.2
      (q.setAccRow gid 0 d r.1 row).setBound gid d r.1 r.2.2) q
    q1.setStat gid d (setProp false (q1.stat gid d))
  .go (s.modMyQuad f) .ready

/-- MBRD at the port (R301). -/
def State.mbrdRun (s : State) (p : PortOp) (d a : Nat) : TileRes :=
  let q := s.myQuad
  let f (l : Nat) : Word := if p.op 0 = 1 then q.stat p.gid a else if l < 128 then q.bound p.gid a l else 0
  let l := (List.range s.t.lanes).map fun l => (1024 * d + l, f l)
  .go (s.modT fun t => { t with v := sputs 0 (l.filter fun w => !p.skip.contains w.1) t.v }) .ready

/-- The larger of two bounds (R301). -/
def boundMax (x y : Word) : Word := if (boundEx x).lt (boundEx y) then y else x

/-- MBWR at the port (R139, R301). -/
def State.mbwrRun (s : State) (p : PortOp) (a : Nat) : TileRes :=
  let x := (p.op 0).toNat
  let f (q : Quad) : Quad :=
    let q1 := q.setStat p.gid a (q.stat p.gid a &&& ~~~(BitVec.ofNat 32 (x % 4)))
    if bits x 2 2 = 1 then
      (List.range 128).foldl (fun q r =>
        q.setBound p.gid a r (boundMax (q.bound p.gid a r) (readBound (x / 2 ^ 32)))) q1
    else q1
  .go (s.modMyQuad f) .ready

/-- The port's work, by instruction (R296 to R301). -/
def State.tileRun (s : State) (p : PortOp) : TileRes :=
  match p.instr with
  | .mzero d => s.mzeroRun p d
  | .mld d _ => s.mldRun p d
  | .mdrn d a _ => s.mdrnRun p d a
  | .mdrs _ a _ => s.mdrsRun p a
  | .mdrm _ a _ => s.mdrmRun p a
  | .mdrf _ a _ => s.mdrfRun p a
  | .mcvt d a b => s.mcvtRun p d a b
  | .mbrd d a _ => s.mbrdRun p d a
  | .mbwr a _ => s.mbwrRun p a
  | _ => .go s .ready

/-- The port's queue with p in its place in the order of issue: an operation that replays after a fault stands before
those issued later (R445). -/
def PortOp.insert (p : PortOp) : List PortOp → List PortOp
  | [] => [p]
  | x :: r => if p.u < x.u then p :: x :: r else x :: p.insert r

/-- The port's work of the selected team, with its outstanding instruction: it is done at once when nothing issued earlier
waits at the port and no earlier operation on its tiles is incomplete, and else waits in the order of issue (R159, R445). -/
def State.portSubmit (s : State) (p : PortOp) : State :=
  let later := s.modMyQuad fun q => { q with port := p.insert q.port }
  if (s.myQuad.port.any fun x => x.u < p.u) || s.tileBusy p then later
  else match s.tileRun p with
    | .go s1 on => s1.portEnd p.u on
    | .wait => later
    | .ends st => s.endCtx s.t.ctx st

/-- The first in a quad's port has its turn, if it can start (R159, R445). -/
def State.portTurn (s : State) (q : Nat) : State :=
  match (s.quadD q).port with
  | [] => s
  | p :: rest => s.onTeam p.tid fun s =>
      if s.t.tid != p.tid || s.t.life != Life.live || s.ctxEnding s.t.ctx || s.tileBusy p then s
      else match s.tileRun p with
        | .go s1 on => (s1.portEnd p.u on).modQuad q fun x => { x with port := rest }
        | .wait => s
        | .ends st => s.endCtx s.t.ctx st

/-- The selected team's tile instruction i is outstanding, and goes to the port (R169, R445). -/
def State.tileIssue (s : State) (i : Instr) (ops : List DWord) (rec_ : List Byte) (tiles regs : List Nat) : State :=
  ((s.attach .port [] [] []).portSubmit (s.portOp i ops rec_ tiles regs)).done i

/-- The same for a drain or conversion, whose n rows take the generator's states up to then and leave it n further
under SR (R297). -/
def State.tileDrain (s : State) (n : Nat) (i : Instr) (ops : List DWord) (rec_ : List Byte) (tiles regs : List Nat) :
    State :=
  let p := s.portOp i ops rec_ tiles regs
  (((s.drainSr n).attach .port [] [] []).portSubmit p).done i

/-! ### The instructions -/

/-- MZERO (R296). -/
def execMzero (d : Nat) (s : State) : Out :=
  .next (issue (.mzero d) s fun s =>
    let cs := s.tileCauses (Instr.mzero d).word d []
    if !cs.isEmpty then s.raiseAll cs
    else s.tileIssue (.mzero d) [] [] (accTiles d (mACC s.t.mode)) [])

/-- Rows of a load are read under the handle u of its instruction, which has read the lines of `seen` (R71, R98, R296). Answers
the state with those reads, the lines read now, and what the rows give. -/
def State.mldRead (s : State) (slot : Nat) (who : Asker) (u : Nat) (t : Tlr) (seen : Reads) (rows : List Nat) :
    State × Reads × RowRes (List Nat × Word) :=
  let rr := rowRes (rows.map fun r => (r, s.mldRow slot who u t r))
  let (s1, rd) := s.noteVirtOnce (.engine (towerOf s.t.core)) slot seen (rr.ok.flatMap fun r => s.mldRuns slot who u t r.1)
  (s1, rd, rr)

/-- Bytes that rows of a load read: row, virtual address, length (R38). -/
def State.mldSpans (s : State) (slot : Nat) (who : Asker) (u : Nat) (t : Tlr) (rows : List Nat) : Spans :=
  rows.flatMap fun r => (s.mldRuns slot who u t r).map fun x => (r, x.1 % 2 ^ 56, x.2)

/-- MLD takes this record under an accumulate type (R296). -/
def mldOk (t : Tlr) (acc : Nat) : Bool := t.valid && t.et == accEt acc && t.sf == 0 && !t.sparse

/-- The rows of a tile that a load leaves zero. -/
def zeroRows (t : Tlr) : List (Nat × List Nat × Word) :=
  ((List.range 128).filter fun r => !(mldRows t).contains r).map fun r => (r, [], 0)

/-- MLD's effect once its record is read. -/
def State.mldGo (s : State) (i : Instr) (d : Nat) (sa : DWord) (rec_ : List Byte) : State :=
  let slot := (s.slotOf s.t.ctx).getD 0
  let t := Tlr.of rec_
  let acc := mACC s.t.mode
  if !mldOk t acc then s.raiseAll [(4, i.word.toNat * 2 ^ 32 + s.t.mode.toNat)]
  else
    let p := s.portOp i [sa] rec_ (accTiles d acc) []
    let who := s.recordWho
    let (s0, rec0) := s.recordReads slot [(sa.toNat, 64)]
    let (s1, rd, rr) := s0.mldRead slot who p.u t rec0 (mldRows t)
    if s.spanHeld ((s.mldSpans slot who p.u t (mldRows t)).map fun x => x.2) then s.hold (if rr.wait then .other else .held)
    else match rr.ends with
      | some st => (s.endCtx s.t.ctx st).hold .other
      | none =>
        if rr.wait then (s.askFor who rr.runs).hold .other
        else if !rr.parked.isEmpty && 4 ≤ s.t.log.length then s.hold .held
        else
          let s3 := if rr.parked.isEmpty then (s1.paid rd).attach .port [] [] []
            else (s1.attach .port [] [] []).parkRows p (sa :: recWords rec_) rr.parked []
              (s.mldSpans slot who p.u t (rr.parked.map (·.1))) rd
          (s3.portSubmit { p with rows := rr.ok ++ zeroRows t }).done i

/-- MLD (R296). -/
def execMld (d a : Nat) (s : State) : Out :=
  .next (issue (.mld d a) s fun s =>
    let p := (s.rs a).toNat
    let cs := s.tileCauses (Instr.mld d a).word d (if p % 64 ≠ 0 then [(6, p)] else [])
    if !cs.isEmpty then s.raiseAll cs
    else match s.recordStop [(p, 64)] with
    | some k => s.hold k
    | none => match s.readRecord s.recordWho p 64 with
      | .fault c q => s.parkRedo (.mld d a) [s.rs a] [] [] c q [(p, 64)]
      | .ends st => (s.endCtx s.t.ctx st).hold .other
      | .wait l => (s.askFor s.recordWho l).hold .other
      | .ok bs => s.mldGo (.mld d a) d (s.rs a) bs)

/-- MDRN (R298). -/
def execMdrn (d a b : Nat) (s : State) : Out :=
  .next (issue (.mdrn d a b) s fun s =>
    let i := Instr.mdrn d a b
    let x := s.rs b
    let et := mET s.t.mode
    let sf := mSF s.t.mode
    let lanes := s.t.lanes
    let bad := !drainOk x false true true || lanes % 32 != 0 || (dBEN x && lanes ≤ dCNT x) || s.t.vregs ≤ dVBND x
    let cs := s.tileCauses i.word a ((if bad then [(2, i.word.toNat)] else []) ++
      s.drainType i.word s.t.mode et sf (drainEt et))
    if !cs.isEmpty then s.raiseAll cs
    else
      let regs := (List.range (imageRegs et sf lanes (dCNT x + 1))).map (d + ·) ++ if dBEN x then [dVBND x] else []
      s.tileDrain (dCNT x + 1) i [x] [] (accTiles a (mACC s.t.mode)) regs)

/-- MDRS (R101, R298). -/
def execMdrs (d a b : Nat) (s : State) : Out :=
  .next (issue (.mdrs d a b) s fun s =>
    let i := Instr.mdrs d a b
    let w := i.word
    let x := s.rs b
    let o := (s.rs d).toNat
    let et := mET s.t.mode
    let sf := mSF s.t.mode
    let size := match s.myBlock? with | some k => k.scratchSize | none => 0
    let n := dCNT x + 1
    let len := n * (128 / etCount et * etBytes et + (if sf = 1 then 4 else 0))
    let space := (if size < o + len then [(5, o)] else if dBEN x ∧ size < dXTRA x + 4 * n then [(5, dXTRA x)] else []) ++
      (if o % 32 ≠ 0 then [(6, o)] else if dBEN x ∧ dXTRA x % 4 ≠ 0 then [(6, dXTRA x)] else [])
    let cs := s.tileCauses w a ((if drainOk x true false true then [] else [(2, w.toNat)]) ++
      s.drainType w s.t.mode et sf (drainEt et) ++ space)
    if !cs.isEmpty then s.raiseAll cs
    else
      let s1 := s.tileDrain n i [x, s.rs d] [] (accTiles a (mACC s.t.mode)) []
      let mark (f : Infl) : Infl := if f.u = s.uid then { f with drain := true } else f
      s1.modT fun t => { t with infl := t.infl.map mark })

/-- Causes of MDRM's record under a MODE: its type, then its rows (R298). -/
def State.mdrmCauses (s : State) (w mode : Word) (sd x : DWord) (rec_ : List Byte) : List (Nat × Nat) :=
  let t := Tlr.of rec_
  let cs := s.drainType w mode t.et t.sf (t.valid && !t.sparse && t.dim0 ≤ 128)
  if !cs.isEmpty then cs else if t.rows < dXTRA x + dCNT x + 1 then [(5, sd.toNat)] else []

/-- MDRM's issue is a release at device scope, and no other operation owns its destination (R97). -/
def State.mdrmReady (s : State) (slot : Nat) (sd x : DWord) (rec_ : List Byte) : Bool :=
  s.released 3 && !(s.spanLines slot (destsOf 3 [sd, x] [rec_]).now true).any fun n => s.granted (128 * n)

/-- MDRM becomes an engine operation with handle u, and has its grants (R97, R299). -/
def State.mdrmOp (s : State) (slot u : Nat) (mode : Word) (sd x : DWord) (rec_ : List Byte) : State :=
  let d := (destsOf 3 [sd, x] [rec_]).now
  let lines := (s.spanLines slot d true).filter s.unsealed
  let op : EngOp :=
    { u := u, kind := 3, tid := s.t.tid, ctx := s.t.ctx, gid := s.t.gid, core := s.t.core, seq := 0, lit := 0
      mode := mode, ops := [sd, x], recs := [rec_], place := s.t.place, bid := s.t.bid, cluster := s.myCluster
      vpages := s.spanPages slot d, wants := s.spanWants slot d
      lines := lines, olds := [], status := none, fseq := 0, pages := [], seals := [] }
  let s1 := (s.grant (towerOf s.t.core) lines).1
  { s1 with eops := s1.eops ++ [op] }

/-- MDRM's issue once its record is read (R97, R298, R299). -/
def State.mdrmGo (s : State) (i : Instr) (a : Nat) (sd x : DWord) (rec_ : List Byte) : State :=
  let slot := (s.slotOf s.t.ctx).getD 0
  let cs := s.mdrmCauses i.word s.t.mode sd x rec_
  if !cs.isEmpty then s.raiseAll cs
  else if !s.mdrmReady slot sd x rec_ then s.hold .other
  else ((s.noteRecords [(sd.toNat, 64)]).mdrmOp slot s.uid s.t.mode sd x rec_).tileDrain (dCNT x + 1) i [sd, x] rec_ (accTiles a (mACC s.t.mode)) []

/-- MDRM (R298, R299). -/
def execMdrm (d a b : Nat) (s : State) : Out :=
  .next (issue (.mdrm d a b) s fun s =>
    let i := Instr.mdrm d a b
    let x := s.rs b
    let p := (s.rs d).toNat
    let cs := s.tileCauses i.word a ((if drainOk x true false false then [] else [(2, i.word.toNat)]) ++
      (if p % 64 ≠ 0 then [(6, p)] else []))
    if !cs.isEmpty then s.raiseAll cs
    else if s.recordOwned p 64 then s.hold .other
    else match s.readRecord s.recordWho p 64 with
      | .fault c q => s.parkRedo i [s.rs d, x] [] [] c q [(p, 64)]
      | .ends st => (s.endCtx s.t.ctx st).hold .other
      | .wait l => (s.askFor s.recordWho l).hold .other
      | .ok bs => s.mdrmGo i a (s.rs d) x bs)

/-- MDRF (R156, R298, R395). -/
def execMdrf (d a b : Nat) (s : State) : Out :=
  .next (issue (.mdrf d a b) s fun s =>
    let i := Instr.mdrf d a b
    let w := i.word
    let x := s.rs b
    let st := (s.rs d).toNat
    let cs := s.tileCauses w a ((if drainOk x false false false then [] else [(2, w.toNat)]) ++
      s.drainType w s.t.mode (mET s.t.mode) (mSF s.t.mode) (mET s.t.mode == 0) ++
      (if s.streamKnown st then [] else [(5, st)]))
    if !cs.isEmpty then s.raiseAll cs
    else s.tileDrain (dCNT x + 1) i [x, s.rs d] [] (accTiles a (mACC s.t.mode)) [])

/-- MCVT (R132, R300): a type that the profile lacks comes before Illegal-Mode (R12, R181). -/
def execMcvt (d a b : Nat) (s : State) : Out :=
  .next (issue (.mcvt d a b) s fun s =>
    let i := Instr.mcvt d a b
    let w := i.word
    let acc := mACC s.t.mode
    let cs := s.tileCauses w a ((if (accTiles a acc).contains d then [(2, w.toNat)] else []) ++
      (if !etOn s.pkg.profH b then [(3, w.toNat * 2 ^ 32 + etCapBit b)]
       else if b = 1 || 9 ≤ b || acc = 2 || !sfPairs (mSF s.t.mode) b then [(4, w.toNat * 2 ^ 32 + s.t.mode.toNat)]
       else []))
    if !cs.isEmpty then s.raiseAll cs
    else s.tileDrain 128 i [] [] (d :: accTiles a acc) [])

/-- MBRD (R301). -/
def execMbrd (d a b : Nat) (s : State) : Out :=
  .next (issue (.mbrd d a b) s fun s =>
    if 2 ≤ (s.rs b).toNat then s.illegal (Instr.mbrd d a b).word
    else s.tileIssue (.mbrd d a b) [s.rs b] [] [a] [d])

/-- MBWR (R139, R301). -/
def execMbwr (a b : Nat) (s : State) : Out :=
  .next (issue (.mbwr a b) s fun s =>
    if bits (s.rs b).toNat 31 3 ≠ 0 then s.illegal (Instr.mbwr a b).word
    else s.tileIssue (.mbwr a b) [s.rs b] [] [a] [])

end Sys2Proof.Machine
end

