-- ==== Sys2Proof/Machine/Place.lean ====
section
/-! DEFINITION. What the distributor needs: resources of cores and quads, eligibility, putting blocks on cores, and the
state of a starting team (R24 to R30, R58, R64, R140, R260, R278, R389, R390). -/

namespace Sys2Proof.Machine

/-! ### Resources in use -/

/-- Resident teams of a core; a team that has exited holds nothing (R35). -/
def State.coreTeams (s : State) (core : Nat) : List Team :=
  s.teams.filter fun t => t.core == core && t.life == Life.live

def State.coreBlocks (s : State) (core : Nat) : List Block :=
  s.blocks.filter fun b => b.core == core && b.life == BlockLife.resident

/-- Number of resident teams of several cores. -/
def State.nTeams (s : State) (cores : List Nat) : Nat :=
  s.teams.countP fun t => cores.contains t.core && t.life == Life.live

def natSum (l : List Nat) : Nat := l.foldl (· + ·) 0

/-- Groups of a team of this record. -/
def LaunchRec.groups (r : LaunchRec) : Nat := (r.lanes + 31) / 32

/-- The core has the resources of a block of nt teams free (R26). -/
def State.coreFits (s : State) (core : Nat) (r : LaunchRec) (nt : Nat) : Bool :=
  let ts := s.coreTeams core
  let bs := s.coreBlocks core
  ts.length + nt ≤ 64 &&
  natSum (ts.map fun t => t.ngroups * t.vregs) + nt * r.groups * r.regs ≤ 16384 &&
  natSum (bs.map (·.scratchSize)) + r.scratch ≤ 2 ^ 20 &&
  natSum (bs.map fun b => b.bars.length) + r.barriers ≤ 32 && bs.length < 16

def State.quadBusy (s : State) (q : Nat) : Bool :=
  s.blocks.any fun b => b.life == BlockLife.resident && quadOf b.core == q

/-- The quad can take a block of the grid's cluster (R29, R58, R64, R278, R389). -/
def State.quadFits (s : State) (q gid : Nat) (r : LaunchRec) (cluster : Nat) : Bool :=
  let x := s.quadD q
  (r.cupSize == 0 || (x.cups.any fun c => c.gid == gid) || natSum (x.cups.map (·.size)) + r.cupSize ≤ 262144) &&
  (r.tiles == 0 || (s.engineOn q && ((x.tgrants.any fun g => g.gid == gid) ||
    natSum (x.tgrants.map fun g => g.tiles.length) + r.tiles ≤ 16))) &&
  (r.qbar == 0 || (r.cluster != 0 && x.qgrants.any fun g => g.gid == gid && g.cluster == cluster) ||
    natSum (x.qgrants.map fun g => g.bars.length) + r.qbar ≤ 8) &&
  (x.fused == r.l1f || !s.quadBusy q)

/-- The core is eligible for a block of nt teams (R389). -/
def State.eligible (s : State) (core gid : Nat) (r : LaunchRec) (cluster nt : Nat) : Bool :=
  !(s.core core).fenced && !s.regs.towerlost.getLsbD (towerOf core) && s.coreFits core r nt &&
  s.quadFits (quadOf core) gid r cluster

/-! ### Grants -/

/-- Cores of a quad. -/
def quadCores (q : Nat) : List Nat := (List.range 4).map fun i => 4 * q + i

/-- The quad's L1 takes the state that the launch asks for; the change writes back and invalidates its arrays (R64). -/
def State.fuseQuad (s : State) (q : Nat) (l1f : Bool) : State :=
  if (s.quadD q).fused = l1f then s
  else
    let holders := (640 + q) :: quadCores q
    let s1 := (s.caches.l1.filter fun e => holders.contains e.holder).foldl (fun s e => s.evictLine e) s
    (holders.foldl (fun s h => s.winDrop h) s1).modQuad q fun x => { x with fused := l1f }

/-- The Cupboard allocation, to be filled (R58). -/
def Quad.grantCup (q : Quad) (gid size : Nat) : Quad :=
  if size = 0 ∨ q.cups.any (fun c => c.gid == gid) then q
  else { q with cups := q.cups ++ [{ gid := gid, size := size, bytes := [], filled := 0, done := false, fseq := 0 }] }

/-- The physical tiles that are free, ascending. -/
def Quad.freeTiles (q : Quad) : List Nat :=
  (List.range 16).filter fun n => !q.tgrants.any fun g => g.tiles.contains n

/-- The grid's tiles, holding zeros, with zero bounds and status words (R140, R278). -/
def Quad.grantTiles (q : Quad) (gid n : Nat) : Quad :=
  if n = 0 ∨ q.tgrants.any (fun g => g.gid == gid) then q
  else
    let ts := q.freeTiles.take n
    { q with
      tgrants := q.tgrants ++ [⟨gid, ts⟩]
      tiles := ts.foldl (fun m k => sclear (16384 * k) (16384 * k + 16384) m) q.tiles
      bounds := ts.foldl (fun m k => sclear (128 * k) (128 * k + 128) m) q.bounds
      bstat := ts.foldl (fun m k => sclear k (k + 1) m) q.bstat }

/-- Quad barriers for a cluster or block, and more members for those it holds already (R29, R260). -/
def Quad.grantBars (q : Quad) (gid cluster n : Nat) (tids : List Nat) : Quad :=
  if n = 0 then q
  else if q.qgrants.any fun g => g.gid == gid && g.cluster == cluster then
    let f (g : QGrant) : QGrant :=
      if g.gid == gid && g.cluster == cluster then { g with bars := g.bars.map fun b => { b with mem := b.mem ++ tids } }
      else g
    { q with qgrants := q.qgrants.map f }
  else { q with qgrants := q.qgrants ++ [⟨gid, cluster, List.replicate n { mem := tids }⟩] }

/-! ### Teams (R24, R30) -/

/-- TVEC at team start (R209, R383). -/
def LaunchRec.tvec (r : LaunchRec) : DWord :=
  let h : BitVec 24 := BitVec.ofNat 24 (bits r.handctx.toNat 31 8)
  if h = 0 then 0 else (BitVec.ofNat 64 r.addr + (h.signExtend 64) * 128) ||| 1

/-- The state of a team at its start (R24). -/
def Team.start (g : Grid) (bid rank core tid idx place slot : Nat) : Team :=
  let r := g.lrec
  let x := rank % r.extX
  let y := rank / r.extX % r.extY
  let z := rank / (r.extX * r.extY)
  { tid := tid, ctx := g.ctx, gid := g.gid, bid := bid, idx := idx, core := core, place := place, slot := slot
    lanes := r.lanes, vregs := r.regs, pc := BitVec.ofNat 64 r.addr
    s := sputs 0 [(0, BitVec.ofNat 64 x), (1, BitVec.ofNat 64 y), (2, BitVec.ofNat 64 z), (3, BitVec.ofNat 64 idx),
      (4, BitVec.ofNat 64 r.extX), (5, BitVec.ofNat 64 (r.extY + 2 ^ 32 * r.extZ)), (6, r.args),
      (7, BitVec.ofNat 64 g.lid)] []
    v := ((List.range r.lanes).map fun l => (l, BitVec.ofNat 32 l)).filter fun p => p.2 ≠ 0
    mask := BitVec.ofNat 1024 (2 ^ r.lanes - 1)
    srng := srSeed (r.seed ^^^ BitVec.ofNat 32 (rank * 16 + idx))
    depth := g.depth, tvec := r.tvec, life := .live }

/-- The lowest team place of a core that no team holds. -/
def State.freePlace (s : State) (core : Nat) : Nat :=
  ((List.range 64).find? fun p => !(s.coreTeams core).any fun t => t.place == p).getD 0

/-- The home slot for the next team of a core: the fewest groups bound, the lowest number on a tie (R30). -/
def State.homeSlot (s : State) (core : Nat) : Nat :=
  let load (k : Nat) : Nat := natSum (((s.coreTeams core).filter fun t => t.slot == k).map (·.ngroups))
  (List.range 4).foldl (fun best k => if load k < load best then k else best) 0

/-- Add the teams of a block, in ascending index. -/
def State.addTeams (s : State) (g : Grid) (bid rank core : Nat) (tids : List Nat) : State :=
  ((List.range tids.length).zip tids).foldl (fun (s : State) p =>
    -- its fetches follow the writes before its launch (R94, R106, R350)
    { s with others := s.others ++ [{ Team.start g bid rank core p.2 p.1 (s.freePlace core) (s.homeSlot core) with
        codeAt := s.free + 1 }] }) s

/-- Put a new block of a grid on a core: its grants, its barriers, its teams (R26, R27, R29). -/
def State.putNew (s : State) (g : Grid) (rank core : Nat) : State :=
  let r := g.lrec
  let q := quadOf core
  let cluster := clusterOf r rank
  let bid := s.uid
  let tids := (List.range r.teams).map fun i => bid + 1 + i
  let b : Block :=
    { bid := bid, gid := g.gid, x := rank % r.extX, y := rank / r.extX % r.extY, z := rank / (r.extX * r.extY)
      rank := rank, core := core, life := .resident, scratchSize := r.scratch, scratch := []
      bars := List.replicate r.barriers { mem := tids }, started := false, order := bid, save := none }
  let s1 := (s.fuseQuad q r.l1f).modQuad q fun x =>
    ((x.grantCup g.gid r.cupSize).grantTiles g.gid r.tiles).grantBars g.gid cluster r.qbar tids
  let s2 : State := { s1 with uid := bid + 1 + r.teams, blocks := s1.blocks ++ [b] }
  (s2.addTeams g bid rank core tids).modGrid g.gid fun g => { g with
    next := g.next + 1
    gbars := if r.gang then g.gbars.map fun b => { b with mem := b.mem ++ tids } else g.gbars }

/-- The Cupboard of the grid on the block's quad is filled, or it has none (R58). -/
def State.cupReady (s : State) (g : Grid) (b : Block) : Bool :=
  g.lrec.cupSize == 0 || (s.quadD (quadOf b.core)).cups.any fun c => c.gid == g.gid && c.done

/-- Start the blocks of a grid whose fills are complete; those of a gang all at once, and those of a unit that is being
restored with the rest of it; none where it may not run (R18, R58, R390, R421). -/
def State.startBlocks (s : State) (gid : Nat) : State :=
  match s.grid? gid with
  | none => s
  | some g =>
    let waiting := s.blocks.filter fun b => b.gid == gid && b.life == BlockLife.resident && !b.started &&
      !s.restoring.any fun u => u.blocks.contains b.bid
    let can (b : Block) : Bool := s.cupReady g b && !s.barred b.core g.lrec
    let go := if g.lrec.gang && !waiting.all can then [] else (waiting.filter can).map (·.bid)
    if go.isEmpty then s
    else { s with blocks := s.blocks.map fun b => if go.contains b.bid then { b with started := true } else b }

/-! ### Choosing cores (R389, R390) -/

/-- Cores of a tower; every core. -/
def towerCores (t : Nat) : List Nat := (List.range 80).map fun i => 80 * t + i
def allCores : List Nat := List.range Config.nCores

/-- The core, of an ascending list, with the fewest resident teams, the lower number on a tie. -/
def State.fewest (s : State) (cores : List Nat) : Option Nat :=
  (cores.foldl (fun (b : Option (Nat × Nat)) c =>
    let n := s.nTeams [c]
    match b with
    | none => some (n, c)
    | some x => if n < x.1 then some (n, c) else b) none).map (·.2)

/-- Put items one after another, each on the eligible core with the fewest resident teams (R389, R390). -/
def putAll (elig : State → Nat → Nat → Bool) (put : State → Nat → Nat → State) (cores : List Nat) :
    List Nat → State → Option State
  | [], s => some s
  | i :: r, s =>
    match s.fewest (cores.filter fun c => elig s i c) with
    | none => none
    | some c => putAll elig put cores r (put s i c)

/-- Put items in rank order on distinct cores in ascending number (R389). -/
def putDistinct (elig : State → Nat → Nat → Bool) (put : State → Nat → Nat → State) :
    List Nat → List Nat → State → Option State
  | _, [], s => some s
  | [], _ :: _, _ => none
  | c :: cs, i :: r, s =>
    if elig s i c then putDistinct elig put cs r (put s i c) else putDistinct elig put cs (i :: r) s

/-- Insert by a key, behind equal keys. -/
def insertBy {α : Type} (k : α → Nat) (x : α) : List α → List α
  | [] => [x]
  | y :: r => if k x < k y then x :: y :: r else y :: insertBy k x r
def sortBy {α : Type} (k : α → Nat) (l : List α) : List α := l.foldl (fun acc x => insertBy k x acc) []

/-- What must be put together: single items, or a group for one quad, on distinct cores if it is a cluster. -/
structure Together where
  items : List Nat
  oneQuad : Bool
  distinct : Bool
  deriving DecidableEq, Repr

/-- Put a group within the cores given: a group for one quad goes to the quad with the fewest resident teams that takes
it, the lower number on a tie (R29, R389). -/
def putGroup (elig : State → Nat → Nat → Bool) (put : State → Nat → Nat → State) (cores : List Nat) (g : Together)
    (s : State) : Option State :=
  if !g.oneQuad then putAll elig put cores g.items s
  else
    let quads := sortBy (fun q => s.nTeams (quadCores q)) (cores.map quadOf).dedup
    quads.findSome? fun q =>
      let cs := cores.filter fun c => quadOf c == q
      if g.distinct then putDistinct elig put cs g.items s else putAll elig put cs g.items s

/-- Put several groups. -/
def putGroups (elig : State → Nat → Nat → Bool) (put : State → Nat → Nat → State) (cores : List Nat) :
    List Together → State → Option State
  | [], s => some s
  | g :: r, s => match putGroup elig put cores g s with
    | none => none
    | some s1 => putGroups elig put cores r s1

/-- The scopes of a gang's class, as lists of cores, in the order tried (R390). -/
def State.scopes (s : State) (lclass : Nat) : List (List Nat) :=
  match lclass with
  | 0 => (List.range Config.nQuads).map quadCores
  | 1 => (sortBy (fun t => s.nTeams (towerCores t)) (List.range Config.nTowers)).map towerCores
  | _ => [allCores]

/-- Ranks from lo to hi as groups: clusters, or single blocks (R29). -/
def LaunchRec.togethers (r : LaunchRec) (lo hi : Nat) : List Together :=
  let ranks := (List.range (hi - lo)).map (lo + ·)
  if r.cluster = 0 then ranks.map fun k => ⟨[k], false, false⟩
  else ((ranks.map (clusterOf r)).dedup).map fun c => ⟨ranks.filter fun k => clusterOf r k == c, true, true⟩

/-- The ranks of the grid's next block, or of its next cluster (R388). -/
def Grid.nextItem (g : Grid) : Together :=
  let r := g.lrec
  if r.cluster = 0 then ⟨[g.next], false, false⟩
  else
    let c := clusterOf r g.next
    ⟨((List.range r.cluster).map (g.next + ·)).filter fun k => k < r.nBlocks && clusterOf r k == c, true, true⟩

/-- Eligibility of a core for a new block of a grid. -/
def eligNew (g : Grid) (s : State) (rank core : Nat) : Bool :=
  s.eligible core g.gid g.lrec (clusterOf g.lrec rank) g.lrec.teams

/-- A placement of a whole gang (R390): each scope in turn, its cores as far as f allows. -/
def State.putGang (s : State) (g : Grid) (f : Nat → Bool) : Option State :=
  if 16 * Config.nCores < g.lrec.nBlocks then none
  else (s.scopes g.lrec.lclass).findSome? fun cores =>
    putGroups (eligNew g) (fun s k c => s.putNew g k c) (cores.filter f) (g.lrec.togethers 0 g.lrec.nBlocks) s

/-- Cores are claimed against a grid by a pressing gang of its effective class or above (R390). -/
def State.claimed (s : State) (g : Grid) (core : Nat) : Bool :=
  s.grids.any fun h => h.pressing && h.gid != g.gid && g.cls ≤ h.cls && h.claims.contains (towerOf core)

end Sys2Proof.Machine
end

