-- ==== Sys2Proof/Machine/Launch.lean ====
section
/-! DEFINITION. Launch records, their refusal, queues, grid completion, LAUNCH and CWAIT (R34, R35, R48, R193, R194,
R382 to R391). -/

namespace Sys2Proof.Machine

/-- A launch record from its 64 bytes (R382). -/
def LaunchRec.of (bs : List Byte) : LaunchRec :=
  let f (o n : Nat) : Nat := leNat ((bs.drop o).take n)
  { entry := BitVec.ofNat 64 (f 0x00 8), args := BitVec.ofNat 64 (f 0x08 8), cupimg := BitVec.ofNat 64 (f 0x10 8)
    grid := BitVec.ofNat 64 (f 0x18 8), shape := BitVec.ofNat 32 (f 0x20 4), mem := BitVec.ofNat 32 (f 0x24 4)
    handctx := BitVec.ofNat 32 (f 0x28 4), seed := BitVec.ofNat 32 (f 0x2C 4)
    prereq := [f 0x30 4, f 0x34 4, f 0x38 4, f 0x3C 4] }

/-! ### Refusal (R384) -/

/-- The gang can be resident whole, within its class, with no other work resident (R384, R390). -/
def State.gangFits (s : State) (r : LaunchRec) : Bool :=
  (State.putGang { s with t := {}, others := [], blocks := [], grids := [], quads := [] }
    { Grid.none with lrec := r } (fun _ => true)).isSome

/-- Some quad has n cores that are not fenced. -/
def State.quadWith (s : State) (n : Nat) : Bool :=
  (List.range Config.nQuads).any fun q => n ≤ (quadCores q).countP fun c => !(s.core c).fenced

/-- A grid is incomplete. -/
def Grid.incomplete (g : Grid) : Bool := g.st != GridSt.complete

/-- The launch id names an incomplete launch of the context (R385). -/
def State.lidUsed (s : State) (ctx lid : Nat) : Bool := s.grids.any fun g => g.ctx == ctx && g.lid == lid && g.incomplete

/-- The refusal code of a record (R384); host holds the launch id and the header's CTX of a LAUNCH message. -/
def State.refusal (s : State) (r : LaunchRec) (host : Option (Nat × Nat)) : Option Nat :=
  let bad09 : Bool := match host with
    | some (_, c) => (s.slotOf c).isNone || s.ctxEnding c || r.ctx != c
    | none => false
  let bad0B : Bool := match host with
    | some (lid, c) => lid == 0 || 2 ^ 31 ≤ lid || s.lidUsed c lid
    | none => false
  if bits r.entry.toNat 6 6 != 0 || bits r.cupimg.toNat 11 11 != 0 || (r.cupSize == 0 && r.image != 0) then some 0x01
  else if 2 ^ 32 < r.nBlocks then some 0x02
  else if 32 < r.barriers || 8 < r.qbar || bits r.shape.toNat 26 25 == 3 || 16 < r.tiles || r.lclass == 3 ||
      (r.lclass != 0 && !r.gang) then some 0x03
  else if 2 ^ 21 < r.teams * r.groups * (r.regs / 8) * 1024 || 2 ^ 20 < r.scratch then some 0x04
  else if 64 * 4096 < r.cupSize then some 0x05
  else if 64 < r.wlcnt || (r.wlcnt != 0 && r.wlcap == 0) then some 0x06
  else if r.gang && !s.gangFits r then some 0x07
  else if (r.lclass == 2 && !s.feature 2) || (r.l1f && !s.feature 3) || (host.isNone && !s.feature 1) then some 0x08
  else if bad09 then some 0x09
  else if (r.tiles != 0 && !(List.range Config.nQuads).any s.engineOn) || !s.quadWith r.cluster then some 0x0A
  else if bad0B then some 0x0B
  else none

/-! ### Queues (R387) -/

/-- The queue of a launch, and how many launches one holds (R381, R387). -/
def Grid.queue (g : Grid) : Nat := 4 * g.lrec.prio + g.qsel
def State.qlevel (s : State) (q : Nat) : Nat :=
  s.grids.countP fun g => (g.st == GridSt.held || g.st == GridSt.queued) && g.queue == q

/-- A grid enters Queued (R48, R388): the first whole cycle that it spends there is the next (R390). -/
def State.toQueue (s : State) (g : Grid) : Grid :=
  { g with st := .queued, cls := g.lrec.prio, clsAt := s.fab + 1, queuedAt := s.fab }

/-- Enqueue a launch whose record has passed its checks (R387). -/
def State.enqueue (s : State) (ctx lid qsel depth : Nat) (parent : Option Nat) (r : LaunchRec) : State :=
  let watched := (s.grids.filter fun g => g.ctx == ctx && g.incomplete && g.lid != 0 && r.prereq.contains g.lid).map (·.gid)
  let g : Grid :=
    { Grid.none with gid := s.uid, lid := lid, ctx := ctx, lrec := r, parent := parent, depth := depth, qsel := qsel
                     watched := watched, gbars := if r.gang then List.replicate 4 {} else [] }
  { s with uid := s.uid + 1, grids := s.grids ++ [if watched.isEmpty then s.toQueue g else g] }

/-- Send COMPLETE (R391). -/
def State.sendComplete (s : State) (ctx lid status code : Nat) (tstart : DWord) (blocks : Nat) : State :=
  s.send 0 0x02 ctx 0 (leBytes 4 lid ++ leBytes 1 status ++ leBytes 1 code ++ leBytes 2 0 ++ leBytes 8 tstart.toNat ++
    leBytes 8 s.pkg.clk.toNat ++ leBytes 8 blocks)

/-- A grid is over: its image reference falls, COMPLETE goes out for a host launch, and the launches that watch it go on
(R48, R59, R74, R387, R391). -/
def State.gridOver (s : State) (g : Grid) (status code blocks : Nat) : State :=
  let s1 := match g.imgSeal with | some b => s.refSeals [b] false | none => s
  let s2 := match g.parent with
    | none => s1.sendComplete g.ctx g.lid status code g.tstart blocks
    | some _ => s1
  let free (h : Grid) : Grid :=
    if h.watched.contains g.gid then
      let h1 := { h with watched := h.watched.filter fun x => x != g.gid }
      if h1.watched.isEmpty && h1.st == GridSt.held then s.toQueue h1 else h1
    else h
  { s2 with grids := (s2.grids.filter fun (h : Grid) => h.gid != g.gid).map free }

/-- All blocks retired, all children complete, and the window writes of its teams acknowledged: completion is a release at
system scope (R35, R91, R106). -/
def State.gridDone (s : State) (g : Grid) : Bool :=
  (g.st == GridSt.running || g.st == GridSt.draining) && g.retired == g.lrec.nBlocks &&
  !(s.grids.any fun h => h.parent == some g.gid && h.incomplete) && !s.link.wlate.any fun w => w.2.1 == g.gid

/-- GRID_COMPLETION (R35, R48). -/
def execGridCompletion (gid : Nat) (s : State) : Out :=
  .next (match s.grid? gid with
  | none => s
  | some g => if s.gridDone g then s.gridOver g 0 0 g.retired else s)

/-! ### Entering Running (R48, R59, R383, R384) -/

/-- The sealed range of the context in which the grid's Cupboard image lies (R59): none when it lies in none; the inner
value is none when there is no image. -/
def State.imageSeal (s : State) (g : Grid) : Option (Option Nat) :=
  let r := g.lrec
  if r.cupSize = 0 then some none
  else
    let slot := (s.slotOf g.ctx).getD 0
    let pas := (List.range (r.cupSize / 4096)).map fun i =>
      match s.xlate slot (ptrAdd r.image (4096 * i)) 4096 true false with
      | .ok pa => some pa
      | _ => none
    match s.seals.find? fun e => e.ctx == g.ctx && pas.all fun p => match p with
        | some pa => e.base ≤ pa && pa + 4096 ≤ e.base + e.len
        | none => false with
    | some e => some (some e.base)
    | none => none

/-- A page walk for the grid's Cupboard image ends the context (R423). -/
def State.imageEnds (s : State) (g : Grid) : Option Nat :=
  (List.range (g.lrec.cupSize / 4096)).findSome? fun i =>
    match s.xlate ((s.slotOf g.ctx).getD 0) (ptrAdd g.lrec.image (4096 * i)) 4096 true false with
    | .ends st => some st
    | _ => none

/-- Bytes of the work-list pool that a grid's lists take (R383). -/
def LaunchRec.poolBytes (r : LaunchRec) : Nat := r.wlcnt * r.wlcap * 8

/-- The grid's work lists fit its context's pool (R383). -/
def State.poolRoom (s : State) (g : Grid) : Bool :=
  let used := natSum ((s.grids.filter fun h => h.ctx == g.ctx && (h.st == GridSt.running || h.st == GridSt.draining)).map
    fun h => h.lrec.poolBytes)
  g.lrec.wlcnt == 0 || used + g.lrec.poolBytes ≤ (s.ctxOf g.ctx).wlsize.toNat

/-- A launch enters Running as its first block is placed (R48, R388). -/
def State.enterRunning (s : State) (g : Grid) (sealBase : Option Nat) : State :=
  let s1 := match sealBase with | some b => s.refSeals [b] true | none => s
  s1.modGrid g.gid fun g => { g with st := .running, tstart := s.pkg.clk, imgSeal := sealBase, pressing := false, claims := [] }

/-- Place the next block or cluster of a grid, or the whole of a gang, on cores that satisfy f (R388 to R390); a grid
that would enter Running with an image in no sealed range is refused instead (R384). -/
def State.placeNext (s : State) (g : Grid) (f : Nat → Bool) : Option State :=
  let queued := g.st == GridSt.queued
  if queued && !s.poolRoom g then none
  else
    let put := if g.lrec.gang then s.putGang g f
      else putGroup (eligNew g) (fun s k c => s.putNew g k c) (allCores.filter f) g.nextItem s
    match put with
    | none => none
    | some s1 =>
      if !queued then some (s1.startBlocks g.gid)
      else match s.imageEnds g, s.imageSeal g with
        | some st, _ => some (s.endCtx g.ctx st)
        | none, none => some (s.gridOver g 1 0x05 0)
        | none, some b => some ((s1.enterRunning g b).startBlocks g.gid)

/-! ### LAUNCH and CWAIT (R193, R194) -/

/-- The next id for a child grid of the context (R385). -/
def State.childLid (s : State) (ctx : Nat) : Nat → Nat → Nat
  | 0, last => last
  | n + 1, last =>
    let id := if last < 2 ^ 31 ∨ last = 2 ^ 32 - 1 then 2 ^ 31 else last + 1
    if s.lidUsed ctx id then s.childLid ctx n id else id

/-- The start of LAUNCH from its operand s_a (R193): a record that has waited for room in its queue has been read and
judged before (R384). -/
def State.startLaunch (s : State) (who : Asker) (ops : List DWord) (held : List (List Byte)) : Start :=
  let t := s.t
  let p := (ops.getD 0 0).toNat
  if t.depth = 10 then .trap [(13, p)]
  else if p % 64 ≠ 0 then .trap [(6, p)]
  else match s.recordWait held [(p, 64)] with
  | some w => .wait w s
  | none => match s.recordOr who held 0 p 64 with
    | .fault c q => .park c q [(p, 64)]
    | .ends st => .ends st
    | .wait l => s.askStart who l
    | .ok bs =>
      let r := LaunchRec.of bs
      let s := if held.isEmpty then s.noteRecords [(p, 64)] else s
      match (if held.isEmpty then s.refusal r none else none) with
      | some c => .go s (some (BitVec.ofNat 64 (2 ^ 63 + c))) .ready
      | none =>
        let qsel := s.myGrid.qsel
        if 256 ≤ s.qlevel (4 * r.prio + qsel) || !s.released 3 then .wait (.queue bs) s
        else
          let lid := s.childLid t.ctx (s.grids.length + 1) (s.ctxOf t.ctx).lastLid
          let s1 := (s.enqueue t.ctx lid qsel (t.depth + 1) (some t.gid) r).modCtx t.ctx fun c => { c with lastLid := lid }
          .go { s1 with t := { s1.t with kids := s1.t.kids ++ [(s.uid, lid)] } } (some (BitVec.ofNat 64 lid)) .ready

/-- LAUNCH (R193). -/
def execLaunch (d a : Nat) (s : State) : Out :=
  .next (issue (.launch d a) s fun s =>
    let ops := [s.rs a]
    s.begin_ (.launch d a) (some d) ops [] [a] (s.startLaunch s.recordWho ops s.t.wait.recs))

/-- A child grid is still incomplete. -/
def State.kidOpen (s : State) (k : Nat × Nat) : Bool := s.grids.any fun g => g.gid == k.1 && g.incomplete

/-- CWAIT (R194): seeing a child complete is an acquire (R91). -/
def execCwait (d a : Nat) (s : State) : Out :=
  .next (issue (.cwait d a) s fun s =>
    let x := (s.rs a).toNat
    let kids := if x = 0 then s.t.kids else s.t.kids.filter fun k => k.2 == x
    if x ≠ 0 ∧ kids.isEmpty then (s.ws d 0x8000000000000001).done (.cwait d a)
    else if kids.any s.kidOpen then s.hold .cwait
    else (s.acquired.ws d 0).done (.cwait d a))

end Sys2Proof.Machine
end

