-- ==== Sys2Proof/Machine/Link.lean ====
section
/-! DEFINITION. Host messages: sequence and form checks, memory messages, replies to the device's own requests, feature
selection, LAUNCH, and register space as it reads (R373 to R381, R386, R391 to R394, R446, R447). -/

namespace Sys2Proof.Machine

/-! ### Taking a message (R374, R375) -/

/-- What becomes of a message whose SEQ is the one expected. -/
inductive Took where
  /-- Dropped, with ERROR of this reason. -/
  | err (reason : Nat)
  /-- It cannot proceed, and holds those behind it. -/
  | hold
  | ok (s : State)

/-- Send ERROR about the message being taken (R374). -/
def State.sendError (s : State) (reason : Nat) : State :=
  s.send 0 0x0C 0 s.link.rx.tag.toNat
    (leBytes 4 s.link.rx.seq.toNat ++ leBytes 1 reason ++ leBytes 3 0 ++ leBytes 4 s.link.rxseq ++ leBytes 4 0)

/-- LEN suits the type (R374). -/
def lenOk (typ len : Nat) : Bool :=
  match typ with
  | 0x01 => len == 80
  | 0x04 => 8 ≤ len && len ≤ 264
  | 0x05 => len == 16
  | 0x07 => len == 64
  | 0x08 => 8 ≤ len
  | 0x09 => len == 16
  | 0x0A => 8 ≤ len
  | 0x0B => len == 8
  | 0x0E => len == 16
  | _ => true

/-- The header is well formed (R373, R374). -/
def msgFormOk (m : HostMsg) : Bool :=
  m.z1 == 0 && m.z9 == 0 && m.payload.length == m.len.toNat && m.len.toNat % 8 == 0 && m.len.toNat ≤ 4096 &&
  lenOk m.typ.toNat m.len.toNat

/-- Take the message that the link holds, if it is of row i: SEQ, form and link state, then its effect (R374, R375,
R377). -/
def takeMsg (i : Instr) (body : HostMsg → State → Took) (s : State) : State :=
  let m := s.link.rx
  if !s.link.up || decodeMsg m != i then s
  else if m.seq.toNat ≠ s.link.rxseq then
    { s with link := { s.link with blocked := false } }.sendError 5
  else
    let s1 : State := { s with link := { s.link with rxseq := (s.link.rxseq + 1) % 2 ^ 32, blocked := false } }
    if i == .unknownType then s1.sendError 1
    else if !msgFormOk m then s1.sendError 2
    else if !s.link.locked && i != .featureSelect then s1.sendError 3
    else match body m s1 with
      | .err r => s1.sendError r
      | .hold => { s with link := { s.link with blocked := true, judged := i == .launchMsg } }
      | .ok s2 => { s2 with link := { s2.link with judged := false } }

/-- Reply to the message being taken: STATUS and data (R376). -/
def State.reply (s : State) (typ status : Nat) (data : List Byte) : State :=
  s.send 0 typ 0 s.link.rx.tag.toNat (leBytes 1 status ++ leBytes 7 0 ++ data)

/-- UNKNOWN_TYPE (R374). -/
def execUnknownType (s : State) : Out := .next (takeMsg .unknownType (fun _ s => .ok s) s)

/-! ### Feature selection (R377 to R379) -/

/-- The feature set that the device offers: bits 0 to 9 (R379). -/
def offeredSet : Nat := 0x3FF

/-- The four versions, each 1 (R378). -/
def versions : Nat := 0x0001000100010001

/-- A FEATURE payload (R378). -/
def State.featurePayload (s : State) (phase set : Nat) : List Byte :=
  leBytes 1 phase ++ leBytes 7 0 ++ leBytes 16 set ++ leBytes 8 versions ++ leBytes 8 versions ++
    leBytes 4 s.capDp.toNat ++ leBytes 4 0 ++ leBytes 8 1 ++ leBytes 8 0

/-- The effect of FEATURE (R377). -/
def takeFeature (m : HostMsg) (s : State) : Took :=
  let set := m.field 0x08 16
  if s.link.locked then .err 3
  else if 2 < m.field 0 1 || m.field 1 7 != 0 || m.field 0x2C 4 != 0 || m.field 0x38 8 != 0 then .err 2
  else if m.field 0 1 != 1 || set % 2 != 1 || Nat.lor set offeredSet != offeredSet || m.field 0x18 8 != versions ||
      m.field 0x20 8 != versions then .err 4
  else
    .ok (({ s with link := { s.link with locked := true, set := BitVec.ofNat 128 set } }).send 0 0x07 0 m.tag.toNat
      (s.featurePayload 2 set))

/-- FEATURE_SELECT (R377). -/
def execFeatureSelect (s : State) : Out := .next (takeMsg .featureSelect takeFeature s)

/-! ### LAUNCH (R386, R387) -/

/-- The refusal of a LAUNCH message (R384): one that has been held while its queue was full has been judged, but its context
may have begun to end since (R407). -/
def State.launchRefusal (s : State) (r : LaunchRec) (lid ctx : Nat) : Option Nat :=
  if !s.link.judged then s.refusal r (some (lid, ctx))
  else if (s.slotOf ctx).isNone || s.ctxEnding ctx then some 0x09
  else none

/-- The effect of a LAUNCH message: refused at once, or enqueued, or held while its queue is full (R384, R387). -/
def takeLaunch (m : HostMsg) (s : State) : Took :=
  let lid := m.field 0 4
  let qsel := m.field 4 1
  let ctx := m.ctx.toNat
  if 3 < qsel || m.field 5 11 != 0 then .err 2
  else
    let r := LaunchRec.of (m.payload.drop 0x10)
    match s.launchRefusal r lid ctx with
    | some c => .ok (s.sendComplete ctx lid 1 c 0 0)
    | none =>
      if 256 ≤ s.qlevel (4 * r.prio + qsel) then .hold
      else .ok (s.enqueue ctx lid qsel 0 none r)

/-- LAUNCH_MSG (R386). -/
def execLaunchMsg (s : State) : Out := .next (takeMsg .launchMsg takeLaunch s)

/-! ### Memory writes and reads by the host (R376) -/

/-- One sector of a host write: refused on a sealed line (R73, R87, R376); a lost line takes nothing (R423). Each sector
counts as one write of R66 in its region (log 81). Answers the state and the worst status so far. -/
def hostSector (acc : State × Nat) (p : Nat × List Byte) : State × Nat :=
  let (s, st) := acc
  if s.lineLost p.1 then (s, 2)
  else if (s.sealAt p.1).isSome then (s.noteSealed p.1, max st 1)
  else (((s.noteWrite .host (lineOf p.1)).putBytes p.1 p.2).clearPoison p.1 p.2.length, st)

/-- A host write of local memory. -/
def State.hostWrite (s : State) (a : Nat) (data : List Byte) : State × Nat :=
  ((pieces (data.length / 32 + 2) a data.length).map fun p => (p.1, (data.drop (p.1 - a)).take p.2)).foldl hostSector (s, 0)

/-- The effect of an MWR in memory space (R376). -/
def takeMwr (m : HostMsg) (s : State) : Took :=
  let addr := m.field 0 8
  let a := addr % 2 ^ 44
  let data := m.payload.drop 8
  if bits addr 62 44 != 0 then .err 2
  else if addr / 2 ^ 63 = 1 ∨ Config.dramSize < a + data.length ∨ Config.dramSize ≤ a then .ok (s.reply 0x0B 2 [])
  else if (linesOf a data.length).any fun n => s.owned (128 * n) then .hold
  else
    let (s1, st) := s.hostWrite a data
    .ok (s1.reply 0x0B st [])

/-- MWR (R376): memory space, and register space accesses of another size than 8 bytes, which are refused. -/
def execMwr (s : State) : Out := .next (takeMsg .mwr takeMwr s)

/-! ### Register space as it reads (R380) -/

/-- Word k of a list of bytes. -/
def byteWord (bs : List Byte) (o : Nat) : Nat := leNat ((bs.drop o).take 8)

/-- The 64 bytes of a measurement log entry (R428). -/
def MEntry.toBytes (e : MEntry) : List Byte :=
  leBytes 1 e.index ++ leBytes 1 e.valid.toNat ++ leBytes 2 e.svn ++ leBytes 4 e.size ++ e.digest.take 48 ++
    List.replicate (48 - e.digest.length) 0 ++ leBytes 8 0

def CtxSlot.ctl (c : CtxSlot) : Nat := 256 * c.ctxid + 4 * c.susp.toNat + c.act.toNat

/-- A context slot's register at an offset (R396, R397). -/
def CtxSlot.reg (c : CtxSlot) (o : Nat) : Nat :=
  match o / 8 with
  | 0 => c.ctl
  | 1 => c.ptroot.toNat
  | 2 => c.rbtbase.toNat
  | 3 => c.frarea.toNat
  | 4 => c.savebase.toNat
  | 5 => c.savesize.toNat
  | 6 => c.wlbase.toNat
  | 7 => c.wlsize.toNat
  | 8 => c.codebase.toNat
  | 9 => c.codesize.toNat
  | 10 => c.lattbase.toNat
  | 11 => c.storebase.toNat
  | 12 => c.dictbase.toNat
  | 13 => c.ptabbase.toNat
  | 14 => c.endstat.toNat
  | _ => 0

/-- A reduction stream's register (R394). -/
def Stream.reg (x : Stream) (k : Nat) : Nat :=
  match k with
  | 0 => x.w0.toNat
  | 1 => x.dest.toNat
  | 2 => x.bdest.toNat
  | _ => x.seqa.toNat

/-- RSTATE of a region (R70). -/
def RegionRep.rstate (r : RegionRep) : Nat :=
  (match r.pin with | some c => c * 2 ^ 24 + 4 | none => 0) + r.level

/-- CHEALTH (R434). -/
def CoreHealth.word (h : CoreHealth) : Nat :=
  h.ce1 * 2 ^ 48 + h.ce0 * 2 ^ 32 + h.reason * 2 ^ 16 + h.leak1 * 2 ^ 8 + h.leak0

/-- The value that a read of register space gives, sb for the Sideboard (R380, R440); none at an unassigned offset. -/
def State.regRead (s : State) (sb : Bool) (o : Nat) : Option Nat :=
  let r := s.regs
  let inR (lo n : Nat) : Bool := lo ≤ o && o < lo + n
  if o % 8 ≠ 0 then none
  else if o = 0x00 then some r.age0
  else if o = 0x08 then some r.age1
  else if o = 0x10 then some r.age2
  else if o = 0x18 then some r.age3
  else if inR 0x40 0x80 then some (s.qlevel ((o - 0x40) / 8))
  else if inR 0x100000 0x8000 && o % 0x1000 < 0x40 then
    some (sget 0 (16 * ((o - 0x100000) / 0x1000) + o % 0x1000 / 8) s.caches.ctr)
  else if inR 0x100000 0x8000 && o % 0x1000 ≤ 0x48 then
    let sel := sget 0 ((o - 0x100000) / 0x1000) (if sb then r.rselSb else r.rsel)
    some (if o % 0x1000 = 0x40 then sel else (s.caches.region sel).rstate)
  else if inR 0x200000 0x200 then
    let e := sget {} ((o - 0x200000) / 16) r.window
    some (if o % 16 = 0 then e.lo.toNat else e.hi.toNat)
  else if inR 0x300100 0x1200 && o % 0x100 = 0 then
    let p := sget {} ((o - 0x300000) / 0x100) r.pctl
    some (p.drop * 2 ^ 32 + 2 * p.up.toNat + p.en.toNat)
  else if inR 0x400000 0x2000 then some ((sget {} ((o - 0x400000) / 32) r.streams).reg (o / 8 % 4))
  else if inR 0x500000 0x1000 && o % 0x100 < 0x80 then some ((s.slot ((o - 0x500000) / 0x100)).reg (o % 0x100))
  else if o = 0x510000 then some r.invaddr.toNat
  else if o = 0x510008 then some r.invlen.toNat
  else if o = 0x510010 then some 0
  else if o = 0x510018 then some r.invdone.toNat
  else if o = 0x510100 then some r.towerlost.toNat
  else if inR 0x518000 0x200 then some (byteWord (r.mlog.flatMap MEntry.toBytes) (o - 0x518000))
  else if inR 0x518200 168 then some (byteWord r.bring (o - 0x518200))
  else if o = 0x518300 then some 0
  else if o = 0x518308 then some (r.mbxDone.toNat * 2 ^ 63 + r.mbxBusy.toNat * 2 ^ 62 + r.mbxLen)
  else if o = 0x518400 then some r.capw.toNat
  else if inR 0x519000 0x1000 then some (leNat (sgets 0 (o - 0x519000) 8 r.mbxBuf))
  else if inR 0x520000 (8 * Config.nCores) then some (s.core ((o - 0x520000) / 8)).word
  else if inR 0x522000 0x800 && o % 0x100 ≤ 0x80 then
    some (sget 0 (256 * ((o - 0x522000) / 0x100) + o % 0x100) r.soft)
  else if inR 0x523000 0x200 && o % 0x20 < 0x10 then
    let c := s.slot ((o - 0x523000) / 0x20)
    some (if o % 0x20 = 0 then c.phcnt.toNat else c.phlast.toNat)
  else none

/-- The effect of an MRD (R376, R423, R439). -/
def takeMrd (m : HostMsg) (s : State) : Took :=
  let addr := m.field 0 8
  let a := addr % 2 ^ 44
  let n := m.field 8 4
  let refuse : State := s.reply 0x0A 2 (List.replicate n 0)
  if bits addr 62 44 != 0 || m.field 0xC 4 != 0 || n < 8 || 4088 < n || n % 8 != 0 then .err 2
  else if addr / 2 ^ 63 = 1 then
    match (if n = 8 then s.regRead false a else none) with
    | some v => .ok (s.reply 0x0A 0 (leBytes 8 v))
    | none => .ok refuse
  else if Config.dramSize < a + n then .ok refuse
  else if (linesOf a n).any fun k => s.owned (128 * k) then .hold
  else if s.poisoned a n || (linesOf a n).any fun k => s.lineLost (128 * k) then .ok refuse
  else .ok ((s.noteReads .host 0 (linesOf a n)).reply 0x0A 0 (s.bytes a n))

/-- MRD (R376). -/
def execMrd (s : State) : Out := .next (takeMsg .mrd takeMrd s)

/-! ### Replies to the device's requests (R107, R392, R446, R447) -/

/-- Requests of an instruction that have all been refused: its lanes take Permission (R392, R447). -/
def State.settleReqs (s : State) (u : Nat) : State :=
  let mine := s.link.reqs.filter fun r => r.u == u
  if mine.isEmpty || mine.any fun r => !r.bad then s
  else match mine.head? with
    | none => s
    | some r =>
      let kind := match r.op.dst with | .s _ => 0 | _ => 1
      let ds := laneDecs kind 0 (mine.map fun q => ⟨q.acc.lane, 7, q.acc.ptr⟩) r.pc r.cl r.ord
      ({ s with link := { s.link with reqs := s.link.reqs.filter fun q => q.u != u } }).modTeam r.tid fun t =>
        { t with dec := t.dec ++ ds }

/-- The last reply to an acquire has come: at system scope its L1 drops its window words again, and the team's later
fetches follow it (R107, R108, R350). -/
def State.acquireEnd (s : State) (r : WinReq) : State :=
  if r.op.acq && !s.link.reqs.any fun q => q.u == r.u then
    let s1 := if r.op.sysAcq then s.winDrop r.l1 else s
    s1.modTeam r.tid fun t => { t with codeAt := s.free + 1 }
  else s

/-- Deliver a reply's value to the lane of a request, unless a later write stands (R169, R170). -/
def State.answerLane (s : State) (r : WinReq) (v : Nat) : State :=
  match s.team? r.tid with
  | none => s
  | some t =>
    let s1 := if r.dead then s else ((s.select r.tid).deliverLate r.op [(r.acc.lane, v)]).select s.t.tid
    if t.life == Life.evicted then s1.resave t.bid else s1

/-- The requests under a tag have been refused; a prefetch is dropped (R249, R392). -/
def State.answerBad (s : State) (rs : List WinReq) : State :=
  let tags := rs.map (·.tag)
  let mark (r : WinReq) : WinReq := if tags.contains r.tag then { r with bad := true } else r
  let s1 : State := { s with link := { s.link with
    reqs := (s.link.reqs.filter fun r => !(r.tid == 0 && tags.contains r.tag)).map mark } }
  ((rs.filter fun r => r.tid != 0).map (·.u)).dedup.foldl (fun s u => s.settleReqs u) s1

/-- The requests under a tag leave. -/
def State.dropTag (s : State) (tag : Nat) : State :=
  { s with link := { s.link with
      reqs := s.link.reqs.filter fun r => r.tag != tag, wlate := s.link.wlate.filter fun w => w.1 != tag } }

/-- What follows the answers to requests. -/
def State.answered (s : State) (rs : List WinReq) : State :=
  rs.foldl (fun s r => (s.acquireEnd r).settleReqs r.u) s

/-- Who has asked for words of the window is still there to read them. -/
def State.askerLives (s : State) : Asker → Bool
  | .record tid ord => s.teams.any fun t => t.tid == tid && t.ord == ord && (t.life == .live || t.life == .evicted)
  | .code tid ord => s.teams.any fun t => t.tid == tid && t.ord == ord && (t.life == .live || t.life == .evicted)
  | .op u => (s.eops.any fun o => o.u == u) || (s.quads.any fun q => q.mops.any fun m => m.u == u) ||
      (s.teams.any fun t => t.log.any fun e => e.h == u) ||
      (s.saved ++ s.restoring).any fun x => x.quads.any fun q => q.mops.any fun m => m.u == u
  | .fill gid quad => (s.quadD quad).cups.any fun c => c.gid == gid

/-- The words that a reply brings to a reader. -/
def Ask.words (a : Ask) (status : Nat) (data : List Byte) : List GotWord :=
  (List.range a.wn).map fun i =>
    { who := a.who, pa := a.w0 + 8 * i, at_ := a.at_
      data := if status = 0 then some (leNat ((data.drop (8 * i)).take 8)) else none }

/-- A reply to a read that is none of a team's lanes: its words go to the reader that asked for them, while that is there
(log 22); one to no request is dropped without effect (log 12). -/
def State.askReply (s : State) (tag status : Nat) (data : List Byte) : State :=
  match s.link.asks.find? fun a => a.tag == tag with
  | none => s
  | some a => { s with link := { s.link with
      asks := s.link.asks.filter fun x => x.tag != tag
      got := (s.link.got ++ a.words status data).filter fun g => s.askerLives g.who } }

/-- A reply to a read: the lanes whose words it carries take their values, and an L1 keeps the words unless something
later has passed the read (R84, R107, R446). -/
def State.readReply (s : State) (tag status : Nat) (data : List Byte) : State :=
  let rs := s.link.reqs.filter fun r => r.tag == tag && r.op.kind == .load && !r.bad
  match rs with
  | [] => s.askReply tag status data
  | r :: _ =>
    if status ≠ 0 then s.answerBad rs
    else
      let s1 := rs.foldl (fun s r => s.answerLane r (leNat ((data.drop (r.pa - r.w0)).take r.op.size))) (s.dropTag tag)
      let s2 := if !r.fill then s1
        else s1.winFill r.l1 r.op.cnt r.w0 ((List.range r.wn).map fun i => leNat ((data.drop (8 * i)).take 8))
      s2.answered rs

/-- The effect of a host MRDRESP. -/
def takeMrdresp (m : HostMsg) (s : State) : Took :=
  if 2 < m.field 0 1 || m.field 1 7 != 0 then .err 2
  else .ok (s.readReply m.tag.toNat (m.field 0 1) (m.payload.drop 8))

/-- HOST_MRDRESP (R446). -/
def execHostMrdresp (s : State) : Out := .next (takeMsg .hostMrdresp takeMrdresp s)

/-- A reply to an atomic or reduction; none is outstanding under the tag (R447). -/
def State.atomReply (s : State) (tag status : Nat) (data : List Byte) : Option State :=
  (s.link.reqs.find? fun r => r.tag == tag && r.op.kind != .load && !r.bad).map fun r =>
    if status ≠ 0 then { s.answerBad [r] with link := { (s.answerBad [r]).link with
      wlate := s.link.wlate.filter fun w => w.1 != tag } }
    else ((s.dropTag tag).answerLane r (leNat (data.take r.op.size))).answered [r]

/-- The effect of a MATOMRESP (R447). -/
def takeMatomresp (m : HostMsg) (s : State) : Took :=
  if (m.field 0 1 != 0 && m.field 0 1 != 2) || m.field 1 7 != 0 then .err 2
  else match s.atomReply m.tag.toNat (m.field 0 1) (m.payload.drop 8) with
    | none => .err 3
    | some s1 => .ok s1

/-- MATOMRESP (R447). -/
def execMatomresp (s : State) : Out := .next (takeMsg .matomresp takeMatomresp s)

/-- A device write is acknowledged (R107, R375). -/
def State.writeReply (s : State) (tag : Nat) : State :=
  { s with link := { s.link with
      wacks := s.link.wacks.filter fun w => w.1 != tag, wlate := s.link.wlate.filter fun w => w.1 != tag } }

/-- The effect of a host WRACK. -/
def takeWrack (m : HostMsg) (s : State) : Took :=
  if 2 < m.field 0 1 || m.field 1 7 != 0 then .err 2 else .ok (s.writeReply m.tag.toNat)

/-- HOST_WRACK (R375). -/
def execHostWrack (s : State) : Out := .next (takeMsg .hostWrack takeWrack s)

end Sys2Proof.Machine
end

