-- ==== Sys2Proof/Machine/Replay.lean ====
section
/-! DEFINITION. Replies to faults, the replay of operand-log entries, completion of outstanding instructions, trap entry,
instruction fetch and phase overrun as events (R37 to R42, R169, R191, R205, R214, R348, R403 to R406, R420). -/

namespace Sys2Proof.Machine

/-! ### Log entries (R37, R39) -/

/-- Update an entry of the selected team. -/
def State.modEntry (s : State) (u : Nat) (f : LogEntry → LogEntry) : State :=
  { s with t := { s.t with log := s.t.log.map fun e => if e.u == u then f e else e } }

/-- What an entry's instruction waited for now is another thing. -/
def State.modWait (s : State) (e : LogEntry) (on : Until) : State :=
  { s with t := { s.t with infl := s.t.infl.map fun f => if f.on == .log e.u then { f with on := on } else f } }

/-- TLANE.KIND of an entry's causes, and the tile (R207). -/
def LogEntry.kindTile (e : LogEntry) : Nat × Nat :=
  match e.kind with
  | .lanes _ _ => match e.instr.raw with
    | some r => if laneWise r.op then (1, 0) else (0, 0)
    | none => (0, 0)
  | .redo _ => (0, 0)
  | .rows _ _ => (2, match e.instr with
    | .mld d _ => d
    | .mdrm _ a _ => a
    | _ => 0)

/-- The causes that an entry delivers (R206). -/
def LogEntry.decs (e : LogEntry) : List Dec :=
  laneDecs e.kindTile.1 e.kindTile.2 (e.causes.filter fun c => c.cause != 0) e.pc e.cl e.ord

/-- An entry frees: its causes join the team's decision (R39, R40, R206). -/
def State.freeLog (s : State) (e : LogEntry) (more : List Dec) : State :=
  { s with t := { s.t with
      log := s.t.log.filter fun x => x.u != e.u, dec := s.t.dec ++ e.decs ++ more } }

/-- Causes of a team-uniform instruction, as an entry delivers them. -/
def LogEntry.uniform (e : LogEntry) (cs : List (Nat × Nat)) : List Dec :=
  cs.map fun c => ⟨c.1, 0, BitVec.ofNat 64 c.2, e.pc, e.cl, false, e.ord⟩

/-- A replay faults again: a new FAULT with a new FSEQ for the same entry, its walks, and window words that were refused are
asked for again (R39, R392, R399, R405). -/
def State.refault (s : State) (slot : Nat) (e : LogEntry) (pages : List Nat) : State :=
  let ps := sortPages pages
  let (s1, fs) := ((s.noteXls (towerOf s.t.core) slot ps).dropGot (.op e.h)).sendFault slot 0 s.t.core s.t.place e.u s.t.tid 0 ps
  s1.modEntry e.u fun _ => { e with fseq := fs, pages := ps.map (BitVec.ofNat 64) }

/-- What a reply does to a pointer: none to retry, or the cause delivered (R404). Only pages that the FAULT listed
count. -/
def replyCause (f : FaultRec) (rep : List DWord) (ptr : Nat) : Option Nat :=
  let page := ptr % 2 ^ 64 / 2 ^ 16
  if !((f.pages.take 32).any fun p => p.toNat / 2 ^ 16 == page) then none
  else match rep.find? fun p => p.toNat / 2 ^ 16 == page with
    | some p => if bits p.toNat 15 8 = 1 then some (p.toNat % 256) else none
    | none => none

/-! ### Replay of lanes (R39) -/

/-- A lane of an entry has sent a request that it waits for; a reduction waits for no reply (R258). -/
def State.laneOpen (s : State) (u l : Nat) : Bool :=
  s.link.reqs.any fun r => r.u == u && r.acc.lane == l && (match r.op.kind with | .red _ => false | _ => true)

/-- Lanes of an entry whose window requests have been answered count as done; the entry frees when none is left, and an
acquire is done, and the counts at home fall of what the instruction has read (R71, R92, R108). -/
def State.settleLanes (s : State) (e : LogEntry) (op : MemOp) (todo : List LaneAcc) : State :=
  let open_ (l : Nat) : Bool := s.laneOpen e.rep l
  let fin := e.sent.filter fun l => !open_ l
  let rest := todo.filter fun a => !fin.contains a.lane
  let e1 := { e with
    kind := .lanes op rest, sent := e.sent.filter open_
    done := laneSet 1024 fun l => e.done.getLsbD l || fin.contains l }
  if rest.isEmpty then ((s.paid e.reads).acqDone op).freeLog e1 [] else s.modEntry e.u fun _ => e1

/-- Replay the lanes of an access that are neither done nor sent; dec gives a lane's declined cause by its pointer (R39,
R205). The team is the selected one. -/
def State.replayLanes (s : State) (slot : Nat) (e : LogEntry) (op : MemOp) (todo : List LaneAcc)
    (dec : Nat → Option Nat) : State :=
  let tryNow := todo.filter fun a => !e.sent.contains a.lane
  let declined := tryNow.filterMap fun a => (dec a.ptr).map fun c => (⟨a.lane, c, a.ptr⟩ : LaneCause)
  let rs := (tryNow.filter fun a => (dec a.ptr).isNone).map fun a => (a, s.resolve slot op a)
  match lowestEnd rs with
  | some st => s.endCtx s.t.ctx st
  | none =>
    let s := if op.sysAcq && !rs.isEmpty then s.winDrop (s.holder s.t.core) else s
    let bad := rs.filterMap fun x => match x.2 with
      | .issue c => some (⟨x.1.lane, c, x.1.ptr⟩ : LaneCause)
      | _ => none
    let parked := rs.filterMap fun x => match x.2 with | .park c => some (x.1, c) | _ => none
    let free := (pickPa isLocal rs).filter fun x => !s.owned x.2
    let p := (s.noteXls (towerOf s.t.core) slot (tlbPtrs op (rs.filter fun x => match x.2 with | .park _ => false | _ => true))).performLocal s.t.core op free e.reads
    let u := if e.sent.isEmpty then p.s.uid else e.rep
    let s1 : State := { p.s with uid := p.s.uid + 1 }
    let (s2, wvals) := s1.winAccesses s.t.core op
      ((pickPa (fun pa => !isLocal pa) rs).map (newReq s.t op e.pc e.cl e.ord u))
    let s3 := s2.deliverLate op (p.vals ++ wvals)
    let sent := (e.sent ++ (rs.map fun x => x.1.lane).filter (s3.laneOpen u)).dedup
    let fin (l : Nat) : Bool := (declined ++ bad).any (fun c => c.lane == l) || free.any (fun x => x.1.lane == l) ||
      ((pickPa (fun pa => !isLocal pa) rs).any fun x => x.1.lane == l && !sent.contains l)
    let rest := todo.filter fun a => !fin a.lane
    let e1 := { e with
      fseq := 0, rep := u, sent := sent, reads := p.reads
      done := laneSet 1024 fun l => e.done.getLsbD l || fin l
      causes := e.causes ++ declined ++ bad ++ p.refused, kind := .lanes op rest }
    if !parked.isEmpty then (s3.modEntry e.u fun _ => e1).refault slot e1 (parked.map fun x => op.page x.1.ptr x.2)
    else s3.settleLanes e1 op rest

/-! ### Replay of rows (R296, R299) -/

/-- The pointer at which a row of an entry has stopped. -/
def LogEntry.stoppedAt (e : LogEntry) (row : Nat) : Option Nat :=
  (e.causes.find? fun c => c.lane == row && c.cause == 0).map (·.frec)

/-- A row that a reply declines. -/
def LogEntry.rowDecline (e : LogEntry) (dec : Nat → Option Nat) (row : Nat) : Option LaneCause :=
  (e.stoppedAt row).bind fun p => (dec p).map fun c => ⟨row, c, p⟩

/-- What a load or drain waits for once all its rows are done: its turn at the port, or its window writes (R97, R445). -/
def State.rowsOn (s : State) (u : Nat) : Until :=
  if s.quads.any fun q => q.port.any fun p => p.u == u then .port else .window

/-- An entry of rows after a replay: the rows left with what stopped them, and the causes of the others. -/
def State.settleRows (s : State) (slot : Nat) (e : LogEntry) (ops : List DWord) (rest : List Nat)
    (parked : List (Nat × Nat × Nat × Bool)) (causes : List LaneCause) : State :=
  let e1 := { e with
    fseq := 0, kind := .rows ops rest, done := laneSet 128 fun r => !rest.contains r
    causes := (e.causes.filter fun c => c.cause != 0) ++ causes ++ parked.map fun p => ⟨p.1, 0, p.2.2.1⟩ }
  if rest.isEmpty then ((s.paid e.reads).modWait e (s.rowsOn e.h)).freeLog e1 []
  else
    let s1 := s.modEntry e.u fun _ => e1
    if parked.isEmpty then s1 else s1.refault slot e1 (rowPages parked)

/-- Rows that a load has read later: for its turn at the port, or into the tile when it has had it (R296, R445). -/
def State.mldPut (s : State) (e : LogEntry) (d : Nat) (rows : List (Nat × List Nat × Word)) : State :=
  if s.myQuad.port.any fun p => p.u == e.h then
    s.modMyQuad fun q => { q with port := q.port.map fun p => if p.u == e.h then { p with rows := p.rows ++ rows } else p }
  else s.modMyQuad fun q => rows.foldl (fun q r => q.loadRow s.t.gid (mACC e.mode) d r.1 r.2) q

/-- Replay rows of MLD: a declined row's elements are zero and its bound +∞ (R142, R296). -/
def State.replayMld (s : State) (slot : Nat) (e : LogEntry) (d : Nat) (ops : List DWord) (todo : List Nat)
    (dec : Nat → Option Nat) : State :=
  let t := Tlr.of (wordsRec (ops.drop 1))
  let declined := todo.filterMap (e.rowDecline dec)
  let who := Asker.op e.h
  let (s1, rd, rr) := s.mldRead slot who e.h t e.reads (todo.filter fun r => !declined.any fun c => c.lane == r)
  match rr.ends with
  | some st => s.endCtx s.t.ctx st
  | none =>
    let rows := rr.ok ++ declined.map fun c => (c.lane, [], boundInf)
    let rest := todo.filter fun r => !rows.any fun p => p.1 == r
    ((s1.mldPut e d rows).settleRows slot { e with reads := rd } ops rest rr.parked declined).askFor who rr.runs

/-- Replay rows of MDRM: a declined row is not written (R299). -/
def State.replayMdrm (s : State) (slot : Nat) (e : LogEntry) (tile : Nat) (ops : List DWord) (todo : List Nat)
    (dec : Nat → Option Nat) : State :=
  let t := Tlr.of (wordsRec (ops.drop 3))
  let gen : Word := (ops.getD 2 0).setWidth 32
  let declined := todo.filterMap (e.rowDecline dec)
  let s := s.drainGrant slot e.h
  let rr := s.mdrmRows slot e.h e.mode gen tile (ops.getD 1 0) t (todo.filter fun r => !declined.any fun c => c.lane == r)
  match rr.ends with
  | some st => s.endCtx s.t.ctx st
  | none =>
    let rest := todo.filter fun r => !(declined.any fun c => c.lane == r) && !(rr.ok.any fun p => p.1 == r)
    let (s1, refused) := s.drainMem slot e.h rr.ok rest
    (s1.noteXls (towerOf s.t.core) slot (rr.ok.flatMap fun r => r.2.map fun q => q.2.1)).settleRows slot e ops rest rr.parked
      (declined ++ refused.map fun p => ⟨p.1, 9, p.2⟩)

def State.replayRows (s : State) (slot : Nat) (e : LogEntry) (ops : List DWord) (todo : List Nat)
    (dec : Nat → Option Nat) : State :=
  match e.instr with
  | .mld d _ => s.replayMld slot e d ops todo dec
  | .mdrm _ a _ => s.replayMdrm slot e a ops todo dec
  | _ => s

/-! ### Replay of a record read (R193, R265, R285, R296, R298) -/

/-- The port's work for a logged instruction, once its record is read (R445). -/
def LogEntry.portOp (e : LogEntry) (s : State) (ops : List DWord) (rec_ : List Byte) : PortOp :=
  { u := e.h, tid := s.t.tid, gid := s.t.gid, instr := e.instr, pc := e.pc, cl := e.cl, ord := e.ord, mode := e.mode
    gen := s.t.srng, ops := ops, rec_ := rec_, tiles := e.tiles, regs := [] }

/-- MLD goes on after its record's replay: its rows are read, and those read go to the port (R296). -/
def State.redoMld (s : State) (slot : Nat) (e : LogEntry) (seen : Reads) (sa : DWord) (rec_ : List Byte) : State :=
  let t := Tlr.of rec_
  let who := Asker.op e.h
  let (s1, rd, rr) := s.mldRead slot who e.h t seen (mldRows t)
  match rr.ends with
  | some st => s.endCtx s.t.ctx st
  | none =>
    let rest := (mldRows t).filter fun r => !rr.ok.any fun p => p.1 == r
    let p := { e.portOp s [sa] rec_ with rows := rr.ok ++ zeroRows t }
    let e1 := { e with causes := [], spans := s.mldSpans slot who e.h t rest, reads := rd }
    if rest.isEmpty then (((s1.paid rd).modWait e .port).freeLog e1 []).portSubmit p
    else ((s1.settleRows slot e1 (sa :: recWords rec_) rest rr.parked []).askFor who rr.runs).portSubmit p

/-- MDRM goes on after its record's replay: its grants, its generator states, its turn at the port (R97, R297, R299). -/
def State.redoMdrm (s : State) (slot : Nat) (e : LogEntry) (sd x : DWord) (rec_ : List Byte) : State :=
  if !s.mdrmReady slot sd x rec_ then s.modEntry e.u fun _ => { e with fseq := 0 }
  else
    let p := e.portOp s [sd, x] rec_
    let s1 := (s.mdrmOp slot e.h e.mode sd x rec_).modT fun t =>
      if mRND e.mode = 5 then { t with srng := srAfter t.srng (dCNT x + 1) } else t
    ((s1.modWait e .port).freeLog { e with causes := [] } []).portSubmit p

/-- A record read of an entry faults again; every sector of its records stays named by the entry (R38, R39). -/
def State.redoFault (s : State) (slot : Nat) (e : LogEntry) (cause ptr : Nat) (runs : List (Nat × Nat)) : State :=
  s.refault slot { e with causes := [⟨0, 0, ptr⟩], spans := recordSpans runs } [pageEntry ptr cause true false]

/-- A replay of MLD's or MDRM's record read: the checks that need it, then the rows. -/
def State.redoRows (s : State) (slot : Nat) (e : LogEntry) (ops : List DWord) : State :=
  let free (cs : List (Nat × Nat)) : State := (s.modWait e .ready).freeLog e (e.uniform cs)
  let p := (ops.getD 0 0).toNat
  let again (s : State) : State := s.modEntry e.u fun _ => { e with fseq := 0 }
  if s.recordOwned p 64 then again s
  else match s.readRecord (.op e.h) p 64 with
    | .fault c q => s.redoFault slot e c q [(p, 64)]
    | .ends st => s.endCtx s.t.ctx st
    | .wait l => (again s).askFor (.op e.h) l
    | .ok bs =>
      match e.instr with
      | .mld _ _ =>
        if !mldOk (Tlr.of bs) (mACC e.mode) then free [(4, e.instr.word.toNat * 2 ^ 32 + e.mode.toNat)]
        else
          let (s1, rd) := s.recordReads slot [(p, 64)]
          s1.redoMld slot e rd (ops.getD 0 0) bs
      | .mdrm _ _ _ =>
        let cs := s.mdrmCauses e.instr.word e.mode (ops.getD 0 0) (ops.getD 1 0) bs
        if !cs.isEmpty then free cs else (s.noteRecords [(p, 64)]).redoMdrm slot e (ops.getD 0 0) (ops.getD 1 0) bs
      | _ => s

/-- What an instruction starts from its logged operands and the records it waits with, and its destination. -/
def State.startOf (s : State) (who : Asker) (i : Instr) (mode : Word) (ops : List DWord) (recs : List (List Byte)) :
    Option (Start × Option Nat) :=
  match i with
  | .launch d _ => some (s.startLaunch who ops recs, some d)
  | .cpy d _ _ l => some (s.startCpy l mode ops, some d)
  | .cpyt d _ _ l => some (s.startCpyt who i.word l mode ops recs, some d)
  | .merge d _ _ l => some (s.startMerge who i.word l mode ops recs, some d)
  | .mmj d _ _ l => some (s.matStart who i.word 0xEF d l ops, none)
  | .mms d _ _ l => some (s.matStart who i.word 0xF0 d l ops, none)
  | .mmg d _ _ l => some (s.matStart who i.word 0xF1 d l ops, none)
  | .mmd d _ _ l => some (s.matStart who i.word 0xF2 d l ops, none)
  | _ => none

/-- Replay a team-uniform instruction whose record read faulted, or deliver the declined cause (R193, R265, R405). It starts
with the other entries in view: its own spans do not hold it back (R38). -/
def State.replayRedo (s : State) (slot : Nat) (e : LogEntry) (ops : List DWord) (dec : Nat → Option Nat) : State :=
  let ptr := ((e.causes.head?).map (·.frec)).getD 0
  match dec ptr with
  | some c => (s.modWait e .ready).freeLog e (e.uniform [(c, ptr)])
  | none =>
    let s0 : State := { s with t := { s.t with mode := e.mode, log := s.t.log.filter fun x => x.u != e.u } }
    match s0.startOf (.op e.h) e.instr e.mode ops e.recs with
    | none => s.redoRows slot e ops
    | some (st, d) =>
      match st with
      | .trap cs => (s.modWait e .ready).freeLog e (e.uniform cs)
      | .park c p rs => s.redoFault slot e c p rs
      | .ends st => s.endCtx s.t.ctx st
      | .wait w s1 =>
        (s1.modT fun t => { t with mode := s.t.mode, log := s.t.log }).modEntry e.u fun _ => { e with fseq := 0, recs := w.recs }
      | .go s1 res on =>
        let sreg := match d, res with
          | some n, some x => sput 0 n x s1.t.s
          | _, _ => s1.t.s
        let srcV := match e.instr.raw with
          | some r => if 0xEF ≤ r.op && r.op ≤ 0xF2 then s0.shareRegs r.op (r.lits.headD 0) (ops.getD 1 0) else []
          | none => []
        let share (f : Infl) : Infl := if f.on == .log e.u then { f with srcV := srcV } else f
        let s2 : State := { s1 with t := { s1.t with mode := s.t.mode, s := sreg, infl := s1.t.infl.map share } }
        (s2.modWait e on).freeLog e []

/-- Replay an entry (R39). -/
def State.replay (s : State) (slot : Nat) (e : LogEntry) (dec : Nat → Option Nat) : State :=
  match e.kind with
  | .lanes op todo => s.replayLanes slot e op todo dec
  | .redo ops => s.replayRedo slot e ops dec
  | .rows ops todo => s.replayRows slot e ops todo dec

/-! ### Replies (R404 to R406, R420) -/

/-- A team is in a unit whose records have been written; it counts as running again from the fifth step of its restore on
(R420, R421). -/
def State.teamSaved (s : State) (t : Team) : Bool :=
  (t.life == Life.evicted && !s.saved.any fun u => u.pend && u.blocks.contains t.bid) ||
    s.restoring.any fun u => u.blocks.contains t.bid

/-- The owner of a fault has been saved (R420). -/
def State.faultSaved (s : State) (f : FaultRec) : Bool :=
  match f.src with
  | 0 => s.teams.any fun t => t.tid == f.owner && s.teamSaved t
  | 1 => s.teams.any fun t => t.tid == f.owner && s.teamSaved t
  | 3 => s.eops.any fun o => o.u == f.owner && o.stopped && s.teams.any fun t => t.tid == o.tid && s.teamSaved t
  | 4 => ((s.saved.filter fun u => !u.pend) ++ s.restoring).any fun u =>
      u.quads.any fun q => q.mops.any fun m => m.u == f.owner
  | _ => false

/-- Remove a fault from its context; the window may let others go out (R406). -/
def State.closeFault (s : State) (slot fseq : Nat) : State :=
  (s.modSlot slot fun c => { c with faults := c.faults.filter fun f => f.fseq != fseq }).flushFaults slot

/-- A matrix operation on a quad, or of a unit that is being evicted, has no outstanding fault any more. -/
def State.mopServed (s : State) (q u : Nat) : State :=
  let f (m : MOp) : MOp := if m.u == u then { m with fseq := 0 } else m
  { (s.modMop q u fun m => { m with fseq := 0 }) with
    saved := s.saved.map fun x => if x.pend then { x with quads := x.quads.map fun v => { v with mops := v.mops.map f } } else x }

/-- A reply acts on the fault's owner (R405). -/
def State.applyReply (s : State) (slot : Nat) (f : FaultRec) (rep : List DWord) : State :=
  let s1 := s.closeFault slot f.fseq
  let ctx := (s.slot slot).ctxid
  let dec := replyCause f rep
  let first := (f.pages.head?.map (·.toNat)).getD 0
  match f.src with
  | 0 => s1.onTeam f.owner fun s =>
      match s.t.log.find? fun e => e.fseq == f.fseq with
      | none => s
      | some e => s.replay slot e dec
  | 1 => s1.modTeam f.owner fun t =>
      match t.wait with
      | .fetch fs ptr x idx =>
        if fs != f.fseq then t
        else match dec ptr with
          | none => { t with wait := .none }
          | some c => { t with
              wait := .none
              dec := t.dec ++ [⟨c, 0, BitVec.ofNat 64 ptr, BitVec.ofNat 64 x, { t.cl with idx := idx }, false, t.ord⟩] }
      | _ => t
  | 4 =>
    match dec first with
    | some c => s1.endCtx ctx c
    | none => s1.mopServed f.quad f.owner
  | 5 =>
    match dec first with
    | some c => s1.endCtx ctx c
    | none => s1.modQuad f.quad fun q => { q with cups := q.cups.map fun c =>
        if c.fseq == f.fseq && c.gid == f.owner then { c with fseq := 0 } else c }
  | _ =>
    match s1.eops.find? fun o => o.u == f.owner with
    | none => s1
    | some o =>
      match dec first with
      | some c => s1.engDecline o c
      | none => s1.modOp o.u fun o => { o with fseq := 0 }

/-- Base of a fault's reply slot (R420). -/
def CtxSlot.replySlot (c : CtxSlot) (fseq : Nat) : Nat :=
  bits c.frarea.toNat 43 12 * 4096 + 512 * (fseq % 2 ^ c.frbits)

/-- Write a reply to its slot, REPLY and then HEAD (R420); the window moves with the answer (R406). A lost line ends the
context (R423). -/
def State.saveReply (s : State) (slot : Nat) (f : FaultRec) (payload : List Byte) (rep : List DWord) : State :=
  let a := (s.slot slot).replySlot f.fseq
  if s.spanLost a 272 then s.endCtx (s.slot slot).ctxid 0x41 else
  let s1 := s.devWrite (a + 8) (payload ++ List.replicate (264 - payload.length) 0)
  let s2 := s1.devWrite a (leBytes 8 (f.fseq * 2 ^ 32 + 1))
  (s2.modSlot slot fun c => { c with faults := c.faults.map fun g =>
    if g.fseq == f.fseq then { g with reply := some (false, rep) } else g }).flushFaults slot

/-- The form of a reply (R404). -/
def replyOk (m : HostMsg) (pages : List DWord) : Bool :=
  m.field 4 1 ≤ 1 && m.field 5 1 ≤ 32 && m.len.toNat == 8 + 8 * m.field 5 1 && m.field 6 2 == 0 &&
  pages.all fun p =>
    let act := bits p.toNat 15 8
    let c := p.toNat % 256
    act ≤ 1 && (if act = 1 then c == 5 || c == 7 || c == 8 else c == 0)

/-- The effect of a FAULTREPLY (R404, R405, R420). -/
def takeFaultreply (m : HostMsg) (s : State) : Took :=
  let pages := (List.range (m.field 5 1)).map fun i => BitVec.ofNat 64 (m.field (8 + 8 * i) 8)
  if !replyOk m pages then .err 2
  else match s.slotOf m.ctx.toNat with
    | none => .err 3
    | some slot =>
      if (s.slot slot).ending.isSome then .err 3
      else match (s.slot slot).faults.find? fun f => f.fseq == m.field 0 4 && f.sent && f.reply.isNone with
        | none => .err 3
        | some f =>
          if m.field 4 1 = 1 then .ok (s.endCtx m.ctx.toNat 0x40)
          else if s.faultSaved f then .ok (s.saveReply slot f m.payload pages)
          else .ok (s.applyReply slot f pages)

/-- FAULTREPLY (R404). -/
def execFaultreply (s : State) : Out := .next (takeMsg .faultreply takeFaultreply s)

/-! ### Completion (R169) -/

/-- What an outstanding instruction waits for has happened. -/
def State.flagDue (s : State) (f : Infl) : Bool :=
  match f.on with
  | .ready => true
  | .window => !s.awaits f.u && s.writesDone f.u
  | .unseal base len _ => match s.seals.find? (Seal.covers base len s.t.ctx) with
    | some e => e.refs == 0
    | none => true
  | .log _ => false
  | .matrix _ => false
  | .port => false

/-- The selected team's outstanding instruction completes: its flag counts down; an UNSEAL, an acquire, frees its range and
answers 1; what MDRM owned is free (R75, R97, R104, R169). -/
def State.complete (s : State) (f : Infl) : State :=
  let s1 := match f.on with
    | .unseal base len d =>
      let s1 := (s.dropSeal base len s.t.ctx).acquired
      if d < 64 then { s1 with t := { s1.t with s := sput 0 d 1 s1.t.s } } else s1
    | _ => s
  { s1 with
    t := { s1.t with infl := s1.t.infl.filter fun g => g.u != f.u }
    eops := s1.eops.filter fun o => !(o.kind == 3 && o.u == f.u) }

/-- A log entry can be carried on without a reply: nothing is outstanding for it (R39). -/
def LogEntry.idle (e : LogEntry) : Bool := e.fseq == 0

/-- INSTRUCTION_COMPLETE (R39, R169): the outstanding instruction with handle u completes, or its log entry, for which
no fault is outstanding, is replayed again. -/
def execInstructionComplete (tid u : Nat) (s : State) : Out :=
  .next (match s.team? tid with
  | none => s
  | some t =>
    if s.ctxEnding t.ctx then s
    else s.onTeam tid fun s =>
      let s1 := match s.t.log.find? fun e => e.h == u && e.idle with
        | some e => if s.runs s.t then s.replay ((s.slotOf s.t.ctx).getD 0) e fun _ => none else s
        | none => s
      match s1.t.infl.find? fun f => f.u == u with
      | some f => if s1.flagDue f then s1.complete f else s1
      | none => s1)

/-! ### Trap entry, fetch and phase overrun as events -/

/-- A trap waits to be entered (R206, R214). -/
def Team.trapDue (t : Team) : Bool := !t.dec.isEmpty || (!t.pendB.isEmpty && !t.hnd)

/-- The team is in a wait that a boundary cause does not abandon: a fetch whose fault is open, a CMPCT that has appended
some of its items (R169, R208). -/
def State.waitStands (s : State) (t : Team) : Bool :=
  match t.wait with
  | .fetch fs .. => s.faultOpen t.ctx fs
  | .cmpct .. => t.appending
  | _ => false

/-- TRAP_ENTRY (R208, R214): once every entry is free and every outstanding instruction complete. -/
def execTrapEntry (tid : Nat) (s : State) : Out :=
  .next (match s.team? tid with
  | none => s
  | some t =>
    if s.runs t && t.trapDue && t.quietForTrap && !s.waitStands t && !s.ctxEnding t.ctx then
      s.onTeam tid fun s => if s.t.dec.isEmpty then s.trapHere ((s.slotOf s.t.ctx).getD 0) else s.tryTrap
    else s)

/-- INSTRUCTION_FETCH (R191, R348): the selected team fetches the line that holds code address x; the fetch unit holds
what it read, or the team waits or traps. -/
def execInstructionFetch (x : DWord) (s : State) : Out :=
  .next (match s.slotOf s.t.ctx with
  | none => s
  | some slot =>
    if s.t.life != Life.live || s.ctxEnding s.t.ctx || !s.t.dec.isEmpty then s
    else match s.wordAt slot x.toNat s.t.cl.idx with
      | .ok _ _ _ s1 => s1
      | .stop s1 => s1)

/-- PHLAST after an overrun at fabric cycle n: of two in one cycle the one on the lower core, then the lower team place,
stays (R441). -/
def CtxSlot.phlastAfter (c : CtxSlot) (n : Nat) (new : DWord) : DWord :=
  let place (d : DWord) : Nat := bits d.toNat 31 16
  if c.phcnt ≠ 0 && c.phAt == n && place c.phlast < place new then c.phlast else new

/-- PHASE_OVERRUN (R42, R204, R441): the cause becomes pending, the timer is disabled, the slot counts it. -/
def execPhaseOverrun (tid : Nat) (s : State) : Out :=
  .next (match s.team? tid with
  | none => s
  | some t =>
    if !s.phaseOver t || s.ctxEnding t.ctx then s
    else
      let frec := t.ph.e * 2 ^ 32 + t.ph.num
      (s.modTeam tid fun t => { (t.pend 12 0 (BitVec.ofNat 64 frec)) with ph := { t.ph with on := false } }).modCtx t.ctx
        fun c => { c with
          phcnt := BitVec.ofNat 64 (min (c.phcnt.toNat + 1) (2 ^ 32 - 1))
          phlast := c.phlastAfter s.fab (BitVec.ofNat 64 (frec + t.core * 2 ^ 22 + t.place * 2 ^ 16))
          phAt := s.fab })

end Sys2Proof.Machine
end

