-- ==== Sys2Proof/Machine/Preempt.lean ====
section
/-! DEFINITION. Eviction of units, the save area, PREEMPT and SAVED, and the restore of a unit (R29, R36, R47, R158,
R302, R410 to R415, R420, R421). -/

namespace Sys2Proof.Machine

/-! ### Units (R411) -/

/-- The resident blocks that are evicted with a block, in rank order: its gang, the blocks that share its tiles, its
cluster. A crew lies within a cluster or block, and one with an operation has tiles. -/
def State.unitOf (s : State) (b : Block) : List Block :=
  let r := ((s.grid? b.gid).getD Grid.none).lrec
  sortBy (·.rank) (s.blocks.filter fun x => x.life == BlockLife.resident && x.gid == b.gid &&
    (r.gang || x.bid == b.bid || (r.tiles != 0 && quadOf x.core == quadOf b.core) ||
      (r.cluster != 0 && clusterOf r x.rank == clusterOf r b.rank)))

/-- Live teams of blocks. -/
def State.liveTeams (s : State) (bids : List Nat) : Nat :=
  s.teams.countP fun t => bids.contains t.bid && t.life == Life.live

/-! ### The save area (R414) -/

/-- Units of 4 KiB that the bitmap takes, at the start of the area. -/
def CtxSlot.mapUnits (c : CtxSlot) : Nat := (c.savesize.toNat / 4096 + 32767) / 32768

/-- The lowest place for n consecutive free units. -/
def CtxSlot.findRoom (c : CtxSlot) (n : Nat) : Option Nat :=
  (sortBy id (c.mapUnits :: c.units.map fun x => x.1 + x.2)).find? fun a =>
    a + n ≤ c.savesize.toNat / 4096 && !(c.units.any fun x => x.1 < a + n && a < x.1 + x.2)

/-- A unit of the area is in use. -/
def CtxSlot.unitUsed (c : CtxSlot) (n : Nat) : Bool := n < c.mapUnits || c.units.any fun x => x.1 ≤ n && n < x.1 + x.2

/-- Write the bitmap's bytes for n units from lo on; a line of it that is lost ends the context (R423). -/
def State.writeMap (s : State) (slot lo n : Nat) : State :=
  let c := s.slot slot
  if s.spanLost (c.savebase.toNat + lo / 8) ((lo + n + 7) / 8 - lo / 8) then s.endCtx c.ctxid 0x41 else
  (List.range ((lo + n + 7) / 8 - lo / 8)).foldl (fun s i =>
    let k := lo / 8 + i
    (s.noteWrite .host (lineOf (c.savebase.toNat + k))).putBytes (c.savebase.toNat + k)
      [BitVec.ofNat 8 ((List.range 8).foldl (fun acc j => if c.unitUsed (8 * k + j) then acc + 2 ^ j else acc) 0)]) s

/-- The whole bitmap as it is with no record in the area: its own units are in use, and no other (R414). -/
def State.clearMap (s : State) (slot : Nat) : State :=
  let base := (s.slot slot).savebase.toNat
  let n := (s.slot slot).mapUnits
  (((s.noteWrites .host (linesOf base (4096 * n))).zeroBytes base (4096 * n)).clearPoison base (4096 * n)).writeMap slot 0 n

/-- Take units for records of these sizes, in order: the first unit of each; none when one does not fit. -/
def CtxSlot.take_ (c : CtxSlot) : List Nat → Option (List Nat × CtxSlot)
  | [] => some ([], c)
  | n :: r =>
    match c.findRoom n with
    | none => none
    | some a => match CtxSlot.take_ { c with units := c.units ++ [(a, n)] } r with
      | none => none
      | some (as, c1) => some (a :: as, c1)

/-! ### Eviction (R413) -/

/-- What a grid's blocks on a quad hold there, to be saved (R418). -/
def State.saveQuad (s : State) (gid : Nat) (r : LaunchRec) (bs : List Block) (q : Nat) : SavedQuad :=
  let mine := bs.filter fun b => quadOf b.core == q
  let here (k : CrewKey) : Bool := k.gid == gid && mine.any fun b => clusterOf r b.rank == k.cluster
  let x := s.quadD q
  let mops := x.mops.filter fun m => here m.key
  let tids := (s.teams.filter fun t => mine.any fun b => b.bid == t.bid).map (·.tid)
  let move {α : Type} (w : Nat) (m : SMap α) : SMap α := (List.range r.tiles).flatMap fun n =>
    (sfrom (w * x.phys gid n) (w * x.phys gid n + w) m).map fun p => (p.1 - w * x.phys gid n + w * n, p.2)
  { gid := gid, blocks := mine.map (·.bid)
    qgrants := x.qgrants.filter fun g => g.gid == gid && mine.any fun b => clusterOf r b.rank == g.cluster
    ntile := r.tiles, tiles := move 16384 x.tiles, bounds := move 128 x.bounds, bstat := move 1 x.bstat
    resv := (x.resv.filter fun v => here v.key).map (fun v => (v, true)) ++
      (x.rqueue.filter fun v => here v.key).map fun v => (v, false)
    mops := mops
    wide := match x.wide with | some w => if mops.any fun m => m.u == w.u then some w else none | none => none
    port := x.port.filter fun p => tids.contains p.tid }

/-- The quad without what has been saved. -/
def Quad.withoutSaved (x : Quad) (v : SavedQuad) : Quad :=
  ({ x with
    mops := x.mops.filter fun m => !v.mops.any fun o => o.u == m.u
    port := x.port.filter fun p => !v.port.any fun o => o.u == p.u
    wide := if v.wide.isSome then none else x.wide } : Quad).releaseResv fun k => v.resv.any fun p => p.1.key == k

/-- STATE of R416 at lane cycle clk: a team whose passes or STALL have not elapsed waits (R31, R46). -/
def Team.statAt (t : Team) (clk : Nat) : Nat := if t.stat % 2 = 0 && clk < t.readyAt then 1 else t.stat

/-- A team of a unit evicted at lane cycle clk: every result is there, and no flag is set (R169, R413). Of a tile instruction
that waits at the port behind an operation that the eviction has stopped, and is saved with it, the team waits for the end
before it issues again (R109, R445, log 10). -/
def Team.evict (clk : Nat) (t : Team) : Team :=
  if t.life == Life.live then
    { t with
      life := .evicted, recent := [], stat := t.statAt clk
      infl := (t.infl.filter fun f => f.on != .ready).map fun f => { f with flag := none, late := [], back := f.back || f.on == .port } }
  else t

/-- A Cupboard fill waits for a reply, and a block of the unit for the fill: the unit keeps its resources (R403). -/
def State.fillHeld (s : State) (bs : List Block) : Bool :=
  bs.any fun b => !b.started && (s.quadD (quadOf b.core)).cups.any fun c => c.gid == b.gid && c.fseq != 0

/-- The reader of a window read is a team of some blocks, or one of their log entries. -/
def Asker.of (a : Asker) (ts : List Team) : Bool :=
  match a with
  | .record tid _ => ts.any fun t => t.tid == tid
  | .code tid _ => ts.any fun t => t.tid == tid
  | .op u => ts.any fun t => t.log.any fun e => e.h == u
  | .fill _ _ => false

/-- An access of some blocks' teams is in flight: a window read or atomic not answered, a write, or a row of an MDRM, not
acknowledged (R109). -/
def State.inFlight (s : State) (bids : List Nat) : Bool :=
  let ts := s.teams.filter fun t => bids.contains t.bid
  let rows (u : Nat) : Bool := s.eops.any fun o => o.kind == 3 && o.u == u && ts.any fun t => t.tid == o.tid
  (s.link.reqs.any fun r => ts.any fun t => t.tid == r.tid) ||
    (s.link.wacks.any fun w => rows w.2 || ts.any fun t => t.tid == w.2) || s.link.asks.any fun a => a.who.of ts

/-- Tile instructions of these teams that wait at a quad's port have their turns, as far as they can start (R109). -/
def State.drainPort (s : State) (bids : List Nat) (q : Nat) : State :=
  (s.quadD q).port.foldl (fun s _ =>
    if (s.quadD q).port.any fun p => s.teams.any fun t => t.tid == p.tid && bids.contains t.bid then s.portTurn q else s) s

/-- Merges of these teams stop at a record boundary (R413). -/
def State.stopMerges (s : State) (bids : List Nat) : State :=
  (s.eops.filter fun o => s.teams.any fun t => t.tid == o.tid && bids.contains t.bid).foldl (fun s o => s.stopMerge o) s

/-- A Cupboard fill's fault goes with its allocation. -/
def State.dropFillFaults (s : State) (slot : Nat) : State :=
  (s.modSlot slot fun c => { c with faults := c.faults.filter fun f =>
    f.src != 5 || (s.quadD f.quad).cups.any fun k => k.gid == f.owner && k.fseq == f.fseq }).flushFaults slot

/-- A record that has become shorter while it waited gives up its last units, and SAVED counts its bytes as they are (R410,
R414, R420). -/
def State.trimSave (s : State) (u : SavedUnit) (b : Block) : State :=
  let k := (s.blockRecord u b).length / 4096
  match b.save, (s.grid? b.gid).bind fun g => s.slotOf g.ctx with
  | some (a, n), some slot =>
    if n ≤ k then s
    else
      let less (w : Saving) : Saving := if w.units.contains u.u then { w with bytes := w.bytes - 4096 * (n - k) } else w
      let s1 : State := { s with saving := s.saving.map less }
      ((s1.modBlock b.bid fun b => { b with save := some (a, k) }).modSlot slot fun c =>
        { c with units := c.units.map fun x => if x == (a, n) then (a, k) else x }).writeMap slot a n
  | _, _ => s

/-- Write an evicted unit's records. -/
def State.writeUnit (s : State) (u : SavedUnit) : State :=
  let v := { u with pend := false }
  let s1 : State := { s with saved := s.saved.map fun x => if x.u == u.u then v else x }
  let s2 := u.blocks.foldl (fun s k => match s.block? k with | some b => s.trimSave v b | none => s) s1
  u.blocks.foldl (fun s k => match s.block? k with | some b => s.writeRecord v b | none => s) s2

/-- An earlier save of a unit whose restore was not done: its records' units are free (R414). -/
def State.unsave (s : State) (slot : Nat) (bids : List Nat) : State :=
  let runs := bids.filterMap fun k => (s.block? k).bind (·.save)
  let s1 := (s.modSlot slot fun c => { c with units := c.units.filter fun x => !runs.contains x })
  let s2 : State := { s1 with restoring := s1.restoring.filter fun u => !u.blocks.any bids.contains }
  runs.foldl (fun s p => s.writeMap slot p.1 p.2) s2

/-- Evict a unit (R413): the state, its handle and the bytes of its records, or none when they do not fit the save area.
Records wait until no access of its teams is in flight (R109). -/
def State.evictUnit (s : State) (bs : List Block) (stopMerges : Bool) : Option (State × Nat × Nat) :=
  match (bs.head?.bind fun b => s.grid? b.gid) with
  | none => none
  | some g =>
    let slot := (s.slotOf g.ctx).getD 0
    let r := g.lrec
    let bids := bs.map (·.bid)
    let quads := (bs.map fun b => quadOf b.core).dedup
    let s := quads.foldl (fun s q => s.drainPort bids q) s
    let s := if stopMerges then s.stopMerges bids else s
    let inval := s.restoring.any fun u => u.inval && u.blocks.any bids.contains
    let s := s.unsave slot bids
    let sqs := quads.map (s.saveQuad g.gid r bs)
    let u : SavedUnit := { u := s.uid, gid := g.gid, blocks := bids, quads := sqs, inval := inval, pend := true }
    let s1 : State := { s with
      uid := s.uid + 1, saved := s.saved ++ [u]
      blocks := s.blocks.map fun b => if bids.contains b.bid then { b with life := .evicted, save := none } else b }
    let s2 := s1.modTeams (fun t => bids.contains t.bid) (Team.evict s.pkg.clk.toNat)
    let s3 := (List.zip quads sqs).foldl (fun s p => s.modQuad p.1 fun x => x.withoutSaved p.2) s2
    let s4 := bs.foldl (fun s b => s.freeQuad g.gid (clusterOf r b.rank) (quadOf b.core) r) s3
    let sizes := bs.map fun b => (s4.blockRecord u b).length / 4096
    match (s4.slot slot).take_ sizes with
    | none => none
    | some (firsts, c1) =>
      let places := List.zip bids (List.zip firsts sizes)
      let s5 := (s4.modSlot slot fun _ => c1).dropFillFaults slot
      let s6 := places.foldl (fun s p => s.modBlock p.1 fun b => { b with save := some p.2 }) s5
      let s7 := places.foldl (fun s p => s.writeMap slot p.2.1 p.2.2) s6
      some (if s7.inFlight bids then s7 else s7.writeUnit u, u.u, 4096 * natSum sizes)

/-- Counts of a SAVED message, and the units that it counts (R410). -/
structure Evicted where
  blocks : Nat := 0
  teams : Nat := 0
  bytes : Nat := 0
  units : List Nat := []
  deriving DecidableEq, Repr

/-- Evict a unit and count it. -/
def State.evictCount (s : State) (n : Evicted) (bs : List Block) (stopMerges : Bool) : Option (State × Evicted) :=
  (s.evictUnit bs stopMerges).map fun p =>
    (p.1, ⟨n.blocks + bs.length, n.teams + s.liveTeams (bs.map (·.bid)), n.bytes + p.2.2, n.units ++ [p.2.1]⟩)

/-- What SAVED will say of evictions (R410). -/
def Evicted.saving (n : Evicted) (ctx tag kind lid : Nat) (todo : List (List Nat)) : Saving :=
  { ctx := ctx, tag := tag, kind := kind, lid := lid, blocks := n.blocks, teams := n.teams, bytes := n.bytes
    todo := todo, units := n.units }

/-- Send SAVED (R410). -/
def State.sendSaved (s : State) (v : Saving) (result : Nat) : State :=
  s.send 0 0x06 v.ctx v.tag (leBytes 1 v.kind ++ leBytes 1 result ++ leBytes 2 0 ++ leBytes 4 v.lid ++
    leBytes 4 v.blocks ++ leBytes 4 v.teams ++ leBytes 8 v.bytes)

/-- SAVED goes out once every unit is evicted and every record it counts is written (R410). -/
def State.settleSaving (s : State) (v : Saving) : State :=
  if v.todo.isEmpty && !s.saved.any fun u => u.pend && v.units.contains u.u then s.sendSaved v 0
  else { s with saving := s.saving ++ [v] }

/-- Evict those units that can be now; one that does not fit its save area ends its context with status 0x43 (R18, R408,
R412). -/
def State.stepSaving (s : State) (v : Saving) : State :=
  let p := v.todo.foldl (fun (p : State × Saving) bids =>
    let bs := bids.filterMap p.1.block?
    if p.1.fillHeld bs then (p.1, { p.2 with todo := p.2.todo ++ [bids] })
    else match p.1.evictCount ⟨p.2.blocks, p.2.teams, p.2.bytes, p.2.units⟩ bs (v.kind == 1) with
      | some (s1, n) => (s1, n.saving v.ctx v.tag v.kind v.lid p.2.todo)
      | none => (p.1.endCtx v.ctx 0x43, p.2)) (s, { v with todo := [] })
  if v.kind == 0x11 && p.1.ctxEnding v.ctx then p.1 else p.1.settleSaving p.2

/-- Evictions under way go on: records whose teams' accesses are no longer in flight are written, and what is done is
reported (R109, R410). -/
def State.saveTurn (s : State) : State :=
  let s1 := (s.saved.filter fun u => u.pend && !s.inFlight u.blocks).foldl (fun s u => s.writeUnit u) s
  s1.saving.foldl (fun s v => s.stepSaving v) { s1 with saving := [] }

/-! ### Making room (R411) -/

/-- Resident units with a block on one of the cores, of effective class below cls: lowest class first, then the latest
made resident. -/
def State.victims (s : State) (cores : List Nat) (cls : Nat) : List (List Block) :=
  let units := ((s.blocks.filter fun b => b.life == BlockLife.resident && cores.contains b.core).map s.unitOf).dedup
  let class_ (u : List Block) : Nat := match u.head?.bind fun b => s.grid? b.gid with
    | some g => if s.ctxEnding g.ctx then 4 else g.cls
    | none => 4
  let latest (u : List Block) : Nat := u.foldl (fun m b => max m b.order) 0
  sortBy (fun u => class_ u * (s.uid + 1) + (s.uid - latest u))
    (units.filter fun u => class_ u < cls && !s.fillHeld u)

/-- Evict victims in order until f holds: the state then, what was evicted, and whether a unit was passed over for want
of room. -/
def makeRoom (f : State → Bool) : List (List Block) → State → Evicted → Bool → Option (State × Evicted) × Bool
  | [], s, n, short => (if f s then some (s, n) else none, short)
  | u :: r, s, n, short =>
    if f s then (some (s, n), short)
    else match s.evictCount n u false with
      | some (s1, n1) => makeRoom f r s1 n1 short
      | none => makeRoom f r s n true

/-- The candidates for the grid's next block, cluster or gang, as lists of cores in ascending order (R389, R390, R411). -/
def candidates (g : Grid) : List (List Nat) :=
  if g.lrec.gang then
    match g.lrec.lclass with
    | 0 => (List.range Config.nQuads).map quadCores
    | 1 => (List.range Config.nTowers).map towerCores
    | _ => [allCores]
  else if g.lrec.cluster != 0 then (List.range Config.nQuads).map quadCores
  else allCores.map fun c => [c]

/-- What is to be placed fits on a candidate. -/
def State.fitsOn (s : State) (g : Grid) (cores : List Nat) : Bool :=
  if g.lrec.gang then
    (putGroups (eligNew g) (fun s k c => s.putNew g k c) cores (g.lrec.togethers 0 g.lrec.nBlocks) s).isSome
  else (putGroup (eligNew g) (fun s k c => s.putNew g k c) cores g.nextItem s).isSome

/-- The victims' cores of a candidate: its own, and for a single block those of its quad where the quad lacks room. -/
def State.roomCores (s : State) (g : Grid) (cores : List Nat) : List Nat :=
  match cores with
  | [c] => if s.quadFits (quadOf c) g.gid g.lrec (clusterOf g.lrec g.next) then [c] else quadCores (quadOf c)
  | _ => cores

/-- Make room for a grid: the state of the candidate with the fewest victim teams, the first on a tie, and whether a unit
was passed over. -/
def State.roomFor (s : State) (g : Grid) : Option (State × Evicted × List Nat) × Bool :=
  (candidates g).foldl (fun acc cores =>
    let (r, short) := makeRoom (fun s => s.fitsOn g cores) (s.victims (s.roomCores g cores) g.cls) s {} false
    (match r, acc.1 with
     | some (s1, n), some (_, m, _) => if n.teams < m.teams then some (s1, n, cores) else acc.1
     | some (s1, n), none => some (s1, n, cores)
     | none, x => x, acc.2 || short)) (none, false)

/-- The grid that a KIND 0 request names, if it has a block still to be placed. -/
def State.wanted (s : State) (ctx lid : Nat) : Option Grid :=
  s.grids.find? fun g => g.ctx == ctx && g.lid == lid && (g.st == GridSt.queued || g.st == GridSt.running) &&
    g.next < g.lrec.nBlocks

/-- KIND 0 (R411): a suspended context has no launch that could be placed (R412). -/
def State.preemptRoom (s : State) (slot ctx tag lid : Nat) : State :=
  let none_ (short : Bool) : State := s.sendSaved (({} : Evicted).saving ctx tag 0 lid []) (if short then 2 else 1)
  match (if (s.slot slot).susp then none else s.wanted ctx lid) with
  | none => none_ false
  | some g =>
    match s.roomFor g with
    | (some (s1, n, cores), short) =>
      match s1.placeNext g fun c => cores.contains c with
      | some s2 => s2.settleSaving (n.saving ctx tag 0 lid [])
      | none => none_ short
    | (none, short) => none_ short

/-- The form of a PREEMPT and its context (R407, R410). -/
def takePreempt (kind : Nat) (f : Nat → State → State) (m : HostMsg) (s : State) : Took :=
  if m.field 0 1 ≠ kind ∨ m.field 1 7 ≠ 0 ∨ m.field 0xC 4 ≠ 0 ∨ (kind ≠ 0 ∧ m.field 8 4 ≠ 0) then .err 2
  else match s.slotOf m.ctx.toNat with
    | none => .err 3
    | some slot => if (s.slot slot).ending.isSome then .err 3 else .ok (f slot s)

/-- PREEMPT_MAKE_ROOM (R411); an unknown KIND comes here and is refused (R410). -/
def execPreemptMakeRoom (s : State) : Out :=
  .next (takeMsg .preemptMakeRoom (fun m =>
    takePreempt 0 (fun slot s => s.preemptRoom slot m.ctx.toNat m.tag.toNat (m.field 8 4)) m) s)

/-- Every unit of some blocks, each once. -/
def State.unitsOf (s : State) (p : Block → Bool) : List (List Block) :=
  ((s.blocks.filter fun b => b.life == BlockLife.resident && p b).map s.unitOf).dedup

/-- Evict several units, all of them or none. -/
def State.evictAll : List (List Block) → Bool → State → Evicted → Option (State × Evicted)
  | [], _, s, n => some (s, n)
  | u :: r, stop, s, n => match s.evictCount n u stop with
    | none => none
    | some (s1, n1) => State.evictAll r stop s1 n1

/-- The block belongs to a grid of the context. -/
def State.blockOf (s : State) (ctx : Nat) (b : Block) : Bool := (s.grid? b.gid).any fun g => g.ctx == ctx

/-- PREEMPT_SUSPEND (R412): units that keep their resources until a reply are evicted then (R403). -/
def execPreemptSuspend (s : State) : Out :=
  .next (takeMsg .preemptSuspend (fun m => takePreempt 1 (fun slot s =>
    let ctx := m.ctx.toNat
    let tag := m.tag.toNat
    let units := s.unitsOf (s.blockOf ctx)
    if units.isEmpty then
      (s.modSlot slot fun c => { c with susp := true }).sendSaved (({} : Evicted).saving ctx tag 1 0 []) 1
    else if (State.evictAll units true s {}).isNone then s.sendSaved (({} : Evicted).saving ctx tag 1 0 []) 2
    else
      (s.modSlot slot fun c => { c with susp := true }).stepSaving
        (({} : Evicted).saving ctx tag 1 0 (units.map fun u => u.map (·.bid)))) m) s)

/-- PREEMPT_RESUME (R412). -/
def execPreemptResume (s : State) : Out :=
  .next (takeMsg .preemptResume (fun m => takePreempt 2 (fun slot s =>
    (s.modSlot slot fun c => { c with susp := false }).sendSaved
      (({} : Evicted).saving m.ctx.toNat m.tag.toNat 2 0 []) 0) m) s)

/-! ### Restore (R421) -/

/-- What a unit had on the quad of one of its blocks. -/
def SavedUnit.quadOf (u : SavedUnit) (bid : Nat) : Option SavedQuad := u.quads.find? fun q => q.blocks.contains bid

/-- A block of the saved quad has been put on this quad already. -/
def State.putHere (s : State) (v : SavedQuad) (q : Nat) : Bool :=
  s.blocks.any fun b => b.life == BlockLife.resident && v.blocks.contains b.bid && Machine.quadOf b.core == q

/-- Eligibility of a core for an evicted block (R389, R421): a tile unit goes to a quad that holds no other tiles of
its grid, a saved wide store to one that is free, blocks of a cluster to distinct cores. -/
def eligBack (u : SavedUnit) (g : Grid) (s : State) (bid core : Nat) : Bool :=
  match s.block? bid, u.quadOf bid with
  | some b, some v =>
    let q := quadOf core
    let cl := clusterOf g.lrec b.rank
    let nt := s.teams.countP fun t => t.bid == bid && t.life == Life.evicted
    s.eligible core g.gid g.lrec cl nt &&
    (s.putHere v q || ((g.lrec.tiles == 0 || !(s.quadD q).tgrants.any fun x => x.gid == g.gid) &&
      (v.wide.isNone || (s.quadD q).wide.isNone))) &&
    !(g.lrec.cluster != 0 && s.blocks.any fun x => x.life == BlockLife.resident && x.gid == g.gid && x.core == core &&
      clusterOf g.lrec x.rank == cl)
  | _, _ => false

/-- Load what was saved of a quad (R421): tiles, bounds, wide store, latches; the reservation is posted. -/
def Quad.load (x : Quad) (v : SavedQuad) (now : Nat) : Quad :=
  let move {α : Type} [DecidableEq α] (z : α) (w : Nat) (src dst : SMap α) : SMap α :=
    (List.range v.ntile).foldl (fun m n => sputs z ((sfrom (w * n) (w * n + w) src).map fun p =>
      (p.1 - w * n + w * x.phys v.gid n, p.2)) m) dst
  let x1 : Quad := { x with
    tiles := move 0 16384 v.tiles x.tiles, bounds := move 0 128 v.bounds x.bounds, bstat := move 0 1 v.bstat x.bstat
    mops := x.mops ++ v.mops, port := x.port ++ v.port
    wide := match v.wide with | some w => some w | none => x.wide }
  v.resv.foldl (fun x p => x.post { p.1 with at_ := now, since := now }) x1

/-- Put an evicted block on a core: its teams keep the states saved, and their starvation counts start anew (R26, R30,
R421). -/
def State.putBack (u : SavedUnit) (g : Grid) (s : State) (bid core : Nat) : State :=
  match s.block? bid, u.quadOf bid with
  | some b, some v =>
    let q := quadOf core
    let cl := clusterOf g.lrec b.rank
    let here := s.putHere v q
    let bars (x : Quad) : Quad :=
      if x.qgrants.any fun k => k.gid == g.gid && k.cluster == cl then x
      else { x with qgrants := x.qgrants ++ v.qgrants.filter fun k => k.cluster == cl }
    let s1 := (s.fuseQuad q g.lrec.l1f).modQuad q fun x =>
      let x1 := bars ((x.grantCup g.gid g.lrec.cupSize).grantTiles g.gid g.lrec.tiles)
      if here then x1 else x1.load v s.pkg.clk.toNat
    let s2 : State := { s1 with
      uid := s1.uid + 1
      blocks := updFirst (fun (x : Block) => x.bid == bid)
        (fun x => { x with life := .resident, core := core, order := s1.uid, started := false }) s1.blocks }
    let s3 := (sortBy (·.idx) (s2.teams.filter fun t => t.bid == bid && t.life == Life.evicted)).foldl (fun s t =>
      s.modTeam t.tid fun t => { t with
        core := core, place := s.freePlace core, slot := s.homeSlot core, life := .live
        rdy := false, since := s.pkg.clk.toNat }) s2
    if v.mops.isEmpty then s3
    else
      let move (f : FaultRec) : FaultRec := if f.src == 4 && v.mops.any (fun m => m.u == f.owner) then { f with quad := q } else f
      s3.modCtx g.ctx fun c => { c with faults := c.faults.map move }
  | _, _ => s

/-- The groups of a unit: what shares tiles or a cluster goes to one quad (R421). -/
def SavedUnit.togethers (u : SavedUnit) (s : State) (g : Grid) : List Together :=
  if g.lrec.tiles != 0 then u.quads.map fun v =>
    ⟨v.blocks, true, g.lrec.cluster != 0 && ((v.blocks.filterMap s.block?).map fun b => clusterOf g.lrec b.rank).dedup.length ≤ 1⟩
  else if g.lrec.cluster != 0 then
    let cls := ((u.blocks.filterMap s.block?).map fun b => clusterOf g.lrec b.rank).dedup
    cls.map fun c => ⟨u.blocks.filter fun k => (s.block? k).any fun b => clusterOf g.lrec b.rank == c, true, true⟩
  else u.blocks.map fun k => ⟨[k], false, false⟩

/-- Place an evicted unit on cores that satisfy f; its blocks and teams are resident again (R389, R390, R421). -/
def State.putUnit (s : State) (u : SavedUnit) (f : Nat → Bool) : Option State :=
  match s.grid? u.gid with
  | none => none
  | some g =>
    let scopes := if g.lrec.gang then s.scopes g.lrec.lclass else [allCores]
    scopes.findSome? fun cores =>
      putGroups (eligBack u g) (State.putBack u g) (cores.filter f) (u.togethers s g) s

/-- Apply the pending barrier actions of a team's events (R413, R421). -/
def State.applyActs (s : State) (t : Team) : State :=
  let cluster := match s.block? t.bid, s.grid? t.gid with
    | some b, some g => clusterOf g.lrec b.rank
    | _, _ => 0
  let acts := t.evq.filterMap (·.act)
  let s1 := acts.foldl (fun s a => s.modBar t.gid t.bid t.core cluster a.1 a.2 fun b => b.count) s
  if acts.isEmpty then s else s1.modTeam t.tid fun t => { t with evq := t.evq.map fun r => { r with act := none } }

/-- A translation register that keeps neither LIMIT nor permissions (R402, R421). -/
def XReg.forget (x : XReg) : XReg := { x with limit := 0, rd := false, w := false }

/-- A fault belongs to one of these teams, or to one of these operations. -/
def State.faultOf (s : State) (tids : List Nat) (v : List SavedQuad) (f : FaultRec) : Bool :=
  match f.src with
  | 0 => tids.contains f.owner
  | 1 => tids.contains f.owner
  | 3 => s.eops.any fun o => o.u == f.owner && o.stopped && tids.contains o.tid
  | 4 => v.any fun q => q.mops.any fun m => m.u == f.owner
  | _ => false

/-- Apply a reply that lies in its slot, whoever has written it, and empty the slot; a slot without it leaves the fault
outstanding (R421, R423, R439). -/
def State.applySlot (s : State) (slot : Nat) (f : FaultRec) : State :=
  let a := (s.slot slot).replySlot f.fseq
  if s.spanLost a 272 then s.endCtx (s.slot slot).ctxid 0x41
  else if s.poisoned a 272 then s.endCtx (s.slot slot).ctxid 0x44
  else if s.memNat a 8 = f.fseq * 2 ^ 32 + 1 then
    let n := min 32 (s.memNat (a + 8 + 5) 1)
    let rep := (List.range n).map fun i => BitVec.ofNat 64 (s.memNat (a + 16 + 8 * i) 8)
    (s.applyReply slot f rep).devWrite a (leBytes 8 (f.fseq * 2 ^ 32))
  else s.modSlot slot fun c => { c with faults := c.faults.map fun g =>
    if g.fseq == f.fseq then { g with reply := none } else g }

/-- A fetch is made again after a restore, unless a reply has declined it (R424). -/
def Team.refetch (t : Team) : Team :=
  match t.wait with
  | .fetch .. => { t with wait := .none }
  | _ => t

/-- The Cupboard of each block of the unit is filled (R58, R421). -/
def State.unitFilled (s : State) (u : SavedUnit) : Bool :=
  u.blocks.all fun k => match s.block? k, s.grid? u.gid with
    | some b, some g => s.cupReady g b
    | _, _ => true

/-- A restore is an acquire: the teams' fetches, and their instructions' reads of records, follow it (R109, R350). The L1s of
the cores that the teams now run on drop what they hold of the window, so that no team reads it older than before (R109). -/
def State.restoreAcquire (s : State) (tids : List Nat) : State :=
  let cores := ((s.teams.filter fun t => tids.contains t.tid).map fun t => s.holder t.core).dedup
  let s0 := cores.foldl (fun s h => s.winDrop h) s
  let s1 := s0.modTeams (fun t => tids.contains t.tid) fun t => { t with codeAt := max t.codeAt (s.free + 1) }
  let of_ (a : Asker) : Bool := match a with | .record t _ => tids.contains t | .code t _ => tids.contains t | _ => false
  { s1 with link := { s1.link with got := s1.link.got.filter fun g => !of_ g.who } }

/-- The rest of a unit's restore, once its Cupboards are filled: translations, reply slots, merges, the teams, the
records' units (R421). -/
def State.finishRestore (s : State) (u : SavedUnit) : State :=
  match s.grid? u.gid with
  | none => s
  | some g =>
    let slot := (s.slotOf g.ctx).getD 0
    let tids := (s.teams.filter fun t => u.blocks.contains t.bid && t.life == Life.live).map (·.tid)
    let s1 := ({ s with restoring := s.restoring.filter fun x => x.u != u.u } : State).restoreAcquire tids
    let s2 := if u.inval then s1.modTeams (fun t => tids.contains t.tid) fun t =>
        { t with m := t.m.map fun p => (p.1, p.2.forget) } else s1
    let mine := (s2.slot slot).faults.filter (s2.faultOf tids u.quads)
    let s3 := mine.foldl (fun s f => s.applySlot slot f) s2
    let s4 := s3.modTeams (fun t => tids.contains t.tid) Team.refetch
    let s5 := (s4.eops.filter fun o => o.stopped && tids.contains o.tid).foldl (fun s o => s.resumeMerge o) s4
    let runs := u.blocks.filterMap fun k => (s5.block? k).bind (·.save)
    let s6 := s5.modSlot slot fun c => { c with units := c.units.filter fun x => !runs.contains x }
    let s7 := runs.foldl (fun s p => s.writeMap slot p.1 p.2) s6
    (u.blocks.foldl (fun s k => s.modBlock k fun b => { b with save := none }) s7).startBlocks u.gid

/-- Units whose Cupboards are filled now go on with their restore. -/
def State.restoreOn (s : State) : State := (s.restoring.filter s.unitFilled).foldl (fun s u => s.finishRestore u) s

/-- A record of the unit cannot be read: a line of it is lost, or a sector poisoned (R423, R439). -/
def State.recordBad (s : State) (u : SavedUnit) : Option Nat :=
  let c := s.slot (((s.grid? u.gid).bind fun g => s.slotOf g.ctx).getD 0)
  let at_ (f : Nat → Nat → Bool) : Bool :=
    u.blocks.any fun k => ((s.block? k).bind (·.save)).any fun p => f (c.unitPa p.1) (4096 * p.2)
  if at_ s.spanLost then some 0x41 else if at_ s.poisoned then some 0x44 else none

/-- Restore a unit whose blocks have just been placed: its records are read, pending engine actions are applied, and the
rest follows the fills of its Cupboards (R421, R423, R439). -/
def State.restored (s : State) (u : SavedUnit) : State :=
  if let some st := s.recordBad u then s.endCtx (((s.grid? u.gid).map (·.ctx)).getD 256) st else
  let teams := s.teams.filter fun t => u.blocks.contains t.bid && t.life == Life.live
  let s1 := teams.foldl (fun s t => s.applyActs t) s
  ({ s1 with saved := s1.saved.filter fun x => x.u != u.u, restoring := s1.restoring ++ [u] }).restoreOn

end Sys2Proof.Machine
end

