-- ==== Sys2Proof/Machine/Distributor.lean ====
section
/-! DEFINITION. The distributor: its order, placement, restore, ageing, pressing gangs, child-wait eviction, and the
filling of Cupboards (R58 to R60, R388 to R390, R411, R412, R421). -/

namespace Sys2Proof.Machine

/-! ### Candidates and their order (R388, R411) -/

/-- A candidate: a grid with something to place, or an evicted unit of it; its handle. -/
structure Cand where
  g : Grid
  unit : Option SavedUnit
  id : Nat
  deriving DecidableEq, Repr

/-- The context lets its work be placed: active, not ending, not suspended (R407, R412). -/
def State.ctxPlaces (s : State) (ctx : Nat) : Bool :=
  match s.slotOf ctx with
  | some n => (s.slot n).ending.isNone && !(s.slot n).susp
  | none => false

/-- A Queued launch, or a Running grid that is no gang and has Pending blocks. -/
def Grid.placeable (g : Grid) : Bool :=
  g.st == GridSt.queued || (g.st == GridSt.running && !g.lrec.gang && g.next < g.lrec.nBlocks)

/-- The candidates of the distributor: evicted units whose records are written, and grids. -/
def State.cands (s : State) : List Cand :=
  ((s.saved.filter fun u => !u.pend).filterMap fun u => (s.grid? u.gid).map fun g => (⟨g, some u, u.u⟩ : Cand)).filter
    (fun c => s.ctxPlaces c.g.ctx) ++
  (s.grids.filter fun g => g.placeable && s.ctxPlaces g.ctx).map fun g => ⟨g, none, g.gid⟩

/-- One candidate is considered before another: higher class, earlier in Queued, lower launch id, a unit before its
grid's Pending blocks. -/
def Cand.before (a b : Cand) : Bool :=
  if a.g.cls ≠ b.g.cls then b.g.cls < a.g.cls
  else if a.g.queuedAt ≠ b.g.queuedAt then a.g.queuedAt < b.g.queuedAt
  else if a.g.lid ≠ b.g.lid then a.g.lid < b.g.lid
  else a.unit.isSome && b.unit.isNone

/-- Insert in order, behind those not after it. -/
def insertCand (x : Cand) : List Cand → List Cand
  | [] => [x]
  | y :: r => if x.before y then x :: y :: r else y :: insertCand x r

/-- The candidates in order; R388 orders two of different contexts with one class, time in Queued and launch id no further:
the model takes first the one that stands first in State (log 42, DESIGN CHOICE). -/
def State.order (s : State) : List Cand := s.cands.foldl (fun acc x => insertCand x acc) []

/-- The distributor's place in the present fabric cycle. -/
def State.distNow (s : State) : Dist :=
  if s.dist.at_ = s.fab then s.dist else { s.dist with at_ := s.fab, served := [], towers := [] }

/-- Place a candidate, leaving out towers used in this fabric cycle and towers claimed against it (R388, R390). -/
def State.placeCand (s : State) (c : Cand) (used : List Nat) : Option State :=
  let f (core : Nat) : Bool := !used.contains (towerOf core) && !s.claimed c.g core
  match c.unit with
  | some u => (s.putUnit u f).map fun s1 => s1.restored u
  | none => s.placeNext c.g f

/-- It is the candidate's turn: each before it has been served in this fabric cycle or cannot be placed (R388). -/
def State.turn (s : State) (c : Cand) : Bool :=
  let d := s.distNow
  !d.served.contains c.id &&
  (s.order.takeWhile fun x => x.id != c.id).all fun x => d.served.contains x.id || (s.placeCand x d.towers).isNone

/-- Place a candidate in its turn; the towers it used take no other placement in this fabric cycle. -/
def State.serve (s : State) (c : Cand) : State :=
  if !s.turn c then s
  else
    let d := s.distNow
    match s.placeCand c d.towers with
    | none => s
    | some s1 =>
      let new := ((s1.blocks.filter fun b => s.uid ≤ b.order).map fun b => towerOf b.core).dedup
      { s1 with dist := { d with served := d.served ++ [c.id], towers := d.towers ++ new } }

/-- The candidate with a handle. -/
def State.cand? (s : State) (id : Nat) : Option Cand := s.cands.find? fun c => c.id == id

/-- BLOCK_PLACEMENT (R388, R389): the next block or cluster of a grid that is no gang. -/
def execBlockPlacement (gid : Nat) (s : State) : Out :=
  .next (match s.cand? gid with
  | none => s
  | some c => if c.unit.isNone && !c.g.lrec.gang then s.serve c else s)

/-- GANG_PLACEMENT (R390). -/
def execGangPlacement (gid : Nat) (s : State) : Out :=
  .next (match s.cand? gid with
  | none => s
  | some c => if c.unit.isNone && c.g.lrec.gang then s.serve c else s)

/-- A gang that cannot be restored since its class cannot be met any more ends (R424). -/
def State.gangLost (s : State) (u : SavedUnit) : Bool :=
  match s.grid? u.gid with
  | none => false
  | some g => g.lrec.gang && s.regs.towerlost != 0 && !s.gangFits g.lrec

/-- Its grid ends with STATUS 2 and status 0x41; its blocks, teams, faults and records go (R406, R424). -/
def State.endGang (s : State) (u : SavedUnit) : State :=
  match s.grid? u.gid with
  | none => s
  | some g =>
    let slot := (s.slotOf g.ctx).getD 0
    let tids := (s.teams.filter fun t => u.blocks.contains t.bid).map (·.tid)
    let runs := u.blocks.filterMap fun k => (s.block? k).bind (·.save)
    let s1 : State := { s with
      saved := s.saved.filter fun x => x.u != u.u
      blocks := s.blocks.filter fun b => !u.blocks.contains b.bid
      t := if tids.contains s.t.tid then { s.t with life := .absent } else s.t
      others := s.others.filter fun t => !tids.contains t.tid
      eops := s.eops.filter fun o => !(o.stopped && tids.contains o.tid) }
    let s2 := s1.modSlot slot fun c => { c with
      units := c.units.filter fun x => !runs.contains x
      faults := c.faults.filter fun f => !s.faultOf tids u.quads f }
    (runs.foldl (fun s p => s.writeMap slot p.1 p.2) (s2.flushFaults slot)).gridOver g 2 0x41 g.lrec.nBlocks

/-- UNIT_RESTORE (R411, R421, R424). -/
def execUnitRestore (u : Nat) (s : State) : Out :=
  .next (match s.cand? u with
  | none => s
  | some c => match c.unit with
    | none => s
    | some v => if s.gangLost v then s.endGang v else s.serve c)

/-! ### Ageing and pressing gangs (R388, R390) -/

/-- AGEc.INTERVAL in fabric cycles (R381). -/
def State.age (s : State) (c : Nat) : Nat :=
  1024 * (match c with | 0 => s.regs.age0 | 1 => s.regs.age1 | 2 => s.regs.age2 | _ => s.regs.age3)

/-- The cycle at which a grid's effective class rises: a change of AGEc applies from the next fabric cycle (R388). -/
def State.riseAt (s : State) (g : Grid) : Nat := max (g.clsAt + s.age g.cls) (s.regs.ageAt + 1)

/-- The grid with its effective class as it is now, at most n classes higher (R388). -/
def State.aged (s : State) : Nat → Grid → Grid
  | 0, g => g
  | n + 1, g =>
    if (g.st == GridSt.queued || g.st == GridSt.running) && g.cls < 3 && s.age g.cls != 0 && s.riseAt g ≤ s.fab then
      s.aged n { g with cls := g.cls + 1, clsAt := s.riseAt g }
    else g

/-- EFFECTIVE_CLASS_AGEING (R388). -/
def execEffectiveClassAgeing (gid : Nat) (s : State) : Out := .next (s.modGrid gid (s.aged 3))

/-- The gang becomes pressing now (R390): a change of AGEc applies from the next fabric cycle (R388). -/
def State.pressDue (s : State) (g : Grid) : Bool :=
  g.st == GridSt.queued && g.lrec.gang && !g.pressing && s.age g.lrec.prio != 0 &&
    s.age g.lrec.prio < s.fab - g.queuedAt && s.regs.ageAt < s.fab

/-- The package with every block of class at most cls gone from some towers. -/
def State.emptied (s : State) (towers : List Nat) (cls : Nat) : State :=
  let gone (b : Block) : Bool := b.life == BlockLife.resident && towers.contains (towerOf b.core) &&
    (match s.grid? b.gid with | some g => g.cls ≤ cls | none => true)
  let bs := s.blocks.filter gone
  let bids := bs.map (·.bid)
  let s1 : State := { s with
    blocks := s.blocks.filter fun b => !gone b
    t := if bids.contains s.t.bid then { s.t with life := .absent } else s.t
    others := s.others.filter fun t => !bids.contains t.bid }
  bs.foldl (fun s b =>
    let r := ((s.grid? b.gid).getD Grid.none).lrec
    s.freeQuad b.gid (clusterOf r b.rank) (quadOf b.core) r) s1

/-- Resident teams on a tower of blocks of class at most cls. -/
def State.lowTeams (s : State) (cls tower : Nat) : Nat :=
  s.teams.countP fun t => t.life == Life.live && towerOf t.core == tower &&
    (match s.grid? t.gid with | some g => g.cls ≤ cls | none => true)

/-- Claim towers one after another until the gang fits their cores, emptied. -/
def State.claimMore (s : State) (g : Grid) : List Nat → List Nat → List Nat
  | [], _ => []
  | t :: r, acc =>
    let ts := acc ++ [t]
    if ((s.emptied ts g.cls).putGang g fun c => ts.contains (towerOf c)).isSome then ts else s.claimMore g r ts

/-- The towers that a pressing gang claims (R390). -/
def State.claims (s : State) (g : Grid) : List Nat :=
  let held (t : Nat) : Bool := s.grids.any fun h => h.gid != g.gid && h.pressing && g.cls ≤ h.cls && h.claims.contains t
  let open_ := (List.range Config.nTowers).filter fun t => !held t
  if g.lrec.lclass = 2 then s.claimMore g (sortBy (fun t => s.nTeams (towerCores t)) open_) []
  else
    match sortBy (s.lowTeams g.cls) (open_.filter fun t =>
      ((s.emptied [t] g.cls).putGang g fun c => towerOf c == t).isSome) with
    | [] => []
    | t :: _ => [t]

/-- A gang for which it is due becomes pressing; its class rises first when that is due (R390). -/
def State.press (s : State) (gid : Nat) : State :=
  match s.grid? gid with
  | none => s
  | some g =>
    if !s.pressDue g then s
    else
      let g1 := s.aged 3 g
      s.modGrid gid fun _ => { g1 with pressing := true, claims := s.claims g1 }

/-- GANG_PRESSING (R390). -/
def execGangPressing (gid : Nat) (s : State) : Out := .next (s.press gid)

/-- In a new fabric cycle classes rise that are due to, and gangs become pressing, the earliest in Queued first (R388,
R390). -/
def State.ageGrids (s : State) : State :=
  let rise (g : Grid) : Grid := { g with cls := (s.aged 3 g).cls, clsAt := (s.aged 3 g).clsAt }
  let s1 : State := { s with grids := s.grids.map rise }
  (sortBy (·.queuedAt) (s1.grids.filter s1.pressDue)).foldl (fun s g => s.press g.gid) s1

/-! ### Child-wait eviction (R412) -/

/-- A launch that the work-list pool has no room for yet, which is no want of a core (R383). -/
def State.poolHeld (s : State) (c : Cand) : Bool := c.unit.isNone && c.g.st == GridSt.queued && !s.poolRoom c.g

/-- The first candidate, when it has no eligible core. -/
def State.stuckHead (s : State) : Option Cand :=
  match s.order with
  | [] => none
  | c :: _ => if !s.poolHeld c && (s.placeCand c []).isNone then some c else none

/-- Keep account of the candidate that has been first in the order without an eligible core. -/
def State.trackHead (s : State) : State :=
  match s.stuckHead with
  | none => if s.dist.head = 0 then s else { s with dist := { s.dist with head := 0, headAt := s.fab } }
  | some c => if s.dist.head = c.id then s else { s with dist := { s.dist with head := c.id, headAt := s.fab } }

/-- A grid descends from another; fuel is the greatest depth. -/
def State.descends (s : State) (anc : Nat) : Nat → Grid → Bool
  | 0, _ => false
  | n + 1, g => match g.parent with
    | none => false
    | some p => p == anc || (match s.grid? p with | some h => s.descends anc n h | none => false)

/-- A descendant launch of the grid, Queued or Running with something to place, has been first in the order for its class's
ageing interval with no eligible core. -/
def State.childStuck (s : State) (gid : Nat) : Bool :=
  match s.stuckHead with
  | none => false
  | some c => c.id == s.dist.head && s.descends gid 16 c.g &&
      s.age c.g.cls != 0 && s.age c.g.cls ≤ s.fab - s.dist.headAt

/-- Units whose every team waits in CWAIT, of grids whose descendant launch is stuck: the lowest effective class first,
then the latest made resident. -/
def State.waitingUnits (s : State) : List (Grid × List Block) :=
  let gs := s.grids.filter fun g => s.childStuck g.gid
  let idle (u : List Block) : Bool :=
    let ts := s.teams.filter fun t => (u.any fun b => b.bid == t.bid) && t.life == Life.live
    !ts.isEmpty && (ts.all fun t => t.wait == Wait.cwait) && !s.fillHeld u
  let us := gs.flatMap fun g => ((s.unitsOf fun b => b.gid == g.gid).filter idle).map fun u => (g, u)
  sortBy (fun p => p.1.cls * (s.uid + 1) + (s.uid - p.2.foldl (fun m b => max m b.order) 0)) us

/-- CHILD_WAIT_EVICTION (R412): of the units that may be evicted, the first that fits its save area, if it is of this
grid. -/
def execChildWaitEviction (gid : Nat) (s : State) : Out :=
  .next (match s.waitingUnits.findSome? fun p => (s.evictCount {} p.2 false).map fun r => (p.1, r) with
  | some (g, s1, n) =>
    if g.gid = gid then
      ({ s1 with dist := { s1.dist with headAt := s1.fab } }).settleSaving (n.saving g.ctx 0 0x10 0 [])
    else s
  | none => s)

/-! ### Cupboard fills (R58 to R60) -/

/-- Fill an allocation from its image, 4 KiB after 4 KiB, as far as the image can be read. -/
def State.fillChunks (s : State) (slot : Nat) (who : Asker) (image : Nat) : List Nat → Cup → Cup × RdV
  | [], c => (c, .ok [])
  | k :: r, c =>
    match s.readVirt slot who (ptrAdd image (4096 * k)) 4096 with
    | .ok bs => s.fillChunks slot who image r { c with bytes := sputRun 0 (4096 * k) bs c.bytes, filled := 4096 * (k + 1) }
    | g => (c, g)

/-- A fill stops: the fault goes out for the block whose placement started it (R60, R403). -/
def State.fillFault (s : State) (slot q gid cause ptr : Nat) : State :=
  let mine := s.blocks.filter fun b => b.gid == gid && b.life == BlockLife.resident && quadOf b.core == q
  let core := ((sortBy (·.order) mine).head?.map (·.core)).getD (4 * q)
  let (s1, fs) := ((s.noteXls (q / 20) slot [ptr]).dropGot (.fill gid q)).sendFault slot 5 core 0 0 gid q
    [pageEntry ptr cause true false]
  s1.modQuad q fun x => { x with cups := x.cups.map fun c => if c.gid == gid then { c with fseq := fs } else c }

/-- CUPBOARD_FILL (R58, R60). -/
def execCupboardFill (q gid : Nat) (s : State) : Out :=
  .next (match (s.quadD q).cups.find? fun c => c.gid == gid, s.grid? gid with
  | some c, some g =>
    let slot := (s.slotOf g.ctx).getD 0
    if c.done || c.fseq != 0 || s.ctxEnding g.ctx then s
    else if let some st := s.regionBad slot g.lrec.image then s.endCtx g.ctx st
    else if !s.inRegion slot g.lrec.image c.size then s.fillFault slot q gid 5 g.lrec.image
    else
      let todo := (List.range (c.size / 4096)).drop (c.filled / 4096)
      let who := Asker.fill gid q
      let (c1, res) := s.fillChunks slot who g.lrec.image todo c
      let got := (todo.filter fun k => 4096 * k < c1.filled).map fun k => (ptrAdd g.lrec.image (4096 * k), 4096)
      let put (c2 : Cup) : State :=
        (s.noteVirt (.unit (q / 20)) slot got).modQuad q fun x => { x with
          cups := updFirst (fun y => y.gid == gid) (fun _ => c2) x.cups }
      match res with
      | .ok _ => (put { c1 with done := true }).restoreOn.startBlocks gid
      | .fault cause ptr => (put c1).fillFault slot q gid cause ptr
      | .ends st => s.endCtx g.ctx st
      | .wait l => (put c1).askFor who l
  | _, _ => s)

end Sys2Proof.Machine
end

