-- ==== Sys2Proof/Machine/Context.lean ====
section
/-! DEFINITION. Register-space writes, context slots, invalidation, the end of a context, peer ports and reduction streams
(R5, R6, R345, R376, R380, R381, R391 to R397, R401, R402, R407, R408, R423). -/

namespace Sys2Proof.Machine

/-! ### Register writes as messages (R376) -/

/-- Offset within register space, and value, of an 8-byte write. -/
def regOff (m : HostMsg) : Nat := m.field 0 8 % 2 ^ 44
def regVal (m : HostMsg) : Nat := m.field 8 8

/-- Answer WRACK with STATUS 2 and change nothing, or the state given with STATUS 0 (R376). -/
def State.regDone (s : State) : Option State → Took
  | some s1 => .ok (s1.reply 0x0B 0 [])
  | none => .ok (s.reply 0x0B 2 [])

/-- A write of register space by row i: ADDR's zero bits, then its effect at offset and value. -/
def regWrite (i : Instr) (f : Nat → Nat → State → Option State) (s : State) : State :=
  takeMsg i (fun m s => if bits (m.field 0 8) 62 44 != 0 then .err 2 else s.regDone (f (regOff m) (regVal m) s)) s

/-! ### Context slots (R396, R397) -/

/-- Every register of the slot keeps its alignment and range (R345, R396); areas lie in local memory. -/
def CtxSlot.regsOk (c : CtxSlot) : Bool :=
  let loc (base n : Nat) : Bool := base + n ≤ Config.dramSize
  c.ptroot.toNat % 2048 == 0 && loc c.ptroot.toNat 2048 && c.rbtbase.toNat % 4096 == 0 && loc c.rbtbase.toNat 4096 &&
  c.frarea.toNat / 2 ^ 44 == 0 && bits c.frarea.toNat 11 5 == 0 && 8 ≤ c.frbits && c.frbits ≤ 20 &&
  loc (c.frarea.toNat / 4096 * 4096) (512 * 2 ^ c.frbits) &&
  c.savebase.toNat % 4096 == 0 && c.savesize.toNat % 4096 == 0 && c.savesize.toNat ≤ 2 ^ 32 &&
  loc c.savebase.toNat c.savesize.toNat &&
  c.wlbase.toNat % 512 == 0 && c.wlsize.toNat % 512 == 0 && loc c.wlbase.toNat c.wlsize.toNat &&
  c.codebase.toNat % 2 ^ 21 == 0 && c.codesize.toNat % 2 ^ 21 == 0 && 2 ^ 21 ≤ c.codesize.toNat &&
  c.codesize.toNat ≤ 2 ^ 30 && c.lattbase.toNat % 8 == 0 && c.storebase.toNat % 32 == 0 &&
  c.dictbase.toNat % 1024 == 0 && c.ptabbase.toNat % 1024 == 0

/-- The slot as a context becomes active in it (R397, R403, R441). -/
def CtxSlot.activated (c : CtxSlot) (id : Nat) : CtxSlot :=
  { c with
    ctxid := id, act := true, susp := false, ending := none, fseq := 0, faults := [], units := [], phcnt := 0, phlast := 0
    phAt := 0
    lastLid := 0, tlb := [], rcache := [], code := [] }

/-- A write of CTXCTL with END 0 (R397): activation, with no record in the save area (R414), or CTXID of an inactive
slot. -/
def State.ctxctl (s : State) (n v : Nat) : Option State :=
  let c := s.slot n
  let id := bits v 15 8
  if c.act then (if v % 2 = 1 ∧ id = c.ctxid then some s else none)
  else if v % 2 = 0 then some (s.modSlot n fun c => { c with ctxid := id })
  else if (s.slotOf id).isSome || !c.regsOk || s.regs.towerlost != 0 then none
  else some ((s.modSlot n fun c => c.activated id).clearMap n)

/-- Number of the slot that an offset names (R396). -/
def slotNo (off : Nat) : Nat := (off - 0x500000) / 0x100

/-- CTXCTL_ACTIVATE (R397). -/
def execCtxctlActivate (s : State) : Out :=
  .next (regWrite .ctxctlActivate (fun off v s => s.ctxctl (slotNo off) v) s)

/-- CTXCTL_END (R397, R407, R408). -/
def execCtxctlEnd (s : State) : Out :=
  .next (regWrite .ctxctlEnd (fun off _ s =>
    let c := s.slot (slotNo off)
    some (if c.act then s.endCtx c.ctxid 0x42 else s)) s)

/-- A write of another slot register (R396, R397). -/
def CtxSlot.setReg (c : CtxSlot) (o : Nat) (x : DWord) : CtxSlot :=
  match o / 8 with
  | 1 => { c with ptroot := x }
  | 2 => { c with rbtbase := x }
  | 3 => { c with frarea := x }
  | 4 => { c with savebase := x }
  | 5 => { c with savesize := x }
  | 6 => { c with wlbase := x }
  | 7 => { c with wlsize := x }
  | 8 => { c with codebase := x }
  | 9 => { c with codesize := x }
  | 10 => { c with lattbase := x }
  | 11 => { c with storebase := x }
  | 12 => { c with dictbase := x }
  | 13 => { c with ptabbase := x }
  | _ => c

/-! ### Invalidation (R401, R402) -/

/-- Two ranges of virtual addresses overlap. -/
def overlaps (a n b k : Nat) : Bool := a < b + k && b < a + n

/-- A cached entry covers part of a range. -/
def TlbEntry.inRange (e : TlbEntry) (a n : Nat) : Bool :=
  overlaps (e.key * 2 ^ lvlShift e.level) (2 ^ lvlShift e.level) a n

/-- Forget the translations that satisfy p in a team's m registers, and in what may still be read of them. -/
def Team.forget (t : Team) (p : XReg → Bool) : Team :=
  let x (r : XReg) : XReg := if p r then r.forget else r
  let old (r : RegSave) : RegSave := match r with | .m n o => .m n (x o) | r => r
  { t with
    m := t.m.map fun e => (e.1, x e.2)
    infl := t.infl.map fun f => { f with saves := f.saves.map old }
    recent := t.recent.map fun r => { r with old := old r.old } }

/-- An operation is stopped by a fault; an MDRM is while rows of it are parked (R100, R299). -/
def State.opStopped (s : State) (o : EngOp) : Bool :=
  if o.kind == 3 then s.teams.any fun t => t.log.any fun e => e.h == o.u else o.fseq != 0

/-- An operation owns lines that its destination had in a range of virtual addresses when they were granted (R402). -/
def EngOp.ownsIn (o : EngOp) (a n : Nat) : Bool :=
  o.vpages.any fun p => overlaps (65536 * p.1) 65536 a n && o.lines.any fun l => 128 * l / 65536 == p.2

/-- An operation of the context, stopped by a fault, holds grants on lines of the range (R402). -/
def State.grantsIn (s : State) (slot a n : Nat) : Bool :=
  s.eops.any fun o => o.ctx == (s.slot slot).ctxid && s.opStopped o && o.ownsIn a n

/-- What an invalidation discards (R402): the translations of pages in a range of virtual addresses, those of a region, or
cached code. -/
inductive InvScope where
  | range (a n : Nat)
  | region (id : Nat)
  | code
  deriving DecidableEq, Repr

/-- A pointer's translation is discarded. -/
def InvScope.hits : InvScope → Nat → Bool
  | .range a n, p => a ≤ p % 2 ^ 56 && p % 2 ^ 56 < a + n
  | .region id, p => p / 2 ^ 56 == id
  | .code, _ => false

/-- A window read or atomic of the context that has not been answered, at a pointer that h accepts, or a write of it that has
not been acknowledged (R402, R407). -/
def State.winOpen (s : State) (ctx : Nat) (h : Nat → Bool) : Bool :=
  let mine (k : Nat) : Bool := (s.teams.any fun t => t.ctx == ctx && (t.tid == k || t.infl.any (fun f => f.u == k) ||
    t.log.any (fun e => e.h == k))) || s.eops.any fun o => o.ctx == ctx && o.u == k
  (s.link.reqs.any fun r => r.ctx == ctx && (r.tid == 0 || h r.acc.ptr)) ||
  (s.link.asks.any fun a => a.ctx == ctx && h a.ptr) || (s.link.wacks.any fun w => mine w.2) ||
  s.link.wlate.any fun w => w.2.2 == ctx

/-- The reader is a team's fetch. -/
def Asker.isCode (a : Asker) : Bool :=
  match a with
  | .code _ _ => true
  | _ => false

/-- An access of the context that may have used what an invalidation discards is not performed (R402): an operation that
owns lines of the range, or whose destination lies in the region, is neither stopped nor done, or an access to the system
window is still open (log 82); of an invalidation of code, a read that a fetch has made of the window, since a cached LATT
entry may have placed it (R349). -/
def State.invWaits (s : State) (slot : Nat) (v : InvScope) : Bool :=
  let ctx := (s.slot slot).ctxid
  let into (o : EngOp) : Bool := match v with
    | .range a n => o.ownsIn a n
    | .region _ => (destsOf o.kind o.ops o.recs).now.any fun d => v.hits d.1
    | .code => false
  (s.eops.any fun o => o.ctx == ctx && !s.opStopped o && !o.sent && !o.stopped && into o) ||
  (if v == .code then s.link.asks.any fun a => a.ctx == ctx && a.who.isCode else s.winOpen ctx v.hits)

/-- Records of the context's evicted units restore no translation that was there before (R421). -/
def State.savedStale (s : State) (ctx : Nat) (l : List SavedUnit) : List SavedUnit :=
  l.map fun u => if (s.grid? u.gid).any fun g => g.ctx == ctx then { u with inval := true } else u

/-- An invalidation of the context in a slot: f on its slot, p picks translations to forget; its outstanding stores are
performed (R402). -/
def State.invalidate (s : State) (slot : Nat) (f : CtxSlot → CtxSlot) (p : XReg → Bool) : State :=
  let ctx := (s.slot slot).ctxid
  let drop (t : Team) : Team := { t with infl := t.infl.map fun i => { i with late := [] } }
  ({ (s.modSlot slot f) with
    saved := s.savedStale ctx s.saved, restoring := s.savedStale ctx s.restoring }).modTeams
      (fun t => t.ctx == ctx && t.life == Life.live) fun t => (drop t).forget p

/-- INVCMD of one kind (R402): its zero bits, the accesses it waits for, INVDONE, and STATUS 2 where stopped operations
hold grants. -/
def invCmd (i : Instr) (ok : State → Bool) (what : State → InvScope) (f : State → Nat → State) (s : State) :
    State :=
  takeMsg i (fun m s =>
    let v := regVal m
    let slot := v % 16
    if bits (m.field 0 8) 62 44 != 0 then .err 2
    else if v / 256 ≠ 0 ∨ !ok s then .ok (s.reply 0x0B 2 [])
    else
      let s1 : State := { s with regs := { s.regs with invdone := s.regs.invdone + 1 } }
      if !(s.slot slot).act then .ok (s1.reply 0x0B 0 [])
      else if s.invWaits slot (what s) then .hold
      else
        let held := match what s with | .range a n => s.grantsIn slot a n | _ => false
        .ok ((f s1 slot).reply 0x0B (if held then 2 else 0) [])) s

/-- The range that INVADDR and INVLEN name. -/
def State.invRange (s : State) : Nat × Nat := (s.regs.invaddr.toNat, s.regs.invlen.toNat)

/-- INVALIDATE_RANGE (R402 KIND 1). -/
def execInvalidateRange (s : State) : Out :=
  .next (invCmd .invalidateRange
    (fun s => s.invRange.1 % 2 ^ 16 == 0 && s.invRange.1 < 2 ^ 56 && s.invRange.2 % 2 ^ 16 == 0)
    (fun s => .range s.invRange.1 s.invRange.2)
    (fun s slot =>
      let (a, n) := s.invRange
      s.invalidate slot (fun c => { c with tlb := c.tlb.filter fun e => !e.inRange a n })
        fun x => overlaps x.vbase.toNat x.limit.toNat a n) s)

/-- INVALIDATE_ALL (R402 KIND 2). -/
def execInvalidateAll (s : State) : Out :=
  .next (invCmd .invalidateAll (fun _ => true) (fun _ => .range 0 (2 ^ 56))
    (fun s slot => s.invalidate slot (fun c => { c with tlb := [], rcache := [] }) fun _ => true) s)

/-- INVALIDATE_REGION (R402 KIND 3). -/
def execInvalidateRegion (s : State) : Out :=
  .next (invCmd .invalidateRegion (fun _ => true) (fun s => .region (s.regs.invaddr.toNat / 2 ^ 56))
    (fun s slot =>
      let id := s.regs.invaddr.toNat / 2 ^ 56
      s.invalidate slot (fun c => { c with rcache := c.rcache.filter fun p => p.1 != id })
        fun x => x.region.toNat == id) s)

/-- What fetches of a context hold of the system window goes: a fetch under way begins again (R349, R446). -/
def State.dropFetched (s : State) (ctx : Nat) : State :=
  let mine (a : Asker) : Bool := match a with
    | .code tid _ => s.teams.any fun t => t.tid == tid && t.ctx == ctx
    | _ => false
  { s with link := { s.link with got := s.link.got.filter fun g => !mine g.who } }

/-- INVALIDATE_CODE (R402 KIND 4). -/
def execInvalidateCode (s : State) : Out :=
  .next (invCmd .invalidateCode (fun _ => true) (fun _ => .code)
    (fun s slot => (s.invalidate slot (fun c => { c with code := [] }) fun _ => false).dropFetched (s.slot slot).ctxid) s)

/-! ### Reduction streams and peer ports (R393, R394) -/

/-- What a write of a stream's first word gives it is allowed: contributions and port numbers, and at most 16 valid streams
on a port (R394). -/
def State.streamOk (s : State) (n : Nat) (x : Stream) : Bool :=
  1 ≤ x.port && x.port ≤ 18 && 1 ≤ x.ncontrib && (x.outKind == 0 || (1 ≤ x.outPort && x.outPort ≤ 18)) &&
  (!x.v || ((List.range 256).countP fun k => k != n && (s.stream k).v && (s.stream k).port == x.port) < 16)

/-- Word 0 of a stream without its zero fields (R6, R394). -/
def streamWord (v : Nat) : DWord := BitVec.ofNat 64 v &&& 0x000000FFFF3F3F3F

/-- A write of word k of stream n (R394). -/
def State.streamWrite (s : State) (n k v : Nat) : Option State :=
  let x := s.stream n
  let x0 := { x with w0 := streamWord v }
  if x.v && !(k == 0 && v % 2 == 0) then none
  else match k with
    | 0 => if s.streamOk n x0 then some (s.putStream n x0.clear) else none
    | 1 => some (s.putStream n { x with dest := BitVec.ofNat 64 v })
    | 2 => some (s.putStream n { x with bdest := BitVec.ofNat 64 v })
    | _ => some (s.putStream n { x with seqa := BitVec.ofNat 64 v })

/-- REDUCTION_STREAM_WRITE (R394). -/
def execReductionStreamWrite (s : State) : Out :=
  .next (regWrite .reductionStreamWrite (fun off v s =>
    if off % 8 ≠ 0 then none else s.streamWrite ((off - 0x400000) / 32) (off / 8 % 4) v) s)

/-- The port of a control register (R393). -/
def portNo (off : Nat) : Nat := (off - 0x300000) / 0x100

/-- PEER_PORT_ENABLE (R393): training starts; PEER_PORT_UP ends it. -/
def execPeerPortEnable (s : State) : Out :=
  .next (regWrite .peerPortEnable (fun off _ s => some (s.modPctl (portNo off) fun c => { c with en := true })) s)

/-- PEER_PORT_DISABLE (R393): the port goes down, and the partial rows of its streams go. -/
def execPeerPortDisable (s : State) : Out :=
  .next (regWrite .peerPortDisable (fun off _ s =>
    let p := portNo off
    some ((List.range 256).foldl (fun s n => if (s.stream n).port = p then s.putStream n (s.stream n).clear else s)
      (s.modPctl p fun c => { c with en := false, up := false }))) s)

/-- PEER_PORT_UP (R379, R393): a port in training comes into service. -/
def execPeerPortUp (p : Nat) (s : State) : Out :=
  .next (if 1 ≤ p && p ≤ 18 && (s.pctl p).en && s.feature 7 then s.modPctl p fun c => { c with up := true } else s)

/-! ### The other registers (R5, R69, R380, R381, R392, R402, R430, R432) -/

/-- CAPW as written (R432). -/
def capOf (v : Nat) : BitVec 16 := BitVec.ofNat 16 (max 1000 (min 2800 (v % 2 ^ 16)))

/-- A write of a register outside the rows above: none when it is refused. -/
def State.regPlain (s : State) (o v : Nat) : Option State :=
  let r := s.regs
  let x : DWord := BitVec.ofNat 64 v
  let set (r : Regs) : Option State := some { s with regs := r }
  if o % 8 ≠ 0 then none
  else if o = 0x00 then set { r with age0 := v % 2 ^ 32, ageAt := s.fab }
  else if o = 0x08 then set { r with age1 := v % 2 ^ 32, ageAt := s.fab }
  else if o = 0x10 then set { r with age2 := v % 2 ^ 32, ageAt := s.fab }
  else if o = 0x18 then set { r with age3 := v % 2 ^ 32, ageAt := s.fab }
  else if 0x100000 ≤ o ∧ o < 0x108000 ∧ o % 0x1000 = 0x40 then
    set { r with rsel := sput 0 ((o - 0x100000) / 0x1000) (v % 2 ^ 23) r.rsel }
  else if 0x200000 ≤ o ∧ o < 0x200200 then
    let n := (o - 0x200000) / 16
    let e := sget {} n r.window
    let e1 : WinEntry := if o % 16 = 0 then { e with lo := x &&& 0x3F } else { e with hi := x &&& 0xFFFFFFC000000000 }
    set { r with window := sput {} n e1 r.window }
  else if 0x500000 ≤ o ∧ o < 0x501000 ∧ o % 0x100 < 0x80 then
    if (s.slot (slotNo o)).act then none else some (s.modSlot (slotNo o) fun c => c.setReg (o % 0x100) x)
  else if o = 0x510000 then set { r with invaddr := x }
  else if o = 0x510008 then set { r with invlen := x }
  else if o = 0x510010 then none
  else if o = 0x518400 then set { r with capw := capOf v }
  else if 0x519000 ≤ o ∧ o < 0x51A000 then
    if r.mbxBusy then none else set { r with mbxBuf := sputRun 0 (o - 0x519000) (leBytes 8 v) r.mbxBuf }
  else (s.regRead false o).map fun _ => s

/-- REGISTER_WRITE (R5, R376, R380): read-only registers ignore it, unassigned offsets refuse it. -/
def execRegisterWrite (s : State) : Out := .next (regWrite .registerWrite (fun o v s => s.regPlain o v) s)

/-! ### The end of a context (R407, R408) -/

/-- Nothing of the context is in flight: its window reads, atomics and writes have been answered (R391, R407). -/
def State.ctxQuiet (s : State) (ctx : Nat) : Bool := !s.winOpen ctx fun _ => true

/-- The context's engine operations stop (R100, R407). -/
def State.stopEngines (s : State) (slot ctx : Nat) : State :=
  let mine := s.eops.filter fun o => o.ctx == ctx
  let s1 := mine.foldl (fun s o => if o.kind == 3 || o.sent || o.status.isSome then s else s.engPartial slot o) s
  let s2 := mine.foldl (fun s o => s.refSeals o.seals false) s1
  { s2 with eops := s2.eops.filter fun o => o.ctx != ctx }

/-- A quad without anything of these grids. -/
def Quad.without (x : Quad) (mine : Nat → Bool) : Quad :=
  let gone := x.mops.filter fun m => mine m.key.gid
  ({ x with
    mops := x.mops.filter fun m => !mine m.key.gid
    port := x.port.filter fun p => !mine p.gid
    wide := match x.wide with | some w => if gone.any fun m => m.u == w.u then none else some w | none => none
    qgrants := x.qgrants.filter fun g => !mine g.gid
    tgrants := x.tgrants.filter fun g => !mine g.gid
    cups := x.cups.filter fun c => !mine c.gid } : Quad).releaseResv fun k => mine k.gid

/-- The context's seal entries: those without references go, the others when their count reaches zero (R75, R407). A
context number above 255 marks an entry that no context owns. -/
def State.orphanSeals (s : State) (ctx : Nat) : State :=
  let s1 := (s.seals.filter fun e => e.ctx == ctx && e.refs == 0).foldl (fun s e => s.dropSeal e.base e.len ctx) s
  { s1 with seals := s1.seals.map fun e => if e.ctx == ctx then { e with ctx := 256 + ctx } else e }

/-- Bytes of a unit's records. -/
def State.unitBytes (s : State) (u : SavedUnit) : Nat :=
  4096 * natSum (u.blocks.filterMap fun k => ((s.block? k).bind (·.save)).map (·.2))

/-- The context's units are about to go: what SAVED messages will say leaves out its records that have not been written, and
its own evictions end where they are (R407, R410). -/
def State.endSaving (s : State) (ctx : Nat) : State :=
  let lost := s.saved.filter fun u => u.pend && (s.grid? u.gid).any fun g => g.ctx == ctx
  { s with saving := s.saving.map fun v => { v with
      todo := if v.ctx == ctx then [] else v.todo
      bytes := v.bytes - natSum ((lost.filter fun u => v.units.contains u.u).map s.unitBytes) } }

/-- Evictions that wait for no record any more have their SAVED, each PREEMPT one (R410). -/
def State.settleSavings (s : State) : State :=
  s.saving.foldl (fun s v => if v.todo.isEmpty then s.settleSaving v else { s with saving := s.saving ++ [v] })
    { s with saving := [] }

/-- Everything of the context goes; COMPLETE for its incomplete host launches; the slot is free (R407). -/
def State.finishCtx (s : State) (slot ctx status : Nat) : State :=
  let gs := s.grids.filter fun g => g.ctx == ctx
  let mine (gid : Nat) : Bool := gs.any fun g => g.gid == gid
  let s1 := (s.stopEngines slot ctx).endSaving ctx
  let s2 : State := { s1 with
    t := if s1.t.ctx == ctx then {} else s1.t
    others := s1.others.filter fun t => t.ctx != ctx
    blocks := s1.blocks.filter fun b => !mine b.gid
    saved := s1.saved.filter fun u => !mine u.gid
    restoring := s1.restoring.filter fun u => !mine u.gid
    quads := s1.quads.map fun x => x.without mine
    caches := { s1.caches with
      regions := s1.caches.regions.map fun p => (p.1, if p.2.pin = some ctx then { p.2 with pin := none } else p.2)
      mlines := s1.caches.mlines.filter fun m => m.ctx != ctx } }
  let s3 := gs.foldl (fun s g => s.gridOver g 2 status g.lrec.nBlocks) s2.settleSavings
  ((s3.orphanSeals ctx).modSlot slot fun c => { c with
    act := false, susp := false, ending := none, endstat := BitVec.ofNat 64 status, faults := [], units := []
    tlb := [], rcache := [], code := [] }).clearMap slot

/-- CONTEXT_END (R407). -/
def execContextEnd (slot : Nat) (s : State) : Out :=
  .next (
    let c := s.slot slot
    match c.ending with
    | none => s
    | some st => if c.act && s.ctxQuiet c.ctxid then s.finishCtx slot c.ctxid st else s)

end Sys2Proof.Machine
end

