-- ==== Sys2Proof/Machine/Health.lean ====
section
/-! DEFINITION. Bundle removal, fenced cores, tower loss, soft errors and replication epochs (R16 to R18, R67, R412, R423,
R431, R434 to R439). -/

namespace Sys2Proof.Machine

/-- The Sideboard asserts SB_ALERT_L and sends a PLDM event (R431). -/
def State.sbEvent (s : State) (e : SbEvent) : State :=
  { s with side := { s.side with alert := true, events := s.side.events ++ [e] } }

/-! ### Fenced cores (R18, R412, R436) -/

/-- A core has been fenced: the units on it are evicted, and those on its quad that use the matrix engine, which is
disabled now; SAVED KIND 0x11 for each context concerned, whose units each fit its save area, or it ends with status 0x43
(R18, R412). -/
def State.clearCore (s : State) (core : Nat) : State :=
  let uses (b : Block) : Bool := match s.grid? b.gid with | some g => g.lrec.tiles != 0 | none => false
  let units := s.unitsOf fun b => b.core == core || (quadOf b.core == quadOf core && uses b)
  let ctxOf (u : List Block) : Nat := ((u.head?.bind fun b => s.grid? b.gid).map (·.ctx)).getD 0
  ((units.map ctxOf).dedup.filter fun c => !s.ctxEnding c).foldl (fun s c =>
    s.stepSaving (({} : Evicted).saving c 0 0x11 0 ((units.filter fun u => ctxOf u == c).map fun u => u.map (·.bid)))) s

/-- Take a bundle out of service (R435 to R437). -/
def CoreHealth.remove (h : CoreHealth) (vp reason : Nat) : CoreHealth :=
  if vp = 0 then { h with vp0 := false, reason := reason } else { h with vp1 := false, reason := reason }

/-- A bundle is in service. -/
def CoreHealth.inService (h : CoreHealth) (vp : Nat) : Bool := if vp = 0 then h.vp0 else h.vp1

/-- Take a bundle of a core out of service; the second one fences the core (R437). -/
def State.removeBundle (s : State) (core vp reason : Nat) : State :=
  let s1 := (s.modCore core fun h => h.remove vp reason).sbEvent (.bundleRemoved core vp)
  if (s1.core core).fenced then (s1.clearCore core).sbEvent (.coreFenced core) else s1

/-- VP_CORRECTED_ERROR (R435). -/
def execVpCorrectedError (core vp : Nat) (s : State) : Out :=
  .next (if Config.nCores ≤ core ∨ 2 ≤ vp ∨ !(s.core core).inService vp then s
  else
    let up (h : CoreHealth) : CoreHealth :=
      if vp = 0 then { h with ce0 := min 0xFFFF (h.ce0 + 1), leak0 := h.leak0 + 1 }
      else { h with ce1 := min 0xFFFF (h.ce1 + 1), leak1 := h.leak1 + 1 }
    let s1 := s.modCore core up
    let leak := if vp = 0 then (s1.core core).leak0 else (s1.core core).leak1
    if 64 ≤ leak then s1.removeBundle core vp 2 else s1)

/-- VP_UNCORRECTABLE_ERROR (R436): tid is the team whose pass failed. -/
def execVpUncorrectableError (core vp tid : Nat) (s : State) : Out :=
  .next (if Config.nCores ≤ core ∨ 2 ≤ vp ∨ !(s.core core).inService vp then s
  else if (s.core core).vp0 && (s.core core).vp1 then s.removeBundle core vp 3
  else
    let s1 := match s.team? tid with
      | some t => if t.core = core ∧ t.life = Life.live then s.endCtx t.ctx 0x44 else s
      | none => s
    s1.removeBundle core vp 3)

/-- Every LEAK that is not zero falls by one (R435). -/
def State.leakFall (s : State) : State :=
  let cores := s.cores.map fun p => (p.1, { p.2 with leak0 := p.2.leak0 - 1, leak1 := p.2.leak1 - 1 })
  { s with
    pkg := { s.pkg with leakAt := s.pkg.leakAt + 2 ^ 20 }
    cores := cores.filter fun p => p.2 != {} }

/-- LEAK_DECAY (R435): every 2^20 fabric cycles. -/
def execLeakDecay (s : State) : Out := .next (if s.fab < s.pkg.leakAt + 2 ^ 20 then s else s.leakFall)

/-! ### Tower loss (R423) -/

/-- Fence the cores of a tower with REASON 4 (R423, R434). -/
def State.fenceTower (s : State) (t : Nat) : State :=
  (towerCores t).foldl (fun s c => s.modCore c fun h => { h with vp0 := false, vp1 := false, reason := 4 })
    { s with regs := { s.regs with towerlost := s.regs.towerlost ||| BitVec.ofNat 8 (2 ^ t) } }

/-- Copies that go with a tower: replicas held there or of lines homed there, lines of its L1s, atomic units and copy
engine. -/
def State.dropTower (s : State) (t : Nat) : State :=
  let homed (n : Nat) : Bool := isLocal (128 * n) && homeTower (128 * n) == t
  let mine (h : Nat) : Bool := (if h < 640 then towerOf h else towerOf (4 * ((h - 640) % 160))) == t
  { s with caches := { s.caches with
      repl := s.caches.repl.filter (fun (p : Nat × Nat) => p.1 != t && !homed p.2)
      l1 := s.caches.l1.filter (fun (e : L1Line) => !mine e.holder && !homed e.line)
      counted := s.caches.counted.filter (fun (c : Counted) => !homed c.line)
      mlines := s.caches.mlines.filter (fun (m : MetaLine) => m.tower != t && !homed m.line)
      win := s.caches.win.filter (fun (w : WinWord) => !mine w.holder) } }

/-- BRIDGE_TIMEOUT (R423): the tower is lost. -/
def execBridgeTimeout (tw : Nat) (s : State) : Out :=
  .next (if Config.nTowers ≤ tw ∨ s.regs.towerlost.getLsbD tw then s
  else
    let here := s.blocks.filter fun b => b.life == BlockLife.resident && towerOf b.core == tw
    let ctxs := ((here.filterMap fun b => s.grid? b.gid).map fun g => g.ctx).dedup
    (ctxs.foldl (fun s c => s.endCtx c 0x41) ((s.fenceTower tw).dropTower tw)).sbEvent (.towerLost tw))

/-! ### Soft errors (R438, R439) -/

/-- Count an error of structure st (0 to 7) on a tower; kind 0 corrected, 8 uncorrectable (R438). -/
def State.countSoft (s : State) (tw o : Nat) : State :=
  let k := 256 * tw + o
  { s with regs := { s.regs with soft := sput 0 k ((sget 0 k s.regs.soft + 1) % 2 ^ 64) s.regs.soft } }

/-- SOFT_ERROR_CORRECTED (R438, R439). -/
def execSoftErrorCorrected (tw st : Nat) (s : State) : Out :=
  .next (if 8 ≤ tw ∨ 8 ≤ st then s else s.countSoft tw (16 * st))

/-- The structure can hold what the error strikes (R439): 0 register files, 1 scratchpads, 2 L1, 3 L2, 4 tile memory,
5 Cupboards, 6 LLC, 7 DRAM. -/
def softFits (w : SoftErr) (st : Nat) : Bool :=
  match w with
  | .clean => st == 2 || st == 3 || st == 5
  | .owned _ => st == 0 || st == 1 || st == 4
  | .sector pa => isLocal pa && (st == 2 || st == 3 || st == 6 || st == 7)

/-- SOFT_ERROR_UNCORRECTABLE (R438, R439). -/
def execSoftErrorUncorrectable (tw st : Nat) (w : SoftErr) (s : State) : Out :=
  .next (if 8 ≤ tw ∨ 8 ≤ st ∨ !softFits w st then s
  else
    let s1 := s.countSoft tw (16 * st + 8)
    match w with
    | .clean => s1
    | .owned ctx => s1.endCtx ctx 0x44
    | .sector pa =>
      let s2 := s1.countSoft tw 0x80
      if s2.poison.contains (pa / 32) then s2 else { s2 with poison := pa / 32 :: s2.poison })

/-! ### Replication epochs (R67) -/

/-- The level after an epoch, by the first rule of R67 that applies. -/
def RegionRep.epoch (g : RegionRep) : RegionRep :=
  let level :=
    if g.pin.isSome then g.level
    else if 0 < g.level ∧ (g.x < 8 * g.w ∨ g.x < 64) then g.level - 1
    else if g.level < 3 ∧ 1024 ≤ g.x ∧ 64 * g.w ≤ g.x ∧ g.x ≤ 4 * g.n then g.level + 1
    else g.level
  { g with level := level, x := 0, n := 0, w := 0 }

/-- Count a raise or lowering of a region's level at the home tower of its first line (R69). -/
def Caches.countLevel (c : Caches) (r old new : Nat) : Caches :=
  let t := homeTower (r * 2 ^ 21)
  if old < new then c.count t 3 1 else if new < old then c.count t 4 1 else c

/-- An epoch ends: levels change unless REPLAUTO is not selected (R379); replicas that a level lowered at the last epoch
does not allow are gone by now (R67). -/
def State.epochEnd (s : State) : State :=
  let c := s.caches
  let auto := s.feature 4
  let next (g : RegionRep) : RegionRep := if auto then g.epoch else { g with x := 0, n := 0, w := 0 }
  let kept := c.repl.filter fun p => levelAllows (c.region (p.2 / 2 ^ 14)).level p.1 (homeTower (128 * p.2))
  let c1 := c.regions.foldl (fun (a : Caches) p => a.countLevel p.1 p.2.level (next p.2).level) { c with repl := kept }
  let regions := (c.regions.map fun p => (p.1, next p.2)).filter fun p => p.2 != {}
  { s with
    caches := { c1 with regions := regions }
    pkg := { s.pkg with epochAt := s.pkg.epochAt + 65536 } }

/-- REPLICATION_EPOCH (R67): every 65,536 fabric cycles. -/
def execReplicationEpoch (s : State) : Out := .next (if s.fab < s.pkg.epochAt + 65536 then s else s.epochEnd)

/-- The epochs and the falls of the error-rate counts that the fabric clock has passed (R67, R435). -/
def State.dueTimes (s : State) : State :=
  let n := (s.fab - s.pkg.epochAt) / 65536
  let k := (s.fab - s.pkg.leakAt) / 2 ^ 20
  { s with
    caches := if s.caches.regions.isEmpty && s.caches.repl.isEmpty then s.caches
      else ((List.range n).foldl (fun s _ => s.epochEnd) s).caches
    cores := if s.cores.isEmpty then s.cores else ((List.range k).foldl (fun s _ => s.leakFall) s).cores
    pkg := { s.pkg with epochAt := s.pkg.epochAt + 65536 * n, leakAt := s.pkg.leakAt + 2 ^ 20 * k } }

end Sys2Proof.Machine
end

