-- ==== Sys2Proof/Machine/Digest.lean ====
section
/-! DEFINITION. SHA-384 (R428, R429): the hash that the measurement of the bring-up record names, as FIPS 180-4 gives it
(PRESUMED, log 6). -/

namespace Sys2Proof.Machine

/-- The primes from which SHA-384 takes its constants. -/
def shaPrimes : List Nat :=
  [2, 3, 5, 7, 11, 13, 17, 19, 23, 29, 31, 37, 41, 43, 47, 53, 59, 61, 67, 71, 73, 79, 83, 89, 97, 101, 103, 107, 109, 113,
   127, 131, 137, 139, 149, 151, 157, 163, 167, 173] ++
  [179, 181, 191, 193, 197, 199, 211, 223, 227, 229, 233, 239, 241, 251, 257, 263, 269, 271, 277, 281, 283, 293, 307, 311,
   313, 317, 331, 337, 347, 349, 353, 359, 367, 373, 379, 383, 389, 397, 401, 409]

/-- The greatest x with x ^ k ≤ n, bit after bit. -/
def intRoot (k n : Nat) : Nat → Nat → Nat
  | 0, acc => acc
  | b + 1, acc => intRoot k n b (if (acc + 2 ^ b) ^ k ≤ n then acc + 2 ^ b else acc)

/-- The first 64 bits of the fraction of a prime's k-th root. -/
def rootFrac (k p : Nat) : Nat := intRoot k (p * 2 ^ (64 * k)) 72 0 % 2 ^ 64

/-- Round constants, and the initial hash value: from cube roots, and from square roots of the 9th to 16th primes. -/
def shaK : List Nat := shaPrimes.map (rootFrac 3)
def shaInit : List Nat := ((shaPrimes.drop 8).take 8).map (rootFrac 2)

/-- Rotation of a 64-bit word to the right, and the functions of the message schedule and of a round. -/
def rotr (n x : Nat) : Nat := x / 2 ^ n + x % 2 ^ n * 2 ^ (64 - n)
def xor3 (x y z : Nat) : Nat := Nat.xor x (Nat.xor y z)
def shaS0 (x : Nat) : Nat := xor3 (rotr 28 x) (rotr 34 x) (rotr 39 x)
def shaS1 (x : Nat) : Nat := xor3 (rotr 14 x) (rotr 18 x) (rotr 41 x)
def shaG0 (x : Nat) : Nat := xor3 (rotr 1 x) (rotr 8 x) (x / 2 ^ 7)
def shaG1 (x : Nat) : Nat := xor3 (rotr 19 x) (rotr 61 x) (x / 2 ^ 6)

/-- The message schedule, newest word first: n more words. -/
def shaSched : Nat → List Nat → List Nat
  | 0, w => w
  | n + 1, w =>
    shaSched n ((shaG1 (w.getD 1 0) + w.getD 6 0 + shaG0 (w.getD 14 0) + w.getD 15 0) % 2 ^ 64 :: w)

/-- One round: the eight working words, a constant and a schedule word. -/
def shaRound (h : List Nat) (kw : Nat × Nat) : List Nat :=
  match h with
  | [a, b, c, d, e, f, g, i] =>
    let ch := Nat.xor (Nat.land e f) (Nat.land (2 ^ 64 - 1 - e) g)
    let t1 := (i + shaS1 e + ch + kw.1 + kw.2) % 2 ^ 64
    let t2 := (shaS0 a + xor3 (Nat.land a b) (Nat.land a c) (Nat.land b c)) % 2 ^ 64
    [(t1 + t2) % 2 ^ 64, a, b, c, (d + t1) % 2 ^ 64, e, f, g]
  | l => l

/-- Bytes, highest first, as a number, and back. -/
def beNat (l : List Byte) : Nat := l.foldl (fun acc b => 256 * acc + b.toNat) 0
def beBytes (n v : Nat) : List Byte := (leBytes n v).reverse

/-- The words of a block. -/
def blockWords : Nat → List Byte → List Nat
  | 0, _ => []
  | n + 1, bs => beNat (bs.take 8) :: blockWords n (bs.drop 8)

/-- One 128-byte block. -/
def shaBlock (h : List Nat) (bs : List Byte) : List Nat :=
  let w := (shaSched 64 (blockWords 16 bs).reverse).reverse
  let r := (List.zip shaK w).foldl shaRound h
  (List.zip h r).map fun p => (p.1 + p.2) % 2 ^ 64

/-- Several blocks. -/
def shaBlocks : Nat → List Byte → List Nat → List Nat
  | 0, _, h => h
  | n + 1, bs, h => shaBlocks n (bs.drop 128) (shaBlock h (bs.take 128))

/-- The SHA-384 of some bytes: 48 bytes. -/
def sha384 (bs : List Byte) : List Byte :=
  let n := (bs.length + 17 + 127) / 128
  let msg := bs ++ [0x80] ++ List.replicate (128 * n - bs.length - 17) 0 ++ beBytes 16 (8 * bs.length)
  ((shaBlocks n msg shaInit).take 6).flatMap (beBytes 8)

end Sys2Proof.Machine
end

