-- ==== Sys2Proof/Machine/Sideboard.lean ====
section
/-! DEFINITION. Resets, bring-up and link start, the Sideboard, SPDM and PLDM, firmware staging, clocks and the thermal
trip (R377, R425 to R433, R440, R442). -/

namespace Sys2Proof.Machine

/-! ### Resets (R425, R426, R442) -/

/-- The image staged last runs, and its minimum SVN rises (R442). -/
def Flash.run (f : Flash) : Flash :=
  let svn := if f.sel = 0 then f.svn0 else f.svn1
  { f with inUse := f.sel, minSvn := max f.minSvn svn }

/-- Images that a device reset starts: 2 and 3, and at power-on 1, the Sideboard's own (R427, R442). -/
def runImages (l : List Nat) (m : SMap Flash) : SMap Flash := l.foldl (fun m n => sput {} n ((sget {} n m).run) m) m

/-- The package after a device reset with bring-up still to end (R426): what is Kept, and the rest as at reset. -/
def State.deviceReset (s : State) (b : BringUp) : State :=
  { State.reset with
    acts := s.acts, free := s.free, uid := s.uid
    pkg := { profH := s.pkg.profH, tests := b, sens := s.pkg.sens }
    regs := { soft := s.regs.soft, rselSb := s.regs.rselSb, mlog := s.regs.mlog.take 1 }
    side := { s.side with negMbx := 0, flash := runImages [2, 3] s.side.flash } }

/-- The Sideboard is running: power is good, and its firmware has been measured, after which it starts (R427, R431). -/
def State.sbOn (s : State) : Bool := s.pkg.pwrok && s.regs.mlog.any fun e => e.index == 1 && e.valid

/-- RESET_L or a reset request takes effect: power is good and no thermal trip stands (R425, R433). -/
def State.resettable (s : State) : Bool := s.pkg.pwrok && !s.pkg.tripped

/-- DEVICE_RESET (R425, R426). -/
def execDeviceReset (b : BringUp) (s : State) : Out := .next (if s.resettable then s.deviceReset b else s)

/-- Answer on the I3C bus. -/
def State.sbReply (s : State) (bs : List Byte) : State := { s with side := { s.side with reply := bs } }

/-- PLDM_DEVICE_RESET (R425, R431): an effecter of the Sideboard, which answers with a completion code; a thermal trip lets
none through (R433). -/
def execPldmDeviceReset (b : BringUp) (s : State) : Out :=
  .next (if !s.sbOn then s else if s.resettable then (s.deviceReset b).sbReply [0] else s.sbReply [1])

/-- The package without power: only the flash keeps anything (R425, R426). -/
def State.powerDown (s : State) : State :=
  { State.reset with
    acts := s.acts, free := s.free, uid := s.uid, pkg := { profH := s.pkg.profH, pwrok := false, sens := s.pkg.sens }
    side := { flash := s.side.flash } }

/-- PWROK_FALL (R425): it ends a thermal trip (R433). -/
def execPwrokFall (s : State) : Out := .next s.powerDown

/-- PWROK_RISE (R425, R427): power-on bring-up starts. -/
def execPwrokRise (b : BringUp) (s : State) : Out :=
  .next (if s.pkg.pwrok then s
  else
    let s1 := s.powerDown.deviceReset b
    { s1 with side := { s1.side with flash := runImages [1] s1.side.flash } })

/-! ### Bring-up and link start (R377, R427 to R429) -/

/-- The log entry of the image that runs from flash; index 5, the ROM tables, has no bank (R428). -/
def State.measure (s : State) (n : Nat) : MEntry :=
  let f := sget {} n s.side.flash
  let id := 8 * (if n = 5 then 0 else if f.inUse = 0 then f.id0 else f.id1) + n
  { index := n, valid := true, svn := if n = 5 then 0 else if f.inUse = 0 then f.svn0 else f.svn1
    size := Config.imageSize id, digest := (List.range 48).map fun k => Config.imageDigest id k }

/-- The bring-up record (R429). -/
def State.bringRecord (s : State) : List Byte :=
  ((List.range 160).map fun i => BitVec.ofNat 8 ((List.range 4).foldl (fun acc j =>
    let h := s.core (4 * i + j)
    acc + (h.vp0.toNat + 2 * h.vp1.toNat) * 4 ^ j) 0)) ++ [s.regs.towerlost] ++ List.replicate 7 0

/-- A vertical-port bundle fails its test (R427, R437). -/
def State.bundleFails (s : State) (p : Nat × Nat) : State :=
  if Config.nCores ≤ p.1 || !(s.core p.1).inService p.2 then s
  else
    let s1 := (s.modCore p.1 fun h => h.remove p.2 1).sbEvent (.bundleRemoved p.1 p.2)
    if (s1.core p.1).fenced then s1.sbEvent (.coreFenced p.1) else s1

/-- Step n + 1 of bring-up (R427 to R429): measurements of the Sideboard's firmware, unless it stands, and of the port-die
and device firmware; lost towers; failed bundles; memory, all zero, with no sector poisoned any more (R439); the bring-up
record and the ROM tables. -/
def State.bringStep (s : State) (n : Nat) : State :=
  let b := s.pkg.tests
  let log (l : List MEntry) : State := { s with regs := { s.regs with mlog := s.regs.mlog ++ l } }
  match n with
  | 0 => if s.regs.mlog.isEmpty then log [s.measure 1] else s
  | 1 => log [s.measure 2, s.measure 3]
  | 2 => (b.lost.filter fun t => t < Config.nTowers).dedup.foldl (fun s t => (s.fenceTower t).sbEvent (.towerLost t)) s
  | 3 => b.failed.foldl State.bundleFails s
  | 4 => { s with mem := [], poison := [] }
  | _ =>
    let r := s.bringRecord
    let four : MEntry := { index := 4, valid := true, svn := 0, size := 168, digest := sha384 r }
    let s1 := log [four, s.measure 5]
    { s1 with regs := { s1.regs with bring := r } }

/-- The next step of bring-up, if one is left. -/
def State.bringNext (s : State) : State :=
  if s.pkg.bringStep < 6 then
    let s1 := s.bringStep s.pkg.bringStep
    { s1 with pkg := { s1.pkg with bringStep := s1.pkg.bringStep + 1 } }
  else s

/-- LINK_START (R377, R427 step 7): what is left of bring-up, then the link; FEATURE PHASE 0 unless a selection is
locked. -/
def execLinkStart (s : State) : Out :=
  .next (if !s.resettable || s.link.up then s
  else
    let s1 := (List.range 6).foldl (fun s _ => s.bringNext) s
    let s2 : State := { s1 with link := { s1.link with
      up := true, rxseq := 0, txseq := 0, blocked := false, judged := false } }
    if s2.link.locked then s2 else s2.send 0 0x07 0 0 (s2.featurePayload 0 offeredSet))

/-! ### The Sideboard (R425, R431, R432, R442) -/

/-- SB_RESET (R425): the Sideboard alone; its firmware is measured again (R428). -/
def execSbReset (s : State) : Out :=
  .next (if !s.pkg.pwrok then s
  else
    let s1 : State := { s with side := { negMbx := s.side.negMbx, flash := s.side.flash } }
    { s1 with regs := { s1.regs with rselSb := [], mlog := s1.measure 1 :: s1.regs.mlog.drop 1 } })

/-- The Sideboard reads n bytes of register space, with the status results of a host read (R376, R431). -/
def State.sbRead (s : State) (off n : Nat) : State :=
  if !s.sbOn || s.pkg.tripped then s
  else
    let (st, data) : Nat × List Byte := match (if n = 8 then s.regRead true off else none) with
      | some v => (0, leBytes 8 v)
      | none => (2, List.replicate n 0)
    { s with side := { s.side with reply := leBytes 1 st ++ leBytes 7 0 ++ data } }

/-- The Sideboard writes its own RSEL of a tower (R440). -/
def State.sbSelect (s : State) (tower v : Nat) : State :=
  if !s.sbOn || s.pkg.tripped || Config.nTowers ≤ tower then s
  else { s with regs := { s.regs with rselSb := sput 0 tower (v % 2 ^ 23) s.regs.rselSb } }

/-- ENDPOINT_ID_ASSIGNMENT (R431). -/
def execEndpointIdAssignment (eid : BitVec 8) (s : State) : Out :=
  .next (if s.sbOn then { s with side := { s.side with eid := eid } } else s)

/-- PLDM_DISCOVERY (R431): completion code and the bit map of types 0, 2 and 5. -/
def execPldmDiscovery (s : State) : Out := .next (if s.sbOn then s.sbReply (0 :: leBytes 8 0x25) else s)

/-- Sensors (R432): two die temperatures a tower, package power, inlet temperature. -/
def nSensors : Nat := 18

/-- PLDM_SENSOR_READ (R431, R432): completion code and the reading. -/
def execPldmSensorRead (n : Nat) (s : State) : Out :=
  .next (if !s.sbOn then s
  else if n < nSensors then s.sbReply (0 :: leBytes 4 (sget 0 n s.pkg.sens)) else s.sbReply [0x80])

/-- PLDM_SET_POWER_CAP (R431, R432). -/
def execPldmSetPowerCap (w : BitVec 16) (s : State) : Out :=
  .next (if s.sbOn then ({ s with regs := { s.regs with capw := capOf w.toNat } }).sbReply [0] else s)

/-- PLDM_LINK_RETRAIN (R431): the host link goes down, to be started again; a locked selection stays (R377). -/
def execPldmLinkRetrain (s : State) : Out :=
  .next (if s.sbOn then ({ s with link := { s.link with up := false } }).sbReply [0] else s)

/-- PLDM_FIRMWARE_STAGE (R442): image 1, 2 or 3 into the bank not in use; an SVN below the minimum is refused. -/
def execPldmFirmwareStage (img svn : Nat) (s : State) : Out :=
  .next (
    let f := sget {} img s.side.flash
    if !s.sbOn then s
    else if img = 0 ∨ 3 < img ∨ svn < f.minSvn then s.sbReply [1]
    else
      let f1 := if f.inUse = 0 then { f with svn1 := svn, id1 := s.uid, sel := 1 } else { f with svn0 := svn, id0 := s.uid, sel := 0 }
      ({ s with uid := s.uid + 1, side := { s.side with flash := sput {} img f1 s.side.flash } }).sbReply [0])

/-! ### Clocks (R432, R433) -/

/-- The throttle temperature and the trip temperature of a die, in degrees (R432). -/
def throttleTemp : Nat := 105
def tripTemp : Nat := 115

/-- A die has reached a temperature. -/
def State.dieAt (s : State) (temp : Nat) : Bool := (List.range 16).any fun n => temp ≤ sget 0 n s.pkg.sens

/-- Package power exceeds CAPW, or a die is at the throttle temperature (R433). -/
def State.hot (s : State) : Bool := s.regs.capw.toNat < sget 0 16 s.pkg.sens || s.dieAt throttleTemp

/-- 10 ms in the units of `Pkg.cool`, and those of a lane cycle at the present clock: each of the eight clocks from 700 MHz
to 350 MHz divides 18,018,000 (R433). -/
def coolFull : Nat := 180180000000
def Pkg.laneTime (p : Pkg) : Nat := 18018000 / (700 - 50 * p.slow)

/-- n lane cycles pass: the time for which both conditions have been clear (R433). -/
def State.coolFor (s : State) (n : Nat) : State :=
  { s with pkg := { s.pkg with cool := if s.hot then 0 else min coolFull (s.pkg.cool + n * s.pkg.laneTime) } }

/-- The lane clock is due to fall a step, or to rise one; or the package trips (R433). -/
def State.throttleDue (s : State) : Bool := s.resettable && s.hot && s.pkg.slow < 7
def State.recoverDue (s : State) : Bool := s.resettable && !s.hot && 0 < s.pkg.slow && coolFull ≤ s.pkg.cool
def State.tripDue (s : State) : Bool := s.resettable && s.dieAt tripTemp

/-- THROTTLE (R433): one step of 50 MHz, to seven below nominal, while power or temperature asks for it. -/
def execThrottle (s : State) : Out :=
  .next (if s.throttleDue then ({ s with pkg := { s.pkg with slow := s.pkg.slow + 1 } }).sbEvent .throttled else s)

/-- CLOCK_RECOVERY (R433): one step back, once both conditions have been clear for 10 ms. -/
def execClockRecovery (s : State) : Out :=
  .next (if s.recoverDue then { s with pkg := { s.pkg with slow := s.pkg.slow - 1 } } else s)

/-- THERMAL_TRIP (R433): at the trip temperature every clock stops, memory contents and context state are lost; this is no
device reset, and registers and the measurement log stand (R425, R428). -/
def execThermalTrip (s : State) : Out :=
  .next (if !s.tripDue then s
  else
    ({ State.reset with
        acts := s.acts, free := s.free, uid := s.uid, pkg := { s.pkg with tripped := true, cool := 0 }, regs := s.regs
        cores := s.cores, side := s.side }).sbEvent .tripped)

/-! ### SPDM (R430) -/

/-- Bytes of a request. -/
def State.spdmBytes (s : State) (r : SpdmReq) : List Byte :=
  if r.mailbox then sgets 0 0 s.regs.mbxReq s.regs.mbxBuf else r.bytes

/-- Request codes of DMTF SPDM 1.3 that the device supports (R430; PRESUMED, log 6). -/
def spdmCode (i : Nat) : Nat :=
  match i with
  | 0 => 0x84 | 1 => 0xE1 | 2 => 0xE3 | 3 => 0x81 | 4 => 0x82 | 5 => 0x83 | _ => 0xE0

/-- The request lies at its responder, which is free to answer. -/
def State.spdmOpen (s : State) (r : SpdmReq) : Bool :=
  if r.mailbox then s.resettable && s.regs.mbxBusy else s.sbOn

/-- How far a responder's negotiation has come. -/
def State.spdmNeg (s : State) (r : SpdmReq) : Nat := if r.mailbox then s.side.negMbx else s.side.negI3c

/-- Give the response: it replaces the mailbox buffer, then DONE is set and BUSY cleared; or it goes out on I3C. -/
def State.spdmReply (s : State) (r : SpdmReq) (neg : Nat) (bs : List Byte) : State :=
  if r.mailbox then
    let out := bs.take 4096
    { s with
      regs := { s.regs with mbxBuf := sputRun 0 0 out [], mbxLen := out.length, mbxDone := true, mbxBusy := false }
      side := { s.side with negMbx := neg } }
  else { s with side := { s.side with reply := bs, negI3c := neg } }

/-- An SPDM ERROR response. -/
def spdmError (code data : Nat) : List Byte := [0x13, 0x7F, BitVec.ofNat 8 code, BitVec.ofNat 8 data]

/-- Answer a request of row i, whose version must be 1.3, and 1.0 for GET_VERSION (log 6): need is how far negotiation must
have come, then it has come to at least to (R430). -/
def State.spdmAnswer (s : State) (i : Nat) (r : SpdmReq) (need after : Nat) (body : List Byte → List Byte) : State :=
  let bs := s.spdmBytes r
  if !s.spdmOpen r || (bs.getD 1 0).toNat != spdmCode i then s
  else if bs.getD 0 0 ≠ (if i = 0 then 0x10 else 0x13) then s.spdmReply r (s.spdmNeg r) (spdmError 0x41 0)
  else
    let neg := s.spdmNeg r
    if neg < need then s.spdmReply r neg (spdmError 4 0)
    else s.spdmReply r (if after = 0 then neg else after) (body bs)

/-- GET_VERSION (R430): VERSION lists 1.3 only. -/
def execGetVersion (r : SpdmReq) (s : State) : Out :=
  .next (s.spdmAnswer 0 r 0 1 fun _ => [0x10, 0x04, 0, 0, 0, 1, 0x00, 0x13])

/-- GET_CAPABILITIES (R430). -/
def execGetCapabilities (r : SpdmReq) (s : State) : Out :=
  .next (s.spdmAnswer 1 r 1 2 fun bs => [0x13, 0x61] ++ Config.spdmResponse s.free bs)

/-- ALGORITHMS (R430): of what the requester offers, ECDSA P-384 to sign and SHA-384 to hash, SHA-384 for measurements,
and nothing else; the places of the fields are those of DMTF SPDM 1.3 (log 6). -/
def spdmAlgorithms (bs : List Byte) : List Byte :=
  let f (o : Nat) : Nat := leNat ((bs.drop o).take 4)
  let sel (x bit : Nat) : List Byte := leBytes 4 (Nat.land x bit)
  [0x13, 0x63, 0, 0, 36, 0, 1, 0] ++ leBytes 4 4 ++ sel (f 8) 0x80 ++ sel (f 12) 2 ++ List.replicate 16 0

/-- NEGOTIATE_ALGORITHMS (R430). -/
def execNegotiateAlgorithms (r : SpdmReq) (s : State) : Out := .next (s.spdmAnswer 2 r 2 3 spdmAlgorithms)

/-- GET_DIGESTS (R430): slot 0 alone has a chain, the device identity's. -/
def execGetDigests (r : SpdmReq) (s : State) : Out :=
  .next (s.spdmAnswer 3 r 3 0 fun _ => [0x13, 0x01, 1, 1] ++ sha384 Config.identity)

/-- GET_CERTIFICATE (R430): slot 0 only; the part of the chain that the request names, and how much of it follows. -/
def execGetCertificate (r : SpdmReq) (s : State) : Out :=
  .next (s.spdmAnswer 4 r 3 0 fun bs =>
    let off := leNat ((bs.drop 4).take 2)
    let part := (Config.identity.drop off).take (leNat ((bs.drop 6).take 2))
    if (bs.getD 2 0).toNat % 16 ≠ 0 || Config.identity.length ≤ off then spdmError 1 0
    else [0x13, 0x02, 0, 0] ++ leBytes 2 part.length ++ leBytes 2 (Config.identity.length - off - part.length) ++ part)

/-- CHALLENGE (R430): slot 0 only. -/
def execChallenge (r : SpdmReq) (s : State) : Out :=
  .next (s.spdmAnswer 5 r 3 0 fun bs =>
    if (bs.getD 2 0).toNat % 16 ≠ 0 then spdmError 1 0
    else [0x13, 0x03, 0, 1] ++ sha384 Config.identity ++ Config.spdmResponse s.free bs)

/-- A measurement block (R430): index, DMTF specification, size, value type, value size, digest. The type says by its top
bit 0 that the value is a digest, of what the spec does not say (log 6). -/
def MEntry.block (e : MEntry) (kind : Byte) : List Byte :=
  [BitVec.ofNat 8 e.index, 1] ++ leBytes 2 51 ++ [kind] ++ leBytes 2 48 ++ e.digest

/-- A MEASUREMENTS response with some blocks; what follows them is not in the spec. -/
def State.measurements (s : State) (bs : List Byte) (l : List MEntry) : List Byte :=
  let rec_ := l.flatMap fun e => e.block (s.freeByte (fk 80 e.index) &&& 0x7F)
  [0x13, 0x60, 0, 0, BitVec.ofNat 8 l.length] ++ leBytes 3 rec_.length ++ rec_ ++ Config.spdmResponse s.free bs

/-- GET_MEASUREMENTS (R430): ERROR Busy for an entry whose VALID is 0; index 0xFF takes every valid entry. -/
def execGetMeasurements (r : SpdmReq) (s : State) : Out :=
  .next (s.spdmAnswer 6 r 3 0 fun bs =>
    let n := (bs.getD 3 0).toNat
    let valid := s.regs.mlog.filter (·.valid)
    if n = 0xFF then s.measurements bs valid
    else if n = 0 then [0x13, 0x60, BitVec.ofNat 8 valid.length, 0, 0, 0, 0, 0] ++ Config.spdmResponse s.free bs
    else if 5 < n then spdmError 1 0
    else match valid.find? fun e => e.index == n with
      | some e => s.measurements bs [e]
      | none => spdmError 3 0)

/-- SPDM_UNSUPPORTED_REQUEST (R430): any other request gets ERROR UnsupportedRequest. -/
def execSpdmUnsupportedRequest (r : SpdmReq) (s : State) : Out :=
  .next (
    let code := ((s.spdmBytes r).getD 1 0).toNat
    if !s.spdmOpen r || (List.range 7).any (fun i => spdmCode i == code) then s
    else s.spdmReply r (s.spdmNeg r) (spdmError 7 code))

/-- SPDM_MAILBOX_GO (R430): a write of MBXCTL. -/
def execSpdmMailboxGo (s : State) : Out :=
  .next (regWrite .spdmMailboxGo (fun _ v s =>
    let n := v % 2 ^ 13
    if v / 2 ^ 31 % 2 = 0 then some s
    else if s.regs.mbxBusy || n = 0 || 4096 < n || v / 2 ^ 32 ≠ 0 || bits v 30 13 ≠ 0 then none
    else some { s with regs := { s.regs with mbxDone := false, mbxBusy := true, mbxReq := n } }) s)

end Sys2Proof.Machine
end

