-- ==== Sys2Proof/Machine/Dispatch.lean ====
section
/-! DEFINITION. The one dispatch: an arm per constructor of Instr, each one call of its meaning. -/

namespace Sys2Proof.Machine

def exec (i : Instr) (s : State) : Host.Outcome State Fault Refusal :=
  match i with
  | .setm l => Sys2Proof.Machine.execSetm l s
  | .setmk l l2 => Sys2Proof.Machine.execSetmk l l2 s
  | .bra l => Sys2Proof.Machine.execBra l s
  | .brs a b l => Sys2Proof.Machine.execBrs a b l s
  | .brp a l => Sys2Proof.Machine.execBrp a l s
  | .brv a b l => Sys2Proof.Machine.execBrv a b l s
  | .mark l => Sys2Proof.Machine.execMark l s
  | .call d l => Sys2Proof.Machine.execCall d l s
  | .calli d a => Sys2Proof.Machine.execCalli d a s
  | .ret a => Sys2Proof.Machine.execRet a s
  | .jmpi a => Sys2Proof.Machine.execJmpi a s
  | .loop a l => Sys2Proof.Machine.execLoop a l s
  | .trap b => Sys2Proof.Machine.execTrap b s
  | .sadd d a b => Sys2Proof.Machine.execSadd d a b s
  | .ssub d a b => Sys2Proof.Machine.execSsub d a b s
  | .smul d a b => Sys2Proof.Machine.execSmul d a b s
  | .smulh d a b => Sys2Proof.Machine.execSmulh d a b s
  | .sdiv d a b => Sys2Proof.Machine.execSdiv d a b s
  | .srem d a b => Sys2Proof.Machine.execSrem d a b s
  | .sand d a b => Sys2Proof.Machine.execSand d a b s
  | .sor d a b => Sys2Proof.Machine.execSor d a b s
  | .sxor d a b => Sys2Proof.Machine.execSxor d a b s
  | .sshl d a b => Sys2Proof.Machine.execSshl d a b s
  | .sshr d a b => Sys2Proof.Machine.execSshr d a b s
  | .ssar d a b => Sys2Proof.Machine.execSsar d a b s
  | .scmp d a b => Sys2Proof.Machine.execScmp d a b s
  | .smin d a b => Sys2Proof.Machine.execSmin d a b s
  | .smax d a b => Sys2Proof.Machine.execSmax d a b s
  | .saddi d a b => Sys2Proof.Machine.execSaddi d a b s
  | .sshli d a b => Sys2Proof.Machine.execSshli d a b s
  | .sshri d a b => Sys2Proof.Machine.execSshri d a b s
  | .smovl d l l2 => Sys2Proof.Machine.execSmovl d l l2 s
  | .smov d a => Sys2Proof.Machine.execSmov d a s
  | .sxlate d a => Sys2Proof.Machine.execSxlate d a s
  | .srd d b => Sys2Proof.Machine.execSrd d b s
  | .swr a b => Sys2Proof.Machine.execSwr a b s
  | .phase b => Sys2Proof.Machine.execPhase b s
  | .launch d a => Sys2Proof.Machine.execLaunch d a s
  | .cwait d a => Sys2Proof.Machine.execCwait d a s
  | .sneg d a => Sys2Proof.Machine.execSneg d a s
  | .snot d a => Sys2Proof.Machine.execSnot d a s
  | .sabs d a => Sys2Proof.Machine.execSabs d a s
  | .sclz d a => Sys2Proof.Machine.execSclz d a s
  | .sctz d a => Sys2Proof.Machine.execSctz d a s
  | .spopc d a => Sys2Proof.Machine.execSpopc d a s
  | .sbrev d a => Sys2Proof.Machine.execSbrev d a s
  | .sext32 d a => Sys2Proof.Machine.execSext32 d a s
  | .saddr d a b => Sys2Proof.Machine.execSaddr d a b s
  | .sgetv d a b => Sys2Proof.Machine.execSgetv d a b s
  | .vadd d a b => Sys2Proof.Machine.execVadd d a b s
  | .vsub d a b => Sys2Proof.Machine.execVsub d a b s
  | .vmul d a b => Sys2Proof.Machine.execVmul d a b s
  | .vmulh d a b => Sys2Proof.Machine.execVmulh d a b s
  | .vmad d a b => Sys2Proof.Machine.execVmad d a b s
  | .vdiv d a b => Sys2Proof.Machine.execVdiv d a b s
  | .vrem d a b => Sys2Proof.Machine.execVrem d a b s
  | .vmin d a b => Sys2Proof.Machine.execVmin d a b s
  | .vmax d a b => Sys2Proof.Machine.execVmax d a b s
  | .vabsd d a b => Sys2Proof.Machine.execVabsd d a b s
  | .vand d a b => Sys2Proof.Machine.execVand d a b s
  | .vor d a b => Sys2Proof.Machine.execVor d a b s
  | .vxor d a b => Sys2Proof.Machine.execVxor d a b s
  | .vandn d a b => Sys2Proof.Machine.execVandn d a b s
  | .vshl d a b => Sys2Proof.Machine.execVshl d a b s
  | .vshr d a b => Sys2Proof.Machine.execVshr d a b s
  | .vsar d a b => Sys2Proof.Machine.execVsar d a b s
  | .vrotl d a b => Sys2Proof.Machine.execVrotl d a b s
  | .vaddi d a b => Sys2Proof.Machine.execVaddi d a b s
  | .vshli d a b => Sys2Proof.Machine.execVshli d a b s
  | .vshri d a b => Sys2Proof.Machine.execVshri d a b s
  | .vsari d a b => Sys2Proof.Machine.execVsari d a b s
  | .vneg d a => Sys2Proof.Machine.execVneg d a s
  | .vnot d a => Sys2Proof.Machine.execVnot d a s
  | .vabs d a => Sys2Proof.Machine.execVabs d a s
  | .vclz d a => Sys2Proof.Machine.execVclz d a s
  | .vctz d a => Sys2Proof.Machine.execVctz d a s
  | .vcnt d a => Sys2Proof.Machine.execVcnt d a s
  | .vbrev d a => Sys2Proof.Machine.execVbrev d a s
  | .vsgn d a => Sys2Proof.Machine.execVsgn d a s
  | .vcmpeq d a b => Sys2Proof.Machine.execVcmpeq d a b s
  | .vcmpne d a b => Sys2Proof.Machine.execVcmpne d a b s
  | .vcmplt d a b => Sys2Proof.Machine.execVcmplt d a b s
  | .vcmple d a b => Sys2Proof.Machine.execVcmple d a b s
  | .vmov d a => Sys2Proof.Machine.execVmov d a s
  | .vmovs d a => Sys2Proof.Machine.execVmovs d a s
  | .vmovl d l l2 => Sys2Proof.Machine.execVmovl d l l2 s
  | .pand d a b => Sys2Proof.Machine.execPand d a b s
  | .por d a b => Sys2Proof.Machine.execPor d a b s
  | .pxor d a b => Sys2Proof.Machine.execPxor d a b s
  | .pnot d a => Sys2Proof.Machine.execPnot d a s
  | .vbfe d a l => Sys2Proof.Machine.execVbfe d a l s
  | .vbfi d a l => Sys2Proof.Machine.execVbfi d a l s
  | .vdot4 d a b => Sys2Proof.Machine.execVdot4 d a b s
  | .vfadd d a b => Sys2Proof.Machine.execVfadd d a b s
  | .vfsub d a b => Sys2Proof.Machine.execVfsub d a b s
  | .vfmul d a b => Sys2Proof.Machine.execVfmul d a b s
  | .vfma d a b => Sys2Proof.Machine.execVfma d a b s
  | .vfms d a b => Sys2Proof.Machine.execVfms d a b s
  | .vfnma d a b => Sys2Proof.Machine.execVfnma d a b s
  | .vfdiv d a b => Sys2Proof.Machine.execVfdiv d a b s
  | .vfsqrt d a => Sys2Proof.Machine.execVfsqrt d a s
  | .vfmin d a b => Sys2Proof.Machine.execVfmin d a b s
  | .vfmax d a b => Sys2Proof.Machine.execVfmax d a b s
  | .vfabs d a => Sys2Proof.Machine.execVfabs d a s
  | .vfneg d a => Sys2Proof.Machine.execVfneg d a s
  | .vfrcp d a => Sys2Proof.Machine.execVfrcp d a s
  | .vfrsq d a => Sys2Proof.Machine.execVfrsq d a s
  | .vfexp2 d a => Sys2Proof.Machine.execVfexp2 d a s
  | .vflog2 d a => Sys2Proof.Machine.execVflog2 d a s
  | .vfsin d a => Sys2Proof.Machine.execVfsin d a s
  | .vfcos d a => Sys2Proof.Machine.execVfcos d a s
  | .vfcmpeq d a b => Sys2Proof.Machine.execVfcmpeq d a b s
  | .vfcmpne d a b => Sys2Proof.Machine.execVfcmpne d a b s
  | .vfcmplt d a b => Sys2Proof.Machine.execVfcmplt d a b s
  | .vfcmple d a b => Sys2Proof.Machine.execVfcmple d a b s
  | .vfcmpun d a b => Sys2Proof.Machine.execVfcmpun d a b s
  | .vfclass d a => Sys2Proof.Machine.execVfclass d a s
  | .vfmull d a l => Sys2Proof.Machine.execVfmull d a l s
  | .vfaddl d a l => Sys2Proof.Machine.execVfaddl d a l s
  | .vffmal d a b l => Sys2Proof.Machine.execVffmal d a b l s
  | .vfldexp d a b => Sys2Proof.Machine.execVfldexp d a b s
  | .vfrint d a b => Sys2Proof.Machine.execVfrint d a b s
  | .vfcopys d a b => Sys2Proof.Machine.execVfcopys d a b s
  | .vfdot2 d a b => Sys2Proof.Machine.execVfdot2 d a b s
  | .cvt d a b => Sys2Proof.Machine.execCvt d a b s
  | .cvtmx d a b => Sys2Proof.Machine.execCvtmx d a b s
  | .cvtxm d a b => Sys2Proof.Machine.execCvtxm d a b s
  | .cbdec d a b => Sys2Proof.Machine.execCbdec d a b s
  | .vpack d a b => Sys2Proof.Machine.execVpack d a b s
  | .vunpk d a b => Sys2Proof.Machine.execVunpk d a b s
  | .shfl d a b => Sys2Proof.Machine.execShfl d a b s
  | .shflx d a b => Sys2Proof.Machine.execShflx d a b s
  | .permb d a b => Sys2Proof.Machine.execPermb d a b s
  | .scan d a b => Sys2Proof.Machine.execScan d a b s
  | .redv d a b => Sys2Proof.Machine.execRedv d a b s
  | .ballot d a b => Sys2Proof.Machine.execBallot d a b s
  | .popc d a => Sys2Proof.Machine.execPopc d a s
  | .lmv4 d a b => Sys2Proof.Machine.execLmv4 d a b s
  | .lmv8 d a b => Sys2Proof.Machine.execLmv8 d a b s
  | .vfirst d a => Sys2Proof.Machine.execVfirst d a s
  | .vld d a m => Sys2Proof.Machine.execVld d a m s
  | .vst d a m => Sys2Proof.Machine.execVst d a m s
  | .vldn d a m k => Sys2Proof.Machine.execVldn d a m k s
  | .vlda d a m k => Sys2Proof.Machine.execVlda d a m k s
  | .vstr d a m k => Sys2Proof.Machine.execVstr d a m k s
  | .sld d a m => Sys2Proof.Machine.execSld d a m s
  | .sst d a m => Sys2Proof.Machine.execSst d a m s
  | .vlds d a => Sys2Proof.Machine.execVlds d a s
  | .vsts d a => Sys2Proof.Machine.execVsts d a s
  | .vldsr d a b => Sys2Proof.Machine.execVldsr d a b s
  | .vstsr d a b => Sys2Proof.Machine.execVstsr d a b s
  | .vldc d a => Sys2Proof.Machine.execVldc d a s
  | .sldc d a => Sys2Proof.Machine.execSldc d a s
  | .fence b => Sys2Proof.Machine.execFence b s
  | .seal d a m => Sys2Proof.Machine.execSeal d a m s
  | .unseal d a m => Sys2Proof.Machine.execUnseal d a m s
  | .repl d a m => Sys2Proof.Machine.execRepl d a m s
  | .vatom d a m l => Sys2Proof.Machine.execVatom d a m l s
  | .vred d a m l => Sys2Proof.Machine.execVred d a m l s
  | .vcas d a m l => Sys2Proof.Machine.execVcas d a m l s
  | .vatoms d a l => Sys2Proof.Machine.execVatoms d a l s
  | .vreds d a l => Sys2Proof.Machine.execVreds d a l s
  | .satom d a m l => Sys2Proof.Machine.execSatom d a m l s
  | .vpref a m => Sys2Proof.Machine.execVpref a m s
  | .arrk a => Sys2Proof.Machine.execArrk a s
  | .waitk a => Sys2Proof.Machine.execWaitk a s
  | .synck a => Sys2Proof.Machine.execSynck a s
  | .arrq a => Sys2Proof.Machine.execArrq a s
  | .waitq a => Sys2Proof.Machine.execWaitq a s
  | .syncq a => Sys2Proof.Machine.execSyncq a s
  | .arrg a => Sys2Proof.Machine.execArrg a s
  | .waitg a => Sys2Proof.Machine.execWaitg a s
  | .syncg a => Sys2Proof.Machine.execSyncg a s
  | .twait d a b => Sys2Proof.Machine.execTwait d a b s
  | .evwait d => Sys2Proof.Machine.execEvwait d s
  | .evpop d => Sys2Proof.Machine.execEvpop d s
  | .cpy d a b l => Sys2Proof.Machine.execCpy d a b l s
  | .cpyt d a b l => Sys2Proof.Machine.execCpyt d a b l s
  | .merge d a b l => Sys2Proof.Machine.execMerge d a b l s
  | .cmpct a b => Sys2Proof.Machine.execCmpct a b s
  | .wltake d a => Sys2Proof.Machine.execWltake d a s
  | .mrsv d a => Sys2Proof.Machine.execMrsv d a s
  | .mcrew l => Sys2Proof.Machine.execMcrew l s
  | .mmj d a b l => Sys2Proof.Machine.execMmj d a b l s
  | .mms d a b l => Sys2Proof.Machine.execMms d a b l s
  | .mmg d a b l => Sys2Proof.Machine.execMmg d a b l s
  | .mmd d a b l => Sys2Proof.Machine.execMmd d a b l s
  | .mzero d => Sys2Proof.Machine.execMzero d s
  | .mld d a => Sys2Proof.Machine.execMld d a s
  | .mdrn d a b => Sys2Proof.Machine.execMdrn d a b s
  | .mdrs d a b => Sys2Proof.Machine.execMdrs d a b s
  | .mdrm d a b => Sys2Proof.Machine.execMdrm d a b s
  | .mdrf d a b => Sys2Proof.Machine.execMdrf d a b s
  | .mbrd d a b => Sys2Proof.Machine.execMbrd d a b s
  | .mbwr a b => Sys2Proof.Machine.execMbwr a b s
  | .mcvt d a b => Sys2Proof.Machine.execMcvt d a b s
  | .reservedOpcode w => Sys2Proof.Machine.execReservedOpcode w s
  | .instructionFetch x => Sys2Proof.Machine.execInstructionFetch x s
  | .instructionComplete tid u => Sys2Proof.Machine.execInstructionComplete tid u s
  | .trapEntry tid => Sys2Proof.Machine.execTrapEntry tid s
  | .phaseOverrun tid => Sys2Proof.Machine.execPhaseOverrun tid s
  | .twaitTimeout tid => Sys2Proof.Machine.execTwaitTimeout tid s
  | .workListQuiet gid => Sys2Proof.Machine.execWorkListQuiet gid s
  | .engineOperationComplete op => Sys2Proof.Machine.execEngineOperationComplete op s
  | .matrixReservationAdmit q => Sys2Proof.Machine.execMatrixReservationAdmit q s
  | .matrixLatchFire q u => Sys2Proof.Machine.execMatrixLatchFire q u s
  | .matrixPass q u => Sys2Proof.Machine.execMatrixPass q u s
  | .matrixOperationComplete q u => Sys2Proof.Machine.execMatrixOperationComplete q u s
  | .cupboardFill q gid => Sys2Proof.Machine.execCupboardFill q gid s
  | .blockPlacement gid => Sys2Proof.Machine.execBlockPlacement gid s
  | .gangPlacement gid => Sys2Proof.Machine.execGangPlacement gid s
  | .effectiveClassAgeing gid => Sys2Proof.Machine.execEffectiveClassAgeing gid s
  | .gangPressing gid => Sys2Proof.Machine.execGangPressing gid s
  | .gridCompletion gid => Sys2Proof.Machine.execGridCompletion gid s
  | .childWaitEviction gid => Sys2Proof.Machine.execChildWaitEviction gid s
  | .unitRestore u => Sys2Proof.Machine.execUnitRestore u s
  | .contextEnd slot => Sys2Proof.Machine.execContextEnd slot s
  | .peerPortUp p => Sys2Proof.Machine.execPeerPortUp p s
  | .reductionRowArrival p st ix row bound => Sys2Proof.Machine.execReductionRowArrival p st ix row bound s
  | .getVersion r => Sys2Proof.Machine.execGetVersion r s
  | .getCapabilities r => Sys2Proof.Machine.execGetCapabilities r s
  | .negotiateAlgorithms r => Sys2Proof.Machine.execNegotiateAlgorithms r s
  | .getDigests r => Sys2Proof.Machine.execGetDigests r s
  | .getCertificate r => Sys2Proof.Machine.execGetCertificate r s
  | .challenge r => Sys2Proof.Machine.execChallenge r s
  | .getMeasurements r => Sys2Proof.Machine.execGetMeasurements r s
  | .spdmUnsupportedRequest r => Sys2Proof.Machine.execSpdmUnsupportedRequest r s
  | .pldmSensorRead n => Sys2Proof.Machine.execPldmSensorRead n s
  | .pldmSetPowerCap w => Sys2Proof.Machine.execPldmSetPowerCap w s
  | .pldmDeviceReset b => Sys2Proof.Machine.execPldmDeviceReset b s
  | .pldmFirmwareStage img svn => Sys2Proof.Machine.execPldmFirmwareStage img svn s
  | .pwrokRise b => Sys2Proof.Machine.execPwrokRise b s
  | .deviceReset b => Sys2Proof.Machine.execDeviceReset b s
  | .bridgeTimeout tw => Sys2Proof.Machine.execBridgeTimeout tw s
  | .vpCorrectedError core vp => Sys2Proof.Machine.execVpCorrectedError core vp s
  | .vpUncorrectableError core vp tid => Sys2Proof.Machine.execVpUncorrectableError core vp tid s
  | .softErrorCorrected tw st => Sys2Proof.Machine.execSoftErrorCorrected tw st s
  | .softErrorUncorrectable tw st w => Sys2Proof.Machine.execSoftErrorUncorrectable tw st w s
  | .engineOperationStopped op => Sys2Proof.Machine.execEngineOperationStopped op s
  | .endpointIdAssignment eid => Sys2Proof.Machine.execEndpointIdAssignment eid s
  | .nop => Sys2Proof.Machine.execNop s
  | .join => Sys2Proof.Machine.execJoin s
  | .exit => Sys2Proof.Machine.execExit s
  | .eret => Sys2Proof.Machine.execEret s
  | .mrel => Sys2Proof.Machine.execMrel s
  | .replicationEpoch => Sys2Proof.Machine.execReplicationEpoch s
  | .launchMsg => Sys2Proof.Machine.execLaunchMsg s
  | .mwr => Sys2Proof.Machine.execMwr s
  | .mrd => Sys2Proof.Machine.execMrd s
  | .hostWrack => Sys2Proof.Machine.execHostWrack s
  | .hostMrdresp => Sys2Proof.Machine.execHostMrdresp s
  | .matomresp => Sys2Proof.Machine.execMatomresp s
  | .featureSelect => Sys2Proof.Machine.execFeatureSelect s
  | .faultreply => Sys2Proof.Machine.execFaultreply s
  | .preemptMakeRoom => Sys2Proof.Machine.execPreemptMakeRoom s
  | .preemptSuspend => Sys2Proof.Machine.execPreemptSuspend s
  | .preemptResume => Sys2Proof.Machine.execPreemptResume s
  | .ctxctlActivate => Sys2Proof.Machine.execCtxctlActivate s
  | .ctxctlEnd => Sys2Proof.Machine.execCtxctlEnd s
  | .invalidateRange => Sys2Proof.Machine.execInvalidateRange s
  | .invalidateAll => Sys2Proof.Machine.execInvalidateAll s
  | .invalidateRegion => Sys2Proof.Machine.execInvalidateRegion s
  | .invalidateCode => Sys2Proof.Machine.execInvalidateCode s
  | .reductionStreamWrite => Sys2Proof.Machine.execReductionStreamWrite s
  | .peerPortEnable => Sys2Proof.Machine.execPeerPortEnable s
  | .peerPortDisable => Sys2Proof.Machine.execPeerPortDisable s
  | .registerWrite => Sys2Proof.Machine.execRegisterWrite s
  | .spdmMailboxGo => Sys2Proof.Machine.execSpdmMailboxGo s
  | .pldmDiscovery => Sys2Proof.Machine.execPldmDiscovery s
  | .pldmLinkRetrain => Sys2Proof.Machine.execPldmLinkRetrain s
  | .pwrokFall => Sys2Proof.Machine.execPwrokFall s
  | .sbReset => Sys2Proof.Machine.execSbReset s
  | .linkStart => Sys2Proof.Machine.execLinkStart s
  | .throttle => Sys2Proof.Machine.execThrottle s
  | .clockRecovery => Sys2Proof.Machine.execClockRecovery s
  | .thermalTrip => Sys2Proof.Machine.execThermalTrip s
  | .leakDecay => Sys2Proof.Machine.execLeakDecay s
  | .unknownType => Sys2Proof.Machine.execUnknownType s

end Sys2Proof.Machine
end

