-- ==== Sys2Proof/Machine/Peer.lean ====
section
/-! DEFINITION. Peer devices as agents: their writes, reads and atomics on local memory, and their replies to the device's
own requests, each a message through a peer port (R79, R98, R106, R376, R392, R446, R447). -/

namespace Sys2Proof.Machine

/-- A reply to a peer through its port: STATUS and data (R376). -/
def State.peerReply (s : State) (port tag typ status : Nat) (data : List Byte) : State :=
  s.send port typ 0 tag (leBytes 1 status ++ leBytes 7 0 ++ data)

/-- The bytes that a device-formed MWR writes, with their addresses: FIRSTBE and LASTBE enable bytes of its first and last
word, 0 all of them (R446). -/
def enabledBytes (addr : Nat) (data : List Byte) : List (Nat × Byte) :=
  let k := data.length / 8
  let on (be b : Nat) : Bool := be == 0 || be / 2 ^ b % 2 == 1
  ((List.range data.length).zip data).filterMap fun p =>
    let w := p.1 / 8
    if (w != 0 || on (bits addr 59 52) (p.1 % 8)) && (w == 0 || w + 1 != k || on (bits addr 51 44) (p.1 % 8)) then
      some (addr % 2 ^ 44 + p.1, p.2)
    else none

/-- One sector of a peer's write: refused on a sealed line, and on a lost one (R73, R87, R423). -/
def peerSector (bs : List (Nat × Byte)) (acc : State × Nat) (sec : Nat) : State × Nat :=
  let (s, st) := acc
  let mine := bs.filter fun b => b.1 / 32 == sec
  if s.lineLost (32 * sec) then (s, 2)
  else if (s.sealAt (32 * sec)).isSome then (s.noteSealed (32 * sec), max st 1)
  else
    let s1 := mine.foldl (fun s b => s.putBytes b.1 [b.2]) (s.noteWrite .host (sec / 4))
    (s1.clearPoisonBytes (mine.map (·.1)), st)

/-- A peer's access to a line that an engine owns waits (R98). -/
def State.peerOwned (s : State) (a n : Nat) : Bool := (linesOf a n).any fun k => s.owned (128 * k)

/-- A peer's MWR (R106, R446). -/
def State.peerWrite (s : State) (port : Nat) (m : HostMsg) : Took :=
  let addr := m.field 0 8
  let data := m.payload.drop 8
  let bs := enabledBytes addr data
  if addr / 2 ^ 63 = 1 ∨ Config.dramSize < addr % 2 ^ 44 + data.length then .ok (s.peerReply port m.tag.toNat 0x0B 2 [])
  else if bs.any fun b => s.owned b.1 then .hold
  else
    let (s1, st) := ((bs.map fun b => b.1 / 32).dedup).foldl (peerSector bs) (s, 0)
    .ok (s1.peerReply port m.tag.toNat 0x0B st [])

/-- A peer's MRD (R71, R446). -/
def State.peerRead (s : State) (port : Nat) (m : HostMsg) : Took :=
  let a := m.field 0 8 % 2 ^ 44
  let n := m.field 8 4
  if m.field 0 8 / 2 ^ 63 = 1 ∨ Config.dramSize < a + n ∨ s.poisoned a n ∨
      ((linesOf a n).any fun k => s.lineLost (128 * k)) = true then
    .ok (s.peerReply port m.tag.toNat 0x0A 2 (List.replicate n 0))
  else if s.peerOwned a n then .hold
  else .ok ((s.noteReads .host 0 (linesOf a n)).peerReply port m.tag.toNat 0x0A 0 (s.bytes a n))

/-- A peer's MATOM: one indivisible read and write with the operation of R255 (R447). -/
def State.peerAtom (s : State) (port : Nat) (m : HostMsg) : Took :=
  let a := m.field 0 8 % 2 ^ 44
  let code := m.field 8 1
  let n := m.field 9 1
  let op : MemOp :=
    { kind := if code = 7 then .cas else .atom code, et := m.field 0xA 1, size := n, rnd := m.field 0xB 1 }
  let refuse (s : State) : Took := .ok (s.peerReply port m.tag.toNat 0x0E 2 (leBytes 8 0))
  if bits (m.field 0 8) 63 44 ≠ 0 ∨ (n ≠ 4 ∧ n ≠ 8) ∨ a % n ≠ 0 ∨ 7 < code ∨ Config.dramSize < a + n ∨
      s.lineLost a ∨ s.poisoned a n then refuse s
  else if s.peerOwned a n then .hold
  else if (s.sealAt a).isSome then refuse (s.noteSealed a)
  else
    let old := s.memNat a n
    let new := atomNew op old (m.field 0x10 8 % 2 ^ (8 * n)) (m.field 0x18 8 % 2 ^ (8 * n))
    .ok (((s.noteWrite .host (lineOf a)).putNat a n new).peerReply port m.tag.toNat 0x0E 0
      (leBytes 8 (if m.field 0xC 1 = 1 then old else 0)))

/-- A message from the peer at a port: none of another type has a meaning there. -/
def State.peerTake (s : State) (port : Nat) (m : HostMsg) : Took :=
  match m.typ.toNat with
  | 0x08 => s.peerWrite port m
  | 0x09 => s.peerRead port m
  | 0x0D => s.peerAtom port m
  | 0x0A => .ok (s.readReply m.tag.toNat (m.field 0 1) (m.payload.drop 8))
  | 0x0B => .ok (s.writeReply m.tag.toNat)
  | 0x0E => .ok ((s.atomReply m.tag.toNat (m.field 0 1) (m.payload.drop 8)).getD s)
  | _ => .ok s

/-- A message arrives through a peer port: a port that is not in service takes none (R393); none when it must wait. -/
def State.peerMsg (s : State) (port : Nat) (m : HostMsg) : Option State :=
  if port = 0 || 18 < port || !(s.pctl port).up then some s
  else match s.peerTake port m with
    | .err _ => some s
    | .hold => none
    | .ok s1 => some s1

end Sys2Proof.Machine
end

