-- ==== Sys2Proof/Machine/Run.lean ====
section
/-! DEFINITION. What a step takes next: the order in which teams, engines, the distributor and the outside world act
(log 2), the passage of time (log 3), and the placing of one instruction where the next step fetches it (log 4). -/

namespace Sys2Proof.Machine

/-! ### Time (R42, R202, R264, R282) -/

/-- The clocks run: power is good and no thermal trip stands (R425, R433). -/
def State.clocked (s : State) : Bool := s.pkg.pwrok && !s.pkg.tripped

/-- The team waits for trap entry under R40: a cause is decided, or a boundary cause pending that the handler's end does not
hold back, and log entries are not free. -/
def Team.trapWaits (t : Team) : Bool := !t.log.isEmpty && (!t.dec.isEmpty || (!t.pendB.isEmpty && !t.hnd))

/-- Of the n lane cycles up to clk, those that the phase timer counts: none while trap entry waits, and none in which only
R38 stops the team; its passes and STALL come before such cycles (R31, R42). -/
def Team.counts (t : Team) (n clk : Nat) : Nat :=
  if t.trapWaits then 0 else if t.stat = 2 then min n (t.readyAt - (clk - n)) else n

/-- What n lane cycles do to a team: the cycles that its results have had, its phase timer, and its timed wait, after which
it is ready (R42, R170, R264, R356). -/
def State.tickTeam (s : State) (n : Nat) (t : Team) : Team :=
  let clk := s.pkg.clk.toNat
  let t0 := if t.life == Life.live then { t with cyc := max t.cyc clk } else t
  let t1 := if t.life == Life.live && t.ph.on then { t0 with ph := { t0.ph with el := t0.ph.el + t.counts n clk } } else t0
  match t.wait with
  | .twait _ _ d =>
    if t.life == Life.live && (s.twaitOver t).isSome then { t1 with wait := .expired d, rdy := true, since := clk } else t1
  | _ => t1

/-- A seal entry without owner whose references are gone is freed (R75, R407). -/
def State.sweepSeals (s : State) : State :=
  (s.seals.filter fun e => 256 ≤ e.ctx && e.refs == 0).foldl (fun s e => s.dropSeal e.base e.len e.ctx) s

/-- What n lane cycles do: teams, reservations and grids grow older, epochs end, seals without owner go. -/
def State.pass (s : State) (n : Nat) : State :=
  let s1 : State := { s with pkg := { s.pkg with clk := s.pkg.clk + BitVec.ofNat 64 n } }
  let s2 : State := { s1 with t := s1.tickTeam n s1.t, others := s1.others.map (s1.tickTeam n) }
  (((s2.quads.map (·.q)).foldl (fun s q => s.tickQuad q) (s2.coolFor n)).ageGrids).dueTimes.sweepSeals.trackHead

/-- What trying to issue makes of a team that cannot, or none when it goes on: it issues, or enters a trap (R31). -/
def State.tryIssue (s : State) (t : Team) : Option State :=
  let s1 : State := match (s.select t.tid).front with
    | .stay s1 => s1
    | .go i s1 => match exec i s1 with
      | .next s2 => s2
      | _ => s1
  match s1.team? t.tid with
  | some u => if u.life == Life.live && u.ord == t.ord && u.pc == t.pc && u.tcause == t.tcause then some s1 else none
  | none => none

/-- A condition of R31 or R38 on the next instruction stops the team, in a wait that has had no effect. -/
def Wait.passive (w : Wait) : Bool := w == .held || w == .other

/-- STATE of R416 of a team that has been found to be in wait w: held when nothing but R38 stops it (R46). -/
def State.statIn (s : State) (t : Team) (w : Wait) : Nat :=
  if w == Wait.held && ((s.modTeam t.tid fun t => { t with log := [] }).tryIssue { t with log := [] }).isSome then 1 else w.code

/-- Where a team stands when a step begins: what it waits for, whether it is ready but for its own passes and STALL, and
since when it has been so (R31, R32, R46). A wait that R31 or R38 alone imposes is found anew, and ends as soon as the
condition clears. -/
def State.refreshTeam (s : State) (t : Team) : Team :=
  if !s.runs t then { t with rdy := false }
  else
    let past := if t.wait.passive then Wait.none else t.wait
    match s.tryIssue t with
    | none => { t with wait := past, stat := 0, rdy := true, since := if t.rdy then t.since else s.pkg.clk.toNat }
    | some s1 =>
      let w := ((s1.team? t.tid).map (·.wait)).getD .none
      { t with wait := if w.passive then w else past, stat := s.statIn t w, rdy := false, since := s.pkg.clk.toNat }

/-- The same for every team. -/
def State.refresh (s : State) : State :=
  { s with t := s.refreshTeam s.t, others := s.others.map s.refreshTeam }

/-- Before a step acts: its number rises, and while the clocks run teams are found ready or not, and time passes. -/
def State.tick (s : State) : State :=
  let s0 : State := { s with free := s.free + 1 }
  if s.clocked then s0.refresh.pass (Config.freeCycles s.free) else s0

/-! ### Who may act -/

/-- What a step does next. -/
inductive Pick where
  /-- This instruction or event runs. -/
  | run (i : Instr) (s : State)
  /-- Nothing runs; this is the next state. -/
  | idle (s : State)
  /-- The clocks have stopped and nothing outside is waiting (R433). -/
  | stopped

/-- A choice open to the scheduler. -/
inductive Turn where
  /-- A slot of a core issues (R32). -/
  | slot (core n : Nat)
  | event (i : Instr)
  /-- The first in a quad's tile memory port starts (R445). -/
  | port (q : Nat)
  /-- The next step of bring-up (R427). -/
  | bring
  /-- Evictions under way go on (R413). -/
  | saving
  /-- The host message that could not proceed tries again (R375). -/
  | retry
  deriving DecidableEq, Repr

/-- Turns of a team: its slot's issue, and what may happen to it. -/
def Team.turns (t : Team) : List Turn :=
  (if t.life == Life.live then
    [.slot t.core t.slot] ++ (if t.trapDue then [.event (.trapEntry t.tid)] else []) ++
    (if t.ph.on then [.event (.phaseOverrun t.tid)] else []) ++
    (match t.wait with | .expired _ => [.event (.twaitTimeout t.tid)] | _ => [])
   else []) ++
  t.infl.map (fun f => .event (.instructionComplete t.tid f.u)) ++
  (t.log.filter LogEntry.idle).map fun e => .event (.instructionComplete t.tid e.h)

/-- Turns of a quad: latches, passes, reservations, its tile memory port, Cupboard fills. -/
def Quad.turns (x : Quad) : List Turn :=
  x.mops.flatMap (fun m =>
    [.event (.matrixLatchFire x.q m.u), .event (.matrixPass x.q m.u), .event (.matrixOperationComplete x.q m.u)]) ++
  (if x.rqueue.isEmpty then [] else [.event (.matrixReservationAdmit x.q)]) ++
  (if x.port.isEmpty then [] else [.port x.q]) ++ (x.cups.filter fun c => !c.done).map fun c => .event (.cupboardFill x.q c.gid)

/-- Turns of a grid. -/
def Grid.turns (g : Grid) : List Turn :=
  [.event (if g.lrec.gang then .gangPlacement g.gid else .blockPlacement g.gid), .event (.effectiveClassAgeing g.gid),
   .event (.gangPressing g.gid), .event (.gridCompletion g.gid), .event (.childWaitEviction g.gid),
   .event (.workListQuiet g.gid)]

/-- The SPDM row of the mailbox's request (R430). -/
def State.mailboxRow (s : State) : Instr :=
  let r : SpdmReq := ⟨true, []⟩
  match ((s.spdmBytes r).getD 1 0).toNat with
  | 0x84 => .getVersion r
  | 0xE1 => .getCapabilities r
  | 0xE3 => .negotiateAlgorithms r
  | 0x81 => .getDigests r
  | 0x82 => .getCertificate r
  | 0x83 => .challenge r
  | 0xE0 => .getMeasurements r
  | _ => .spdmUnsupportedRequest r

/-- Turns of the package as a whole. -/
def State.pkgTurns (s : State) : List Turn :=
  (List.range 16).filterMap (fun n => if (s.slot n).ending.isSome then some (.event (.contextEnd n)) else none) ++
  (if s.regs.mbxBusy then [.event s.mailboxRow] else []) ++
  (if s.link.blocked then [.retry] else []) ++ (if s.pkg.bringStep < 6 then [.bring] else []) ++
  (if s.saving.isEmpty && !s.saved.any (·.pend) then [] else [.saving]) ++
  (if s.throttleDue then [.event .throttle] else []) ++ (if s.recoverDue then [.event .clockRecovery] else []) ++
  (if s.tripDue then [.event .thermalTrip] else [])

/-- Every turn that may be taken now; a turn whose condition does not hold changes nothing. -/
def State.turns (s : State) : List Turn :=
  s.teams.flatMap Team.turns ++
  s.eops.flatMap (fun o => [.event (.engineOperationComplete o.u), .event (.engineOperationStopped o.u)]) ++
  s.quads.flatMap Quad.turns ++ s.grids.flatMap Grid.turns ++ s.saved.map (fun u => .event (.unitRestore u.u)) ++
  s.pkgTurns

/-- A turn that comes with time alone: the end of bring-up or of a retraining. -/
def State.timeTurns (s : State) : List Turn :=
  if s.link.up then [] else [.event .linkStart]

/-- A team takes its turn (R31, R181, R191). -/
def State.issueTurn (s : State) (tid : Nat) : Pick :=
  match (s.select tid).front with
  | .stay s1 => .idle s1
  | .go i s1 => .run i s1

/-- The teams of a slot that could issue now, as far as their passes allow, by their places: those that cannot record what
they wait for (R31, R46). -/
def State.readyTeams (s : State) (l : List Team) : State × List Team :=
  l.foldl (fun (p : State × List Team) t =>
    match p.1.tryIssue t with
    | some s1 => (s1, p.2)
    | none => (p.1, p.2 ++ [t])) (s, [])

/-- The lane cycle since when a ready team has been ready: not before its passes and STALL have elapsed (R31, R32). -/
def Team.readyFrom (t : Team) : Nat := max t.since t.readyAt

/-- Lane cycle n has come. -/
def State.reached (s : State) (n : Nat) : Bool := n == 0 || n ≤ s.pkg.clk.toNat

/-- It has been ready for 64 × N cycles without issuing, 128 × N on a half-width core (R32). -/
def State.starved (s : State) (t : Team) : Bool :=
  let n := s.nTeams [t.core]
  t.rdy && (if (s.core t.core).half then 128 * n else 64 * n) ≤ s.pkg.clk.toNat - t.readyFrom

/-- One ready team goes before another (R32): starved teams first, those ready longest before the others, then by the higher
priority class and the block made resident earlier; the lower place last of all. -/
def State.issuesBefore (s : State) (a b : Team) : Bool :=
  let prio (t : Team) : Nat := match s.grid? t.gid with | some g => g.lrec.prio | none => 0
  let order (t : Team) : Nat := match s.block? t.bid with | some b => b.order | none => 0
  if s.starved a || s.starved b then
    if s.starved a && s.starved b then
      (if a.readyFrom = b.readyFrom then a.place < b.place else a.readyFrom < b.readyFrom)
    else s.starved a
  else if prio a ≠ prio b then prio b < prio a
  else if order a ≠ order b then order a < order b
  else a.place < b.place

/-- A slot's choice (R32): the first of its ready teams issues; while passes of another of its teams are still to issue, a
starved one. -/
def State.slotTurn (s : State) (core n : Nat) : Pick :=
  let clk := s.pkg.clk.toNat
  let all := s.teams.filter fun t => t.core == core && t.slot == n && t.life == Life.live
  let (s1, l) := s.readyTeams (sortBy (·.place) (all.filter fun t => s.runs t && t.readyAt ≤ clk))
  match (if all.any fun t => clk < t.busy then l.filter s.starved else l) with
  | [] => .idle s1
  | t :: r =>
    let best := r.foldl (fun a b => if s1.issuesBefore b a then b else a) t
    s1.issueTurn best.tid

/-- A ready team that is its slot's choice (R32): its passes and STALL have elapsed, no ready team of the slot goes before it,
and while passes of another are still to issue it is starved. -/
def State.chosen (s : State) (t : Team) : Bool :=
  let mates := s.teams.filter fun m => m.core == t.core && m.slot == t.slot && m.life == Life.live
  s.reached t.readyAt && (mates.all (fun m => s.reached m.busy) || s.starved t) &&
    mates.all fun m => m.tid == t.tid || !(m.rdy && s.reached m.readyAt && s.issuesBefore m t)

/-- The team with this handle may be selected: its slot chooses it, or it is not ready and only waits (R31, R32). -/
def State.selectable (s : State) (tid : Nat) : Bool :=
  match s.team? tid with
  | some t => !t.rdy || s.chosen t
  | none => true

def State.takeTurn (s : State) : Turn → Pick
  | .slot core n => s.slotTurn core n
  | .event i => .run i s
  | .port q => .idle (s.portTurn q)
  | .bring => .idle s.bringNext
  | .saving => .idle s.saveTurn
  | .retry => .run (decodeMsg s.link.rx) s

/-- Nothing comes from outside: one of the turns is taken, freely (log 2). -/
def State.pickTurn (s : State) : Pick :=
  match s.turns ++ s.timeTurns with
  | [] => .idle s
  | t :: r => s.takeTurn ((t :: r).getD (s.freeNat (fk 90 0) % (r.length + 1)) t)

/-- Rows that a host message runs. -/
def isMsgRow : Instr → Bool
  | .launchMsg | .mwr | .mrd | .hostWrack | .hostMrdresp | .matomresp | .featureSelect | .faultreply
  | .preemptMakeRoom | .preemptSuspend | .preemptResume | .ctxctlActivate | .ctxctlEnd | .invalidateRange
  | .invalidateAll | .invalidateRegion | .invalidateCode | .reductionStreamWrite | .peerPortEnable
  | .peerPortDisable | .registerWrite | .spdmMailboxGo | .unknownType => true
  | _ => false

/-- Rows that go on without the package's clocks: power, and the Sideboard with its own (R425, R431). -/
def isSideRow : Instr → Bool
  | .getVersion _ | .getCapabilities _ | .negotiateAlgorithms _ | .getDigests _ | .getCertificate _ | .challenge _
  | .getMeasurements _ | .spdmUnsupportedRequest _ | .pldmSensorRead _ | .pldmSetPowerCap _ | .pldmDeviceReset _
  | .pldmFirmwareStage _ _ | .pwrokRise _ | .deviceReset _ | .endpointIdAssignment _ | .pldmDiscovery
  | .pldmLinkRetrain | .pwrokFall | .sbReset => true
  | _ => false

/-- An event may come from outside: it is no instruction of a team and no message row, and needs the clocks unless it
is of the Sideboard or power. -/
def State.mayHappen (s : State) (i : Instr) : Bool :=
  i.raw.isNone && !isMsgRow i && (s.clocked || isSideRow i) &&
  (match i with | .reservedOpcode _ => false | _ => true)

/-- What a step takes next. -/
def State.pick_ (s : State) : Pick :=
  match s.acts with
  | .ev i :: r =>
    if !s.mayHappen i then .idle { s with acts := r }
    else if s.arrivalWaits i then s.pickTurn
    else .run i { s with acts := r }
  | .msg m :: r =>
    if !s.clocked then .idle { s with acts := r }
    else if s.link.blocked then s.pickTurn
    else .run (decodeMsg m) { s with acts := r, link := { s.link with rx := m } }
  | .peer p m :: r =>
    if !s.clocked then .idle { s with acts := r }
    else match ({ s with acts := r }).peerMsg p m with
      | some s1 => .idle s1
      | none => s.pickTurn
  | .sbRead o n :: r => .idle (({ s with acts := r }).sbRead o n)
  | .sense n v :: r => .idle { s with acts := r, pkg := { s.pkg with sens := sput 0 n v s.pkg.sens } }
  | .sbSelect tw v :: r => .idle (({ s with acts := r }).sbSelect tw v)
  | .issue tid :: r =>
    if s.clocked && s.selectable tid then ({ s with acts := r }).issueTurn tid else .idle { s with acts := r }
  | [] => if s.clocked then s.pickTurn else if s.pkg.tripped then .stopped else .idle s

/-! ### One instruction, placed where the next step fetches it (log 4) -/

/-- The instruction's words from bits numbered as the opcode table numbers them, bits above nbits zero. -/
def tableWords (nbits w : Nat) : List Word :=
  let v := w % 2 ^ nbits
  let ws : List Word := [BitVec.ofNat 32 v, BitVec.ofNat 32 (v / 2 ^ 32), BitVec.ofNat 32 (v / 2 ^ 64)]
  let n := match formOf (opOf (ws.getD 0 0)) with
    | some f => f.nLits (bOf (ws.getD 0 0))
    | none => 0
  ws.take (n + 1)

/-- A clause of these words: its header attaches to no flag and waits for none (R166). -/
def clauseOf (ws : List Word) : List Word := BitVec.ofNat 32 (ws.length * 2 ^ 28 + 0xFF0A) :: ws

/-- Physical addresses of the five page tables, the region table, and the page that holds a line's entry and image. -/
def placeBase : Nat := 0x10000000

/-- A context whose code heap has one line: page 0 of region 0 holds its table entry and image. -/
def placedCtx (c : CtxSlot) : CtxSlot :=
  { c.activated 255 with
    ptroot := BitVec.ofNat 64 placeBase, rbtbase := BitVec.ofNat 64 (placeBase + 0x5000), frarea := 0x2000000A
    codebase := 0x200000, codesize := 0x200000, lattbase := 0, storebase := 0x80, dictbase := 0x400, ptabbase := 0x400 }

/-- Tables that map page 0, the line's entry, and the line's image. -/
def State.placeLine (s : State) (ws : List Word) : State :=
  let b := placeBase
  let img := ws.flatMap fun w => leBytes 4 w.toNat
  (((((((s.putNat b 8 (b + 0x1000 + 1)).putNat (b + 0x1000) 8 (b + 0x2000 + 1)).putNat (b + 0x2000) 8
    (b + 0x3000 + 1)).putNat (b + 0x3000) 8 (b + 0x4000 + 1)).putNat (b + 0x4000) 8 (b + 0x10000 + 0xF)).putNat
    (b + 0x5000) 16 (2 ^ 64 * (7 * 2 ^ 61 + 2 ^ 32))).putNat (b + 0x10000) 8 (255 * 2 ^ 32 + 7 * 2 ^ 25 + 1)).putBytes
    (b + 0x10080) (img ++ List.replicate (128 - img.length) 0)

/-- A grid of one block with one team of 32 lanes, and the team at the start of the heap. -/
def State.placeTeam (s : State) : State :=
  let gid := s.uid
  let g : Grid :=
    { Grid.none with gid := gid, lid := 1, ctx := 255, st := .running, next := 1
                     lrec := { handctx := 255, shape := BitVec.ofNat 32 (32 * 2 ^ 19 + 31 * 2 ^ 14 + 31), mem := 16 } }
  let b : Block :=
    { bid := gid + 1, gid := gid, x := 0, y := 0, z := 0, rank := 0, core := 0, life := .resident, scratchSize := 0x10000
      scratch := [], bars := List.replicate 32 { mem := [gid + 2] }, started := true, order := gid + 1, save := none }
  let t : Team := { Team.start g (gid + 1) 0 0 (gid + 2) 0 0 0 with pc := 0x200000 }
  { s with
    uid := gid + 3, grids := s.grids ++ [g], blocks := s.blocks ++ [b], t := t
    others := if s.t.life == Life.absent then s.others else s.others ++ [s.t], acts := .issue t.tid :: s.acts }

/-- A program of one clause, loaded and about to issue its first word. -/
def State.place (s : State) (ws : List Word) : State :=
  ((s.modSlot 15 placedCtx).placeLine (clauseOf ws)).placeTeam

end Sys2Proof.Machine
end

