-- ==== Sys2Proof/Machine/Step.lean ====
section
/-! DEFINITION. One step of the package: time passes, and what is next runs (log 2). -/

namespace Sys2Proof.Machine

/-- One step. -/
def step (s : State) : Host.Outcome State Fault Refusal :=
  match s.tick.pick_ with
  | .run i s1 => exec i s1
  | .idle s1 => .next s1
  | .stopped => .fault .clocksStopped

/-- The state with one instruction placed where the next step fetches and runs it (log 4). -/
def State.withFetchWord (s : State) (nbits w : Nat) : State := s.place (tableWords nbits w)

end Sys2Proof.Machine
end

