-- ==== Sys2Proof/Safety.lean ====
section
/-! DEFINITION. What counts as a safe run, and the words in which claims speak of a state: what its registers hold,
when a team issues unhindered, and what a step leaves as it was. -/

namespace Sys2Proof

open Machine

/-- A run of k steps reaches no fault and no refusal. -/
def SafeRun (k : Nat) (s : State) : Prop := ∃ s', core.run k s = .next s'

/-- Some run from s reaches u. -/
def Reaches (s u : State) : Prop := ∃ k, core.run k s = .next u

namespace Machine

/-- Local memory is in its canonical form, so that equal contents are equal data. -/
def State.MemOk (s : State) : Prop := Memory.wf s.mem = true

/-- What every step keeps of the machine's data: local memory in its canonical form, and 16 context slots (R396). -/
structure State.Sound (s : State) : Prop where
  mem : s.MemOk
  slots : s.ctxs.length = 16

/-- The link counts its messages and its tags modulo 2^32: what it expects and sends next, what it has sent to the driver,
and the tags of the requests, writes and reads that await a reply (R373, R375). -/
structure State.LinkOk (s : State) : Prop where
  rxseq : s.link.rxseq < 2 ^ 32
  txseq : s.link.txseq < 2 ^ 32
  tag : s.link.tag < 2 ^ 32
  out : ∀ o ∈ s.link.out, o.port = 0 → o.seq < 2 ^ 32
  reqs : ∀ r ∈ s.link.reqs, r.tag < 2 ^ 32
  wacks : ∀ w ∈ s.link.wacks, w.1 < 2 ^ 32
  asks : ∀ a ∈ s.link.asks, a.tag < 2 ^ 32

/-- No context is active in two slots, and only an active context is suspended or about to end (R396, R397, R407, R412). -/
structure State.CtxsOk (s : State) : Prop where
  once : ∀ n m, n < 16 → m < 16 → (s.slot n).act = true → (s.slot m).act = true → (s.slot n).ctxid = (s.slot m).ctxid →
    n = m
  ends : ∀ n, n < 16 → (s.slot n).ending.isSome = true → (s.slot n).act = true
  susp : ∀ n, n < 16 → (s.slot n).susp = true → (s.slot n).act = true

/-- The next handle is new: no resident block, evicted unit or unit under restore has it or a later one (R411, R421). -/
structure State.HandlesOk (s : State) : Prop where
  blocks : ∀ b ∈ s.blocks, b.bid < s.uid
  saved : ∀ v ∈ s.saved, v.u < s.uid
  restoring : ∀ v ∈ s.restoring, v.u < s.uid

/-! ### What the selected team holds -/

/-- s_n; v_n in a lane; p_n, where p0 is true in every present lane; m_n. -/
def State.sReg (s : State) (n : Nat) : DWord := sget 0 n s.t.s
def State.vReg (s : State) (n lane : Nat) : Word := sget 0 (1024 * n + lane) s.t.v
def State.pReg (s : State) (n : Nat) : Lanes := s.t.pval n
def State.mReg (s : State) (n : Nat) : XReg := sget {} n s.t.m

/-- The container of ET in v_n of a lane, or in the pair v_n, v_(n+1) for a 64-bit type (R114). -/
def State.cont (s : State) (et n lane : Nat) : Nat :=
  if etPair et then (s.vReg n lane).toNat + 2 ^ 32 * (s.vReg (n + 1) lane).toNat else (s.vReg n lane).toNat

/-- Element k of that container, as bits and by its integer type (R114, R123). -/
def State.elem (s : State) (et n lane k : Nat) : Nat := elemOf (etWidth et) k (s.cont et n lane)
def State.elemI (s : State) (et n lane k : Nat) : Int := etInt et (s.elem et n lane k)

/-- A lane of active(G): present, set in the active mask, its guard true (R20). -/
def State.laneOn (s : State) (l : Nat) : Bool :=
  Decidable.decide (l < s.t.lanes) && s.t.mask.getLsbD l &&
    (if mPGN s.t.mode then !(s.pReg (mPG s.t.mode)).getLsbD l else (s.pReg (mPG s.t.mode)).getLsbD l)

/-! ### When a team issues unhindered -/

/-- Nothing holds the selected team's next instruction back and nothing of its past is still to come: no trap decided, its
context not ending, its operand log free, no attaching instruction outstanding, every earlier result available, no reply
due, no CMPCT half done (R169). -/
structure State.Clear (s : State) : Prop where
  dec : s.t.dec = []
  ctx : s.ctxEnding s.t.ctx = false
  log : s.t.log = []
  infl : s.t.infl = []
  recent : s.t.recent = []
  reqs : s.link.reqs = []
  appends : s.t.appending = false

/-- Nothing of the memory system stands between an access and local memory: no sector is poisoned, no line is counted at
home, no line is owned by an engine operation, no range is sealed, and no store of another team may still read its source
late (R72, R73, R98, R170, R439). -/
structure State.Plain (s : State) : Prop where
  poison : s.poison = []
  counted : s.caches.counted = []
  eops : s.eops = []
  seals : s.seals = []
  late : ∀ t ∈ s.others, ∀ f ∈ t.infl, f.late = []

/-! ### What a step leaves as it was -/

/-- The team has gone past n words: to the next word of its clause, or to the next header (R165, R166). -/
def State.Past (s u : State) (n : Nat) : Prop :=
  u.t.pc = s.t.pc + BitVec.ofNat 64 (4 * n) ∧
  u.t.cl.idx = (if hLEN s.t.cl.hdr < s.t.cl.idx + n then 0 else s.t.cl.idx + n) ∧ u.t.ord = s.t.ord + 1

/-- t with the place in its stream that u has: pc, clause state, and the model's own counts and marks: of cycles, passes and
results (R32, R170), of what its values were read from, of what its fetches may use, and of the word before its next (R350). -/
def Team.placeOf (t u : Team) : Team :=
  { t with
    pc := u.pc, cl := u.cl, via := u.via, cyc := u.cyc, ord := u.ord, wait := u.wait, recent := u.recent
    readyAt := u.readyAt, busy := u.busy, since := u.since, taint := u.taint, codeAt := u.codeAt, last := u.last }

/-- Apart from the place in its stream, only the named part of the selected team may differ, and nothing else of the
machine: its scalar registers; its vector registers; its predicates; its MODE; nothing. -/
def State.OnlyS (s u : State) : Prop := u = { s with t := { s.t.placeOf u.t with s := u.t.s } }
def State.OnlyV (s u : State) : Prop := u = { s with t := { s.t.placeOf u.t with v := u.t.v } }
def State.OnlyP (s u : State) : Prop := u = { s with t := { s.t.placeOf u.t with p := u.t.p } }
def State.OnlyPlace (s u : State) : Prop := u = { s with t := s.t.placeOf u.t }

/-- Every scalar register but those in l holds what it held; and so the vector registers and predicates. -/
def State.KeepsS (s u : State) (l : List Nat) : Prop := ∀ n, n ∉ l → u.sReg n = s.sReg n
def State.KeepsV (s u : State) (l : List Nat) : Prop := ∀ n lane, lane < 1024 → n ∉ l → u.vReg n lane = s.vReg n lane
def State.KeepsP (s u : State) (l : List Nat) : Prop := ∀ n, n ∉ l → u.pReg n = s.pReg n

/-- Every byte of local memory outside the given runs (address, length) reads as before. -/
def State.KeepsBytes (s u : State) (runs : List (Nat × Nat)) : Prop :=
  ∀ a, (∀ r ∈ runs, a < r.1 ∨ r.1 + r.2 ≤ a) → u.byte a = s.byte a

/-- The context slots are as before, but for the page-table and region entries that the device holds of them (R401), and
the code items (R349). -/
def State.SlotsKept (s u : State) : Prop :=
  u.ctxs.length = s.ctxs.length ∧
  ∀ n, u.slot n = { s.slot n with tlb := (u.slot n).tlb, rcache := (u.slot n).rcache, code := (u.slot n).code }

/-- Registers that hold a container of ET at v_n. -/
def contRegs (et n : Nat) : List Nat := if etPair et then [n, n + 1] else [n]

end Machine

end Sys2Proof
end

