-- ==== Sys2Proof/Certificates/Slice0/Values.lean ====
section
/-! DEFINITION. What the spec's tables say of results, in exact integers and exact values, for the statements to compare
the machine with (R116 to R118, R123, R184, R195 to R199, R221 to R243). -/

namespace Sys2Proof.Claims

open Machine

/-- The first n bit positions of x that satisfy p, counted from one end until one does not. -/
def countWhile (p : Nat → Bool) (l : List Nat) : Nat := (l.takeWhile p).length

/-- A number from its bits: bit i is f i. -/
def ofBits (w : Nat) (f : Nat → Bool) : Nat := (List.range w).foldl (fun acc i => if f i then acc + 2 ^ i else acc) 0

/-- A truth value as a number. -/
def word64 (x : Int) : DWord := BitVec.ofInt 64 x

/-! ### Scalar results (R195 to R199) -/

/-- The register that a scalar instruction writes, and its new value, from what the registers hold. -/
def scalarOut (s : State) : Instr → Option (Nat × DWord)
  | .sadd d a b => some (d, word64 ((s.sReg a).toInt + (s.sReg b).toInt))
  | .ssub d a b => some (d, word64 ((s.sReg a).toInt - (s.sReg b).toInt))
  | .smul d a b => some (d, word64 ((s.sReg a).toInt * (s.sReg b).toInt))
  | .smulh d a b => some (d, word64 ((s.sReg a).toInt * (s.sReg b).toInt / 2 ^ 64))
  | .sdiv d a b => some (d, word64 (if (s.sReg b).toInt = 0 then -1 else Int.tdiv (s.sReg a).toInt (s.sReg b).toInt))
  | .srem d a b => some (d, word64 (if (s.sReg b).toInt = 0 then (s.sReg a).toInt
      else (s.sReg a).toInt - (s.sReg b).toInt * Int.tdiv (s.sReg a).toInt (s.sReg b).toInt))
  | .sand d a b => some (d, s.sReg a &&& s.sReg b)
  | .sor d a b => some (d, s.sReg a ||| s.sReg b)
  | .sxor d a b => some (d, s.sReg a ^^^ s.sReg b)
  | .sshl d a b => some (d, BitVec.ofNat 64 ((s.sReg a).toNat * 2 ^ ((s.sReg b).toNat % 64)))
  | .sshr d a b => some (d, BitVec.ofNat 64 ((s.sReg a).toNat / 2 ^ ((s.sReg b).toNat % 64)))
  | .ssar d a b => some (d, word64 ((s.sReg a).toInt / 2 ^ ((s.sReg b).toNat % 64)))
  | .scmp d a b => some (d, word64 (if (s.sReg a).toInt < (s.sReg b).toInt then -1
      else if (s.sReg a).toInt = (s.sReg b).toInt then 0 else 1))
  | .smin d a b => some (d, word64 (min (s.sReg a).toInt (s.sReg b).toInt))
  | .smax d a b => some (d, word64 (max (s.sReg a).toInt (s.sReg b).toInt))
  | .saddi d a b => some (d, word64 ((s.sReg a).toInt + (BitVec.ofNat 8 b).toInt))
  | .sshli d a b => some (d, BitVec.ofNat 64 ((s.sReg a).toNat * 2 ^ b))
  | .sshri d a b => some (d, BitVec.ofNat 64 ((s.sReg a).toNat / 2 ^ b))
  | .smovl d l none => some (d, word64 l.toInt)
  | .smovl d l (some h) => some (d, BitVec.ofNat 64 (h.toNat * 2 ^ 32 + l.toNat))
  | .smov d a => some (d, s.sReg a)
  | .sneg d a => some (d, word64 (-(s.sReg a).toInt))
  | .snot d a => some (d, BitVec.ofNat 64 (2 ^ 64 - 1 - (s.sReg a).toNat))
  | .sabs d a => some (d, word64 (s.sReg a).toInt.natAbs)
  | .sclz d a => some (d, BitVec.ofNat 64 (countWhile (fun i => !(s.sReg a).getLsbD (63 - i)) (List.range 64)))
  | .sctz d a => some (d, BitVec.ofNat 64 (countWhile (fun i => !(s.sReg a).getLsbD i) (List.range 64)))
  | .spopc d a => some (d, BitVec.ofNat 64 ((List.range 64).filter fun i => (s.sReg a).getLsbD i).length)
  | .sbrev d a => some (d, BitVec.ofNat 64 (ofBits 64 fun i => (s.sReg a).getLsbD (63 - i)))
  | .sext32 d a => some (d, word64 ((s.sReg a).setWidth 32).toInt)
  | .saddr d a b => some (d, BitVec.ofNat 64
      ((s.sReg a).toNat / 2 ^ 56 * 2 ^ 56 + ((s.sReg a).toNat + (s.sReg b).toNat) % 2 ^ 56))
  | .sgetv d a b => some (d, if (s.sReg b).toNat < s.t.lanes then BitVec.ofNat 64 (s.vReg a (s.sReg b).toNat).toNat else 0)
  | _ => none

/-- The condition of BRS on the signed value x (R184). -/
def brsTaken : Nat → Int → Prop
  | 0, x => x = 0
  | 1, x => x ≠ 0
  | 2, x => x < 0
  | 3, x => 0 ≤ x
  | 4, x => 0 < x
  | 5, x => x ≤ 0
  | 6, x => x % 2 = 1
  | _, x => x % 2 = 0

/-- MODE is well formed (R177). -/
def modeWords (m : Word) : Prop :=
  bits m.toNat 31 26 = 0 ∧ bits m.toNat 12 10 ≤ 5 ∧ bits m.toNat 9 5 ≤ 17 ∧ bits m.toNat 19 16 ≤ 2 ∧
    bits m.toNat 23 20 ≤ 2

/-! ### Vector integer results (R123, R221 to R223) -/

/-- An exact result in an element of ET: clamped to the type's range where SAT holds and the operation saturates, and
then its low bits (R123). -/
def narrow (et : Nat) (clamps : Bool) (x : Int) : Nat :=
  ((if clamps then max (etLo et) (min (etHi et) x) else x) % (2 : Int) ^ etWidth et).toNat

/-- The register that a vector integer instruction writes, and for element k of a lane its exact result and whether it
saturates under SAT. -/
def vintOut (s : State) : Instr → Option (Nat × (Nat → Nat → Int × Bool))
  | .vadd d a b => some (d, fun l k => (s.elemI et a l k + s.elemI et b l k, sat))
  | .vsub d a b => some (d, fun l k => (s.elemI et a l k - s.elemI et b l k, sat))
  | .vmul d a b => some (d, fun l k => (s.elemI et a l k * s.elemI et b l k, sat))
  | .vmulh d a b => some (d, fun l k => (s.elemI et a l k * s.elemI et b l k / 2 ^ etWidth et, false))
  | .vmad d a b => some (d, fun l k => (s.elemI et a l k * s.elemI et b l k + s.elemI et d l k, sat))
  | .vdiv d a b => some (d, fun l k =>
      if s.elemI et b l k = 0 then (-1, false) else (Int.tdiv (s.elemI et a l k) (s.elemI et b l k), sat))
  | .vrem d a b => some (d, fun l k =>
      (if s.elemI et b l k = 0 then s.elemI et a l k
       else s.elemI et a l k - s.elemI et b l k * Int.tdiv (s.elemI et a l k) (s.elemI et b l k), false))
  | .vmin d a b => some (d, fun l k => (min (s.elemI et a l k) (s.elemI et b l k), false))
  | .vmax d a b => some (d, fun l k => (max (s.elemI et a l k) (s.elemI et b l k), false))
  | .vabsd d a b => some (d, fun l k => ((s.elemI et a l k - s.elemI et b l k).natAbs, false))
  | .vshl d a b => some (d, fun l k => ((s.elem et a l k : Int) * 2 ^ s.elem et b l k, false))
  | .vshr d a b => some (d, fun l k => ((s.elem et a l k : Int) / 2 ^ s.elem et b l k, false))
  | .vsar d a b => some (d, fun l k => (s.elemI et a l k / 2 ^ s.elem et b l k, false))
  | .vrotl d a b => some (d, fun l k =>
      let n := s.elem et b l k % etWidth et
      (s.elem et a l k * 2 ^ n + s.elem et a l k / 2 ^ (etWidth et - n), false))
  | .vaddi d a b => some (d, fun l k => (s.elemI et a l k + (BitVec.ofNat 8 b).toInt, sat))
  | .vshli d a b => some (d, fun l k => ((s.elem et a l k : Int) * 2 ^ b, false))
  | .vshri d a b => some (d, fun l k => ((s.elem et a l k : Int) / 2 ^ b, false))
  | .vsari d a b => some (d, fun l k => (s.elemI et a l k / 2 ^ b, false))
  | .vneg d a => some (d, fun l k => (-(s.elemI et a l k), sat))
  | .vabs d a => some (d, fun l k => ((s.elemI et a l k).natAbs, sat))
  | .vclz d a => some (d, fun l k =>
      (countWhile (fun i => !(s.elem et a l k).testBit (etWidth et - 1 - i)) (List.range (etWidth et)), false))
  | .vctz d a => some (d, fun l k => (countWhile (fun i => !(s.elem et a l k).testBit i) (List.range (etWidth et)), false))
  | .vcnt d a => some (d, fun l k => (((List.range (etWidth et)).filter fun i => (s.elem et a l k).testBit i).length, false))
  | .vbrev d a => some (d, fun l k =>
      (ofBits (etWidth et) fun i => (s.elem et a l k).testBit (etWidth et - 1 - i), false))
  | .vsgn d a => some (d, fun l k => ((s.elemI et a l k).sign, false))
  | _ => none
where
  et : Nat := mET s.t.mode
  sat : Bool := mSAT s.t.mode

/-! ### Whole-register results (R221, R223, R225, R227, R228, R238, R240, R241) -/

/-- Byte i of a word. -/
def byteOf (x : Word) (i : Nat) : Nat := x.toNat / 2 ^ (8 * i) % 256

/-- Four bytes, byte 0 first. -/
def ofBytes (f : Nat → Nat) : Word := BitVec.ofNat 32 (f 0 + 2 ^ 8 * f 1 + 2 ^ 16 * f 2 + 2 ^ 24 * f 3)

/-- v_n of lane l whatever the mask; 0 for an absent lane (R240). -/
def anyLane (s : State) (n l : Nat) : Word := if l < s.t.lanes then s.vReg n l else 0

/-- The register that a lane-wise instruction on whole registers writes, and what each lane gets. -/
def rawOut (s : State) : Instr → Option (Nat × (Nat → Word))
  | .vand d a b => some (d, fun l => s.vReg a l &&& s.vReg b l)
  | .vor d a b => some (d, fun l => s.vReg a l ||| s.vReg b l)
  | .vxor d a b => some (d, fun l => s.vReg a l ^^^ s.vReg b l)
  | .vandn d a b => some (d, fun l => s.vReg a l &&& ~~~s.vReg b l)
  | .vnot d a => some (d, fun l => ~~~s.vReg a l)
  | .vmov d a => some (d, fun l => s.vReg a l)
  | .vmovs d a => some (d, fun _ => (s.sReg a).setWidth 32)
  | .vmovl d x none => some (d, fun _ => x)
  | .vbfe d a x => some (d, fun l =>
      let f := (s.vReg a l).toNat / 2 ^ bits x.toNat 4 0 % 2 ^ bits x.toNat 13 8
      if bits x.toNat 16 16 = 1 ∧ 2 ^ bits x.toNat 13 8 ≤ 2 * f then BitVec.ofInt 32 ((f : Int) - 2 ^ bits x.toNat 13 8)
      else BitVec.ofNat 32 f)
  | .vbfi d a x => some (d, fun l => BitVec.ofNat 32 (ofBits 32 fun i =>
      if bits x.toNat 4 0 ≤ i ∧ i < bits x.toNat 4 0 + bits x.toNat 13 8 then (s.vReg a l).getLsbD (i - bits x.toNat 4 0)
      else (s.vReg d l).getLsbD i))
  | .vdot4 d a b => some (d, fun l => BitVec.ofNat 32 (narrow (if et = 9 then 13 else 14) (mSAT s.t.mode)
      (s.elemI et a l 0 * s.elemI et b l 0 + s.elemI et a l 1 * s.elemI et b l 1 + s.elemI et a l 2 * s.elemI et b l 2 +
       s.elemI et a l 3 * s.elemI et b l 3 + etInt (if et = 9 then 13 else 14) (s.vReg d l).toNat)))
  | .shfl d a b => some (d, fun l => anyLane s a (s.vReg b l).toNat)
  | .shflx d a b => some (d, fun l => anyLane s a (Nat.xor l b))
  | .permb d a b => some (d, fun l => ofBytes fun i =>
      let c := byteOf (s.vReg b l) i
      if 128 ≤ c then 0 else byteOf (s.vReg (a + c % 16 / 4) l) (c % 4))
  | .vunpk d a b => some (d, fun l => BitVec.ofNat 32 ((s.vReg a l).toNat / 2 ^ (etWidth et * b) % 2 ^ etWidth et))
  | _ => none
where
  et : Nat := mET s.t.mode

/-! ### Comparisons and predicates (R224, R226, R231) -/

/-- Element 0 of a floating-point container as a value, FTZ applied (R124, R231). -/
def fltIn (s : State) (n l : Nat) : Ex :=
  ((etFmt (mET s.t.mode)).getD .fp32).decZ (mFTZ s.t.mode) (s.elem (mET s.t.mode) n l 0)

/-- The predicate that a comparison or a predicate operation writes, and its value in a lane. -/
def predOut (s : State) : Instr → Option (Nat × (Nat → Bool))
  | .vcmpeq d a b => some (d, fun l => decide (s.elemI et a l 0 = s.elemI et b l 0))
  | .vcmpne d a b => some (d, fun l => decide (s.elemI et a l 0 ≠ s.elemI et b l 0))
  | .vcmplt d a b => some (d, fun l => decide (s.elemI et a l 0 < s.elemI et b l 0))
  | .vcmple d a b => some (d, fun l => decide (s.elemI et a l 0 ≤ s.elemI et b l 0))
  | .vfcmpeq d a b => some (d, fun l => !un a b l && (fltIn s a l).eqv (fltIn s b l))
  | .vfcmpne d a b => some (d, fun l => un a b l || !(fltIn s a l).eqv (fltIn s b l))
  | .vfcmplt d a b => some (d, fun l => !un a b l && (fltIn s a l).lt (fltIn s b l))
  | .vfcmple d a b => some (d, fun l => !un a b l && ((fltIn s a l).lt (fltIn s b l) || (fltIn s a l).eqv (fltIn s b l)))
  | .vfcmpun d a b => some (d, fun l => un a b l)
  | .pand d a b => some (d, fun l => (s.pReg a).getLsbD l && (s.pReg b).getLsbD l)
  | .por d a b => some (d, fun l => (s.pReg a).getLsbD l || (s.pReg b).getLsbD l)
  | .pxor d a b => some (d, fun l => xor ((s.pReg a).getLsbD l) ((s.pReg b).getLsbD l))
  | .pnot d a => some (d, fun l => !(s.pReg a).getLsbD l)
  | _ => none
where
  et : Nat := mET s.t.mode
  un (a b l : Nat) : Bool := (fltIn s a l).isNan || (fltIn s b l).isNan

/-! ### Floating-point results (R229, R230, R233, R234) -/

/-- Element k of v_n in a lane as a value of ET, FTZ applied (R124). -/
def fltElem (s : State) (n l k : Nat) : Ex :=
  ((etFmt (mET s.t.mode)).getD .fp32).decZ (mFTZ s.t.mode) (s.elem (mET s.t.mode) n l k)

/-- The Non-Finite hold lets an instruction through: NFT is clear, or none of its n elements of an active lane raises
(R126). -/
def noHold (s : State) (n : Nat) (bad : Nat → Nat → Bool) : Prop :=
  mNFT s.t.mode = false ∨ ∀ l k, l < 1024 → s.laneOn l = true → k < n → bad l k = false

/-- The register that a floating-point instruction writes, the exact result of each element, and whether the instruction
rounds, so that the stochastic generator advances (R120, R230). -/
def fltOut (s : State) : Instr → Option (Nat × (Nat → Nat → Ex) × Bool)
  | .vfadd d a b => some (d, fun l k => Ex.sum rnd [fltElem s a l k, fltElem s b l k], true)
  | .vfsub d a b => some (d, fun l k => Ex.sum rnd [fltElem s a l k, (fltElem s b l k).neg], true)
  | .vfmul d a b => some (d, fun l k => (fltElem s a l k).mul (fltElem s b l k), true)
  | .vfma d a b => some (d, fun l k => Ex.sum rnd [(fltElem s a l k).mul (fltElem s b l k), fltElem s d l k], true)
  | .vfms d a b => some (d, fun l k => Ex.sum rnd [(fltElem s a l k).mul (fltElem s b l k), (fltElem s d l k).neg], true)
  | .vfnma d a b => some (d, fun l k => Ex.sum rnd [((fltElem s a l k).mul (fltElem s b l k)).neg, fltElem s d l k], true)
  | .vfdiv d a b => some (d, fun l k => (fltElem s a l k).div (fltElem s b l k), true)
  | .vfsqrt d a => some (d, fun l k => (fltElem s a l k).sqrt, true)
  | .vfmin d a b => some (d, fun l k => (fltElem s a l k).minF (fltElem s b l k), false)
  | .vfmax d a b => some (d, fun l k => (fltElem s a l k).maxF (fltElem s b l k), false)
  | .vfabs d a => some (d, fun l k => (fltElem s a l k).abs, false)
  | .vfneg d a => some (d, fun l k => (fltElem s a l k).neg, false)
  | .vfrcp d a => some (d, fun l k => (Ex.ofInt 1).div (fltElem s a l k), true)
  | .vfrsq d a => some (d, fun l k => (fltElem s a l k).rsqrt, true)
  | .vfexp2 d a => some (d, fun l k => (fltElem s a l k).exp2, true)
  | .vflog2 d a => some (d, fun l k => (fltElem s a l k).log2, true)
  | .vfsin d a => some (d, fun l k => (fltElem s a l k).sinpi, true)
  | .vfcos d a => some (d, fun l k => (fltElem s a l k).cospi, true)
  | .vfmull d a c => some (d, fun l k => (fltElem s a l k).mul (s.fltLit (mET s.t.mode) c), true)
  | .vfaddl d a c => some (d, fun l k => Ex.sum rnd [fltElem s a l k, s.fltLit (mET s.t.mode) c], true)
  | .vffmal d a b c => some (d, fun l k =>
      Ex.sum rnd [(fltElem s a l k).mul (s.fltLit (mET s.t.mode) c), fltElem s b l k], true)
  | .vfldexp d a b => some (d, fun l k => (fltElem s a l k).scale
      (if etCount (mET s.t.mode) = 1 then (s.vReg b l).toInt else sgnOf 16 ((s.vReg b l).toNat / 2 ^ (16 * k))), true)
  | .vfrint d a b => some (d, fun l k => (fltElem s a l k).rint
      (let rm := s.rmAt s.srTab l k
       if b = 5 then rm else { rm with rnd := b }), b == 5)
  | _ => none
where
  rnd : Nat := mRND s.t.mode

/-! ### Other results that may raise Non-Finite (R126, R134, R135, R230, R234 to R239, R242, R244) -/

/-- Element k of VFCOPYS: a with the sign bit that b stores. -/
def copyRes (s : State) (a b l k : Nat) : Nat :=
  ((etFmt (mET s.t.mode)).getD .fp32).round {}
    ((fltElem s a l k).withSign ((s.elem (mET s.t.mode) b l k).testBit (etWidth (mET s.t.mode) - 1)))

/-- VFDOT2: two products and the accumulator, one rounding. -/
def dotRes (s : State) (d a b l : Nat) : Nat :=
  Fmt.fp32.round (s.rmAt s.srTab l 0)
    (Ex.sum (mRND s.t.mode) [Fmt.fp32.decZ (mFTZ s.t.mode) (s.vReg d l).toNat,
      (fltElem s a l 0).mul (fltElem s b l 0), (fltElem s a l 1).mul (fltElem s b l 1)])

/-- Element k of CVT to type b, and whether it raises. -/
def convRes (s : State) (a b l k : Nat) : Nat × Bool :=
  cvtElem (s.rmAt s.srTab l k) (mET s.t.mode) b (s.elem (mET s.t.mode) a l k)

/-- CVTXM: an element times its scale. -/
def scaledRes (s : State) (a b l : Nat) : Nat :=
  Fmt.fp32.round (s.rmAt s.srTab l 0)
    (mxValue (mET s.t.mode) ((s.vReg b l).toNat % 256) ((s.vReg a l).toNat % 2 ^ etWidth (mET s.t.mode)))

/-- Weight m of CBDEC's 16. -/
def weightRes (s : State) (a b l m : Nat) : Nat :=
  Fmt.bf16.round (s.rmAt s.srTab l (m % 2))
    (cbWeight (elemOf 16 (m / 8) (s.vReg a l).toNat) ((s.vReg b l).toNat % 256) (m % 8))

/-- The fold that SCAN gives element k of a lane; none over no lane. -/
def scanFold (s : State) (a b l k : Nat) : Option Nat :=
  redFold (redComb (mET s.t.mode) (b % 8) (rmOf s.t.mode (srValue s.srLast (l + k))))
    (s.redTreeOf (mET s.t.mode) (b % 8) a k) (if 8 ≤ b then l else l + 1) 11 0 none

/-- The root of REDV's tree for element k; none over no lane. -/
def redRoot (s : State) (a b k : Nat) : Option Nat := ((s.redTreeOf (mET s.t.mode) b a k).getD 10 []).getD 0 none

/-- Row r of a lane matrix-vector product with a matrix of n rows. -/
def lmvRow (s : State) (n a b l r : Nat) : Nat :=
  Fmt.fp32.round (s.rmAt s.srTab l r) (Ex.sum (mRND s.t.mode)
    ((List.range n).map fun j =>
      (Fmt.fp32.decZ (mFTZ s.t.mode) (s.cupNat ((s.vReg b l).toNat + 4 * (n * r + j)) 4)).mul
        (Fmt.fp32.decZ (mFTZ s.t.mode) (s.vReg (a + j) l).toNat)))

/-- Every active lane's matrix of n rows at the Cupboard offset in v_b is aligned, and within it (R244). -/
def matricesIn (s : State) (n b : Nat) : Prop :=
  ∀ l, l < 1024 → s.laneOn l = true → (s.vReg b l).toNat % 64 = 0 ∧ (s.vReg b l).toNat + 4 * n * n ≤ s.cupSize

/-- An element of type et is NaN or infinite. -/
def badElem (et x : Nat) : Bool := (etFmt et).any fun f => f.nonFinite x

/-- Which results of a lane-wise instruction the hold of R126 is about: how many in each lane, and which of them raise. -/
def heldOut (s : State) (i : Instr) : Option (Nat × (Nat → Nat → Bool)) :=
  let et := mET s.t.mode
  match fltOut s i with
  | some (_, f, _) => some (etCount et, fun l k =>
      ((etFmt et).getD .fp32).nonFinite (((etFmt et).getD .fp32).round (s.rmAt s.srTab l k) (f l k)))
  | none =>
    match i with
    | .vfcopys _ a b => some (etCount et, fun l k => ((etFmt et).getD .fp32).nonFinite (copyRes s a b l k))
    | .vfdot2 d a b => some (1, fun l _ => Fmt.fp32.nonFinite (dotRes s d a b l))
    | .cvt _ a b => some (min (etCount et) (etCount b), fun l k => (convRes s a b l k).2)
    | .cvtxm _ a b => some (1, fun l _ => Fmt.fp32.nonFinite (scaledRes s a b l))
    | .cbdec _ a b => some (16, fun l m => Fmt.bf16.nonFinite (weightRes s a b l m))
    | .cvtmx _ a _ => some (1, fun l _ => Fmt.fp32.nonFinite (s.vReg a l).toNat)
    | .scan _ a b => some (etCount et, fun l k => (scanFold s a b l k).any (badElem et))
    | .lmv4 _ a b => some (4, fun l r => Fmt.fp32.nonFinite (lmvRow s 4 a b l r))
    | .lmv8 _ a b => some (8, fun l r => Fmt.fp32.nonFinite (lmvRow s 8 a b l r))
    | _ => none

/-! ### Accesses (R85, R246, R247, R255 to R257) -/

/-- The access of a lane at offset v_a through m_n, with its data and comparison value. -/
def laneAcc (s : State) (a m x c l : Nat) : LaneAcc := ⟨l, (s.vReg a l).toNat, s.mReg m, x, c⟩

/-- The lanes that a lane-wise instruction runs, ascending. -/
def onLanes (s : State) : List Nat := (List.range s.t.lanes).filter s.laneOn

/-- The slot of the selected team's context. -/
def mySlot (s : State) : Nat := (s.slotOf s.t.ctx).getD 0

/-- An access that reaches local memory at this address. -/
def reaches (s : State) (op : MemOp) (x : LaneAcc) (pa : Nat) : Prop := s.resolve (mySlot s) op x = .ok pa ∧ isLocal pa = true

/-- Accesses performed one after another on bytes: the bytes after, and what each read. -/
def inTurn (op : MemOp) : List (LaneAcc × Nat) → SMap Byte → SMap Byte × List (Nat × Nat)
  | [], m => (m, [])
  | (x, pa) :: r, m =>
    let old := leNat (sgets 0 pa op.size m)
    let after := inTurn op r (sputRun 0 pa (leBytes op.size (atomNew op old x.x x.c)) m)
    (after.1, (x.lane, old) :: after.2)

/-- One attaching instruction is outstanding, ready to complete, under the flag that the clause's header names (R168,
R169). -/
def oneReady (s u : State) : Prop := ∃ f, u.t.infl = [f] ∧ f.flag = s.t.nextFlag ∧ f.on = .ready

/-- Apart from its place in its stream, its vector and scalar registers and its one outstanding instruction, the team is
as before; and so the machine apart from bytes of local memory, what caches and translation buffers hold, and the model's
handles. -/
def AccessFrame (s u : State) : Prop :=
  s.SlotsKept u ∧
  u = { s with t := { s.t.placeOf u.t with v := u.t.v, s := u.t.s, infl := u.t.infl },
               mem := u.mem, caches := u.caches, ctxs := u.ctxs, uid := u.uid }

/-- The selected team's quad has nothing waiting at its tile memory port, and no earlier operation on these tiles is
incomplete (R159, R445). -/
def portFree (s : State) (tiles : List Nat) : Prop :=
  s.myQuad.port = [] ∧ s.tileBusy (s.portOp .nop [] [] tiles []) = false

/-- The state in which MDRM of s_d and s_b writes its rows: its record is read and its lines are granted (R97, R299). -/
def drainState (s : State) (d b : Nat) (bs : List Byte) : State :=
  ((s.noteRecords [((s.sReg d).toNat, 64)]).mdrmOp (mySlot s) s.uid s.t.mode (s.sReg d) (s.sReg b) bs).drainGrant
    (mySlot s) s.uid

/-! ### Starting teams and placement (R24, R28, R389, R390, R412) -/

/-- Block coordinates of a rank of a grid (R27), and the global index of its team k (R28). -/
def blockXYZ (r : LaunchRec) (rank : Nat) : Nat × Nat × Nat :=
  (rank % r.extX, rank / r.extX % r.extY, rank / (r.extX * r.extY))
def globalIndex (r : LaunchRec) (rank k : Nat) : Nat :=
  let (x, y, z) := blockXYZ r rank
  ((z * r.extY + y) * r.extX + x) * 16 + k

/-- Team k of the block of this rank of a grid holds what a starting team holds (R24, R121). -/
structure Starting (g : Grid) (rank k : Nat) (t : Team) : Prop where
  live : t.life = .live
  shape : t.gid = g.gid ∧ t.ctx = g.ctx ∧ t.idx = k ∧ t.lanes = g.lrec.lanes ∧ t.vregs = g.lrec.regs
  pc : t.pc = BitVec.ofNat 64 g.lrec.addr
  coords : sget 0 0 t.s = BitVec.ofNat 64 (blockXYZ g.lrec rank).1 ∧ sget 0 1 t.s = BitVec.ofNat 64 (blockXYZ g.lrec rank).2.1 ∧
    sget 0 2 t.s = BitVec.ofNat 64 (blockXYZ g.lrec rank).2.2
  index : sget 0 3 t.s = BitVec.ofNat 64 k
  extents : sget 0 4 t.s = BitVec.ofNat 64 g.lrec.extX ∧
    sget 0 5 t.s = BitVec.ofNat 64 (g.lrec.extY + 2 ^ 32 * g.lrec.extZ)
  args : sget 0 6 t.s = g.lrec.args ∧ sget 0 7 t.s = BitVec.ofNat 64 g.lid
  zeros : ∀ n, 8 ≤ n → sget 0 n t.s = 0
  lane : ∀ l, l < g.lrec.lanes → sget 0 l t.v = BitVec.ofNat 32 l
  vzeros : ∀ n l, 1 ≤ n → l < 1024 → sget 0 (1024 * n + l) t.v = 0
  preds : ∀ n, sget 0 n t.p = 0
  xlates : ∀ n, sget {} n t.m = {}
  mode : t.mode = 0
  mask : ∀ l, l < 1024 → t.mask.getLsbD l = Decidable.decide (l < g.lrec.lanes)
  stack : t.stack = []
  flags : t.infl = [] ∧ t.log = []
  phase : t.ph.on = false ∧ t.phmargin = 4
  seed : t.srng = (let x := g.lrec.seed ^^^ BitVec.ofNat 32 (globalIndex g.lrec rank k)
                   if x = 0 then 0x5EED0001 else x)
  depth : t.depth = g.depth

/-- Of the cores that satisfy p, c has the fewest resident teams, and is the lowest of those (R389). -/
def leastCore (s : State) (p : Nat → Prop) (c : Nat) : Prop :=
  p c ∧ ∀ x, p x → s.nTeams [c] < s.nTeams [x] ∨ (s.nTeams [c] = s.nTeams [x] ∧ c ≤ x)

/-- The cores of a gang's blocks of rank k on, in rank order, drawn from those that satisfy f: each the least of the eligible
ones, with the blocks before it in place (R390). -/
def gangCores (g : Grid) (f : Nat → Bool) : List Nat → Nat → State → Prop
  | [], k, _ => k = g.lrec.nBlocks
  | c :: r, k, s =>
    leastCore s (fun x => x < 640 ∧ f x = true ∧ s.eligible x g.gid g.lrec k g.lrec.teams = true) c ∧
      gangCores g f r (k + 1) (s.putNew g k c)

/-- The scopes of a gang's class: how many, the cores of scope n, and which is tried first (R390). -/
def nScopes (lclass : Nat) : Nat := if lclass = 0 then 160 else if lclass = 1 then 8 else 1
def scopeHas (lclass n core : Nat) : Bool := if lclass = 0 then core / 4 == n else if lclass = 1 then core / 80 == n else true
def scopeFirst (s : State) (lclass n m : Nat) : Prop :=
  if lclass = 1 then
    s.nTeams (towerCores n) < s.nTeams (towerCores m) ∨ (s.nTeams (towerCores n) = s.nTeams (towerCores m) ∧ n < m)
  else n < m

/-- The grid may enter Running: room for its work lists, and its Cupboard image in a sealed range (R59, R383, R384). -/
def mayRun (s : State) (g : Grid) : Prop :=
  (g.lrec.wlcnt = 0 ∨ s.poolRoom g = true) ∧
    (g.lrec.cupSize = 0 ∨ (s.imageEnds g = none ∧ (s.imageSeal g).isSome = true))

/-- The grid descends from another, at most n launches deep. -/
def descendsFrom (s : State) (anc : Nat) : Nat → Grid → Prop
  | 0, _ => False
  | n + 1, g => ∃ p, g.parent = some p ∧ (p = anc ∨ ∃ h, s.grid? p = some h ∧ descendsFrom s anc n h)

/-- The lane cycle order in which a unit became resident, by its latest block. -/
def unitAge (u : List Block) : Nat := u.foldl (fun m b => max m b.order) 0

/-- A unit of grid g whose every team waits in CWAIT, and that waits for no fill's reply (R403, R412). -/
def waitsForChild (s : State) (g : Grid) (u : List Block) : Prop :=
  (∃ b ∈ s.blocks, b.gid = g.gid ∧ b.life = .resident ∧ u = s.unitOf b) ∧ s.fillHeld u = false ∧
    (∃ t ∈ s.teams, t.life = .live ∧ ∃ b ∈ u, b.bid = t.bid) ∧
    ∀ t ∈ s.teams, t.life = .live → (∃ b ∈ u, b.bid = t.bid) → t.wait = .cwait

/-! ### Refusal of a launch record (R384) -/

/-- Check c of a launch record fails; host holds the launch id and the header's CTX of a LAUNCH message (R379, R382, R383). -/
def failsCheck (s : State) (r : LaunchRec) (host : Option (Nat × Nat)) (c : Nat) : Bool :=
  let entry (hi lo : Nat) : Nat := bits r.entry.toNat hi lo
  let cup (hi lo : Nat) : Nat := bits r.cupimg.toNat hi lo
  let shape (hi lo : Nat) : Nat := bits r.shape.toNat hi lo
  let mem (hi lo : Nat) : Nat := bits r.mem.toNat hi lo
  let up (q : Nat) : Nat := ((List.range 4).filter fun i => !(s.core (4 * q + i)).fenced).length
  match c with
  | 1 => entry 6 6 ≠ 0 || cup 11 11 ≠ 0 || (cup 6 0 = 0 && cup 63 12 ≠ 0)
  | 2 => 2 ^ 32 < (bits r.grid.toNat 31 0 + 1) * (bits r.grid.toNat 47 32 + 1) * (bits r.grid.toNat 63 48 + 1)
  | 3 => 32 < shape 24 19 || 8 < cup 10 7 || shape 26 25 = 3 || 16 < shape 31 27 || entry 2 1 = 3 ||
      (entry 2 1 ≠ 0 && entry 0 0 = 0)
  | 4 => 2 * 2 ^ 20 < (shape 13 10 + 1) * ((shape 9 0 + 1 + 31) / 32) * (shape 18 14 + 1) * 1024 || 256 < mem 8 0
  | 5 => 64 < cup 6 0
  | 6 => 64 < mem 15 9 || (0 < mem 15 9 && mem 31 16 = 0)
  | 7 => entry 0 0 = 1 && !s.gangFits r
  | 8 => (entry 2 1 = 2 && !s.feature 2) || (entry 3 3 = 1 && !s.feature 3) || (host.isNone && !s.feature 1)
  | 9 => host.any fun h => (s.slotOf h.2).isNone || s.ctxEnding h.2 || bits r.handctx.toNat 7 0 ≠ h.2
  | 10 => (0 < shape 31 27 && (List.range 160).all fun q => up q ≠ 4) ||
      (shape 26 25 = 1 && (List.range 160).all fun q => up q < 2) || (shape 26 25 = 2 && (List.range 160).all fun q => up q < 4)
  | 11 => host.any fun h => h.1 = 0 || 2 ^ 31 ≤ h.1 || s.grids.any fun g => g.ctx = h.2 && g.lid = h.1 && g.st ≠ .complete
  | _ => false

/-- The record is refused with code c: the first check that fails; or with none. -/
def refusedWith (s : State) (r : LaunchRec) (host : Option (Nat × Nat)) (c : Nat) : Prop :=
  failsCheck s r host c = true ∧ ∀ k, k < c → failsCheck s r host k = false
def accepted (s : State) (r : LaunchRec) (host : Option (Nat × Nat)) : Prop := ∀ k, failsCheck s r host k = false

/-- The machine with no work resident. -/
def idle (s : State) : State := { s with t := {}, others := [], blocks := [], grids := [], quads := [] }

/-! ### Row bounds (R142 to R149) -/

/-- Rounded once to FP32 towards +∞, as a value (R142). -/
def upTo (x : Ex) : Ex := boundEx (boundUp x)

/-- A sum of R146: from +0, each addition rounded towards +∞. -/
def upSum (l : List Ex) : Ex := l.foldl (fun acc x => upTo (bAdd [acc, x])) (.zero false)

/-- Half of the value under RNE and RNA, all of it under the other modes (R143). -/
def rhoOf (rnd : Nat) (x : Ex) : Ex := if rnd = 0 ∨ rnd = 4 then x.scale (-1) else x

/-- The values of the columns below N of row i of a group's tile, by the accumulate type (R137, R149). -/
def tileVals (q : Quad) (m : MOp) (i : Nat) : List Ex :=
  ((q.accRow m.key.gid (mACC m.mode) (m.tile m.group) i).take (mmN m.lit)).map fun x =>
    if mACC m.mode = 0 then Fmt.fp32.dec x else if mACC m.mode = 1 then Fmt.fp64.dec x else Ex.ofInt (etInt 13 x)

/-- The bound b of row i of a group's tile; and its bound b once an error of at most t has come to it, none where an element is
not finite (R142, R143). -/
def rowBound (q : Quad) (m : MOp) (i : Nat) : Word := q.bound m.key.gid (m.tile m.group) i
def boundPlus (b : Word) (t : Ex) : Word := boundUp (bAdd [boundEx b, t])

/-- What a pass whose rounded values are these adds to a row bound (R142, R143). -/
def passAdds (f : Fmt) (rnd : Nat) (b : Word) (vals : List Nat) : Word :=
  if (vals.map f.dec).all Ex.isFin then boundPlus b (rhoOf rnd (bMax ((vals.map f.dec).map f.ulp))) else boundInf

/-- The exact sum of an INT32 element and the products of a step (R136, R144). -/
def intSum (m : MOp) (old : Nat) (a : List Elem) (b : List (List Elem)) (j : Nat) : Int :=
  (List.zip a b).foldl (fun acc x =>
    let y := x.2.getD j ⟨false, 0, 127⟩
    if x.1.st && y.st then acc + etInt (mET m.mode) x.1.raw * etInt (mET m.mode) y.raw else acc) (etInt 13 old)

/-- The magnitude of an operand's element as given (R146); a sparse operation sums over stored entries (R157). -/
def magOf (m : MOp) (e : Elem) : Ex := if e.st then (e.val (mET m.mode)).abs else .zero false

/-- P_i of R146, from row i of A and its bound, the rows of B and theirs. -/
def propTerm (m : MOp) (a : List Elem) (da : Word) (b : List (List Elem)) (db : List Word) : Ex :=
  let cols := (List.range (mmN m.lit)).map fun j => upSum (b.map fun row => magOf m (row.getD j ⟨false, 0, 127⟩))
  let rows := ((List.zip a db).filter fun x => x.1.st || m.op != 0xF0).map fun x => upTo (bMul (magOf m x.1) (boundEx x.2))
  upTo (bAdd [upTo (bMul (boundEx da) (bMax cols)), upSum rows])

/-- Row i fails the threshold test: b_i > 2^h × max(max |a_ij|, λ), unless an element is not finite (R149). -/
def failsTest (q : Quad) (m : MOp) (i : Nat) : Prop :=
  let lam : Ex := .fin false 1 (if mACC m.mode = 0 then -126 else if mACC m.mode = 1 then -1022 else 0) false
  i < m.rows m.group ∧ (∀ v ∈ tileVals q m i, v.isFin = true) ∧
    ((bMax (lam :: (tileVals q m i).map Ex.abs)).scale (BitVec.ofNat 8 m.bthr.toNat).toInt).lt
      (boundEx (q.bound m.key.gid (m.tile m.group) i)) = true

/-! ### The end of a context (R408) -/

/-- The status with which the context of a slot ends once another event gives it this one: the first event's, and of events
in one fabric cycle the lowest. -/
def endsWith (s : State) (n st : Nat) : Nat :=
  match (s.slot n).ending with
  | none => st
  | some old => if (s.slot n).endAt = s.fab then min st old else old

/-! ### Messages (R373 to R378) -/

/-- The host message being taken is of row i, in sequence and well formed, and the link is up with its selection locked
(R374, R375, R377). -/
structure Arrives (s : State) (i : Instr) : Prop where
  up : s.link.up = true
  locked : s.link.locked = true
  row : decodeMsg s.link.rx = i
  seq : s.link.rx.seq.toNat = s.link.rxseq
  form : msgFormOk s.link.rx = true

/-- The link has counted the message being taken. -/
def heard (s : State) : State :=
  { s with link := { s.link with rxseq := (s.link.rxseq + 1) % 2 ^ 32, blocked := false } }

/-- STATUS and the seven zero bytes after it (R376). -/
def statusBytes (n : Nat) : List Byte := BitVec.ofNat 8 n :: List.replicate 7 0

/-- The payload of ERROR: SEQ of the message refused, reason, SEQ expected next (R374). -/
def errorBytes (seq reason next : Nat) : List Byte :=
  leBytes 4 seq ++ [BitVec.ofNat 8 reason, 0, 0, 0] ++ leBytes 4 next ++ [0, 0, 0, 0]

/-- No held LAUNCH has been judged any more; and the message being taken, counted and over (R384, R387). -/
def fresh (s : State) : State := { s with link := { s.link with judged := false } }
def taken (s : State) : State := fresh (heard s)

/-- No store of any team may still read its source late (R170). -/
def settled (s : State) : Prop := ∀ t ∈ s.t :: s.others, ∀ f ∈ t.infl, f.late = []

/-- A row of FP32 values that arrives for slot i of a stream, after the first: sums of what the slot holds and the row (R395). -/
def rowSums (x : Stream) (i : Nat) (row : List Word) : List Nat :=
  (List.range 128).map fun j => Fmt.fp32.round {} (Ex.sum 0
    [Fmt.fp32.dec (sget 0 (128 * i + j) x.rows).toNat, Fmt.fp32.dec (row.getD j 0).toNat])

/-- The slot's row once the row has arrived, and its bound: the row's own when it is the first, later the sum of both bounds
and half an ulp of the largest, or infinite where a sum is not finite (R156). -/
def joinedRow (x : Stream) (i : Nat) (row : List Word) : List Word :=
  if sget 0 i x.cnt = 0 then row else (rowSums x i row).map (BitVec.ofNat 32)
def joinedBound (x : Stream) (i : Nat) (row : List Word) (bound : Word) : Word :=
  let vals := (rowSums x i row).map Fmt.fp32.dec
  if sget 0 i x.cnt = 0 then bound
  else if vals.all Ex.isFin = false then boundInf
  else boundUp (bAdd [boundEx (sget 0 i x.bnd), boundEx bound, (bMax (vals.map Fmt.fp32.ulp)).scale (-1)])

/-- s answers the message being taken. -/
def answers (s : State) (typ ctx : Nat) (payload : List Byte) : State := s.send 0 typ ctx s.link.rx.tag.toNat payload

/-- The payload of COMPLETE (R391). -/
def completeBytes (lid status code tstart tend blocks : Nat) : List Byte :=
  leBytes 4 lid ++ [BitVec.ofNat 8 status, BitVec.ofNat 8 code, 0, 0] ++ leBytes 8 tstart ++ leBytes 8 tend ++
    leBytes 8 blocks

/-- The payload of SAVED (R410). -/
def savedBytes (kind result lid blocks teams bytes : Nat) : List Byte :=
  [BitVec.ofNat 8 kind, BitVec.ofNat 8 result, 0, 0] ++ leBytes 4 lid ++ leBytes 4 blocks ++ leBytes 4 teams ++
    leBytes 8 bytes

/-- An 8-byte write of register space at this offset with this value is being taken (R376, R380). -/
structure Writes (s : State) (i : Instr) (off v : Nat) : Prop where
  arrives : Arrives s i
  addr : s.link.rx.field 0 8 = 2 ^ 63 + off
  low : off < 2 ^ 44
  data : s.link.rx.field 8 8 = v

end Sys2Proof.Claims
end

