-- ==== Sys2Proof/Certificates/Slice0/Obligations.lean ====
section
/-! DEFINITION. What is claimed of the model, from the numbered rules of the spec. -/

open Sys2Proof Sys2Proof.Machine Sys2Proof.Claims

/-! ### Encoding -/

/-- R164, R165: every well-formed instruction, encoded and decoded, is itself, and takes its own number of words,
whatever words follow it. -/
def Obligations.DecodeOfEncode : Prop :=
  ∀ (i : Instr) (more : List Word), WellFormed i →
    (i.raw.isSome ∨ ∃ w, i = .reservedOpcode w ∧ formOf (opOf w) = none) →
    ∃ w ws, encode i = w :: ws ∧ decodeWords w (ws ++ more) = .ok (i, i.nWords)

/-- R164, R165: a word that decodes is the encoding of what it decodes to: no bit of it is dropped. -/
def Obligations.EncodeOfDecode : Prop :=
  ∀ (w : Word) (more : List Word) (i : Instr) (n : Nat),
    decodeWords w more = .ok (i, n) → encode i = w :: more.take (n - 1)

/-- R179: words written out from the opcode map decode to the instructions they stand for, one of each family. -/
def Obligations.DecodeExamples : Prop :=
  decodeWords 0x1005060A#32 [] = .ok (.sadd 5 6 10, 1) ∧
  decodeWords 0x03000601#32 [0x40#32] = .ok (.brs 6 1 0x40, 2) ∧
  decodeWords 0x30101112#32 [] = .ok (.vadd 16 17 18, 1) ∧
  decodeWords 0x5B202122#32 [] = .ok (.vfma 32 33 34, 1) ∧
  decodeWords 0xAA040534#32 [] = .ok (.vldn 4 5 4 3, 1) ∧
  decodeWords 0xB5000084#32 [] = .ok (.fence 0x84, 1) ∧
  decodeWords 0xE0020406#32 [0x0F000000#32] = .ok (.cpy 2 4 6 0x0F000000, 2) ∧
  decodeWords 0xEF010203#32 [0#32] = .ok (.mmj 1 2 3 0, 2) ∧
  decodeWords 0x22070001#32 [1#32, 2#32] = .ok (.smovl 7 1 (some 2), 3) ∧
  decodeWords 0xFF000000#32 [] = .ok (.reservedOpcode 0xFF000000, 1)

/-! ### The machine as a whole -/

/-- Right after reset local memory reads zero everywhere and is in its canonical form, no context slot is active, the
link is down and unlocked, and TIMEBASE is 0 (R202, R377, R397, R426). What every step keeps holds then. -/
def Obligations.ResetState : Prop :=
  State.reset.Sound ∧ State.reset.LinkOk ∧ State.reset.CtxsOk ∧ State.reset.HandlesOk ∧
  (∀ a, State.reset.byte a = 0) ∧ (∀ n, (State.reset.slot n).act = false) ∧
  State.reset.link.up = false ∧ State.reset.link.locked = false ∧ State.reset.pkg.clk = 0

/-- Every step keeps the canonical form of local memory, and the 16 context slots. -/
def Obligations.StepKeepsSound : Prop :=
  ∀ s u : State, s.Sound → step s = .next u → u.Sound

/-- Where the next word of a team that may issue (R32) decodes to a well-formed instruction, the step that takes its turn is
exec of that instruction at the state that the fetch has left; of a team whose slot chooses another, the turn passes. Once the number of the step has risen and time has passed, that state is
the machine as it was, but for the phase table of the line in the clause's state, for what caches and translation buffers
hold, and, where the word is the first of its clause, for the team's place, which is past the header.

What the front of an issue runs is what the decoder reads from the words at pc: within a clause, with the flags of its
header usable, its literals within it and a control transfer last (R166, R168, R181). Where it reads literals, they are the
words that follow. Landing on a header whose flags are clear goes on to the clause's first word (R167, R170). The first word
of the next line is not fetched before an acquire of the team is done (R350).

No step is refused, and the one fault is that of R433: every clock has stopped and nothing outside is waiting. -/
def Obligations.StepRunsDecoded : Prop :=
  (∀ (s s1 : State) (i : Instr) (tid : Nat) (rest : List Act),
     s.clocked = true → s.acts = .issue tid :: rest →
     (s.tick.selectable tid = true → ({ s.tick with acts := rest }.select tid).front = .go i s1 → step s = exec i s1) ∧
     (s.tick.selectable tid = false → step s = .next { s.tick with acts := rest })) ∧
  (∀ (s : State) (slot : Nat) (w : Word) (ls : List Word) (il : Bool) (pt k : Nat) (i : Instr) (f : Form) (n : Nat),
     settled s →
     s.slotOf s.t.ctx = some slot → s.runs s.t = true → s.phaseOver s.t = false → s.t.wait = .none → s.t.dec = [] →
     s.t.pendB = [] → s.t.cl.idx ≠ 0 → hSETA s.t.cl.hdr ∉ [12, 13, 14] →
     hSETB s.t.cl.hdr ∉ [12, 13, 14] → s.acquiring = false ∨ s.t.pc.toNat % 128 ≠ 0 →
     s.fetchLine slot s.t.pc.toNat = .line ls il pt k →
     w = ls.getD (s.t.pc.toNat / 4 % 32) 0 → formOf (opOf w) = some f → f.nLits (bOf w) = 0 →
     s.t.cl.idx ≤ hLEN s.t.cl.hdr → (f.ctl = true → s.t.cl.idx = hLEN s.t.cl.hdr) → decodeWords w [] = .ok (i, n) →
     ∃ s1, s.front = .go i s1 ∧ s.SlotsKept s1 ∧
       s1 = { s with t := { s.t with cl := { s.t.cl with ptab := pt } }, ctxs := s1.ctxs, caches := s1.caches }) ∧
  (∀ (s s1 s3 : State) (slot : Nat) (w : Word) (ls : List Word) (il : Bool) (pt : Nat) (i : Instr) (f : Form) (n : Nat),
     s.slotOf s.t.ctx = some slot → s.runs s.t = true → s.phaseOver s.t = false → s.t.wait = .none → s.t.dec = [] →
     s.t.pendB = [] → s.t.cl.idx ≠ 0 → hSETA s.t.cl.hdr ∉ [12, 13, 14] → hSETB s.t.cl.hdr ∉ [12, 13, 14] →
     s.wordAt slot s.t.pc.toNat s.t.cl.idx = .ok w il pt s1 → formOf (opOf w) = some f →
     s.t.cl.idx + f.nLits (bOf w) ≤ hLEN s.t.cl.hdr →
     (f.ctl = true → s.t.cl.idx + f.nLits (bOf w) = hLEN s.t.cl.hdr) →
     ({ s1 with t := { s1.t with cl := { s1.t.cl with ptab := pt } } }).litsAt slot (f.nLits (bOf w))
       (s.t.pc.toNat + 4) (s.t.cl.idx + 1) [] = .inl (ls, s3) →
     decodeWords w ls = .ok (i, n) → s.front = .go i s3 ∧ (settled s → s.SlotsKept s3 ∧
       s3 = { s with t := { s.t with cl := { s.t.cl with ptab := pt } }, ctxs := s3.ctxs, caches := s3.caches })) ∧
  (∀ (s s1 : State) (slot : Nat) (h : Word) (il : Bool) (pt : Nat),
     s.slotOf s.t.ctx = some slot → s.runs s.t = true → s.phaseOver s.t = false → s.t.wait = .none → s.t.dec = [] →
     s.t.pendB = [] → s.t.cl.idx = 0 → s.t.pc.toNat % 4 = 0 → s.wordAt slot s.t.pc.toNat 0 = .ok h il pt s1 →
     headerOk h = true → il = s.t.cl.intlk →
     let t2 := { s1.t with cl := { hdr := h, idx := 1, aused := false, arr := false, intlk := il, ptab := pt }
                           pc := s1.t.pc + 4, clno := s1.t.clmax + 1, clmax := s1.t.clmax + 1, landing := 0
                           cyc := s.t.cyc, recent := s.t.recent }
     ((il = true ∨ t2.waitClear = true) → s.front = ({ s1 with t := t2 }).frontWord slot) ∧
     (settled s → s.SlotsKept s1 ∧ s1 = { s with ctxs := s1.ctxs, caches := s1.caches })) ∧
  (∀ (s : State) (slot : Nat), s.slotOf s.t.ctx = some slot → s.runs s.t = true → s.phaseOver s.t = false →
     s.t.wait = .none → s.t.dec = [] → s.t.pendB = [] → s.t.cl.idx ≠ 0 → s.t.pc.toNat % 128 = 0 → s.acquiring = true →
     s.front = .stay (s.hold .other)) ∧
  (∀ s : State, (∀ r, step s ≠ .refused r) ∧
    ∀ f, step s = .fault f → f = .clocksStopped ∧ s.pkg.tripped = true ∧ s.acts = [])

/-- Every step keeps what the machine's own numbers and slots need: the link's counts and tags stay below 2^32 (R373,
R375); no context is active in two slots, and only an active one is suspended or about to end (R396, R397, R407, R412);
the handles of resident blocks and of evicted units stay below the next one to be given (R411, R421). -/
def Obligations.StepKeepsLinkAndContexts : Prop :=
  ∀ s u : State, step s = .next u →
    (s.LinkOk → u.LinkOk) ∧ (s.CtxsOk → u.CtxsOk) ∧ (s.HandlesOk → u.HandlesOk)

/-- R31, R38, R171: an instruction that is held back changes nothing: its team stays where it is, and one that waits in a
CMPCT goes on waiting there. What stops it is a condition of R31, and the team waits, or R38 alone, and it is held (R46).

R181: no instruction acts before its checks: one that fails takes its trap and does nothing else.

R162: a field outside its class is Illegal-Instruction: of every instruction the word alone condemns, the check
says so.

R170: a read of a scalar register returns what it holds, or a value it held before a write still outstanding. -/
def Obligations.IssueOrder : Prop :=
  (∀ (i : Instr) (s : State) (w : Wait), i.raw.isSome → s.blocked i = some w →
     exec i s = .next (s.hold (if s.t.appending then s.t.wait else w))) ∧
  (∀ (i : Instr) (s : State), (s.blocked i = none ∨ s.blocked i = some .held ∨ s.blocked i = some .other) ∧
     (s.stopped i = true → s.t.appending = false → s.blocked i ≠ none ∧
       (s.t.dec = [] → s.ctxEnding s.t.ctx = false → (isMemory i = true → s.acquiring = false ∧ s.destUnknown = false) →
         s.interlocked i = false → (∀ f, i.attaches = true → s.t.nextFlag = some f → s.t.flagCount f < 63) →
         s.blocked i = some .held))) ∧
  (∀ (i : Instr) (s : State) (c : Chk), i.raw.isSome → s.blocked i = none → s.checks i = some c →
     exec i s = .next (s.chkRaise i c)) ∧
  (∀ (i : Instr) (s : State), i.wf = false → s.checks i = some .ill) ∧
  (∀ (s : State) (n : Nat), s.rs n = s.sReg n ∨ s.rs n ∈ oldS n s.t.hazards)

/-! ### Traps -/

/-- R214: entry to a trap of the instruction at pc saves TEPC, TMODE, TCLAUSE, TLANE, TSECOND and FREC, sets HND and the
code, clears MODE and goes on at the handler.

R217, R408: a trap whose team is already in a handler ends the context with 0x20 plus its code; one without a handler
ends it with the code.

R206: of several causes decided together the lowest code wins, and TSECOND has the bit of every other. -/
def Obligations.TrapsAreEntered : Prop :=
  (∀ (w : Word) (s : State), s.Clear → s.t.pendB = [] → s.t.hnd = false → s.t.tvec.toNat % 2 = 1 →
     ∃ u, exec (.reservedOpcode w) s = .next u ∧
       u.t.tcause = 0x80000002 ∧ u.t.tepc = s.t.pc &&& ~~~(3#64) ∧ u.t.frec = w.setWidth 64 ∧
       u.t.tlane = 0 ∧ u.t.tsecond = 0 ∧ u.t.tmode = s.t.mode ∧ u.t.tclause = s.t.cl.toDWord ∧
       u.t.mode = 0 ∧ u.t.pc = s.t.tvec &&& ~~~(127#64) ∧ u.t.cl.idx = 0 ∧
       (∀ n, u.sReg n = s.sReg n) ∧ (∀ n l, u.vReg n l = s.vReg n l) ∧ (∀ n, u.pReg n = s.pReg n) ∧
       (∀ n, u.mReg n = s.mReg n) ∧ u.t.mask = s.t.mask ∧ u.t.stack = s.t.stack ∧ u.mem = s.mem ∧ u.others = s.others) ∧
  (∀ (w : Word) (s : State), s.Clear → s.t.pendB = [] → (s.t.hnd = true ∨ s.t.tvec.toNat % 2 = 0) →
     ∃ u, exec (.reservedOpcode w) s = .next u ∧ u.mem = s.mem ∧
       ((s.slotOf s.t.ctx).isSome = true → (u.ctxOf s.t.ctx).ending = some (if s.t.hnd then 0x22 else 2))) ∧
  (∀ (l : List Dec) (w : Dec), decWinner l = some w →
     w ∈ l ∧ (∀ d ∈ l, w.cause ≤ d.cause) ∧
     ∀ c, c < 32 → ((tsecondOf l w).getLsbD c = true ↔ ∃ d ∈ l.erase w, d.cause = c))

/-- R215: TRAP is entered with code 15, its immediate in FREC, and TEPC at the header after its clause. R217, R408: with a
handler running it ends the context with 0x2F, and without one with 0x0F.

R216: ERET in a handler restores MODE from TMODE, clears HND, goes on at TEPC, and takes up the clause that TCLAUSE
holds; it changes no register, no mask and no byte of memory.

R216: ERET outside a handler is Illegal-Instruction, and so is one whose TCLAUSE.IDX is beyond LEN; one with an ill-formed
TMODE is Illegal-Mode.

That TRAP and ERET read the header at TEPC first, and wait for one that comes from the system window, is log 22. -/
def Obligations.TrapAndEret : Prop :=
  (∀ (b : Nat) (s : State), s.Clear → s.checks (.trap b) = none → s.t.pendB = [] →
     s.peekRuns (mySlot s) s.t.nextHdr.toNat = [] →
     (s.t.hnd = false → s.t.tvec.toNat % 2 = 1 →
       encode (.trap b) = [BitVec.ofNat 32 (0x0E000000 + b)] ∧
       ∃ u, exec (.trap b) s = .next u ∧ u.t.tcause = 0x8000000F ∧ u.t.frec = BitVec.ofNat 64 b ∧
         bits u.t.tclause.toNat 35 32 = 0 ∧
         u.t.tepc = s.t.nextHdr &&& ~~~(3#64) ∧ u.t.tmode = s.t.mode ∧ u.t.mode = 0 ∧ u.t.tlane = 0 ∧ u.t.tsecond = 0 ∧
         u.t.pc = s.t.tvec &&& ~~~(127#64) ∧ (∀ n, u.sReg n = s.sReg n) ∧ u.mem = s.mem) ∧
     (s.t.hnd = true ∨ s.t.tvec.toNat % 2 = 0 →
       ∃ u, exec (.trap b) s = .next u ∧ u.mem = s.mem ∧ (∀ n, u.sReg n = s.sReg n) ∧
         ((s.slotOf s.t.ctx).isSome = true →
           (u.ctxOf s.t.ctx).ending = some (if s.t.hnd then 0x2F else 0x0F)))) ∧
  (∀ s : State, s.Clear → s.checks .eret = none → s.t.hnd = true → modeOk s.t.tmode = true →
     (bits s.t.tclause.toNat 35 32 ≠ 0 → bits s.t.tclause.toNat 35 32 ≤ bits s.t.tclause.toNat 31 28 ∧
       s.peekRuns (mySlot s) (s.t.tepc - BitVec.ofNat 64 (4 * bits s.t.tclause.toNat 35 32)).toNat = []) →
     ∃ u, exec .eret s = .next u ∧ u.t.mode = s.t.tmode ∧ u.t.tcause = s.t.tcause &&& 0x7FFFFFFF ∧ u.t.pc = s.t.tepc ∧
       u.t.cl.idx = bits s.t.tclause.toNat 35 32 ∧
       (bits s.t.tclause.toNat 35 32 ≠ 0 → u.t.cl.hdr.toNat = bits s.t.tclause.toNat 31 0 ∧
         u.t.cl.aused = (bits s.t.tclause.toNat 36 36 == 1) ∧ u.t.cl.arr = (bits s.t.tclause.toNat 37 37 == 1)) ∧
       u = { s with t := { s.t.placeOf u.t with mode := u.t.mode, tcause := u.t.tcause, clno := u.t.clno } }) ∧
  (∀ s : State, s.Clear → s.checks .eret = none →
     (s.t.hnd = false → exec .eret s = .next (s.illegal Instr.eret.word)) ∧
     (s.t.hnd = true → modeOk s.t.tmode = false → exec .eret s = .next (s.illegalMode Instr.eret.word s.t.tmode)) ∧
     (s.t.hnd = true → modeOk s.t.tmode = true → bits s.t.tclause.toNat 35 32 ≠ 0 →
       bits s.t.tclause.toNat 31 28 < bits s.t.tclause.toNat 35 32 →
       exec .eret s = .next (s.illegal Instr.eret.word)))

/-! ### Control and scalar instructions -/

/-- R195 to R199: every scalar arithmetic instruction writes its exact result, wrapped to 64 bits, to s_d and nothing
else. -/
def Obligations.ScalarResults : Prop :=
  ∀ (i : Instr) (s : State) (d : Nat) (x : DWord), s.Clear → s.checks i = none → scalarOut s i = some (d, x) →
    ∃ u, exec i s = .next u ∧ u.sReg d = x ∧ s.KeepsS u [d] ∧ s.Past u i.nWords ∧ s.OnlyS u

/-- R182: NOP does nothing but go past its word.

R177: SETM and SETMK put the new value in MODE when it is well formed; else they trap and MODE stays.

R192: EXIT, with the operand log free and nothing outstanding, ends the team: it is exited, its phase timer is off,
its registers are freed, and memory stays. -/
def Obligations.NopModeExit : Prop :=
  (∀ s : State, s.Clear → ∃ u, exec .nop s = .next u ∧ s.Past u 1 ∧ s.OnlyPlace u) ∧
  (∀ (i : Instr) (s : State) (new : Word), s.Clear →
     (i = .setm new ∨ ∃ l l2, i = .setmk l l2 ∧ new = (s.t.mode &&& ~~~l2) ||| (l &&& l2)) →
     (modeWords new → ∃ u, exec i s = .next u ∧ u.t.mode = new ∧ s.Past u i.nWords ∧
        u = { s with t := { s.t.placeOf u.t with mode := new } }) ∧
     (¬modeWords new → exec i s = .next (s.illegalMode i.word new))) ∧
  (∀ s : State, s.Clear →
     ∃ u, exec .exit s = .next u ∧ u.t.tid = s.t.tid ∧ u.t.life = .exited ∧ u.t.ph.on = false ∧
       u.t.s = [] ∧ u.t.v = [] ∧ u.t.p = [] ∧ u.t.m = [] ∧ u.mem = s.mem)

/-- R184: BRA, BRS and BRV go to their target when their condition holds and else to the next header, and change
neither the active mask nor any register. -/
def Obligations.BranchesGo : Prop :=
  ∀ (i : Instr) (s : State) (l : Word) (taken : Prop), s.Clear → s.checks i = none →
    ((i = .bra l ∧ taken = True) ∨
     (∃ a b, i = .brs a b l ∧ taken = brsTaken b (s.sReg a).toInt) ∨
     (∃ a, i = .brv a 0 l ∧ taken = ∃ n, n < s.t.lanes ∧ s.t.mask.getLsbD n ∧ (s.pReg a).getLsbD n) ∨
     (∃ a, i = .brv a 1 l ∧ taken = ∀ n, n < s.t.lanes → s.t.mask.getLsbD n → (s.pReg a).getLsbD n) ∨
     (∃ a, i = .brv a 2 l ∧ taken = ¬∃ n, n < s.t.lanes ∧ s.t.mask.getLsbD n ∧ (s.pReg a).getLsbD n)) →
    ∃ u, exec i s = .next u ∧ (taken → u.t.pc = s.t.hdrAddr + l.signExtend 64) ∧
      (¬taken → u.t.pc = s.t.hdrAddr + BitVec.ofNat 64 (4 * (hLEN s.t.cl.hdr + 1))) ∧ u.t.cl.idx = 0 ∧ s.OnlyPlace u

/-- R185: BRP splits the lanes that are set in the mask and present: all fall through, all go, or the fall-through path is
pushed and the others go; a full stack is Divergence-Depth.

R186: MARK pushes the rejoin point with mask and MODE; a full stack is Divergence-Depth.

R187: JOIN pops an entry and takes its mask, MODE and address; an empty stack is Illegal-Instruction. -/
def Obligations.StackControl : Prop :=
  (∀ (a : Nat) (l : Word) (s : State) (tk ft : Lanes), s.Clear → s.checks (.brp a l) = none →
     tk = (s.t.mask &&& s.t.present) &&& s.pReg a → ft = (s.t.mask &&& s.t.present) &&& ~~~s.pReg a →
     (tk = 0 → ∃ u, exec (.brp a l) s = .next u ∧ u.t.pc = s.t.nextHdr ∧ s.OnlyPlace u) ∧
     (tk ≠ 0 → ft = 0 → ∃ u, exec (.brp a l) s = .next u ∧ u.t.pc = s.t.target l ∧ s.OnlyPlace u) ∧
     (tk ≠ 0 → ft ≠ 0 → s.t.stack.length < 16 → ∃ u, exec (.brp a l) s = .next u ∧ u.t.pc = s.t.target l ∧
       u.t.mask = tk ∧ u.t.stack = ⟨true, s.t.nextHdr, ft, s.t.mode⟩ :: s.t.stack ∧
       u = { s with t := { s.t.placeOf u.t with mask := u.t.mask, stack := u.t.stack } }) ∧
     (tk ≠ 0 → ft ≠ 0 → 16 ≤ s.t.stack.length → exec (.brp a l) s = .next (s.raise 14 (s.t.target l)))) ∧
  (∀ (l : Word) (s : State), s.Clear →
     (s.t.stack.length < 16 → ∃ u, exec (.mark l) s = .next u ∧ s.Past u 2 ∧
       u.t.stack = ⟨false, s.t.target l, s.t.mask, s.t.mode⟩ :: s.t.stack ∧
       u = { s with t := { s.t.placeOf u.t with stack := u.t.stack } }) ∧
     (16 ≤ s.t.stack.length → exec (.mark l) s = .next (s.raise 14 (s.t.target l)))) ∧
  (∀ s : State, s.Clear →
     (∀ e r, s.t.stack = e :: r → ∃ u, exec .join s = .next u ∧ u.t.pc = e.addr ∧ u.t.mask = e.mask ∧
       u.t.mode = e.mode ∧ u.t.stack = r ∧ u.t.cl.idx = 0 ∧
       u = { s with t := { s.t.placeOf u.t with mask := u.t.mask, mode := u.t.mode, stack := u.t.stack } }) ∧
     (s.t.stack = [] → exec .join s = .next (s.illegal Instr.join.word)))

/-- R189: CALL and CALLI write the address of the next header to s_d; CALLI, RET and JMPI go to the address in a register,
read before s_d is written.

R190: LOOP counts s_a down and goes to its target until the count is zero; a count of zero falls through. -/
def Obligations.CallsAndLoops : Prop :=
  (∀ (d a : Nat) (l : Word) (s : State), s.Clear →
     (s.checks (.call d l) = none → ∃ u, exec (.call d l) s = .next u ∧ u.sReg d = s.t.nextHdr ∧ s.KeepsS u [d] ∧
       u.t.pc = s.t.target l ∧ u.t.cl.idx = 0 ∧ s.OnlyS u) ∧
     (s.checks (.calli d a) = none → ∃ u, exec (.calli d a) s = .next u ∧ u.sReg d = s.t.nextHdr ∧ s.KeepsS u [d] ∧
       u.t.pc = s.sReg a ∧ u.t.cl.idx = 0 ∧ s.OnlyS u) ∧
     (s.checks (.ret a) = none → ∃ u, exec (.ret a) s = .next u ∧ u.t.pc = s.sReg a ∧ u.t.cl.idx = 0 ∧ s.OnlyPlace u) ∧
     (s.checks (.jmpi a) = none → ∃ u, exec (.jmpi a) s = .next u ∧ u.t.pc = s.sReg a ∧ u.t.cl.idx = 0 ∧ s.OnlyPlace u)) ∧
  (∀ (a : Nat) (l : Word) (s : State), s.Clear → s.checks (.loop a l) = none →
     ∃ u, exec (.loop a l) s = .next u ∧ u.t.cl.idx = 0 ∧ s.KeepsS u [a] ∧ s.OnlyS u ∧
       (s.sReg a = 0 → u.sReg a = 0 ∧ u.t.pc = s.t.nextHdr) ∧
       (s.sReg a ≠ 0 → u.sReg a = s.sReg a - 1 ∧
         u.t.pc = if s.sReg a = 1 then s.t.nextHdr else s.t.target l))

/-- R201: SRD reads a system register, zero-extended; R183 gives the numbers.

R201: SWR writes the fields of a system register that software may write (R43, R148, R209 to R213); MODE is checked as SETM
checks it, the stochastic seed is never zero (R121), and the read-only registers ignore the write. -/
def Obligations.SystemRegisters : Prop :=
  (∀ (d b : Nat) (s : State), s.Clear → s.checks (.srd d b) = none →
     ∃ u, exec (.srd d b) s = .next u ∧ s.KeepsS u [d] ∧ s.Past u 1 ∧ s.OnlyS u ∧
       (u.sReg d).toNat = [s.capDp.toNat, (s.capCore s.t.core).toNat, s.t.mode.toNat, s.t.bthr.toNat,
         s.t.phmargin.toNat, s.t.srng.toNat, s.t.depth % 2 ^ 64, s.pkg.clk.toNat, s.t.tvec.toNat, s.t.tcause.toNat,
         s.t.tepc.toNat, s.t.tlane.toNat, s.t.tsecond.toNat, s.t.frec.toNat, s.t.tmode.toNat, s.t.tclause.toNat,
         s.t.crew.toNat].getD b 0) ∧
  (∀ (a b : Nat) (s : State), s.Clear → s.checks (.swr a b) = none → b ≠ 2 →
     ∃ u, exec (.swr a b) s = .next u ∧ s.Past u 1 ∧
       u.t.bthr = (if b = 3 then (s.sReg a).setWidth 32 &&& 0x1FF else s.t.bthr) ∧
       u.t.phmargin = (if b = 4 then (s.sReg a).setWidth 32 &&& 0xF else s.t.phmargin) ∧
       u.t.srng = (if b = 5 then if (s.sReg a).setWidth 32 = 0#32 then 0x5EED0001 else (s.sReg a).setWidth 32
         else s.t.srng) ∧
       u.t.tvec = (if b = 8 then s.sReg a &&& ~~~(0x7E#64) else s.t.tvec) ∧
       u.t.tcause = (if b = 9 then (s.sReg a).setWidth 32 &&& 0x8000000F else s.t.tcause) ∧
       u.t.tepc = (if b = 10 then s.sReg a &&& ~~~(3#64) else s.t.tepc) ∧
       u.t.tlane = (if b = 11 then (s.sReg a).setWidth 32 &&& 0xC0003FFF else s.t.tlane) ∧
       u.t.tsecond = (if b = 12 then (s.sReg a).setWidth 32 &&& 0xFFFE else s.t.tsecond) ∧
       u.t.frec = (if b = 13 then s.sReg a else s.t.frec) ∧
       u.t.tmode = (if b = 14 then (s.sReg a).setWidth 32 else s.t.tmode) ∧
       u.t.tclause = (if b = 15 then s.sReg a &&& 0x3FFFFFFFFF else s.t.tclause) ∧
       u = { s with t := { s.t.placeOf u.t with
         bthr := u.t.bthr, phmargin := u.t.phmargin, srng := u.t.srng, tvec := u.t.tvec, tcause := u.t.tcause,
         tepc := u.t.tepc, tlane := u.t.tlane, tsecond := u.t.tsecond, frec := u.t.frec, tmode := u.t.tmode,
         tclause := u.t.tclause } }) ∧
  (∀ (a : Nat) (new : Word) (s : State), s.Clear → s.checks (.swr a 2) = none → new = (s.sReg a).setWidth 32 →
     (modeWords new → ∃ u, exec (.swr a 2) s = .next u ∧ u.t.mode = new ∧ s.Past u 1 ∧
       u = { s with t := { s.t.placeOf u.t with mode := new } }) ∧
     (¬modeWords new → exec (.swr a 2) s = .next (s.illegalMode (Instr.swr a 2).word new)))

/-- R41, R203: PHASE in a line without a phase table, or with an entry of zero, disables the timer; with another entry it
starts the phase with that expected count. An entry that cannot be read is a fault of the fetch (R191).

R52, R200: SXLATE of a pointer that lies in an enabled region completes: it puts region, address, and, where the page is
present, frame, limit and permissions in m_d, and else zeros; a pointer outside is Region-Violation with FREC the
pointer. -/
def Obligations.PhaseAndSxlate : Prop :=
  (∀ (b : Nat) (s : State), s.Clear → s.checks (.phase b) = none →
     (s.t.cl.ptab = 255 → ∃ u, exec (.phase b) s = .next u ∧ s.Past u 1 ∧ u.t.ph = ⟨false, b, 0, 0⟩ ∧
       u = { s with t := { s.t.placeOf u.t with ph := u.t.ph } }) ∧
     (∀ slot p, s.t.cl.ptab ≠ 255 → s.slotOf s.t.ctx = some slot →
       p = ptrAdd (s.slot slot).ptabbase.toNat (1024 * s.t.cl.ptab + 4 * b) →
       (∀ bs, (s.readItem slot 2 s.t.cl.ptab (4 * b) p 4).1 = .ok bs →
         ∃ u, exec (.phase b) s = .next u ∧ s.Past u 1 ∧ s.SlotsKept u ∧ u.mem = s.mem ∧
           (settled s → u = { s with t := u.t, ctxs := u.ctxs, caches := u.caches }) ∧
           u.t = { s.t.placeOf u.t with ph := if leNat bs = 0 then ⟨false, b, 0, 0⟩ else ⟨true, b, leNat bs, 0⟩ }) ∧
       (∀ c x, (s.readItem slot 2 s.t.cl.ptab (4 * b) p 4).1 = .fault c x →
         exec (.phase b) s = .next (s.fetchFault slot s.t.pc.toNat c x s.t.cl.idx)))) ∧
  (∀ (d a slot va : Nat) (s : State), s.Clear → s.checks (.sxlate d a) = none → s.slotOf s.t.ctx = some slot →
     va = (s.sReg a).toNat % 2 ^ 56 →
     (∀ e, s.region? slot ((s.sReg a).toNat / 2 ^ 56) va = .entry e → e.lower ≤ va → va < e.upper →
       (∀ st, s.pageOf slot va ≠ .bad st) →
       (∀ l q st, s.pageOf slot va = .page l q →
         s.runFrom slot l 34 (va + (l.size - va % l.size)) (l.size - va % l.size) ≠ .inr st) →
       ∃ u, exec (.sxlate d a) s = .next u ∧ s.Past u 1 ∧ oneReady s u ∧
         (u.mReg d).region.toNat = (s.sReg a).toNat / 2 ^ 56 ∧ (u.mReg d).vbase.toNat = va ∧ (u.mReg d).v = true ∧
         (∀ l q run vs, s.pageOf slot va = .page l q →
           s.runFrom slot l 34 (va + (l.size - va % l.size)) (l.size - va % l.size) = .inl (run, vs) →
           (u.mReg d).framepg = BitVec.ofNat 28 ((l.frame + va % l.size) / 2 ^ 16) ∧
           (u.mReg d).limit = BitVec.ofNat 22 (min run (min 0x200000 (e.upper - va))) ∧
           (u.mReg d).rd = (l.rd && e.rd) ∧ (u.mReg d).w = (l.w && e.w)) ∧
         (∀ q, s.pageOf slot va = .absent q →
           u.mReg d = { region := (u.mReg d).region, vbase := (u.mReg d).vbase, v := true }) ∧
         (∀ n, n ≠ d → u.mReg n = s.mReg n) ∧ s.SlotsKept u ∧ u.mem = s.mem ∧
         (settled s → u = { s with t := { s.t.placeOf u.t with m := u.t.m, infl := u.t.infl }, ctxs := u.ctxs,
                                   caches := u.caches, uid := u.uid })) ∧
     (s.region? slot ((s.sReg a).toNat / 2 ^ 56) va = .none ∨
       (∃ e, s.region? slot ((s.sReg a).toNat / 2 ^ 56) va = .entry e ∧ (va < e.lower ∨ e.upper ≤ va)) →
       exec (.sxlate d a) s = .next (s.raise 5 (s.sReg a))))

/-! ### Vector instructions -/

/-- R218, R221 to R223, R123: every vector integer instruction puts in each element of an active lane its exact result,
clamped where SAT says so, and its low bits; other lanes and other registers stay. -/
def Obligations.VectorIntegerResults : Prop :=
  ∀ (i : Instr) (s : State) (d : Nat) (f : Nat → Nat → Int × Bool), s.Clear → s.checks i = none →
    vintOut s i = some (d, f) →
    ∃ u, exec i s = .next u ∧ s.Past u i.nWords ∧ s.OnlyV u ∧ s.KeepsV u (contRegs (mET s.t.mode) d) ∧
      ∀ l, l < 1024 →
        (s.laneOn l = true → ∀ k, k < etCount (mET s.t.mode) →
          u.elem (mET s.t.mode) d l k = narrow (mET s.t.mode) (f l k).2 (f l k).1) ∧
        (s.laneOn l = false → u.cont (mET s.t.mode) d l = s.cont (mET s.t.mode) d l)

/-- R221, R223, R225, R227, R228, R238, R240, R241: logic, moves, bit fields, shuffles, byte permutation, dot product and
unpacking write a whole register in each active lane; SHFL, SHFLX and SGETV read any present lane.

R225: VMOVL with two literals writes the pair, the low word first. -/
def Obligations.VectorRawResults : Prop :=
  (∀ (i : Instr) (s : State) (d : Nat) (f : Nat → Word), s.Clear → s.checks i = none → rawOut s i = some (d, f) →
     ∃ u, exec i s = .next u ∧ s.Past u i.nWords ∧ s.OnlyV u ∧ s.KeepsV u [d] ∧
       ∀ l, l < 1024 → u.vReg d l = if s.laneOn l then f l else s.vReg d l) ∧
  (∀ (d : Nat) (x y : Word) (s : State), s.Clear → s.checks (.vmovl d x (some y)) = none →
     ∃ u, exec (.vmovl d x (some y)) s = .next u ∧ s.Past u 3 ∧ s.OnlyV u ∧ s.KeepsV u [d, d + 1] ∧
       ∀ l, l < 1024 → u.vReg d l = (if s.laneOn l then x else s.vReg d l) ∧
         u.vReg (d + 1) l = if s.laneOn l then y else s.vReg (d + 1) l)

/-- R224, R226, R231: comparisons and predicate operations write p_d in the active lanes and nowhere else.

R243: POPC, VFIRST and BALLOT count, find and list the active lanes where p_a is true; a team without a pass leaves
s_d. -/
def Obligations.Predicates : Prop :=
  (∀ (i : Instr) (s : State) (d : Nat) (f : Nat → Bool), s.Clear → s.checks i = none → s.t.lanes ≤ 1024 →
     predOut s i = some (d, f) →
     ∃ u, exec i s = .next u ∧ s.Past u i.nWords ∧ s.OnlyP u ∧ s.KeepsP u [d] ∧
       ∀ l, l < 1024 → (u.pReg d).getLsbD l = if s.laneOn l then f l else (s.pReg d).getLsbD l) ∧
  (∀ (d a b : Nat) (s : State), s.Clear → s.t.lanes ≤ 1024 →
     let on := (List.range s.t.lanes).filter fun l => s.laneOn l && (s.pReg a).getLsbD l
     let word := ofBits 64 fun i => on.contains (64 * (s.sReg b).toNat + i)
     ∀ p ∈ [(Instr.popc d a, BitVec.ofNat 64 on.length),
            (Instr.vfirst d a, match on with | [] => word64 (-1) | l :: _ => BitVec.ofNat 64 l),
            (Instr.ballot d a b, BitVec.ofNat 64 word)],
       s.checks p.1 = none →
       ∃ u, exec p.1 s = .next u ∧ s.Past u 1 ∧ s.OnlyS u ∧ s.KeepsS u [d] ∧
         u.sReg d = if s.t.passes = [] then s.sReg d else p.2)

/-- R229, R230, R233, R234, R120: unless the Non-Finite hold of R126 takes its trap, every floating-point instruction puts in
each element of an active lane its exact result rounded once into ET; under stochastic rounding one that rounds leaves the generator after
its last advance. -/
def Obligations.FloatResults : Prop :=
  ∀ (i : Instr) (s : State) (d : Nat) (f : Nat → Nat → Ex) (rounds : Bool), s.Clear → s.checks i = none →
    fltOut s i = some (d, f, rounds) →
    noHold s (etCount (mET s.t.mode)) (fun l k => ((etFmt (mET s.t.mode)).getD .fp32).nonFinite
      (((etFmt (mET s.t.mode)).getD .fp32).round (s.rmAt s.srTab l k) (f l k))) →
    ∃ u, exec i s = .next u ∧ s.Past u i.nWords ∧ s.KeepsV u (contRegs (mET s.t.mode) d) ∧
      u = { s with t := { s.t.placeOf u.t with v := u.t.v, srng := u.t.srng } } ∧
      u.t.srng = (if rounds && mRND s.t.mode == 5 then s.srLast else s.t.srng) ∧
      ∀ l, l < 1024 →
        (s.laneOn l = true → ∀ k, k < etCount (mET s.t.mode) →
          u.elem (mET s.t.mode) d l k =
            ((etFmt (mET s.t.mode)).getD .fp32).round (s.rmAt s.srTab l k) (f l k) % 2 ^ etWidth (mET s.t.mode)) ∧
        (s.laneOn l = false → u.cont (mET s.t.mode) d l = s.cont (mET s.t.mode) d l)

/-- R126: with NFT set, a result that is NaN or infinite in an active lane is held back: no register is written, and the
trap decided is Non-Finite, of the lowest lane that raises. So it is for every instruction that may raise it: floating-point
arithmetic, VFCOPYS, VFDOT2, CVT by its input or its result, CVTXM, CBDEC, CVTMX by its input, SCAN by a fold over some
lane, LMV4 and LMV8; and REDV by a root over some lane, with the lowest active lane. -/
def Obligations.NonFiniteHeld : Prop :=
  (∀ (i : Instr) (s : State) (n : Nat) (bad : Nat → Nat → Bool) (l k : Nat), s.Clear → s.checks i = none →
     s.t.pendB = [] → mNFT s.t.mode = true → heldOut s i = some (n, bad) → l < 1024 → s.laneOn l = true → k < n →
     bad l k = true →
     (∀ d a b, (i = .lmv4 d a b → matricesIn s 4 b) ∧ (i = .lmv8 d a b → matricesIn s 8 b)) →
     ∃ u, exec i s = .next u ∧ u.t.v = s.t.v ∧ u.t.s = s.t.s ∧ u.t.p = s.t.p ∧ u.mem = s.mem ∧
       (s.t.hnd = false → s.t.tvec.toNat % 2 = 1 →
         u.t.tcause = 0x8000000A ∧ u.t.tepc = s.t.pc &&& ~~~(3#64) ∧ u.t.tlane.toNat / 2 ^ 30 = 1 ∧
         u.t.tlane.toNat % 1024 ≤ l ∧ s.laneOn (u.t.tlane.toNat % 1024) = true ∧
         ∃ j, j < n ∧ bad (u.t.tlane.toNat % 1024) j = true)) ∧
  (∀ (d a b k x : Nat) (s : State), s.Clear → s.checks (.redv d a b) = none → s.t.pendB = [] → mNFT s.t.mode = true →
     s.t.passes ≠ [] → k < etCount (mET s.t.mode) → redRoot s a b k = some x → badElem (mET s.t.mode) x = true →
     ∃ u, exec (.redv d a b) s = .next u ∧ u.t.v = s.t.v ∧ u.t.s = s.t.s ∧ u.t.p = s.t.p ∧ u.mem = s.mem ∧
       (s.t.hnd = false → s.t.tvec.toNat % 2 = 1 →
         u.t.tcause = 0x8000000A ∧ u.t.tepc = s.t.pc &&& ~~~(3#64) ∧ u.t.tlane.toNat / 2 ^ 30 = 1 ∧
         u.t.tlane.toNat % 1024 = (onLanes s).headD 0 % 1024))

/-- R230, R232, R234: VFCOPYS takes the sign bit that b stores, VFCLASS gives one class bit for each element, and VFDOT2
adds two products to an FP32 accumulator with one rounding, unless the Non-Finite hold of R126 takes its trap. Lanes that
are not active keep what they hold. -/
def Obligations.FloatSpecialForms : Prop :=
  ∀ (d a b : Nat) (s : State), s.Clear →
    let et := mET s.t.mode
    let fmt := (etFmt et).getD .fp32
    (s.checks (.vfcopys d a b) = none → noHold s (etCount et) (fun l k => fmt.nonFinite (copyRes s a b l k)) →
      ∃ u, exec (.vfcopys d a b) s = .next u ∧ s.Past u 1 ∧ s.OnlyV u ∧ s.KeepsV u (contRegs et d) ∧
      ∀ l, l < 1024 →
        (s.laneOn l = true → ∀ k, k < etCount et → u.elem et d l k = copyRes s a b l k % 2 ^ etWidth et) ∧
        (s.laneOn l = false → u.cont et d l = s.cont et d l)) ∧
    (s.checks (.vfclass d a) = none → ∃ u, exec (.vfclass d a) s = .next u ∧ s.Past u 1 ∧ s.OnlyV u ∧
      s.KeepsV u (contRegs et d) ∧ ∀ l, l < 1024 →
        (s.laneOn l = true → ∀ k, k < etCount et → u.elem et d l k = 2 ^ fmt.classOf (s.elem et a l k)) ∧
        (s.laneOn l = false → u.cont et d l = s.cont et d l)) ∧
    (s.checks (.vfdot2 d a b) = none → noHold s 1 (fun l _ => Fmt.fp32.nonFinite (dotRes s d a b l)) →
      ∃ u, exec (.vfdot2 d a b) s = .next u ∧ s.Past u 1 ∧ s.KeepsV u [d] ∧
      u = { s with t := { s.t.placeOf u.t with v := u.t.v, srng := u.t.srng } } ∧
      ∀ l, l < 1024 → (u.vReg d l).toNat =
        if s.laneOn l then dotRes s d a b l % 2 ^ 32 else (s.vReg d l).toNat)

/-- R118, R235, R237 to R239: conversions and packing, unless the Non-Finite hold of R126 takes its trap. CVT converts as
many elements as both containers hold; CVTXM multiplies an element by its scale; CBDEC writes 16 codebook weights to eight
registers; VPACK replaces one element. Lanes that are not active keep what they hold.

R129, R236: in each group with an active lane CVTMX writes every present lane: the scale code of the group to v_b, and
to v_d the elements of the active lanes and zero to the others; other groups stay. -/
def Obligations.Conversions : Prop :=
  (∀ (d a b : Nat) (s : State), s.Clear →
     let et := mET s.t.mode
     (s.checks (.cvt d a b) = none → noHold s (min (etCount et) (etCount b)) (fun l k => (convRes s a b l k).2) →
       ∃ u, exec (.cvt d a b) s = .next u ∧ s.Past u 1 ∧ s.KeepsV u (contRegs b d) ∧
       u = { s with t := { s.t.placeOf u.t with v := u.t.v, srng := u.t.srng } } ∧
       ∀ l, l < 1024 →
         (s.laneOn l = true → ∀ k, k < etCount b → u.elem b d l k =
           if k < etCount et then (convRes s a b l k).1 % 2 ^ etWidth b else 0) ∧
         (s.laneOn l = false → u.cont b d l = s.cont b d l)) ∧
     (s.checks (.cvtxm d a b) = none → noHold s 1 (fun l _ => Fmt.fp32.nonFinite (scaledRes s a b l)) →
       ∃ u, exec (.cvtxm d a b) s = .next u ∧ s.Past u 1 ∧ s.KeepsV u [d] ∧
       u = { s with t := { s.t.placeOf u.t with v := u.t.v, srng := u.t.srng } } ∧
       ∀ l, l < 1024 → (u.vReg d l).toNat =
         if s.laneOn l then scaledRes s a b l % 2 ^ 32 else (s.vReg d l).toNat) ∧
     (s.checks (.cbdec d a b) = none → noHold s 16 (fun l m => Fmt.bf16.nonFinite (weightRes s a b l m)) →
       ∃ u, exec (.cbdec d a b) s = .next u ∧ s.Past u 1 ∧
       s.KeepsV u ((List.range 8).map fun r => d + r) ∧
       u = { s with t := { s.t.placeOf u.t with v := u.t.v, srng := u.t.srng } } ∧
       ∀ l r, l < 1024 → r < 8 → (u.vReg (d + r) l).toNat = if s.laneOn l
         then (weightRes s a b l (2 * r) + 2 ^ 16 * weightRes s a b l (2 * r + 1)) % 2 ^ 32
         else (s.vReg (d + r) l).toNat) ∧
     (s.checks (.vpack d a b) = none → ∃ u, exec (.vpack d a b) s = .next u ∧ s.Past u 1 ∧ s.OnlyV u ∧ s.KeepsV u [d] ∧
       ∀ l, l < 1024 →
         (s.laneOn l = true → ∀ k, k < etCount et → etPair et = false →
           elemOf (etWidth et) k (u.vReg d l).toNat =
             if k = (s.vReg b l).toNat % 8 % etCount et then (s.vReg a l).toNat % 2 ^ etWidth et
             else elemOf (etWidth et) k (s.vReg d l).toNat) ∧
         (s.laneOn l = false → u.vReg d l = s.vReg d l))) ∧
  (∀ (d a b : Nat) (s : State), s.Clear → s.checks (.cvtmx d a b) = none →
     noHold s 1 (fun l _ => Fmt.fp32.nonFinite (s.vReg a l).toNat) →
     ∃ u, exec (.cvtmx d a b) s = .next u ∧ s.Past u 1 ∧ s.KeepsV u [d, b] ∧
       u = { s with t := { s.t.placeOf u.t with v := u.t.v, srng := u.t.srng } } ∧
       ∀ l, l < s.t.lanes → l < 1024 →
         let g := l / 32
         let ls := (List.range s.t.lanes).filter fun n => s.laneOn n && n / 32 == g
         let blk := mxBlock (mET s.t.mode)
           (ls.map fun n => (Fmt.fp32.decZ (mFTZ s.t.mode) (s.vReg a n).toNat, s.rmAt s.srTab n 0))
         (ls = [] → u.vReg d l = s.vReg d l ∧ u.vReg b l = s.vReg b l) ∧
         (ls ≠ [] → (u.vReg b l).toNat = blk.1 % 2 ^ 32 ∧
           ((u.vReg d l).toNat = match (List.zip ls blk.2.1).find? fun p => p.1 == l with
             | some p => p.2 % 2 ^ 32 | none => 0)))

/-- R135, R242: unless the Non-Finite hold of R126 takes its trap, SCAN writes in each active lane the fold of the tree over
the lanes up to it, inclusive or exclusive, and the identity over none; lanes that are not active keep what they hold. REDV
writes the root to s_d, and nothing where no pass is taken. That under stochastic rounding an exclusive fold rotates by the
receiving lane is the model's choice (log 86). -/
def Obligations.ScanAndRedv : Prop :=
  ∀ (d a b : Nat) (s : State), s.Clear →
    let et := mET s.t.mode
    (s.checks (.scan d a b) = none → noHold s (etCount et) (fun l k => (scanFold s a b l k).any (badElem et)) →
      ∃ u, exec (.scan d a b) s = .next u ∧ s.Past u 1 ∧ s.KeepsV u (contRegs et d) ∧
      u = { s with t := { s.t.placeOf u.t with v := u.t.v, srng := u.t.srng } } ∧
      ∀ l, l < 1024 →
        (s.laneOn l = true → ∀ k, k < etCount et →
          u.elem et d l k = (scanFold s a b l k).getD (redIdentity et (b % 8)) % 2 ^ etWidth et) ∧
        (s.laneOn l = false → u.cont et d l = s.cont et d l)) ∧
    (s.checks (.redv d a b) = none →
      (mNFT s.t.mode = false ∨ s.t.passes = [] ∨ ∀ k, k < etCount et → (redRoot s a b k).any (badElem et) = false) →
      ∃ u, exec (.redv d a b) s = .next u ∧ s.Past u 1 ∧ s.KeepsS u [d] ∧
      u = { s with t := { s.t.placeOf u.t with s := u.t.s, srng := u.t.srng } } ∧
      (s.t.passes = [] → u.sReg d = s.sReg d) ∧
      (s.t.passes ≠ [] → ∀ k, k < etCount et →
        elemOf (etWidth et) k (u.sReg d).toNat = (redRoot s a b k).getD (redIdentity et b) % 2 ^ etWidth et))

/-- R244: unless the Non-Finite hold of R126 takes its trap, LMV4 and LMV8 multiply the matrix that the Cupboard holds at v_b
by the vector in v_a and the registers after it, each row rounded once; lanes that are not active keep what they hold. -/
def Obligations.LaneMatrixVector : Prop :=
  ∀ (n d a b : Nat) (i : Instr) (s : State), (n = 4 ∧ i = .lmv4 d a b) ∨ (n = 8 ∧ i = .lmv8 d a b) →
    s.Clear → s.checks i = none → noHold s n (fun l r => Fmt.fp32.nonFinite (lmvRow s n a b l r)) →
    matricesIn s n b →
    ∃ u, exec i s = .next u ∧ s.Past u 1 ∧ s.KeepsV u ((List.range n).map fun r => d + r) ∧ u.mem = s.mem ∧
      u.t.s = s.t.s ∧ ∀ l r, l < 1024 → r < n →
        (u.vReg (d + r) l).toNat = if s.laneOn l then lmvRow s n a b l r % 2 ^ 32 else (s.vReg (d + r) l).toNat

/-! ### Memory -/

/-- R85, R246, R247: VLD, VLDN and VLDA bring to each active lane the bytes at its address, which its translation register
gives; they change no byte of memory. -/
def Obligations.VectorLoads : Prop :=
  ∀ (i : Instr) (d a m n : Nat) (s : State) (pa : Nat → Nat), s.Clear → s.Plain → s.checks i = none →
    i = .vld d a m ∨ i = .vldn d a m n ∨ i = .vlda d a m n →
    (∀ l ∈ onLanes s, reaches s (s.memOp .load (.v d)) (laneAcc s a m 0 0 l) (pa l)) →
    ∃ u, exec i s = .next u ∧ s.Past u 1 ∧ oneReady s u ∧ AccessFrame s u ∧ u.mem = s.mem ∧ u.t.s = s.t.s ∧
      s.KeepsV u (contRegs (mET s.t.mode) d) ∧
      ∀ l, l < 1024 → u.cont (mET s.t.mode) d l =
        if s.laneOn l then s.memNat (pa l) (etBytes (mET s.t.mode)) else s.cont (mET s.t.mode) d l

/-- R85, R247: VST and VSTR store the container of each active lane at its address; where lanes overlap the highest wins,
and every other byte stays. -/
def Obligations.VectorStores : Prop :=
  ∀ (i : Instr) (d a m n : Nat) (s : State) (pa : Nat → Nat), s.Clear → s.Plain → s.checks i = none →
    i = .vst d a m ∨ (i = .vstr d a m n ∧ s.link.wacks = []) →
    (∀ l ∈ onLanes s, reaches s (s.memOp .store .none) (laneAcc s a m (s.cont (mET s.t.mode) d l) 0 l) (pa l)) →
    ∃ u, exec i s = .next u ∧ s.Past u 1 ∧ oneReady s u ∧ AccessFrame s u ∧ u.t.v = s.t.v ∧ u.t.s = s.t.s ∧
      s.KeepsBytes u ((onLanes s).map fun l => (pa l, etBytes (mET s.t.mode))) ∧
      ∀ l ∈ onLanes s,
        (∀ k ∈ onLanes s, l < k → pa k + etBytes (mET s.t.mode) ≤ pa l ∨ pa l + etBytes (mET s.t.mode) ≤ pa k) →
        u.memNat (pa l) (etBytes (mET s.t.mode)) = s.cont (mET s.t.mode) d l % 2 ^ (8 * etBytes (mET s.t.mode))

/-- R248: SLD and SST move eight bytes between s_d and the address that s_a gives through m_n. -/
def Obligations.ScalarLoadStore : Prop :=
  ∀ (d a m pa : Nat) (s : State), s.Clear → s.Plain → (s.sReg a).toNat < 2 ^ 32 →
    (s.checks (.sld d a m) = none →
      reaches s { kind := .load, et := 15, size := 8, dst := .s d } ⟨0, (s.sReg a).toNat, s.mReg m, 0, 0⟩ pa →
      ∃ u, exec (.sld d a m) s = .next u ∧ s.Past u 1 ∧ oneReady s u ∧ AccessFrame s u ∧ u.mem = s.mem ∧ u.t.v = s.t.v ∧
        s.KeepsS u [d] ∧ (u.sReg d).toNat = s.memNat pa 8) ∧
    (s.checks (.sst d a m) = none →
      reaches s { kind := .store, et := 15, size := 8 } ⟨0, (s.sReg a).toNat, s.mReg m, (s.sReg d).toNat, 0⟩ pa →
      ∃ u, exec (.sst d a m) s = .next u ∧ s.Past u 1 ∧ oneReady s u ∧ AccessFrame s u ∧ u.t.v = s.t.v ∧ u.t.s = s.t.s ∧
        u.memNat pa 8 = (s.sReg d).toNat ∧ s.KeepsBytes u [(pa, 8)])

/-- R25, R53, R205, R246: an empty translation register is Region-Violation in every lane, and Misaligned as well in one that
is not aligned (that both are raised is log 27's reading); through one whose LIMIT covers the access a lane not aligned is
Misaligned, one without permission is Permission, and any other reaches the register's physical address plus its offset.

R37, R38, R403: a vector load whose every active lane meets an absent page parks them all in an entry of the operand log,
the lowest free one (log 19's choice), and goes on; no byte of memory, no scalar and no vector register changes. -/
def Obligations.AccessPaths : Prop :=
  (∀ (s : State) (slot : Nat) (op : MemOp) (x : LaneAcc),
     (x.m.v = false → s.resolve slot op x = .issue 5 ∧
       (op.issueCauses (x, s.resolve slot op x)).map (·.cause) =
         if misaligned op.kind.atomic x.va op.size then [5, 6] else [5]) ∧
     (misaligned op.kind.atomic x.va op.size = true → x.m.v = true → s.resolve slot op x = .issue 6) ∧
     (misaligned op.kind.atomic x.va op.size = false → x.m.v = true → x.off + op.size ≤ x.m.limit.toNat →
       ((op.kind.reads = true ∧ x.m.rd = false) ∨ (op.kind.writes = true ∧ x.m.w = false) →
         s.resolve slot op x = .issue 7) ∧
       ((op.kind.reads = true → x.m.rd = true) → (op.kind.writes = true → x.m.w = true) →
         isLocal (x.m.phys + x.off) = true → s.regs.towerlost = 0 → s.poison = [] →
         s.resolve slot op x = .ok (x.m.phys + x.off)))) ∧
  (∀ (d a m : Nat) (s : State), s.Clear → s.Plain → s.checks (.vld d a m) = none → onLanes s ≠ [] →
     (∀ l ∈ onLanes s, s.resolve (mySlot s) (s.memOp .load (.v d)) (laneAcc s a m 0 0 l) = .park 8) →
     ∃ u e, exec (.vld d a m) s = .next u ∧ s.Past u 1 ∧ u.mem = s.mem ∧ u.t.s = s.t.s ∧
       (∀ n l, l < 1024 → u.vReg n l = s.vReg n l) ∧ u.t.log = [e] ∧ e.u = 0 ∧ e.pc = s.t.pc ∧ e.mode = s.t.mode ∧
       (LogEntry.todoLanes e = onLanes s) ∧ u.t.infl.length = 1)

/-- R85, R255, R257, R258: VATOM, VRED and VCAS perform every active lane once, one after another in some order; VATOM and
VCAS bring to each lane what its address held at its turn.

R257: SATOM performs its operation once, for the team, and brings what the address held to s_d. -/
def Obligations.Atomics : Prop :=
  (∀ (i : Instr) (d a m : Nat) (l : Word) (s : State) (pa : Nat → Nat) (kind : AccKind) (dst : Dst) (x : Nat),
     s.Clear → s.Plain → s.link.wacks = [] → s.checks i = none →
     ((i = .vatom d a m l ∧ kind = .atom (litOp l) ∧ dst = .v d ∧ x = d) ∨
      (i = .vred d a m l ∧ kind = .red (litOp l) ∧ dst = .none ∧ x = d) ∨
      (i = .vcas d a m l ∧ kind = .cas ∧ dst = .v d ∧ x = if etPair (mET s.t.mode) then d + 2 else d + 1)) →
     (∀ n ∈ onLanes s, reaches s (s.atomOp kind dst l)
       (laneAcc s a m (s.cont (mET s.t.mode) x n) (s.cont (mET s.t.mode) d n) n) (pa n)) →
     ∃ u order, exec i s = .next u ∧ s.Past u 2 ∧ oneReady s u ∧ AccessFrame s u ∧ u.t.s = s.t.s ∧
       List.Perm order ((onLanes s).map fun n =>
         (laneAcc s a m (s.cont (mET s.t.mode) x n) (s.cont (mET s.t.mode) d n) n, pa n)) ∧
       u.mem = (inTurn (s.atomOp kind dst l) order s.mem).1 ∧
       (dst = .none → u.t.v = s.t.v) ∧
       (dst = .v d → s.KeepsV u (contRegs (mET s.t.mode) d) ∧
         ∀ p ∈ (inTurn (s.atomOp kind dst l) order s.mem).2, u.cont (mET s.t.mode) d p.1 = p.2)) ∧
  (∀ (d a m pa : Nat) (l : Word) (s : State), s.Clear → s.Plain → s.link.wacks = [] → s.checks (.satom d a m l) = none →
     let op := s.atomOp (.atom (litOp l)) (.s d) l
     let x : LaneAcc := ⟨0, (s.sReg a).toNat % 2 ^ 32, s.mReg m, (s.sReg d).toNat % 2 ^ (8 * op.size), 0⟩
     reaches s op x pa →
     ∃ u, exec (.satom d a m l) s = .next u ∧ s.Past u 2 ∧ oneReady s u ∧ AccessFrame s u ∧ u.t.v = s.t.v ∧
       s.KeepsS u [d] ∧ (u.sReg d).toNat = s.memNat pa op.size ∧ s.KeepsBytes u [(pa, op.size)] ∧
       u.memNat pa op.size = atomNew op (s.memNat pa op.size) x.x 0 % 2 ^ (8 * op.size))

/-- R56, R250: scratchpad loads and stores of the team's own block, and of the block of its gang that s_b names, move each
active lane's container at its offset; a store changes that scratchpad only, the highest of overlapping lanes winning, and
no other block's; nothing else of the machine changes.

R246, R250: a VSTS with an active lane past the scratchpad's allocation is Region-Violation, of the lowest such lane,
and no lane stores. -/
def Obligations.ScratchpadForms : Prop :=
  (∀ (i : Instr) (d a b : Nat) (store : Bool) (k : Block) (s : State), s.Clear → s.checks i = none →
     s.block? k.bid = some k →
     ((i = .vlds d a ∧ store = false ∧ s.myBlock? = some k) ∨ (i = .vsts d a ∧ store = true ∧ s.myBlock? = some k) ∨
      (i = .vldsr d a b ∧ store = false ∧ s.remoteBlock (s.sReg b).toNat = some k) ∨
      (i = .vstsr d a b ∧ store = true ∧ s.remoteBlock (s.sReg b).toNat = some k)) →
     (∀ l ∈ onLanes s, (s.vReg a l).toNat % 32 + etBytes (mET s.t.mode) ≤ 32 ∧
       (s.vReg a l).toNat + etBytes (mET s.t.mode) ≤ k.scratchSize) →
     ∃ u, exec i s = .next u ∧ s.Past u 1 ∧ oneReady s u ∧ u.mem = s.mem ∧ u.t.s = s.t.s ∧
       (∀ n, n ≠ k.bid → u.block? n = s.block? n) ∧
       (settled s → u = { s with t := { s.t.placeOf u.t with v := u.t.v, infl := u.t.infl }, blocks := u.blocks,
                                 uid := u.uid }) ∧
       (store = false → u.blocks = s.blocks ∧ s.KeepsV u (contRegs (mET s.t.mode) d) ∧
         ∀ l, l < 1024 → u.cont (mET s.t.mode) d l = if s.laneOn l
           then leNat (sgets 0 (s.vReg a l).toNat (etBytes (mET s.t.mode)) k.scratch) else s.cont (mET s.t.mode) d l) ∧
       (store = true → u.t.v = s.t.v ∧ ∃ k', u.block? k.bid = some k' ∧
         (∀ o, (∀ l ∈ onLanes s, o < (s.vReg a l).toNat ∨ (s.vReg a l).toNat + etBytes (mET s.t.mode) ≤ o) →
           sget 0 o k'.scratch = sget 0 o k.scratch) ∧
         ∀ l ∈ onLanes s, (∀ n ∈ onLanes s, l < n →
             (s.vReg a n).toNat + etBytes (mET s.t.mode) ≤ (s.vReg a l).toNat ∨
             (s.vReg a l).toNat + etBytes (mET s.t.mode) ≤ (s.vReg a n).toNat) →
           leNat (sgets 0 (s.vReg a l).toNat (etBytes (mET s.t.mode)) k'.scratch) =
             s.cont (mET s.t.mode) d l % 2 ^ (8 * etBytes (mET s.t.mode)))) ∧
  (∀ (d a : Nat) (k : Block) (l : Nat) (s : State), s.Clear → s.checks (.vsts d a) = none → s.myBlock? = some k →
     l ∈ onLanes s → s.t.pendB = [] → s.t.hnd = false → s.t.tvec.toNat % 2 = 1 →
     (s.vReg a l).toNat % 32 + etBytes (mET s.t.mode) ≤ 32 → k.scratchSize < (s.vReg a l).toNat + etBytes (mET s.t.mode) →
     ∃ u, exec (.vsts d a) s = .next u ∧ u.t.tcause = 0x80000005 ∧ u.t.tlane.toNat / 2 ^ 30 = 1 ∧
       u.t.tlane.toNat % 2 ^ 10 ≤ l ∧ u.mem = s.mem ∧ u.blocks = s.blocks ∧ u.t.v = s.t.v)

/-- R256 to R258: VATOMS and VREDS perform every active lane once on the block's scratchpad, one after another in some
order. A release waits for the grants of the team's engine operations too (R97). -/
def Obligations.ScratchpadAtomics : Prop :=
  ∀ (i : Instr) (d a : Nat) (l : Word) (kind : AccKind) (dst : Dst) (k : Block) (s : State),
    s.Clear → s.checks i = none → s.link.wacks = [] → s.grantsDone s.t.tid = true → s.myBlock? = some k →
    ((i = .vatoms d a l ∧ kind = .atom (litOp l) ∧ dst = .v d) ∨ (i = .vreds d a l ∧ kind = .red (litOp l) ∧ dst = .none)) →
    let op := s.atomOp kind dst l
    (∀ n ∈ onLanes s, (s.vReg a n).toNat % op.size = 0 ∧ (s.vReg a n).toNat + op.size ≤ k.scratchSize) →
    ∃ u order, exec i s = .next u ∧ s.Past u 2 ∧ oneReady s u ∧ u.mem = s.mem ∧ u.t.s = s.t.s ∧
      List.Perm order ((onLanes s).map fun n => (laneAcc s a 0 (s.cont (mET s.t.mode) d n) 0 n, (s.vReg a n).toNat)) ∧
      (∃ k', u.block? k.bid = some k' ∧ k'.scratch = (inTurn op order k.scratch).1) ∧
      (dst = .none → u.t.v = s.t.v) ∧
      (dst = .v d → s.KeepsV u (contRegs (mET s.t.mode) d) ∧
        ∀ p ∈ (inTurn op order k.scratch).2, u.cont (mET s.t.mode) d p.1 = p.2)

/-- R61, R251: VLDC and SLDC read the Cupboard of the team's grid on its quad.

R249, R252: VPREF and FENCE, when the accesses before them are done, go on: no register and no byte changes; but for window
lines, whose words VPREF asks for, a prefetch changes only what caches and translation buffers hold. -/
def Obligations.CupboardFencePrefetch : Prop :=
  (∀ (d a : Nat) (s : State), s.Clear →
     (s.checks (.vldc d a) = none →
       (∀ l ∈ onLanes s, (s.vReg a l).toNat % 32 + etBytes (mET s.t.mode) ≤ 32 ∧
         (s.vReg a l).toNat + etBytes (mET s.t.mode) ≤ s.cupSize) →
       ∃ u, exec (.vldc d a) s = .next u ∧ s.Past u 1 ∧ oneReady s u ∧ AccessFrame s u ∧ u.mem = s.mem ∧ u.t.s = s.t.s ∧
         s.KeepsV u (contRegs (mET s.t.mode) d) ∧
         ∀ l, l < 1024 → u.cont (mET s.t.mode) d l = if s.laneOn l
           then s.cupNat (s.vReg a l).toNat (etBytes (mET s.t.mode)) else s.cont (mET s.t.mode) d l) ∧
     (s.checks (.sldc d a) = none → (s.sReg a).toNat % 32 + 8 ≤ 32 → (s.sReg a).toNat + 8 ≤ s.cupSize →
       (s.sReg a).toNat < 2 ^ 32 →
       ∃ u, exec (.sldc d a) s = .next u ∧ s.Past u 1 ∧ oneReady s u ∧ AccessFrame s u ∧ u.mem = s.mem ∧ u.t.v = s.t.v ∧
         s.KeepsS u [d] ∧ (u.sReg d).toNat = s.cupNat (s.sReg a).toNat 8)) ∧
  (∀ (a m b : Nat) (s : State), s.Clear → s.caches.counted = [] →
     (s.checks (.vpref a m) = none → settled s → ∃ u, exec (.vpref a m) s = .next u ∧ s.Past u 1 ∧ u.t = s.t.placeOf u.t ∧
       u.mem = s.mem ∧ s.SlotsKept u ∧
       ((∀ l ∈ onLanes s, ∀ pa, s.resolve (mySlot s) { kind := .load } (laneAcc s a m 0 0 l) = .ok pa →
           isLocal pa = true) →
         u = { s with t := u.t, caches := u.caches, ctxs := u.ctxs })) ∧
     (s.checks (.fence b) = none → s.link.wacks = [] → s.grantsDone s.t.tid = true → ∃ u, exec (.fence b) s = .next u ∧ s.Past u 1 ∧
       u = { s with t := s.t.placeOf u.t, caches := u.caches }))

/-- R73, R75, R253: SEAL of a range that no entry touches, with an entry free, adds the entry and answers 1, else 0 with
the table as it was; UNSEAL of an entry of the context that no copy reads frees it and answers 1, and 0 without one.

R73: a store to a sealed byte is Sealed-Write, and the byte stays.

R68, R253: REPL of a region mapped by a 2 MiB page that no other context has pinned pins it for its context at the level s_a,
or, its own pin there, at another level, and with 4 takes that pin away; it answers 1. On a region that another context has
pinned, on another page, with s_a above 4 or an empty translation it answers 0 and nothing changes. That an unpin of a region
without a pin answers 0, and that REPL is accepted on a page of the system window, are log 29's readings; that PIN goes at
once, and the level stays until the epoch's end, is log 80's. -/
def Obligations.SealsAndPins : Prop :=
  (∀ (d a m : Nat) (s : State) (base len : Nat), s.Clear → s.eops = [] → base = (s.mReg m).phys →
     len = (s.sReg a).toNat → sealRangeOk (s.mReg m) len = true →
     (s.checks (.seal d a m) = none → ∃ u, exec (.seal d a m) s = .next u ∧ s.Past u 1 ∧ oneReady s u ∧ u.mem = s.mem ∧
       s.KeepsS u [d] ∧ u.t.v = s.t.v ∧
       (s.seals.length < 64 → (∀ e ∈ s.seals, e.base + e.len ≤ base ∨ base + len ≤ e.base) →
         u.sReg d = 1 ∧ u.seals = s.seals ++ [⟨base, len, s.t.ctx, 0⟩]) ∧
       (64 ≤ s.seals.length ∨ (∃ e ∈ s.seals, e.base < base + len ∧ base < e.base + e.len) →
         u.sReg d = 0 ∧ u.seals = s.seals)) ∧
     (s.checks (.unseal d a m) = none →
       (∀ e ∈ s.seals, e.base = base → e.len = len → e.ctx = s.t.ctx → e.refs = 0) →
       ∃ u, exec (.unseal d a m) s = .next u ∧ s.Past u 1 ∧ oneReady s u ∧ u.mem = s.mem ∧ s.KeepsS u [d] ∧ u.t.v = s.t.v ∧
         u.seals = s.seals.filter (fun e => !(e.base == base && e.len == len && e.ctx == s.t.ctx)) ∧
         u.sReg d = if s.seals.any (fun e => e.base == base && e.len == len && e.ctx == s.t.ctx) then 1 else 0)) ∧
  (∀ (d a m pa : Nat) (e : Seal) (s : State), s.Clear → s.poison = [] → s.caches.counted = [] → s.eops = [] →
     s.checks (.sst d a m) = none → (s.sReg a).toNat < 2 ^ 32 →
     reaches s { kind := .store, et := 15, size := 8 } ⟨0, (s.sReg a).toNat, s.mReg m, (s.sReg d).toNat, 0⟩ pa →
     e ∈ s.seals → e.base ≤ pa → pa < e.base + e.len →
     s.t.pendB = [] → s.t.hnd = false → s.t.tvec.toNat % 2 = 1 →
     ∃ u, exec (.sst d a m) s = .next u ∧ u.mem = s.mem ∧ u.t.tcause = 0x80000009 ∧ u.t.tlane = 0 ∧
       u.t.tepc = s.t.pc &&& ~~~(3#64) ∧ u.t.pc = s.t.tvec &&& ~~~(127#64)) ∧
  (∀ (d a m : Nat) (s : State) (old : RegionRep), s.Clear → s.checks (.repl d a m) = none → (s.mReg m).v = true →
     old = s.caches.region (regionOf (s.mReg m).phys) →
     let big := ∃ l p, s.pageOf (mySlot s) (s.mReg m).vbase.toNat = .page l p ∧ l.size = 2 ^ 21
     let small := (∃ l p, s.pageOf (mySlot s) (s.mReg m).vbase.toNat = .page l p ∧ l.size ≠ 2 ^ 21) ∨
       ∃ p, s.pageOf (mySlot s) (s.mReg m).vbase.toNat = .absent p
     let n := (s.sReg a).toNat
     let ends (x : DWord) (new : RegionRep) : Prop :=
       ∃ u, exec (.repl d a m) s = .next u ∧ s.Past u 1 ∧ oneReady s u ∧ AccessFrame s u ∧ u.mem = s.mem ∧ s.KeepsS u [d] ∧
         u.t.v = s.t.v ∧ u.sReg d = x ∧ u.caches = { s.caches with regions := u.caches.regions } ∧
         u.caches.region (regionOf (s.mReg m).phys) = new ∧
         ∀ k, k ≠ regionOf (s.mReg m).phys → u.caches.region k = s.caches.region k
     (n < 4 → (s.mReg m).limit ≠ 0 → big → old.pin = none ∨ old.pin = some s.t.ctx →
       ends 1 { old with pin := some s.t.ctx, level := n }) ∧
     (n = 4 → (s.mReg m).limit ≠ 0 → big → old.pin = some s.t.ctx → ends 1 { old with pin := none }) ∧
     (n = 4 → (s.mReg m).limit ≠ 0 → big → old.pin = none → ends 0 old) ∧
     (∀ c, n ≤ 4 → (s.mReg m).limit ≠ 0 → big → old.pin = some c → c ≠ s.t.ctx → ends 0 old) ∧
     (4 < n ∨ (s.mReg m).limit = 0 → ends 0 old) ∧ (n ≤ 4 → (s.mReg m).limit ≠ 0 → small → ends 0 old))

/-! ### Barriers, engines and work lists -/

/-- R261, R262: an arrival that may be made sets A and W of the team and counts; the arrival that makes the count that of
the members completes the phase: C and every A are zero again and P turns; a team whose A is 1 is not ready.

R261, R264: WAIT and TWAIT go on, and change nothing but s_d := 0, exactly when P differs from the W of the team; until
then a WAIT stays where it is.

R262: SYNC is its arrival and then its wait: the member that completes the phase goes on at once; any other has arrived
and stays, with ARR set, and goes on when the phase has completed.

R206, R264: when the limit of a TWAIT has passed with its phase open and no boundary cause has abandoned the wait, s_d := 1
and the team goes on. -/
def Obligations.Barriers : Prop :=
  (∀ (i : Instr) (cls n : Nat) (s : State) (b : Barrier), s.Clear → s.checks i = none →
     ((i = .arrk n ∧ cls = 0) ∨ (i = .arrq n ∧ cls = 1) ∨ (i = .arrg n ∧ cls = 2)) → s.grantsDone s.t.tid = true →
     b = s.myBar cls n → b.gone = [] →
     (s.t.tid ∈ b.arr → exec i s = .next (s.hold .bar)) ∧
     (s.t.tid ∉ b.arr → ∃ u, exec i s = .next u ∧ s.Past u 1 ∧
       u = { s with t := s.t.placeOf u.t, blocks := u.blocks, quads := u.quads, grids := u.grids } ∧
       ((u.myBar cls n).w.contains s.t.tid = b.p) ∧ (u.myBar cls n).mem = b.mem ∧
       (b.c + 1 = b.mem.length → (u.myBar cls n).c = 0 ∧ (u.myBar cls n).arr = [] ∧ (u.myBar cls n).p = !b.p) ∧
       (b.c + 1 ≠ b.mem.length → (u.myBar cls n).c = b.c + 1 ∧ (u.myBar cls n).arr = b.arr ++ [s.t.tid] ∧
         (u.myBar cls n).p = b.p))) ∧
  (∀ (i : Instr) (cls n d b : Nat) (s : State), s.Clear →
     (((i = .waitk n ∧ cls = 0) ∨ (i = .waitq n ∧ cls = 1) ∨ (i = .waitg n ∧ cls = 2)) → s.checks i = none →
       ((s.myBar cls n).p ≠ (s.myBar cls n).w.contains s.t.tid → ∃ u, exec i s = .next u ∧ s.Past u 1 ∧ s.OnlyPlace u) ∧
       ((s.myBar cls n).p = (s.myBar cls n).w.contains s.t.tid → exec i s = .next (s.hold .bar))) ∧
     (s.checks (.twait d n b) = none → s.t.wait = .none →
       ((s.myBar (n / 64) (n % 64)).p ≠ (s.myBar (n / 64) (n % 64)).w.contains s.t.tid →
         ∃ u, exec (.twait d n b) s = .next u ∧ s.Past u 1 ∧ s.OnlyS u ∧ s.KeepsS u [d] ∧ u.sReg d = 0) ∧
       ((s.myBar (n / 64) (n % 64)).p = (s.myBar (n / 64) (n % 64)).w.contains s.t.tid →
         exec (.twait d n b) s = .next (s.hold (.twait (s.pkg.clk.toNat + (s.sReg b).toNat) n d))))) ∧
  (∀ (i : Instr) (cls n : Nat) (s : State) (b : Barrier), s.Clear → s.checks i = none →
     ((i = .synck n ∧ cls = 0) ∨ (i = .syncq n ∧ cls = 1) ∨ (i = .syncg n ∧ cls = 2)) → s.grantsDone s.t.tid = true → b = s.myBar cls n → b.gone = [] →
     (s.t.cl.arr = false → s.t.tid ∉ b.arr → b.c + 1 = b.mem.length →
       ∃ u, exec i s = .next u ∧ s.Past u 1 ∧ (u.myBar cls n).p = !b.p ∧ (u.myBar cls n).c = 0 ∧ u.t.s = s.t.s ∧
         u.mem = s.mem) ∧
     (s.t.cl.arr = false → s.t.tid ∉ b.arr → b.c + 1 ≠ b.mem.length →
       ∃ u, exec i s = .next u ∧ u.t.pc = s.t.pc ∧ u.t.cl.arr = true ∧ u.t.wait = .bar ∧ (u.myBar cls n).c = b.c + 1 ∧
         (u.myBar cls n).arr = b.arr ++ [s.t.tid]) ∧
     (s.t.cl.arr = true → b.p ≠ b.w.contains s.t.tid → ∃ u, exec i s = .next u ∧ s.Past u 1 ∧ u.t.cl.arr = false ∧
       s.OnlyPlace u) ∧
     (s.t.cl.arr = true → b.p = b.w.contains s.t.tid → exec i s = .next (s.hold .bar))) ∧
  (∀ (d : Nat) (s : State), s.t.life = .live → s.t.infl = [] → s.t.recent = [] → (s.t.pendB = [] ∨ s.t.hnd = true) →
     s.t.wait = .expired d →
     ∃ u, exec (.twaitTimeout s.t.tid) s = .next u ∧ s.Past u 1 ∧ s.OnlyS u ∧ s.KeepsS u [d] ∧ u.sReg d = 1)

/-- R265: CPY, CPYT and MERGE that can start answer in s_d the sequence number of their operation, which is then
outstanding with the operands read, and counted against the quota.

R270, R265: a CPY whose range is within a region of its context, with a channel, quota and barrier free and no line of
its destination owned, starts. -/
def Obligations.EngineOperationsStart : Prop :=
  (∀ (i : Instr) (d a b kind : Nat) (l : Word) (s s1 : State) (ops : List DWord) (x : DWord) (on : Until),
     s.Clear → s.checks i = none → s.t.eseq < 2 ^ 14 →
     ((i = .cpy d a b l ∧ kind = 0 ∧ ops = [s.sReg a, s.sReg (a + 1), s.sReg b] ∧
         s.startCpy l s.t.mode ops = .go s1 (some x) on) ∨
      (i = .cpyt d a b l ∧ kind = 1 ∧ ops = [s.sReg a, s.sReg (a + 1), s.sReg b] ∧
         s.startCpyt s.recordWho i.word l s.t.mode ops s.t.wait.recs = .go s1 (some x) on) ∨
      (i = .merge d a b l ∧ kind = 2 ∧ ops = [s.sReg a, s.sReg b] ∧
         s.startMerge s.recordWho i.word l s.t.mode ops s.t.wait.recs = .go s1 (some x) on)) →
     ∃ u o, exec i s = .next u ∧ s.Past u 2 ∧ oneReady s u ∧ (u.sReg d).toNat = s.t.eseq ∧ s.KeepsS u [d] ∧
       u.t.eseq = (s.t.eseq + 1) % 2 ^ 14 ∧ u.t.quota = s.t.quota + 1 ∧ (s.caches.counted = [] → u.mem = s.mem) ∧ u.t.v = s.t.v ∧
       u.eops = s.eops ++ [o] ∧ o.kind = kind ∧ o.tid = s.t.tid ∧ o.seq = s.t.eseq ∧ o.lit = l ∧ o.mode = s.t.mode ∧
       o.ops = ops ∧ o.sent = false) ∧
  (∀ (l : Word) (dst src len : DWord) (s : State), s.Plain → s.link.reqs = [] → eARR l = false → s.t.quota < 16 →
     len.toNat < 2 ^ 36 → s.inRegion (mySlot s) dst.toNat len.toNat = true →
     s.inRegion (mySlot s) src.toNat len.toNat = true →
     ∃ s1 on, s.startCpy l s.t.mode [dst, src, len] = .go s1 (some (BitVec.ofNat 64 s.t.eseq)) on)

/-- R97, R267, R270: a CPY within one sector of its source and one of its destination, both in local memory, copies its
bytes and no other, ends, and leaves the record of STATUS 0 with its length in its team's queue.

R403: an operation that a fault stops, its grants made so far as they can be, keeps its lines, and its FAULT is outstanding with
the page, that one page alone (log 34's choice); no byte changes. -/
def Obligations.EngineOperationsEnd : Prop :=
  (∀ (o : EngOp) (s : State) (t : Team) (dst src len : DWord) (pd ps slot : Nat),
     s.eops = [o] → s.poison = [] → s.seals = [] → s.caches.counted = [] → s.link.wacks = [] →
     o.kind = 0 → o.status = none → o.sent = false → o.stopped = false → o.fseq = 0 → o.olds = [] →
     eARR o.lit = false → eNOREC o.lit = false → o.ops = [dst, src, len] → 0 < len.toNat →
     dst.toNat % 32 + len.toNat ≤ 32 → src.toNat % 32 + len.toNat ≤ 32 →
     dst.toNat % 2 ^ 56 + len.toNat ≤ 2 ^ 56 → src.toNat % 2 ^ 56 + len.toNat ≤ 2 ^ 56 →
     s.slotOf o.ctx = some slot → s.ctxEnding o.ctx = false →
     s.xlate slot dst.toNat len.toNat false true = .ok pd → isLocal pd = true →
     s.xlate slot src.toNat len.toNat true false = .ok ps → isLocal ps = true →
     t ∈ s.t :: s.others → t.life = .live → t.tid = o.tid → (∀ x ∈ s.t :: s.others, x.tid = o.tid → x = t) →
     ∃ u t', exec (.engineOperationComplete o.u) s = .next u ∧ u.memNat pd len.toNat = s.memNat ps len.toNat ∧
       s.KeepsBytes u [(pd, len.toNat)] ∧ u.eops = [] ∧ u.team? o.tid = some t' ∧
       t'.evq = t.evq ++ [⟨BitVec.ofNat 64 (eTAG o.lit * 2 ^ 52 + o.seq * 2 ^ 32 + len.toNat), none⟩] ∧ t'.s = t.s ∧
       t'.v = t.v) ∧
  (∀ (o : EngOp) (s s1 : State) (slot c p : Nat) (w : Bool),
     s.engReadyOp o.u = some (s1, slot, o) → (s.slotOf o.ctx).isSome = true → o.stopped = false →
     s1.engFault slot o = some (c, p, w) →
     ∃ u o', exec (.engineOperationStopped o.u) s = .next u ∧ u.mem = s.mem ∧ u.t = { s.t with infl := u.t.infl } ∧
       u.eops.find? (fun e => e.u == o.u) = some o' ∧ o'.fseq ≠ 0 ∧ o'.lines = o.lines ∧
       o'.pages = [BitVec.ofNat 64 (pageEntry p c (!w) w)] ∧
       (u.slot slot).faults.map (·.fseq) = (s.slot slot).faults.map (·.fseq) ++ [o'.fseq])

/-- R268: EVWAIT and EVPOP take the oldest record of the team's queue and give back its unit of the quota; of an empty
queue EVPOP answers all ones, and EVWAIT waits. -/
def Obligations.EventRecords : Prop :=
  ∀ (d : Nat) (s : State), s.Clear →
    (∀ i ∈ [Instr.evwait d, Instr.evpop d], ∀ r rest, s.checks i = none → s.t.evq = r :: rest →
      ∃ u, exec i s = .next u ∧ s.Past u 1 ∧ u.sReg d = r.data ∧ s.KeepsS u [d] ∧ u.t.evq = rest ∧
        u.t.quota = s.t.quota - 1 ∧
        u = { s with t := { s.t.placeOf u.t with s := u.t.s, evq := u.t.evq, quota := u.t.quota } }) ∧
    (s.checks (.evpop d) = none → s.t.evq = [] →
      ∃ u, exec (.evpop d) s = .next u ∧ s.Past u 1 ∧ u.sReg d = 0xFFFFFFFFFFFFFFFF ∧ s.KeepsS u [d] ∧ s.OnlyS u) ∧
    (s.checks (.evwait d) = none → s.t.evq = [] → exec (.evwait d) s = .next (s.hold .event))

/-- R44, R276: CMPCT appends the item of each active lane, in ascending lane order, to a list with room for them all.

R44, R277: WLTAKE takes items, in some order, for the lowest active lanes; the other active lanes get the word that
says none; of an empty list in a quiet grid every active lane gets the word that says so.

R45: a running grid whose lists are empty, with no block left to place and every team idle, becomes quiet. -/
def Obligations.WorkLists : Prop :=
  (∀ (a b n : Nat) (s : State), s.Clear → s.checks (.cmpct a b) = none → s.t.passes ≠ [] → s.t.wait = .none →
     (s.grid? s.t.gid).isSome = true → n = (s.sReg b).toNat → s.listOk n = true →
     (s.listOf n).length + (onLanes s).length ≤ s.myRec.wlcap →
     ∃ u, exec (.cmpct a b) s = .next u ∧ s.Past u 1 ∧ oneReady s u ∧
       u.listOf n = s.listOf n ++ (onLanes s).map (fun l => s.vReg (a + 1) l ++ s.vReg a l) ∧
       (∀ k, k ≠ n → u.listOf k = s.listOf k) ∧
       u = { s with t := { s.t.placeOf u.t with infl := u.t.infl }, grids := u.grids, uid := u.uid }) ∧
  (∀ (d a n : Nat) (s : State), s.Clear → s.checks (.wltake d a) = none → s.t.passes ≠ [] →
     (s.grid? s.t.gid).isSome = true → n = (s.sReg a).toNat → s.listOk n = true →
     ((s.listOf n ≠ [] ∧ onLanes s ≠ []) ∨ s.myGrid.quiet = true) →
     ∃ u order, exec (.wltake d a) s = .next u ∧ s.Past u 1 ∧ s.KeepsV u [d, d + 1] ∧ u.t.s = s.t.s ∧ u.mem = s.mem ∧
       List.Perm order (s.listOf n) ∧ u.listOf n = order.drop (min (onLanes s).length order.length) ∧
       ∀ k, k < (onLanes s).length → ∀ l, (onLanes s)[k]? = some l →
         u.vReg (d + 1) l ++ u.vReg d l = order.getD k
           (if order = [] then 0xFFFFFFFF00000001 else 0xFFFFFFFF00000000)) ∧
  (∀ (g : Grid) (s : State), s.grid? g.gid = some g → g.st = .running → g.quiet = false →
     (∀ l ∈ g.lists, l = []) → g.next = g.lrec.nBlocks →
     (∀ t ∈ s.teams, t.gid = g.gid → t.wait = .wltake ∨ t.life = .exited) →
     ∃ u, exec (.workListQuiet g.gid) s = .next u ∧ u.grid? g.gid = some { g with quiet := true } ∧
       u = { s with grids := u.grids })

/-! ### Tiles and the matrix engine -/

/-- R296, R301, R445: where the quad's port is free, MZERO leaves the tile zero with bound +0 and PROP clear; MBRD reads the
row bounds, or the status word, to the lanes; MBWR clears status bits and, where bit 2 says so, raises every row bound to
the value given. -/
def Obligations.TilesAndBounds : Prop :=
  ∀ (d a b : Nat) (s : State), s.Clear →
    (s.checks (.mzero d) = none → s.tileCauses (Instr.mzero d).word d [] = [] →
      portFree s (accTiles d (mACC s.t.mode)) →
      ∃ u, exec (.mzero d) s = .next u ∧ s.Past u 1 ∧ oneReady s u ∧
        u = { s with t := { s.t.placeOf u.t with infl := u.t.infl }, quads := u.quads, uid := u.uid } ∧
        (∀ r, r < 128 → u.myQuad.accRow s.t.gid (mACC s.t.mode) d r = List.replicate 128 0 ∧
          u.myQuad.bound s.t.gid d r = 0) ∧ u.myQuad.stat s.t.gid d &&& 4 = 0) ∧
    (s.checks (.mbrd d a b) = none → s.t.lanes ≤ 1024 → (s.sReg b).toNat < 2 → portFree s [a] →
      ∃ u, exec (.mbrd d a b) s = .next u ∧ s.Past u 1 ∧ oneReady s u ∧ s.KeepsV u [d] ∧ u.quads = s.quads ∧
        u.mem = s.mem ∧ u.t.s = s.t.s ∧ ∀ l, l < s.t.lanes → u.vReg d l =
          if s.sReg b = 1 then s.myQuad.stat s.t.gid a else if l < 128 then s.myQuad.bound s.t.gid a l else 0) ∧
    (s.checks (.mbwr a b) = none → bits (s.sReg b).toNat 31 3 = 0 → portFree s [a] →
      ∃ u, exec (.mbwr a b) s = .next u ∧ s.Past u 1 ∧ oneReady s u ∧
        u = { s with t := { s.t.placeOf u.t with infl := u.t.infl }, quads := u.quads, uid := u.uid } ∧
        u.myQuad.stat s.t.gid a = s.myQuad.stat s.t.gid a &&& ~~~(BitVec.ofNat 32 ((s.sReg b).toNat % 4)) ∧
        ∀ r, r < 128 → u.myQuad.bound s.t.gid a r =
          if bits (s.sReg b).toNat 2 2 = 1 then
            boundMax (s.myQuad.bound s.t.gid a r) (readBound ((s.sReg b).toNat / 2 ^ 32))
          else s.myQuad.bound s.t.gid a r)

/-- R142, R296, R300: where the quad's port is free, MLD puts the rows that its record gives, with their bounds, in the
tile, and zero in the rest; the bound of a row with an element that is not finite is +∞; MCVT puts in its destination each
row converted and back. -/
def Obligations.TileRows : Prop :=
  ∀ (d a b : Nat) (s : State), s.Clear → s.Plain →
    (mACC s.t.mode = 1 → s.myQuad.phys s.t.gid d ≠ s.myQuad.phys s.t.gid (d + 1)) →
    (∀ (bs : List Byte) (row : Nat → List Nat × Word), s.checks (.mld d a) = none →
      s.tileCauses (Instr.mld d a).word d [] = [] → (s.sReg a).toNat % 64 = 0 →
      portFree s (accTiles d (mACC s.t.mode)) →
      s.readRecord s.recordWho (s.sReg a).toNat 64 = .ok bs → mldOk (Tlr.of bs) (mACC s.t.mode) = true →
      (∀ r ∈ mldRows (Tlr.of bs),
        (s.recordReads (mySlot s) [((s.sReg a).toNat, 64)]).1.mldRow (mySlot s) s.recordWho s.uid (Tlr.of bs) r = .ok (row r) ∧
          (row r).1.length ≤ 128) →
      ∃ u, exec (.mld d a) s = .next u ∧ s.Past u 1 ∧ oneReady s u ∧ s.SlotsKept u ∧
        u = { s with t := { s.t.placeOf u.t with infl := u.t.infl }, quads := u.quads, uid := u.uid,
                     caches := u.caches, ctxs := u.ctxs } ∧
        ∀ r, r < 128 →
          u.myQuad.accRow s.t.gid (mACC s.t.mode) d r =
            (if r < (Tlr.of bs).rows then
              (row r).1.map (· % 2 ^ (if mACC s.t.mode = 1 then 64 else 32)) ++ List.replicate (128 - (row r).1.length) 0
             else List.replicate 128 0) ∧
          u.myQuad.bound s.t.gid d r =
            if r < (Tlr.of bs).rows then
              if (match accFmt (mACC s.t.mode) with | some f => (row r).1.any f.nonFinite | none => false) then boundInf
              else (row r).2
            else 0) ∧
    (s.checks (.mcvt d a b) = none → s.tileCauses (Instr.mcvt d a b).word a [] = [] →
      d ∉ accTiles a (mACC s.t.mode) → d < s.myTiles.length → b ≠ 1 → b < 9 → mACC s.t.mode ≠ 2 →
      etOn s.pkg.profH b = true → sfPairs (mSF s.t.mode) b = true →
      portFree s (d :: accTiles a (mACC s.t.mode)) →
      ∃ u, exec (.mcvt d a b) s = .next u ∧ s.Past u 1 ∧ oneReady s u ∧ u.mem = s.mem ∧ u.t.v = s.t.v ∧ u.t.s = s.t.s ∧
        ∀ r, r < 128 →
          let row := s.drainRow s.t.mode s.t.srng a r r b (mSF s.t.mode) 128
          u.myQuad.accRow s.t.gid 0 d r = ((List.zip (List.range 128) row.1.raws).map fun e =>
            cvtBack b (if mSF s.t.mode = 1 then row.1.scales.getD (e.1 / 32) 127 else 127) e.2 % 2 ^ 32) ∧
          u.myQuad.bound s.t.gid d r = row.2)

/-- R297, R298: where the quad's port is free, MDRN and MDRS write the image of the drained rows, in order, to vector
registers and to the scratchpad, and with BEN their bounds to v_VBND and to XTRA, and MDRF sends each row to its stream. MDRN
of a team whose lanes are no multiple of 32, with more bounds than lanes, or with VBND at or above V is Illegal-Instruction.

R299: MDRM writes them to memory as an engine operation, and waits for its window writes. That all of it happens at the
instruction's turn at the port, in the issuing step where the port is free, is the model's choice: log 38 for MDRS, log 75
for MDRM, whose flag counts down later. -/
def Obligations.DrainsWriteImages : Prop :=
  ∀ (d a b : Nat) (s : State), s.Clear → s.Plain → s.t.lanes ≤ 1024 →
    portFree s (accTiles a (mACC s.t.mode)) →
    let et := mET s.t.mode
    let rows := s.drainRows (s.portOp .nop [] [] [] []) (s.sReg b) a et (mSF s.t.mode) 128
    let img := drainImage et rows
    let ben := dBEN (s.sReg b)
    (∀ i ∈ [Instr.mdrn d a b, .mdrs d a b], s.checks i = none → s.tileCauses i.word a [] = [] →
      drainOk (s.sReg b) (i == .mdrs d a b) (i == .mdrn d a b) true = true →
      s.drainType i.word s.t.mode et (mSF s.t.mode) (drainEt et) = [] →
      (i = .mdrn d a b → s.t.lanes % 32 = 0 → 0 < s.t.lanes → dVBND (s.sReg b) < s.t.vregs →
        (ben = true → dCNT (s.sReg b) < s.t.lanes) →
        ∃ u, exec i s = .next u ∧ s.Past u 1 ∧ oneReady s u ∧ u.mem = s.mem ∧ u.blocks = s.blocks ∧ u.t.s = s.t.s ∧
          (ben = true → ∀ k, k ≤ dCNT (s.sReg b) → some (u.vReg (dVBND (s.sReg b)) k) = rows[k]?.map (·.2)) ∧
          ∀ k l, l < s.t.lanes → 4 * (k * s.t.lanes + l) + 4 ≤ img.length →
            ben = false ∨ d + k ≠ dVBND (s.sReg b) ∨ dCNT (s.sReg b) < l →
            (u.vReg (d + k) l).toNat = leNat ((img.drop (4 * (k * s.t.lanes + l))).take 4)) ∧
      (∀ blk, i = .mdrs d a b → s.myBlock? = some blk →
        img.length = (dCNT (s.sReg b) + 1) * (128 / etCount et * etBytes et + (if mSF s.t.mode = 1 then 4 else 0)) →
        (s.sReg d).toNat % 32 = 0 → (s.sReg d).toNat + img.length ≤ blk.scratchSize →
        let bnds := if ben then rows.flatMap fun r => leBytes 4 r.2.toNat else []
        let at_ := dXTRA (s.sReg b)
        (ben = true → at_ % 4 = 0 ∧ at_ + bnds.length ≤ blk.scratchSize) →
        ∃ u blk', exec i s = .next u ∧ s.Past u 1 ∧ oneReady s u ∧ u.mem = s.mem ∧ u.t.s = s.t.s ∧ u.t.v = s.t.v ∧
          u.block? blk.bid = some blk' ∧
          (at_ + bnds.length ≤ (s.sReg d).toNat ∨ (s.sReg d).toNat + img.length ≤ at_ ∨ ben = false →
            sgets 0 (s.sReg d).toNat img.length blk'.scratch = img) ∧
          (ben = true → sgets 0 at_ (4 * (dCNT (s.sReg b) + 1)) blk'.scratch = bnds) ∧
          ∀ o, o < (s.sReg d).toNat ∨ (s.sReg d).toNat + img.length ≤ o → o < at_ ∨ at_ + bnds.length ≤ o →
            sget 0 o blk'.scratch = sget 0 o blk.scratch)) ∧
    (s.checks (.mdrn d a b) = none → s.tileCauses (Instr.mdrn d a b).word a [] = [] →
      drainOk (s.sReg b) false true true = false ∨ s.t.lanes % 32 ≠ 0 ∨ (ben = true ∧ s.t.lanes ≤ dCNT (s.sReg b)) ∨
        s.t.vregs ≤ dVBND (s.sReg b) →
      s.t.pendB = [] → s.t.hnd = false → s.t.tvec.toNat % 2 = 1 →
      ∃ u, exec (.mdrn d a b) s = .next u ∧ u.mem = s.mem ∧ u.quads = s.quads ∧ u.t.v = s.t.v ∧ u.t.s = s.t.s ∧
        u.t.tcause = 0x80000002 ∧ u.t.frec = BitVec.ofNat 64 (Instr.mdrn d a b).word.toNat ∧
        u.t.tepc = s.t.pc &&& ~~~(3#64) ∧ u.t.pc = s.t.tvec &&& ~~~(127#64)) ∧
    (∀ (bs : List Byte) (pcs : Nat → List (Nat × Nat × List Byte)), s.checks (.mdrm d a b) = none →
      s.tileCauses (Instr.mdrm d a b).word a [] = [] → drainOk (s.sReg b) true false false = true →
      (s.sReg d).toNat % 64 = 0 → s.readRecord s.recordWho (s.sReg d).toNat 64 = .ok bs →
      s.mdrmCauses (Instr.mdrm d a b).word s.t.mode (s.sReg d) (s.sReg b) bs = [] →
      s.mdrmReady (mySlot s) (s.sReg d) (s.sReg b) bs = true →
      (∀ k, k ≤ dCNT (s.sReg b) →
        let r := s.drainRow s.t.mode s.t.srng a (dFIRST (s.sReg b) + k) k (Tlr.of bs).et (Tlr.of bs).sf (Tlr.of bs).dim0
        (drainState s d b bs).drainPa (mySlot s) s.uid (drainPieces (Tlr.of bs) (dXTRA (s.sReg b) + k) r.1 r.2) =
            .ok (pcs k) ∧
          ∀ p ∈ pcs k, isLocal p.1 = true) →
      ∃ u o f, exec (.mdrm d a b) s = .next u ∧ s.Past u 1 ∧ u.t.s = s.t.s ∧ u.t.v = s.t.v ∧
        u.eops = [o] ∧ o.kind = 3 ∧ o.u = s.uid ∧ u.t.infl = [f] ∧ f.u = s.uid ∧ f.flag = s.t.nextFlag ∧ f.on = .window ∧
        u.mem = ((List.range (dCNT (s.sReg b) + 1)).flatMap pcs).foldl (fun m p => sputRun 0 p.1 p.2.2 m) s.mem) ∧
    (s.checks (.mdrf d a b) = none → s.tileCauses (Instr.mdrf d a b).word a [] = [] →
      drainOk (s.sReg b) false false false = true → et = 0 →
      s.drainType (Instr.mdrf d a b).word s.t.mode 0 (mSF s.t.mode) true = [] →
      s.streamKnown (s.sReg d).toNat = true → s.regs.rowAt ≠ s.fab ∨ s.regs.rowSrc ≤ s.t.core →
      ∃ u, exec (.mdrf d a b) s = .next u ∧ s.Past u 1 ∧ oneReady s u ∧ u.t.s = s.t.s ∧ u.t.v = s.t.v ∧
        let sent := s.drainRows (s.portOp .nop [] [] [] []) (s.sReg b) a 0 0 128
        u.regs.streams = ((List.zip (List.range sent.length) sent).foldl (fun s p =>
          s.rowArrive s.t.core (s.sReg d).toNat (dFIRST (s.sReg b) + p.1)
            (p.2.1.raws.map (BitVec.ofNat 32)) p.2.2) s).regs.streams)

/-- R280, R281, R284: MCREW of a good literal becomes the team's crew; MRSV answers true in p_d where its crew holds an
entry or takes a free one, and false where it queues; MREL takes a crew without a running operation out of the table. -/
def Obligations.CrewsAndReservations : Prop :=
  ∀ (d a : Nat) (l : Word) (s : State), s.Clear →
    (s.crewOk l = true → s.latched s.t.tid = false → ∃ u, exec (.mcrew l) s = .next u ∧ s.Past u 2 ∧
      u = { s with t := { s.t.placeOf u.t with crew := l } }) ∧
    (s.checks (.mrsv d a) = none → s.t.lanes ≤ 1024 → s.t.crew ≠ 0 → (s.entryIn s.t.crew).isSome →
      (s.sReg a).toNat < 4 → s.engineOn (quadOf s.t.core) = true →
      ∃ u, exec (.mrsv d a) s = .next u ∧ s.Past u 1 ∧ u.mem = s.mem ∧ u.t.s = s.t.s ∧ u.t.v = s.t.v ∧ s.KeepsP u [d] ∧
        ((s.myQuad.resv.any fun r => r.key == s.myKey) = true → (∀ n, n < s.t.lanes → (u.pReg d).getLsbD n = true) ∧
          u.quads = s.quads) ∧
        ((s.myQuad.resv.any fun r => r.key == s.myKey) = false → (s.myQuad.rqueue.any fun r => r.key == s.myKey) = false →
          s.myQuad.resv.length < 8 → (∀ n, n < s.t.lanes → (u.pReg d).getLsbD n = true) ∧
            (u.myQuad.resv.any fun r => r.key == s.myKey) = true) ∧
        ((s.myQuad.resv.any fun r => r.key == s.myKey) = false → (s.myQuad.rqueue.any fun r => r.key == s.myKey) = false →
          8 ≤ s.myQuad.resv.length → (∀ n, n < s.t.lanes → (u.pReg d).getLsbD n = false) ∧
            (u.myQuad.rqueue.any fun r => r.key == s.myKey) = true)) ∧
    ((∀ e ∈ s.myQuad.mops, e.key ≠ s.myKey ∨ e.fired = false) →
      ∃ u, exec .mrel s = .next u ∧ s.Past u 1 ∧ u = { s with t := s.t.placeOf u.t, quads := u.quads } ∧
        (u.myQuad.resv.any fun r => r.key == s.myKey) = false ∧ (u.myQuad.rqueue.any fun r => r.key == s.myKey) = false)

/-- R285, R287: a member's MMJ, MMS, MMG or MMD arrives at its latch with its operands, and its completion waits for the
operation; MATRIX_LATCH_FIRE fires the latch at which every member has arrived, and posts its crew's request. -/
def Obligations.MatrixArrivesAndFires : Prop :=
  (∀ (i : Instr) (op d a b h : Nat) (l : Word) (s s1 : State), s.Clear → s.checks i = none →
    ((i = .mmj d a b l ∧ op = 0xEF) ∨ (i = .mms d a b l ∧ op = 0xF0) ∨ (i = .mmg d a b l ∧ op = 0xF1) ∨
     (i = .mmd d a b l ∧ op = 0xF2)) →
    s.matStart s.recordWho i.word op d l [s.sReg a, s.sReg b] = .go s1 none (.matrix h) →
    ∃ u m x, exec i s = .next u ∧ s.Past u 2 ∧ (∃ f, u.t.infl = [f] ∧ f.on = .matrix h ∧ f.flag = s.t.nextFlag) ∧
      (s.caches.counted = [] → u.mem = s.mem) ∧ u.t.s = s.t.s ∧ u.t.v = s.t.v ∧ m ∈ u.myQuad.mops ∧ m.u = h ∧ x ∈ m.arrived ∧ x.tid = s.t.tid ∧
      x.sa = s.sReg a ∧ x.sb = s.sReg b) ∧
  (∀ (q : Nat) (m : MOp) (s : State), m ∈ (s.quadD q).mops → (∀ o ∈ (s.quadD q).mops, o.u = m.u → o = m) →
    m.fired = false → m.arrived.length = bits m.key.crew.toNat 27 25 →
    ∃ u m', exec (.matrixLatchFire q m.u) s = .next u ∧ u.mem = s.mem ∧ u.t = s.t ∧ u.others = s.others ∧
      m' ∈ (u.quadD q).mops ∧ m'.u = m.u ∧ m'.fired = true ∧ m'.arrived.map (·.tid) = m.arrived.map (·.tid) ∧
      ((u.quadD q).resv.any (fun r => r.key == m.key) || (u.quadD q).rqueue.any fun r => r.key == m.key) = true)

/-- R280, R282, R295: a queued reservation of the highest class is admitted to a free entry; the operation the arbiter
chooses makes its pass; a complete operation leaves its quad, releases the instructions that wait for it, and leaves its
Non-Finite and Bound-Threshold causes pending in the teams of its crew. -/
def Obligations.MatrixOperationRuns : Prop :=
  (∀ (q : Nat) (s : State), (s.quads.any fun x => x.q == q) = true → (s.quadD q).resv.length < 8 →
    (s.quadD q).rqueue ≠ [] →
    ∃ u r, exec (.matrixReservationAdmit q) s = .next u ∧ r ∈ (s.quadD q).rqueue ∧ r ∈ (u.quadD q).resv ∧
      (∀ x ∈ (s.quadD q).rqueue, x.cls ≤ r.cls) ∧ u = { s with quads := u.quads }) ∧
  (∀ (q : Nat) (m m1 : MOp) (quad : Quad) (s : State), (s.quadD q).mops.find? (fun o => o.u == m.u) = some m →
    s.arbiter q = some m.u → s.grantPass q m = .ok (quad, m1) → s.caches.counted = [] →
    settled s →
    ∃ u m', exec (.matrixPass q m.u) s = .next u ∧ s.SlotsKept u ∧
      u = { s with quads := u.quads, caches := u.caches, ctxs := u.ctxs } ∧
      (u.quadD q).tiles = quad.tiles ∧ (u.quadD q).bounds = quad.bounds ∧ m' ∈ (u.quadD q).mops ∧
      m' = { m1 with reads := m'.reads }) ∧
  (∀ (q : Nat) (m : MOp) (s : State), (s.quadD q).mops.find? (fun o => o.u == m.u) = some m → m.fired = true →
    m.passed = true → m.fseq = 0 →
    ∃ u, exec (.matrixOperationComplete q m.u) s = .next u ∧ u.mem = s.mem ∧
      (∀ o ∈ (u.quadD q).mops, o.u ≠ m.u) ∧ (u.quadD q).tiles = (s.quadD q).tiles ∧
      (m.has s.t.tid = true → s.t.life = .live → (∀ f ∈ u.t.infl, f.on ≠ .matrix m.u) ∧
        (m.nf.isSome = true → (u.t.pendB.any fun d => d.cause == 10) = true) ∧
        (m.trip.isSome = true → (u.t.pendB.any fun d => d.cause == 11) = true)))

/-- R133, R136, R291: one pass adds to every element of the rows of its operation, in one rounding, the products of the
step's elements of A and B, and leaves the columns beyond N; what pads a step that is not full is no term. A wide pass does the
same to the FP64 accumulator (R151).

R142, R143: under FP32 and FP64 accumulation each row's bound gains rho times the largest ulp of the row's rounded values, and
is +∞ where one is not finite; rows that the operation has not keep theirs. R144: under INT32 accumulation an element is the
exact sum, and the bound stays, unless a sum leaves the range: then the element clamps under SAT and the bound gains the largest
excess, or wraps and the bound is +∞.

R146, R147: where BPROP is set, a step after the last pass adds P_i to each row's bound, computed from the elements and
bounds of A and B as they are read, every sum and product rounded towards +∞.

R139, R149 to R151: at the end PROP is as BPROP; with EN set, the lowest row that fails the threshold test is in TROW with TRIP
set, and is left to be reported; where the operation may be re-issued it starts again from the tile and bounds that the wide
store holds, in FP64, from the generator as it was; at the end of that each element is rounded to FP32, and its row's bound
gains rho times the largest ulp. -/
def Obligations.PassAccumulates : Prop :=
  (∀ (q : Quad) (m : MOp) (gen : Word) (a b : List (List Elem)) (i j : Nat),
    m.wide = false → mACC m.mode = 0 → a.length ≤ 128 → i < a.length → j < 128 →
    elemOf 32 0 (((q.pass m gen a b).accRow m.key.gid 0 (m.tile m.group) i).getD j 0) =
      if j < mmN m.lit then
        Fmt.fp32.round (m.rm gen i) (Ex.sum (mRND m.mode)
          (Fmt.fp32.dec ((q.accRow m.key.gid 0 (m.tile m.group) i).getD j 0) ::
            (List.zip (a.getD i []) b).map fun x => elemMul m.op (mET m.mode) x.1 (x.2.getD j ⟨false, 0, 127⟩))) % 2 ^ 32
      else (q.accRow m.key.gid 0 (m.tile m.group) i).getD j 0) ∧
  (∀ (q : Quad) (m : MOp) (gen : Word) (a b : List (List Elem)) (i j : Nat), a.length ≤ 128 → i < 128 → j < 128 →
    let u := q.pass m gen a b
    let old := (q.workRow m i).getD j 0
    let new := (u.workRow m i).getD j 0
    let f := if m.wide = true ∨ mACC m.mode = 1 then Fmt.fp64 else Fmt.fp32
    let width := if m.wide = true ∨ mACC m.mode = 1 then 64 else 32
    (a.length ≤ i → new = old ∧ rowBound u m i = rowBound q m i) ∧
    (i < a.length → (m.wide = true ∧ q.wide.isSome) ∨ (m.wide = false ∧ (mACC m.mode = 0 ∨
        (mACC m.mode = 1 ∧ q.phys m.key.gid (m.tile m.group) ≠ q.phys m.key.gid (m.tile m.group + 1)))) →
      (j < mmN m.lit → new = f.round (m.rm gen i) (Ex.sum (mRND m.mode) (f.dec old ::
        (List.zip (a.getD i []) b).map fun x => elemMul m.op (mET m.mode) x.1 (x.2.getD j ⟨false, 0, 127⟩))) %
          2 ^ width) ∧
      (mmN m.lit ≤ j → new = old) ∧
      rowBound u m i = passAdds f (mRND m.mode) (rowBound q m i) ((u.workRow m i).take (mmN m.lit))) ∧
    (i < a.length → m.wide = false → mACC m.mode = 2 → mET m.mode = 9 ∨ mET m.mode = 10 ∨ mET m.mode = 16 →
      let sum (j : Nat) : Int := intSum m ((q.workRow m i).getD j 0) (a.getD i []) b j
      let fits (x : Int) : Prop := -2 ^ 31 ≤ x ∧ x < 2 ^ 31
      let excess (x : Int) : Nat := (x - max (-2 ^ 31) (min (2 ^ 31 - 1) x)).natAbs
      (j < mmN m.lit → new = narrow 13 (mSAT m.mode) (sum j)) ∧ (mmN m.lit ≤ j → new = old) ∧
      ((∀ k, k < mmN m.lit → fits (sum k)) → rowBound u m i = rowBound q m i) ∧
      ((∃ k, k < mmN m.lit ∧ ¬fits (sum k)) → mSAT m.mode = false → rowBound u m i = boundInf) ∧
      (∀ k, k < mmN m.lit → ¬fits (sum k) → mSAT m.mode = true →
        (∀ l, l < mmN m.lit → excess (sum l) ≤ excess (sum k)) →
        rowBound u m i = boundPlus (rowBound q m i) (Ex.ofInt (excess (sum k)))))) ∧
  (∀ (n : Nat) (m : MOp) (live : List Nat) (a b : List (List Elem)) (da db : List Word) (s : State),
    let bound (x : Option Tlr) (r : Nat) : Got Word :=
      match x with | some t => t.readBoundOf (s.matRead m) r | none => .ok 0
    let known (l : List (List Elem)) : Prop := ∀ r ∈ l, ∀ e ∈ r, (e.val (mET m.mode)).isNan = false
    let total := (live.length + kGroup (mET m.mode) - 1) / kGroup (mET m.mode)
    mBPROP m.mode = true → s.liveK m = .ok live → total ≤ m.step →
    s.aOver m m.group (List.range (mmK m.lit)) = .ok a → s.bOver m m.group (List.range (mmK m.lit)) = .ok b →
    gotAll (fun k => bound (m.bTlr k) k) (List.range (mmK m.lit)) = .ok db →
    gotAll (fun i => match m.aSource m.group i with | some (_, t, r) => bound (some t) r | none => .ok 0)
      (List.range (m.rows m.group)) = .ok da →
    known a → known b →
    ∃ q, s.grantPass n m = .ok (q.endGroup m (total != 0)) ∧ q.tiles = (s.quadD n).tiles ∧
      q.bstat = (s.quadD n).bstat ∧
      ∀ i, i < 128 → rowBound q m i = match (List.zip a da)[i]? with
        | some (r, d) => boundPlus (rowBound (s.quadD n) m i) (propTerm m r d b db)
        | none => rowBound (s.quadD n) m i) ∧
  (∀ (q : Quad) (m : MOp) (ran : Bool) (u : Quad × MOp), u = q.endGroup m ran →
    let st := u.1.stat m.key.gid (m.tile m.group)
    let tested := bits m.bthr.toNat 8 8 = 1 ∧ ran = true
    let again := mBWIDE m.mode = true ∧ mACC m.mode = 0 ∧ m.wide = false
    let p := q.phys m.key.gid (m.tile m.group)
    st.getLsbD 2 = mBPROP m.mode ∧ st.getLsbD 0 = (m.wide || (q.stat m.key.gid (m.tile m.group)).getLsbD 0) ∧
    ((¬tested ∨ ∀ i, ¬failsTest q m i) → u.1.tiles = q.tiles ∧ u.1.bounds = q.bounds ∧ u.2.trip = m.trip ∧
      st.getLsbD 1 = (q.stat m.key.gid (m.tile m.group)).getLsbD 1) ∧
    (∀ i, tested → i < 128 → failsTest q m i → (∀ k, k < i → ¬failsTest q m k) →
      st.getLsbD 1 = true ∧ bits st.toNat 15 8 = i ∧
      (¬again → u.1.tiles = q.tiles ∧ u.1.bounds = q.bounds ∧
        u.2.trip = (match m.trip with | some x => some x | none => some (m.tile m.group, i))) ∧
      (∀ w, again → q.wide = some w → u.2.wide = true ∧ u.2.step = 0 ∧ u.2.gen = m.gen0 ∧ u.2.trip = m.trip ∧
        u.2.group = m.group ∧
        (∀ k, k < 16384 → sget 0 (16384 * p + k) u.1.tiles = sget 0 k w.tile) ∧
        (∀ k, k < 128 → sget 0 (128 * p + k) u.1.bounds = sget 0 k w.bound) ∧
        (swf (0 : Word) 0 w.tile = true → ∃ x, u.1.wide = some x ∧ ∀ k, k < 16384 →
          sget 0 k x.acc = BitVec.ofNat 64 (Fmt.fp64.round {} (Fmt.fp32.dec (sget 0 k w.tile).toNat)))))) ∧
  (∀ (q : Quad) (m : MOp) (gen : Word) (i j : Nat), m.wide = true → mACC m.mode = 0 → q.wide.isSome →
    m.rows m.group ≤ 128 → i < m.rows m.group → j < 128 →
    let u := q.narrow m gen
    let row := (q.workRow m i).map fun x => Fmt.fp32.round (m.rm gen i) (Fmt.fp64.dec x)
    (u.accRow m.key.gid 0 (m.tile m.group) i).getD j 0 =
      (if j < mmN m.lit then row.getD j 0 % 2 ^ 32 else (q.accRow m.key.gid 0 (m.tile m.group) i).getD j 0) ∧
    rowBound u m i = passAdds .fp32 (mRND m.mode) (rowBound q m i) (row.take (mmN m.lit)))

/-! ### Host messages -/

/-- R374, R375, R377: a host message out of sequence is answered with ERROR 5 and consumes no SEQ; one in sequence consumes
it, and of an unknown type, in a bad form, or before the lock, is answered with ERROR 1, 2 or 3; nothing else happens. That
reasons 1 and 2 come before 3, before the lock too, is the model's order (log 46).

R377, R378: a select of a set within the offered one, bit 0 kept, and of version 1 four times locks the selection and is
answered with a confirm that repeats it; any other select is ERROR 4, and one after the lock ERROR 3,
whatever its PHASE and dash fields hold (the model's choice, logs 46 and 50). -/
def Obligations.MessagesAndFeatures : Prop :=
  (∀ (i : Instr) (s : State), isMsgRow i = true → s.link.up = true → decodeMsg s.link.rx = i →
     let seq := s.link.rx.seq.toNat
     (seq ≠ s.link.rxseq → exec i s =
       .next (answers { s with link := { s.link with blocked := false } } 0x0C 0 (errorBytes seq 5 s.link.rxseq))) ∧
     (seq = s.link.rxseq → i = .unknownType →
       exec i s = .next (answers (heard s) 0x0C 0 (errorBytes seq 1 (heard s).link.rxseq))) ∧
     (seq = s.link.rxseq → i ≠ .unknownType → msgFormOk s.link.rx = false →
       exec i s = .next (answers (heard s) 0x0C 0 (errorBytes seq 2 (heard s).link.rxseq))) ∧
     (seq = s.link.rxseq → i ≠ .unknownType → i ≠ .featureSelect → msgFormOk s.link.rx = true → s.link.locked = false →
       exec i s = .next (answers (heard s) 0x0C 0 (errorBytes seq 3 (heard s).link.rxseq)))) ∧
  (∀ (s : State) (set : Nat), s.link.up = true → decodeMsg s.link.rx = .featureSelect →
     s.link.rx.seq.toNat = s.link.rxseq → msgFormOk s.link.rx = true → set = s.link.rx.field 8 16 →
     let m := s.link.rx
     let good := set < 1024 ∧ set % 2 = 1 ∧ m.field 0x18 8 = 0x0001000100010001 ∧ m.field 0x20 8 = 0x0001000100010001
     (s.link.locked = false → m.field 0 1 = 1 → m.field 1 7 = 0 → m.field 0x2C 4 = 0 → m.field 0x38 8 = 0 → good →
       exec .featureSelect s = .next (answers
         { taken s with link := { (taken s).link with locked := true, set := BitVec.ofNat 128 set } } 0x07 0
         (statusBytes 2 ++ leBytes 16 set ++ [1, 0, 1, 0, 1, 0, 1, 0] ++ [1, 0, 1, 0, 1, 0, 1, 0] ++
           leBytes 4 s.capDp.toNat ++ [0, 0, 0, 0] ++ statusBytes 1 ++ statusBytes 0))) ∧
     (s.link.locked = false → m.field 0 1 = 1 → m.field 1 7 = 0 → m.field 0x2C 4 = 0 → m.field 0x38 8 = 0 → ¬good →
       exec .featureSelect s =
         .next (answers (heard s) 0x0C 0 (errorBytes m.seq.toNat 4 (heard s).link.rxseq))) ∧
     (s.link.locked = true → exec .featureSelect s =
       .next (answers (heard s) 0x0C 0 (errorBytes m.seq.toNat 3 (heard s).link.rxseq))))

/-- R376: an MWR of a range of local memory stores its bytes and no other and is answered with STATUS 0; an MRD is answered
with the bytes; a range that is not wholly local is answered with STATUS 2 and nothing of it is written or read; an MRD of
register space is answered with what the register reads as.

R107, R392, R446, R447: a WRACK acknowledges the device write of its TAG; a good MRDRESP or MATOMRESP brings the value to
the register of the request with its TAG, and one that refuses the address leaves Permission decided. That a WRACK of
STATUS 1 or 2 acknowledges too, and that a TAG counts at whichever port it comes, are the model's (log 49).

R79, R106, R393, R446, R447: a peer's message through a port in service acts on local memory: an MWR stores the bytes that
FIRSTBE and LASTBE enable, an MRD is answered with the bytes, an MATOM makes one read and write and answers the old value
where RETURN asks for it, and one that reaches past local memory is answered with STATUS 2. A port that is not UP takes
nothing. Which types have a meaning there is the model's choice (log 49). -/
def Obligations.MemoryMessages : Prop :=
  (∀ (s : State) (a n : Nat) (data : List Byte), a < 2 ^ 44 →
     let m := s.link.rx
     (Arrives s .mwr → m.field 0 8 = a → data = m.payload.drop 8 →
       (a < Config.dramSize → a + data.length ≤ Config.dramSize → s.eops = [] → s.seals = [] → s.regs.towerlost = 0 →
         settled s →
         ∃ u, exec .mwr s = .next (answers u 0x0B 0 (statusBytes 0)) ∧ u.bytes a data.length = data ∧
           s.KeepsBytes u [(a, data.length)] ∧
           u = { taken s with mem := u.mem, poison := u.poison, caches := u.caches }) ∧
       (Config.dramSize ≤ a ∨ Config.dramSize < a + data.length →
         exec .mwr s = .next (answers (taken s) 0x0B 0 (statusBytes 2)))) ∧
     (Arrives s .mrd → m.field 0 8 = a → m.field 8 4 = n → m.field 0xC 4 = 0 → 8 ≤ n → n ≤ 4088 → n % 8 = 0 →
       (a + n ≤ Config.dramSize → s.eops = [] → s.poison = [] → s.regs.towerlost = 0 → settled s →
         s.caches.counted = [] →
         ∃ u, exec .mrd s = .next (answers u 0x0A 0 (statusBytes 0 ++ s.bytes a n)) ∧
           u = { taken s with caches := u.caches }) ∧
       (Config.dramSize < a + n →
         exec .mrd s = .next (answers (taken s) 0x0A 0 (statusBytes 2 ++ List.replicate n 0)))) ∧
     (Arrives s .mrd → m.field 0 8 = 2 ^ 63 + a → m.field 8 4 = 8 → m.field 0xC 4 = 0 →
       exec .mrd s = .next (answers (taken s) 0x0A 0 (match s.regRead false a with
         | some v => statusBytes 0 ++ leBytes 8 v
         | none => statusBytes 2 ++ List.replicate 8 0)))) ∧
  (∀ (s : State) (r : WinReq),
     let m := s.link.rx
     (Arrives s .hostWrack → m.field 0 1 ≤ 2 → m.field 1 7 = 0 → exec .hostWrack s = .next { taken s with
       link := { (taken s).link with
         wacks := s.link.wacks.filter fun w => w.1 != m.tag.toNat
         wlate := s.link.wlate.filter fun w => w.1 != m.tag.toNat } }) ∧
     (∀ i ∈ [Instr.hostMrdresp, .matomresp], Arrives s i → m.field 1 7 = 0 → s.link.reqs = [r] → r.tag = m.tag.toNat →
       r.bad = false → r.dead = false → r.tid = s.t.tid → r.tid ≠ 0 → s.t.life = .live → (r.op.kind = .load ↔ i = .hostMrdresp) →
       let x := leNat (((m.payload.drop 8).drop (if i = .hostMrdresp then r.pa - r.w0 else 0)).take r.op.size)
       (m.field 0 1 = 0 → ∃ u, exec i s = .next u ∧ u.link.reqs = [] ∧ u.mem = s.mem ∧
         u.t = { s.t with s := u.t.s, v := u.t.v, taint := u.t.taint, codeAt := u.t.codeAt } ∧
         (r.op.dst = .none → u.t.s = s.t.s ∧ u.t.v = s.t.v) ∧
         (∀ n, r.op.dst = .s n → u.sReg n = BitVec.ofNat 64 x ∧ s.KeepsS u [n] ∧ u.t.v = s.t.v) ∧
         (∀ n, r.op.dst = .v n → etPair r.op.et = false → r.acc.lane < 1024 → u.t.s = s.t.s ∧
           s.KeepsV u [n] ∧ ∀ l, l < 1024 →
             u.vReg n l = if l = r.acc.lane then BitVec.ofNat 32 x else s.vReg n l)) ∧
       (m.field 0 1 = 2 → ∃ u d, exec i s = .next u ∧ u.link.reqs = [] ∧ u.mem = s.mem ∧
         u.t = { s.t with dec := s.t.dec ++ [d] } ∧ d.cause = 7 ∧ d.frec = BitVec.ofNat 64 r.acc.ptr ∧ d.tepc = r.pc))) ∧
  (∀ (s u : State) (p : Nat) (m : HostMsg) (rest : List Act), s.clocked = true → s.acts = .peer p m :: rest →
     ({ s.tick with acts := rest }).peerMsg p m = some u → step s = .next u) ∧
  (∀ (s : State) (p a n : Nat) (m : HostMsg) (data : List Byte), a < 2 ^ 44 →
     let reply (u : State) (typ st : Nat) (bs : List Byte) : Option State :=
       some (u.send p typ 0 m.tag.toNat (statusBytes st ++ bs))
     (p = 0 ∨ 18 < p ∨ (s.pctl p).up = false → s.peerMsg p m = some s) ∧
     (1 ≤ p → p ≤ 18 → (s.pctl p).up = true → Config.dramSize < a + n →
       (m.typ = 0x08 → data = m.payload.drop 8 → data.length = n → m.field 0 8 = a →
         s.peerMsg p m = reply s 0x0B 2 []) ∧
       (m.typ = 0x09 → m.field 0 8 = a → m.field 8 4 = n → s.peerMsg p m = reply s 0x0A 2 (List.replicate n 0)) ∧
       (m.typ = 0x0D → m.field 0 8 = a → m.field 9 1 = n → s.peerMsg p m = reply s 0x0E 2 (leBytes 8 0))) ∧
     (1 ≤ p → p ≤ 18 → (s.pctl p).up = true → s.eops = [] → s.seals = [] → s.poison = [] → s.regs.towerlost = 0 →
       settled s → a + n ≤ Config.dramSize →
       (∀ fb lb, m.typ = 0x08 → data = m.payload.drop 8 → data.length = n → n % 8 = 0 → fb < 256 → lb < 256 →
         m.field 0 8 = a + 2 ^ 44 * lb + 2 ^ 52 * fb →
         ∃ u, s.peerMsg p m = reply u 0x0B 0 [] ∧ u = { s with mem := u.mem, caches := u.caches } ∧
           s.KeepsBytes u [(a, n)] ∧ ∀ k, k < n → u.byte (a + k) =
             if (k < 8 → fb = 0 ∨ fb.testBit k = true) ∧ (8 ≤ k → n ≤ k + 8 → lb = 0 ∨ lb.testBit (k % 8) = true)
             then data.getD k 0 else s.byte (a + k)) ∧
       (m.typ = 0x09 → m.field 0 8 = a → m.field 8 4 = n → s.caches.counted = [] →
         ∃ u, s.peerMsg p m = reply u 0x0A 0 (s.bytes a n) ∧ u = { s with caches := u.caches }) ∧
       (∀ code, m.typ = 0x0D → m.field 0 8 = a → m.field 8 1 = code → code ≤ 7 → m.field 9 1 = n → n = 4 ∨ n = 8 →
         a % n = 0 →
         let op : MemOp :=
           { kind := if code = 7 then .cas else .atom code, et := m.field 0xA 1, size := n, rnd := m.field 0xB 1 }
         ∃ u, s.peerMsg p m = reply u 0x0E 0 (leBytes 8 (if m.field 0xC 1 = 1 then s.memNat a n else 0)) ∧
           u = { s with mem := u.mem, caches := u.caches } ∧ s.KeepsBytes u [(a, n)] ∧
           u.memNat a n = atomNew op (s.memNat a n) (m.field 0x10 8 % 2 ^ (8 * n)) (m.field 0x18 8 % 2 ^ (8 * n)) %
             2 ^ (8 * n))))

/-- R384, R386, R387, R391: a LAUNCH whose record fails one of the eleven checks of R384 is answered with COMPLETE STATUS 1 and
the code of the first that fails; a gang without clusters passes the seventh just where some scope of its class takes it with
no other work resident; a context that has begun to end takes no launch (R407); one whose queue is full holds the link; any other is enqueued, Held while a prerequisite is an incomplete launch of the context and else
Queued at its class.

R193, R384, R385: LAUNCH reads its record, and answers 2^63 plus the code of the first check that fails, or enqueues a child of the team's
grid and answers its launch id, taken from 2^31 to 2^32 - 1; at the greatest depth it is Launch-Depth.

R194: CWAIT of 0 waits until every child that the team launched is complete, of an id until that child is, and answers 0;
of an id that it has not launched it answers 2^63 + 1 at once.

A record that has been judged and waits is not read or judged again, but for its context (log 83), and TAG of COMPLETE is 0
(log 45): the model's choices.

R35, R48, R106, R387, R391: a grid whose blocks have all retired, whose children are complete and whose teams' window writes
are acknowledged is complete: it is gone, a host launch is reported with COMPLETE STATUS 0, and a launch that was Held for
it alone is Queued. -/
def Obligations.Launches : Prop :=
  (∀ (s : State) (lid qsel : Nat) (r : LaunchRec), Arrives s .launchMsg → s.link.rx.field 0 4 = lid →
     s.link.rx.field 4 1 = qsel → qsel < 4 → s.link.rx.field 5 11 = 0 → r = LaunchRec.of (s.link.rx.payload.drop 16) →
     let ctx := s.link.rx.ctx.toNat
     let good := if s.link.judged = true then (s.slotOf ctx).isSome ∧ s.ctxEnding ctx = false
       else accepted (heard s) r (some (lid, ctx))
     (∀ c, s.link.judged = false → refusedWith (heard s) r (some (lid, ctx)) c → exec .launchMsg s =
       .next ((taken s).send 0 0x02 ctx 0 (completeBytes lid 1 c 0 s.pkg.clk.toNat 0))) ∧
     (s.link.judged = true → s.slotOf ctx = none ∨ s.ctxEnding ctx = true → exec .launchMsg s =
       .next ((taken s).send 0 0x02 ctx 0 (completeBytes lid 1 9 0 s.pkg.clk.toNat 0))) ∧
     (good → 256 ≤ s.qlevel (4 * r.prio + qsel) →
       exec .launchMsg s = .next { s with link := { s.link with blocked := true, judged := true } }) ∧
     (good → s.qlevel (4 * r.prio + qsel) < 256 →
       ∃ u g, exec .launchMsg s = .next u ∧ u = { taken s with grids := s.grids ++ [g], uid := s.uid + 1 } ∧
         g.gid = s.uid ∧ g.lid = lid ∧ g.ctx = ctx ∧ g.lrec = r ∧ g.parent = none ∧ g.depth = 0 ∧ g.qsel = qsel ∧
         g.next = 0 ∧ g.retired = 0 ∧
         (∀ k, k ∈ g.watched ↔
           ∃ h ∈ s.grids, h.gid = k ∧ h.ctx = ctx ∧ h.st ≠ .complete ∧ h.lid ≠ 0 ∧ h.lid ∈ r.prereq) ∧
         (g.watched = [] → g.st = .queued ∧ g.cls = r.prio) ∧ (g.watched ≠ [] → g.st = .held))) ∧
  (∀ (d a : Nat) (s : State), s.Clear → s.Plain → s.checks (.launch d a) = none →
     let p := (s.sReg a).toNat
     let s0 := s.noteRecords [(p, 64)]
     (s.t.depth = 10 → exec (.launch d a) s = .next (s.raise 13 (s.sReg a))) ∧
     (∀ bs c, s.t.depth ≠ 10 → p % 64 = 0 → s.t.wait.recs = [] → settled s → s.readRecord s.recordWho p 64 = .ok bs →
       refusedWith s0 (LaunchRec.of bs) none c →
       ∃ u, exec (.launch d a) s = .next u ∧ s.Past u 1 ∧ oneReady s u ∧ s.SlotsKept u ∧
         u.sReg d = BitVec.ofNat 64 (2 ^ 63 + c) ∧ s.KeepsS u [d] ∧
         u = { s with t := { s.t.placeOf u.t with s := u.t.s, infl := u.t.infl }, uid := u.uid,
                      caches := u.caches, ctxs := u.ctxs }) ∧
     (∀ bs r, s.t.depth ≠ 10 → p % 64 = 0 → settled s → r = LaunchRec.of bs →
       (s.t.wait.recs = [] ∧ s.readRecord s.recordWho p 64 = .ok bs ∧ accepted s0 r none) ∨ s.t.wait.recs = [bs] →
       s.qlevel (4 * r.prio + s.myGrid.qsel) < 256 → (s.ctxOf s.t.ctx).lastLid < 2 ^ 32 →
       ∃ u g, exec (.launch d a) s = .next u ∧ s.Past u 1 ∧ oneReady s u ∧ u.sReg d = BitVec.ofNat 64 g.lid ∧
         s.KeepsS u [d] ∧ u.grids = s.grids ++ [g] ∧ u.t.kids = s.t.kids ++ [(g.gid, g.lid)] ∧
         2 ^ 31 ≤ g.lid ∧ g.lid < 2 ^ 32 ∧ g.ctx = s.t.ctx ∧ g.lrec = r ∧ g.parent = some s.t.gid ∧
         g.depth = s.t.depth + 1 ∧ g.qsel = s.myGrid.qsel ∧ u.mem = s.mem ∧ u.t.v = s.t.v ∧ u.others = s.others)) ∧
  (∀ (d a : Nat) (s : State), s.Clear → s.checks (.cwait d a) = none →
     let x := (s.sReg a).toNat
     let kids := s.t.kids.filter fun k => x == 0 || k.2 == x
     (x ≠ 0 → kids = [] → ∃ u, exec (.cwait d a) s = .next u ∧ s.Past u 1 ∧ s.OnlyS u ∧ s.KeepsS u [d] ∧
       u.sReg d = 0x8000000000000001) ∧
     ((x = 0 ∨ kids ≠ []) → (∀ k ∈ kids, ∀ g ∈ s.grids, g.gid = k.1 → g.st = .complete) →
       ∃ u, exec (.cwait d a) s = .next u ∧ s.Past u 1 ∧ s.OnlyS u ∧ s.KeepsS u [d] ∧ u.sReg d = 0) ∧
     ((∃ k ∈ kids, ∃ g ∈ s.grids, g.gid = k.1 ∧ g.st ≠ .complete) → exec (.cwait d a) s = .next (s.hold .cwait))) ∧
  (∀ (g : Grid) (s : State), s.grid? g.gid = some g → g.st = .running ∨ g.st = .draining → g.retired = g.lrec.nBlocks →
     (∀ h ∈ s.grids, h.parent = some g.gid → h.st = .complete) → (∀ w ∈ s.link.wlate, w.2.1 ≠ g.gid) →
     ∃ u, exec (.gridCompletion g.gid) s = .next u ∧
       u = { s with grids := u.grids, seals := u.seals, link := u.link } ∧ (∀ h ∈ u.grids, h.gid ≠ g.gid) ∧
       (g.parent = none → u.link = (s.send 0 0x02 g.ctx 0
         (completeBytes g.lid 0 0 g.tstart.toNat s.pkg.clk.toNat g.retired)).link) ∧
       (g.parent ≠ none → u.link = s.link) ∧
       (∀ h ∈ s.grids, h.gid ≠ g.gid → g.gid ∉ h.watched → h ∈ u.grids) ∧
       (∀ h ∈ s.grids, h.gid ≠ g.gid → h.st = .held → h.watched = [g.gid] →
         ∃ k ∈ u.grids, k.gid = h.gid ∧ k.st = .queued ∧ k.watched = [] ∧ k.cls = h.lrec.prio)) ∧
  (∀ (r : LaunchRec) (s : State), r.gang = true → r.cluster = 0 → r.nBlocks ≤ 16 * 640 →
     (s.gangFits r = true ↔
       ∃ n l, n < nScopes r.lclass ∧ gangCores { Grid.none with lrec := r } (scopeHas r.lclass n) l 0 (idle s)))

/-- R5, R376, R381, R396, R397, R430, R432: writes of register space. The power cap takes its value clamped, an ageing
interval its low half; a read-only register ignores the write with STATUS 0; an offset that is not a multiple of 8 is
refused; a slot's register takes its value unless the slot is active; activation takes a free context id and a slot whose
registers are in order, and leaves in its save area a bitmap of which only its own units are in use (R414); END begins to
end the context with status 0x42; GO starts the mailbox unless it is busy. That an active slot refuses writes of every
register but CTXCTL, and that `regsOk` asks for each range to lie whole in local memory, are the model's (log 54). -/
def Obligations.RegisterWrites : Prop :=
  ∀ (s : State) (off v n : Nat), s.Sound →
    let ok (u : State) : State := answers u 0x0B 0 (statusBytes 0)
    let no (u : State) : State := answers u 0x0B 0 (statusBytes 2)
    (Writes s .registerWrite off v →
      (off = 0x518400 → exec .registerWrite s = .next (ok { taken s with
        regs := { s.regs with capw := BitVec.ofNat 16 (max 1000 (min 2800 (v % 2 ^ 16))) } })) ∧
      (off = 0 → exec .registerWrite s =
        .next (ok { taken s with regs := { s.regs with age0 := v % 2 ^ 32, ageAt := s.fab } })) ∧
      (off = 0x510100 → exec .registerWrite s = .next (ok (taken s))) ∧
      (off % 8 ≠ 0 → exec .registerWrite s = .next (no (taken s))) ∧
      (∀ k, n < 16 → 0 < k → k < 16 → off = 0x500000 + 256 * n + 8 * k →
        ((s.slot n).act = true → exec .registerWrite s = .next (no (taken s))) ∧
        ((s.slot n).act = false → ∃ u, exec .registerWrite s = .next (ok u) ∧ u = { taken s with ctxs := u.ctxs } ∧
          (∀ j, j ≠ n → u.slot j = s.slot j) ∧
          ∀ j, j < 16 → (u.slot n).reg (8 * j) = if j = k ∧ k < 14 then v else (s.slot n).reg (8 * j)))) ∧
    (Writes s .ctxctlActivate off v → n < 16 → off = 0x500000 + 256 * n →
      let id := v / 256 % 256
      ((s.slot n).act = false → v % 2 = 1 → s.slotOf id = none → (s.slot n).regsOk = true → s.regs.towerlost = 0 →
        settled s →
        let base := (s.slot n).savebase.toNat
        let units := (s.slot n).mapUnits
        ∃ u, exec .ctxctlActivate s = .next (ok u) ∧
          u = { taken s with ctxs := u.ctxs, mem := u.mem, caches := u.caches, poison := u.poison } ∧
          (∀ q ∈ u.poison, q ∈ s.poison) ∧ (∀ j, j ≠ n → u.slot j = s.slot j) ∧ u.slotOf id = some n ∧ (u.slot n).susp = false ∧
          (u.slot n).ending = none ∧ (u.slot n).faults = [] ∧ (u.slot n).phcnt = 0 ∧
          (∀ j, 0 < j → (u.slot n).reg (8 * j) = (s.slot n).reg (8 * j)) ∧ s.KeepsBytes u [(base, 4096 * units)] ∧
          ∀ k, k < 4096 * units → ∀ b, b < 8 → (u.byte (base + k)).getLsbD b = Decidable.decide (8 * k + b < units)) ∧
      ((s.slot n).act = false → v % 2 = 1 → (s.slotOf id).isSome ∨ (s.slot n).regsOk = false ∨ s.regs.towerlost ≠ 0 →
        exec .ctxctlActivate s = .next (no (taken s))) ∧
      ((s.slot n).act = true → v % 2 = 0 ∨ id ≠ (s.slot n).ctxid → exec .ctxctlActivate s = .next (no (taken s)))) ∧
    (Writes s .ctxctlEnd off v → n < 16 → off = 0x500000 + 256 * n →
      ((s.slot n).act = false → exec .ctxctlEnd s = .next (ok (taken s))) ∧
      (s.slotOf (s.slot n).ctxid = some n → ∃ u, exec .ctxctlEnd s = .next (ok u) ∧ u = { taken s with ctxs := u.ctxs } ∧
        (u.slot n).ending = some (endsWith s n 0x42) ∧ ∀ j, j ≠ n → u.slot j = s.slot j)) ∧
    (Writes s .spdmMailboxGo off v →
      (s.regs.mbxBusy = false → 2 ^ 31 < v → v ≤ 2 ^ 31 + 4096 → exec .spdmMailboxGo s = .next (ok { taken s with
        regs := { s.regs with mbxDone := false, mbxBusy := true, mbxReq := v - 2 ^ 31 } })) ∧
      (v = 2 ^ 31 ∨ (s.regs.mbxBusy = true ∧ v / 2 ^ 31 % 2 = 1) → exec .spdmMailboxGo s = .next (no (taken s))))

/-- R402: an invalidation counts in INVDONE, discards what its kind names of the slot's context, and takes LIMIT, RD and W
from the translations of its resident teams that overlap it: those of the range, all, those of the region, and for kind 4
none; V, REGION and VBASE stay. For a slot without an active context it only counts. -/
def Obligations.Invalidations : Prop :=
  ∀ (i : Instr) (s : State) (v n : Nat), s.Sound → s.eops = [] → s.link.reqs = [] → s.link.asks = [] →
    s.link.wacks = [] → s.link.wlate = [] → n = v % 16 → v / 256 = 0 → Writes s i 0x510010 v →
    i = .invalidateRange ∨ i = .invalidateAll ∨ i = .invalidateRegion ∨ i = .invalidateCode →
    (i = .invalidateRange →
      s.regs.invaddr.toNat < 2 ^ 56 ∧ s.regs.invaddr.toNat % 2 ^ 16 = 0 ∧ s.regs.invlen.toNat % 2 ^ 16 = 0) →
    let lo := s.regs.invaddr.toNat
    let hi := s.regs.invaddr.toNat + s.regs.invlen.toNat
    ((s.slot n).act = false → exec i s = .next (answers
      { taken s with regs := { s.regs with invdone := s.regs.invdone + 1 } } 0x0B 0 (statusBytes 0))) ∧
    ((s.slot n).act = true → ∃ u, exec i s = .next (answers u 0x0B 0 (statusBytes 0)) ∧
      u.regs = { s.regs with invdone := s.regs.invdone + 1 } ∧ u.mem = s.mem ∧ u.t.s = s.t.s ∧ u.t.v = s.t.v ∧
      u.t.p = s.t.p ∧ (∀ j, j ≠ n → u.slot j = s.slot j) ∧
      (i = .invalidateRange → u.slot n = { s.slot n with tlb := (s.slot n).tlb.filter fun e =>
        !(Decidable.decide (e.key * 2 ^ lvlShift e.level < hi) &&
          Decidable.decide (lo < e.key * 2 ^ lvlShift e.level + 2 ^ lvlShift e.level)) }) ∧
      (i = .invalidateAll → u.slot n = { s.slot n with tlb := [], rcache := [] }) ∧
      (i = .invalidateRegion → u.slot n = { s.slot n with
        rcache := (s.slot n).rcache.filter fun e => e.1 != s.regs.invaddr.toNat / 2 ^ 56 }) ∧
      (i = .invalidateCode → u.slot n = { s.slot n with code := [] }) ∧
      let after (t : Team) (k : Nat) : XReg :=
        let x := sget {} k t.m
        if (i = .invalidateRange ∧ x.vbase.toNat < hi ∧ lo < x.vbase.toNat + x.limit.toNat) ∨ i = .invalidateAll ∨
           (i = .invalidateRegion ∧ x.region.toNat = s.regs.invaddr.toNat / 2 ^ 56)
        then { x with limit := 0, rd := false, w := false } else x
      (s.t.ctx = (s.slot n).ctxid → s.t.life = .live → ∀ k, u.mReg k = after s.t k) ∧
      (∀ t ∈ s.others, t.ctx = (s.slot n).ctxid → t.life = .live →
        ∃ t' ∈ u.others, t'.tid = t.tid ∧ t'.s = t.s ∧ t'.v = t.v ∧ ∀ k, sget {} k t'.m = after t k) ∧
      (∀ t ∈ s.others, t.ctx ≠ (s.slot n).ctxid → t ∈ u.others))

/-- R393 to R395, R156: EN set starts a port's training, after which it comes up; EN clear takes it down and discards the
partial rows of its streams. A stream takes its words while V is 0 and refuses them while it is 1, except a write that
clears V and discards its rows; a NCONTRIB of 0, a port outside 1 to 18, or a 17th valid stream on a port is refused. A row
that arrives first in its slot is copied, a later one added element by element with its bound. The last one is emitted: the
row to DEST, its bound to BDEST where that is not 0, and then 1 is added to the count at SEQA where that is not 0; or both go
through OUTPORT, tagged with OUTSTREAM and the slot. A row for no valid stream, at a port that is not UP, or emitted to an
address that is not local or through a port that is not UP is counted in DROP. After a source that comes later in the order of
one fabric cycle a row waits for the next.

That a write which names NCONTRIB 0 or no port is refused with V clear too, and which bits of it are kept, are the model's
choices (log 56), and so are the DROP of the port at which a row for another port's stream arrives, that of an emission
through a port that is down, and the message that carries an emitted row (log 37). -/
def Obligations.PortsAndStreams : Prop :=
  ∀ (s : State) (off v p n : Nat),
    let ok (u : State) : State := answers u 0x0B 0 (statusBytes 0)
    let no (u : State) : State := answers u 0x0B 0 (statusBytes 2)
    (Writes s .peerPortEnable off v → off = 0x300000 + 256 * p → ∃ u, exec .peerPortEnable s = .next (ok u) ∧
      u = { taken s with regs := { s.regs with pctl := u.regs.pctl } } ∧ u.pctl p = { s.pctl p with en := true } ∧
      ∀ k, k ≠ p → u.pctl k = s.pctl k) ∧
    (1 ≤ p → p ≤ 18 → (s.pctl p).en = true → s.feature 7 = true → ∃ u, exec (.peerPortUp p) s = .next u ∧
      u = { s with regs := { s.regs with pctl := u.regs.pctl } } ∧ u.pctl p = { s.pctl p with up := true } ∧
      ∀ k, k ≠ p → u.pctl k = s.pctl k) ∧
    (Writes s .peerPortDisable off v → off = 0x300000 + 256 * p → ∃ u, exec .peerPortDisable s = .next (ok u) ∧
      u = { taken s with regs := { s.regs with pctl := u.regs.pctl, streams := u.regs.streams } } ∧
      u.pctl p = { s.pctl p with en := false, up := false } ∧ (∀ k, k ≠ p → u.pctl k = s.pctl k) ∧
      ∀ k, k < 256 → u.stream k =
        if (s.stream k).port = p then { s.stream k with rows := [], cnt := [], bnd := [] } else s.stream k) ∧
    (∀ k, Writes s .reductionStreamWrite off v → n < 256 → k < 4 → off = 0x400000 + 32 * n + 8 * k →
      ((s.stream n).v = true → k ≠ 0 ∨ v % 2 = 1 → exec .reductionStreamWrite s = .next (no (taken s))) ∧
      (k = 0 → bits v 5 1 = 0 ∨ 18 < bits v 5 1 ∨ bits v 13 8 = 0 ∨
          (bits v 16 16 = 1 ∧ (bits v 21 17 = 0 ∨ 18 < bits v 21 17)) →
        exec .reductionStreamWrite s = .next (no (taken s))) ∧
      (k = 0 → v % 2 = 1 →
        16 ≤ ((List.range 256).filter fun j => j != n && (s.stream j).v && (s.stream j).port == bits v 5 1).length →
        exec .reductionStreamWrite s = .next (no (taken s))) ∧
      (((s.stream n).v = false ∧ k ≠ 0) ∨ (k = 0 ∧ 1 ≤ bits v 5 1 ∧ bits v 5 1 ≤ 18 ∧ 1 ≤ bits v 13 8 ∧
          (bits v 16 16 = 0 ∨ (1 ≤ bits v 21 17 ∧ bits v 21 17 ≤ 18)) ∧
          (v % 2 = 0 ∨ ((s.stream n).v = false ∧
            ((List.range 256).filter fun j => j != n && (s.stream j).v && (s.stream j).port == bits v 5 1).length < 16))) →
        ∃ u, exec .reductionStreamWrite s = .next (ok u) ∧
          u = { taken s with regs := { s.regs with streams := u.regs.streams } } ∧
          (∀ j, j ≠ n → u.stream j = s.stream j) ∧
          u.stream n = (match k with
            | 0 => { s.stream n with
                w0 := BitVec.ofNat 64 v &&& 0x000000FFFF3F3F3F, rows := [], cnt := [], bnd := [] }
            | 1 => { s.stream n with dest := BitVec.ofNat 64 v }
            | 2 => { s.stream n with bdest := BitVec.ofNat 64 v }
            | _ => { s.stream n with seqa := BitVec.ofNat 64 v }))) ∧
    (∀ (ix : Nat) (row : List Word) (bound : Word), s.eops = [] → row.length = 128 →
      let x := s.stream n
      let c := sget 0 ix x.cnt
      let row' := joinedRow x ix row
      let bound' := joinedBound x ix row bound
      (x.port ≠ p ∨ x.v = false ∨ (s.pctl p).up = false → ∃ u, exec (.reductionRowArrival p n ix row bound) s = .next u ∧
        u = { s with regs := { s.regs with pctl := u.regs.pctl } } ∧
        u.pctl p = { s.pctl p with drop := ((s.pctl p).drop + 1) % 2 ^ 32 }) ∧
      (x.port = p → x.v = true → (s.pctl p).up = true → s.regs.rowAt = s.fab → 1000 + p < s.regs.rowSrc →
        exec (.reductionRowArrival p n ix row bound) s = .next s) ∧
      (x.port = p → x.v = true → (s.pctl p).up = true → s.regs.rowAt ≠ s.fab ∨ s.regs.rowSrc ≤ 1000 + p →
        let bytes := row'.flatMap (fun w => leBytes 4 w.toNat)
        let runs := [(x.dest.toNat + 512 * ix, 512)] ++ (if x.bdest = 0 then [] else [(x.bdest.toNat + 4 * ix, 4)]) ++
          (if x.seqa = 0 then [] else [(x.seqa.toNat, 8)])
        let taking (u : State) : Regs := { s.regs with streams := u.regs.streams, rowAt := s.fab, rowSrc := 1000 + p }
        let dropAt (k : Nat) (u : State) : Prop := u = { s with regs := { taking u with pctl := u.regs.pctl } } ∧
          u.pctl k = { s.pctl k with drop := ((s.pctl k).drop + 1) % 2 ^ 32 } ∧ ∀ j, j ≠ k → u.pctl j = s.pctl j
        ∃ u, exec (.reductionRowArrival p n ix row bound) s = .next u ∧ (∀ k, k ≠ n → u.stream k = s.stream k) ∧
          (c + 1 ≠ x.ncontrib → u = { s with regs := taking u } ∧ sget 0 ix (u.stream n).cnt = c + 1 ∧
            sget 0 ix (u.stream n).bnd = bound' ∧
            ∀ j, j < 128 → sget 0 (128 * ix + j) (u.stream n).rows = row'.getD j 0) ∧
          (c + 1 = x.ncontrib → sget 0 ix (u.stream n).cnt = 0 ∧
            (x.outKind = 0 → (∀ r ∈ runs, r.1 + r.2 ≤ Config.dramSize) → s.regs.towerlost = 0 → s.seals = [] →
              settled s → (x.seqa = 0 ∨ s.poison = []) →
              runs.Pairwise (fun a b => a.1 + a.2 ≤ b.1 ∨ b.1 + b.2 ≤ a.1) →
              u.regs = taking u ∧ u.bytes (x.dest.toNat + 512 * ix) 512 = bytes ∧
              (x.bdest ≠ 0 → u.bytes (x.bdest.toNat + 4 * ix) 4 = leBytes 4 bound'.toNat) ∧
              (x.seqa ≠ 0 → u.memNat x.seqa.toNat 8 = (s.memNat x.seqa.toNat 8 + 1) % 2 ^ 64) ∧
              s.KeepsBytes u runs ∧ u.t = s.t ∧ u.others = s.others) ∧
            (x.outKind = 0 → (∃ r ∈ runs, Config.dramSize < r.1 + r.2) → dropAt p u) ∧
            (x.outKind = 1 → (s.pctl x.outPort).up = true →
              u = { s.send x.outPort 0x100 0 (256 * bits x.w0.toNat 31 24 + ix) (bytes ++ leBytes 4 bound'.toNat) with
                    regs := taking u }) ∧
            (x.outKind = 1 → (s.pctl x.outPort).up = false → dropAt x.outPort u))))

/-! ### Faults, preemption and the end of a context -/

/-- R404, R405: a FAULTREPLY of UNSV 1 begins to end the context with status 0x40; one whose FSEQ names no outstanding fault
is ERROR 3; of an instruction fetch, a retry lets the team fetch again, and a decline leaves the cause decided with TEPC
the fetched address and FREC the pointer.

R410 to R412: PREEMPT is answered with one SAVED, which waits until the records that it counts are written. KIND 0 of a
launch with a block to place puts it where the device has made room, and of no such launch, or in a suspended context, has
RESULT 1; KIND 1 sets SUSP and evicts the context's units, or with RESULT 2 evicts nothing; KIND 2 clears SUSP. RESULT 1
for a launch id that is unknown, and SUSP set beside RESULT 1 and kept at RESULT 2, are the model's (log 59). -/
def Obligations.FaultsAndPreemption : Prop :=
  (∀ (s : State) (n : Nat) (f : FaultRec) (ptr : Nat) (x idx : Nat), Arrives s .faultreply →
     let m := s.link.rx
     let pages := (List.range (m.field 5 1)).map fun i => BitVec.ofNat 64 (m.field (8 + 8 * i) 8)
     replyOk m pages = true → s.slotOf m.ctx.toNat = some n → (s.slot n).ending = none →
     ((∀ g ∈ (s.slot n).faults, g.fseq ≠ m.field 0 4) →
       exec .faultreply s = .next (answers (heard s) 0x0C 0 (errorBytes m.seq.toNat 3 (heard s).link.rxseq))) ∧
     ((s.slot n).faults = [f] → f.fseq = m.field 0 4 → f.sent = true → f.reply = none →
       (m.field 4 1 = 1 → ∃ u, exec .faultreply s = .next u ∧ (u.slot n).ending = some 0x40 ∧
         (∀ j, j ≠ n → u.slot j = s.slot j) ∧ u = { taken s with ctxs := u.ctxs }) ∧
       (m.field 4 1 = 0 → f.src = 1 → f.owner = s.t.tid → s.t.life = .live → (∀ t ∈ s.others, t.tid ≠ s.t.tid) →
         s.t.wait = .fetch f.fseq ptr x idx → ptr < 2 ^ 64 →
         (∀ v ∈ s.restoring, s.t.bid ∉ v.blocks) →
         (∀ p ∈ pages, p.toNat / 2 ^ 16 = ptr / 2 ^ 16 → bits p.toNat 15 8 = 0) →
         ∃ u, exec .faultreply s = .next u ∧ (u.slot n).faults = [] ∧ u.t = { s.t with wait := .none } ∧
           u = { taken s with t := u.t, ctxs := u.ctxs }) ∧
       (∀ page, m.field 4 1 = 0 → f.src = 1 → f.owner = s.t.tid → s.t.life = .live → (∀ t ∈ s.others, t.tid ≠ s.t.tid) →
         s.t.wait = .fetch f.fseq ptr x idx → ptr < 2 ^ 64 →
         (∀ v ∈ s.restoring, s.t.bid ∉ v.blocks) → pages = [page] → page.toNat / 2 ^ 16 = ptr / 2 ^ 16 →
         bits page.toNat 15 8 = 1 → (∃ q ∈ f.pages.take 32, q.toNat / 2 ^ 16 = ptr / 2 ^ 16) →
         ∃ u d, exec .faultreply s = .next u ∧ (u.slot n).faults = [] ∧
           u.t = { s.t with wait := .none, dec := s.t.dec ++ [d] } ∧ d.cause = page.toNat % 256 ∧
           d.tepc = BitVec.ofNat 64 x ∧ d.frec = BitVec.ofNat 64 ptr ∧ d.tlane = 0))) ∧
  (∀ (i : Instr) (s : State) (n lid : Nat), Arrives s i → s.link.rx.field 1 7 = 0 → s.link.rx.field 0xC 4 = 0 →
     s.link.rx.field 8 4 = lid → s.slotOf s.link.rx.ctx.toNat = some n → (s.slot n).ending = none →
     let ctx := s.link.rx.ctx.toNat
     let tag := s.link.rx.tag.toNat
     let wait (u : State) (v : Saving) : State := fresh { u with saving := u.saving ++ [v] }
     (i = .preemptMakeRoom → s.link.rx.field 0 1 = 0 →
       ((s.slot n).susp = true ∨ (heard s).wanted ctx lid = none →
         exec i s = .next (answers (taken s) 0x06 ctx (savedBytes 0 1 lid 0 0 0))) ∧
       (∀ g s1 e cores short s2, (s.slot n).susp = false → (heard s).wanted ctx lid = some g →
         (heard s).roomFor g = (some (s1, e, cores), short) → s1.placeNext g (fun c => cores.contains c) = some s2 →
         ((∀ v ∈ s2.saved, v.u ∈ e.units → v.pend = false) →
           exec i s = .next (fresh (s2.send 0 0x06 ctx tag (savedBytes 0 0 lid e.blocks e.teams e.bytes)))) ∧
         ((∃ v ∈ s2.saved, v.u ∈ e.units ∧ v.pend = true) →
           exec i s = .next (wait s2 (e.saving ctx tag 0 lid []))))) ∧
     (i = .preemptSuspend → s.link.rx.field 0 1 = 1 → lid = 0 →
       let units := (heard s).unitsOf ((heard s).blockOf ctx)
       let s0 := (heard s).modSlot n fun c => { c with susp := true }
       (units = [] → exec i s = .next (answers (fresh s0) 0x06 ctx (savedBytes 1 1 0 0 0 0))) ∧
       (units ≠ [] → State.evictAll units true (heard s) {} = none →
         exec i s = .next (answers (taken s) 0x06 ctx (savedBytes 1 2 0 0 0 0))) ∧
       (∀ b s1 e, units = [b] → State.evictAll units true (heard s) {} ≠ none →
         let bs := (b.map (·.bid)).filterMap s0.block?
         s0.fillHeld bs = false → s0.evictCount {} bs true = some (s1, e) →
         (∀ x ∈ s1.blocks, x.bid ∈ bs.map (·.bid) → x.life = .evicted) ∧
         ((∀ v ∈ s1.saved, v.u ∈ e.units → v.pend = false) →
           exec i s = .next (fresh (s1.send 0 0x06 ctx tag (savedBytes 1 0 0 e.blocks e.teams e.bytes)))) ∧
         ((∃ v ∈ s1.saved, v.u ∈ e.units ∧ v.pend = true) →
           exec i s = .next (wait s1 (e.saving ctx tag 1 0 []))))) ∧
     (i = .preemptResume → s.link.rx.field 0 1 = 2 → lid = 0 →
       exec i s = .next (answers ((taken s).modSlot n fun c => { c with susp := false }) 0x06 ctx
         (savedBytes 2 0 0 0 0 0))))

/-- R407, R408: once nothing of an ending context is in flight, its end completes: ENDSTAT holds the status and ACT reads 0;
no grid, team, block, engine operation or save record of it is left, and no seal entry is held by it; its incomplete host
launches are reported with COMPLETE STATUS 2 and the status, and, as the model chooses, the grid's count as BLOCKS (log 57);
and without an engine operation of it local memory is as it
was, but for the bitmap of its save area. -/
def Obligations.ContextEnds : Prop :=
  ∀ (n st : Nat) (s : State), s.Sound → (s.slot n).act = true → (s.slot n).ending = some st →
    s.ctxQuiet (s.slot n).ctxid = true →
    let ctx := (s.slot n).ctxid
    ∃ u, exec (.contextEnd n) s = .next u ∧ (u.slot n).act = false ∧ (u.slot n).ending = none ∧
      (u.slot n).endstat = BitVec.ofNat 64 st ∧ (u.slot n).faults = [] ∧ (u.slot n).units = [] ∧
      (∀ j, j ≠ n → u.slot j = s.slot j) ∧
      (∀ g ∈ u.grids, g.ctx ≠ ctx) ∧ (∀ t ∈ u.teams, t.ctx ≠ ctx) ∧ (∀ o ∈ u.eops, o.ctx ≠ ctx) ∧
      (∀ e ∈ u.seals, e.ctx ≠ ctx) ∧
      (∀ b ∈ u.blocks, ∀ g ∈ s.grids, g.gid = b.gid → g.ctx ≠ ctx) ∧
      (∀ v ∈ u.saved, ∀ g ∈ s.grids, g.gid = v.gid → g.ctx ≠ ctx) ∧
      (s.saving = [] → (u.link.out.drop s.link.out.length).map (fun o => (o.typ, o.ctx, o.payload)) =
        ((s.grids.filter fun g => g.ctx == ctx && g.parent.isNone).map fun g =>
          (0x02, ctx, completeBytes g.lid 2 st g.tstart.toNat s.pkg.clk.toNat g.lrec.nBlocks))) ∧
      ((∀ o ∈ s.eops, o.ctx ≠ ctx) →
        s.KeepsBytes u [((s.slot n).savebase.toNat, 4096 * (s.slot n).mapUnits)] ∧
        ((s.slot n).savesize = 0 → u.mem = s.mem))

/-! ### What happens to teams and blocks -/

/-- R191, R349, R403: a fetch of a line that can be read changes only what the fetch unit, the caches and the translation
buffers hold; one that meets an absent page sends FAULT with SRC 1, and the team waits. A line of the system window
is first asked for (log 22), and is then one that can be read.

R75, R169: an outstanding instruction that waits for nothing more completes: its flag counts down, an MDRM's lines are free,
and nothing else changes; an UNSEAL whose range no copy reads frees it and answers 1.

R42, R204, R441: when the elapsed count of a phase exceeds its limit, Phase-Overrun becomes pending, the timer stops, and
the slot counts it.

R205, R206, R214: a pending boundary cause is entered before the next instruction: TEPC is that instruction's address, and
the registers that the entry does not name stay. -/
def Obligations.TeamEvents : Prop :=
  (∀ (x : DWord) (n : Nat) (s : State), s.slotOf s.t.ctx = some n → s.t.life = .live → s.ctxEnding s.t.ctx = false →
     s.t.dec = [] →
     (∀ ws il pt k, s.fetchLine n x.toNat = .line ws il pt k → settled s →
       ∃ u i, exec (.instructionFetch x) s = .next u ∧ s.SlotsKept u ∧
         u = { s with ctxs := u.ctxs, caches := u.caches } ∧ i ∈ (u.slot n).code ∧
         i = ⟨3, s.lineNo n x.toNat, ws.flatMap (fun w => leBytes 4 w.toNat), il, pt, k⟩) ∧
     (∀ ptr, s.fetchLine n x.toNat = .fault 8 ptr → (s.slot n).fseq + 1 < 2 ^ 32 → settled s →
       ∃ u f, exec (.instructionFetch x) s = .next u ∧ u.mem = s.mem ∧
         u.t = { s.t with wait := .fetch ((s.slot n).fseq + 1) ptr x.toNat s.t.cl.idx } ∧
         (u.slot n).fseq = (s.slot n).fseq + 1 ∧ f ∈ (u.slot n).faults ∧ f.fseq = (s.slot n).fseq + 1 ∧ f.src = 1 ∧
         f.owner = s.t.tid ∧ f.pages = [BitVec.ofNat 64 (pageEntry ptr 8 true false)])) ∧
  (∀ (f : Infl) (s : State), s.t.life = .live → s.ctxEnding s.t.ctx = false → s.t.log = [] →
     s.t.infl.find? (fun g => g.u == f.u) = some f →
     (f.on = .ready ∨ (f.on = .window ∧ s.link.reqs = [] ∧ s.link.wacks = []) →
       exec (.instructionComplete s.t.tid f.u) s = .next { s with
         t := { s.t with infl := s.t.infl.filter fun g => g.u != f.u }
         eops := s.eops.filter fun o => !(o.kind == 3 && o.u == f.u) }) ∧
     (∀ base len d, f.on = .unseal base len d → d < 64 →
       (∀ e ∈ s.seals, e.base = base → e.len = len → e.ctx = s.t.ctx → e.refs = 0) →
       ∃ u, exec (.instructionComplete s.t.tid f.u) s = .next u ∧ u.sReg d = 1 ∧ s.KeepsS u [d] ∧ u.mem = s.mem ∧
         u.t = { s.t with s := u.t.s, codeAt := u.t.codeAt, infl := s.t.infl.filter fun g => g.u != f.u } ∧
         u.seals = s.seals.filter fun e => !(e.base == base && e.len == len && e.ctx == s.t.ctx))) ∧
  (∀ (n : Nat) (s : State), s.t.life = .live → s.t.ph.on = true → s.slotOf s.t.ctx = some n →
     s.ctxEnding s.t.ctx = false → (∀ d ∈ s.t.pendB, d.cause ≠ 12) →
     let e := if (s.core s.t.core).vp0 = (s.core s.t.core).vp1 then s.t.ph.e else 2 * s.t.ph.e
     e + e / 2 ^ s.t.phmargin.toNat < s.t.ph.el →
     ∃ u d, exec (.phaseOverrun s.t.tid) s = .next u ∧
       u = { s with t := { s.t with pendB := s.t.pendB ++ [d], ph := { s.t.ph with on := false } }, ctxs := u.ctxs } ∧
       d.cause = 12 ∧ d.bnd = true ∧ d.tlane = 0 ∧ d.frec = BitVec.ofNat 64 (s.t.ph.e * 2 ^ 32 + s.t.ph.num) ∧
       (u.slot n).phcnt = BitVec.ofNat 64 (min ((s.slot n).phcnt.toNat + 1) (2 ^ 32 - 1)) ∧ (u.slot n).phAt = s.fab ∧
       ((s.slot n).phAt ≠ s.fab ∨ (s.slot n).phcnt = 0 →
         (u.slot n).phlast =
           BitVec.ofNat 64 (s.t.ph.e * 2 ^ 32 + s.t.ph.num + s.t.core * 2 ^ 22 + s.t.place * 2 ^ 16)) ∧
       ((s.slot n).phAt = s.fab → (s.slot n).phcnt ≠ 0 →
         bits (s.slot n).phlast.toNat 31 16 < bits (s.t.core * 2 ^ 22 + s.t.place * 2 ^ 16) 31 16 →
         s.t.ph.num < 2 ^ 16 → (u.slot n).phlast = (s.slot n).phlast) ∧
       ∀ j, j ≠ n → u.slot j = s.slot j) ∧
  (∀ (d : Dec) (s : State), s.runs s.t = true → s.waitStands s.t = false → s.t.dec = [] → s.t.pendB = [d] →
     d.bnd = true → d.cause < 16 → s.t.log = [] → s.t.infl = [] → s.t.hnd = false → s.t.tvec.toNat % 2 = 1 →
     (s.t.cl.idx = 0 → s.peekRuns (mySlot s) s.t.pc.toNat = []) →
     ∃ u, exec (.trapEntry s.t.tid) s = .next u ∧ u.t.tcause = BitVec.ofNat 32 (2 ^ 31 + d.cause) ∧
       u.t.tepc = s.t.pc &&& ~~~(3#64) ∧ u.t.frec = d.frec ∧ u.t.tlane = d.tlane ∧ u.t.tsecond = 0 ∧
       u.t.tmode = s.t.mode ∧ u.t.mode = 0 ∧ u.t.pc = s.t.tvec &&& ~~~(127#64) ∧ u.t.cl.idx = 0 ∧ u.t.pendB = [] ∧
       u.t.s = s.t.s ∧ u.t.v = s.t.v ∧ u.t.p = s.t.p ∧ u.t.m = s.t.m ∧ u.t.mask = s.t.mask ∧ u.t.stack = s.t.stack ∧
       u = { s with t := u.t })

/-- R24, R27, R28, R388, R389: in its turn the next block of a grid that is no gang and has no clusters, Running or about to
be, goes to the eligible core, unclaimed and not used in the cycle, with the fewest resident teams, the lower number on a tie;
its teams start as R24 says.

R388, R390: in its turn a Queued gang without clusters is placed whole on the first scope of its class that takes it: each
block, in rank order, on the eligible core with the fewest resident teams, its earlier blocks counted; its blocks start
together, and it claims no tower any more.

R421: in its turn an evicted unit of one block goes to such a core, and its teams go on from what was saved; its translation
registers keep LIMIT, RD and W only where no invalidation was completed meanwhile; its record's units are free.

What has clusters, and a larger unit, is placed in its turn too, where it can be, and has then been served in this fabric
cycle.

R381, R388, R390: a grid's effective class rises by one when it has spent its ageing interval at it; a gang whose time in
Queued exceeds its class's interval becomes pressing and claims towers, one at most for LCLASS 0 and 1, none that an earlier
pressing gang of equal or higher class holds.

R412: when a descendant of a grid has been first in the order for its class's interval with no eligible core, a unit of the
grid whose every team waits in CWAIT, of the lowest effective class and then the latest made resident, is evicted where it fits
its save area, and SAVED KIND 0x10 goes out once its records are written.

R58, R60: a Cupboard's fill puts the image's bytes in it from where it had come, and the blocks that waited for it start, but
on a core where they may not run (R18).

The model's choices: the towers of a cycle's placements take no other in it (log 42); the cycle at which a class rises, and from
which a gang presses (log 66); how the first candidate's wait starts again (log 43); the scratchpad at a start (log 5). -/
def Obligations.Distribution : Prop :=
  (∀ (g : Grid) (core : Nat) (s : State), s.cand? g.gid = some ⟨g, none, g.gid⟩ → s.grid? g.gid = some g →
     g.st = .running ∨ (g.st = .queued ∧ mayRun s g) →
     g.lrec.gang = false → g.lrec.cluster = 0 → s.turn ⟨g, none, g.gid⟩ = true →
     leastCore s (fun c => c < 640 ∧ s.distNow.towers.contains (towerOf c) = false ∧ s.claimed g c = false ∧
       s.eligible c g.gid g.lrec g.next g.lrec.teams = true) core →
     ∃ u b h, exec (.blockPlacement g.gid) s = .next u ∧ b ∈ u.blocks ∧ b.bid = s.uid ∧ b.gid = g.gid ∧ b.core = core ∧
       b.rank = g.next ∧ b.life = .resident ∧ b.scratch = [] ∧ u.mem = s.mem ∧
       u.grid? g.gid = some h ∧ h.st = .running ∧ h.next = g.next + 1 ∧
       u.others.length = s.others.length + g.lrec.teams ∧ (∀ t ∈ s.others, t ∈ u.others) ∧
       g.gid ∈ u.dist.served ∧ towerOf core ∈ u.dist.towers ∧
       ∀ k, k < g.lrec.teams → ∃ t ∈ u.others, t.bid = s.uid ∧ t.core = core ∧ Starting g g.next k t) ∧
  (∀ (g : Grid) (n : Nat) (l : List Nat) (s : State), s.cand? g.gid = some ⟨g, none, g.gid⟩ → s.grid? g.gid = some g →
     g.st = .queued → mayRun s g → g.lrec.gang = true → g.lrec.cluster = 0 → s.turn ⟨g, none, g.gid⟩ = true →
     g.lrec.nBlocks ≤ 16 * 640 → n < nScopes g.lrec.lclass →
     let free (m c : Nat) : Bool :=
       scopeHas g.lrec.lclass m c && !s.distNow.towers.contains (towerOf c) && !s.claimed g c
     gangCores g (free n) l 0 s →
     (∀ m k, m < nScopes g.lrec.lclass → scopeFirst s g.lrec.lclass m n → ¬gangCores g (free m) k 0 s) →
     ∃ u h on, exec (.gangPlacement g.gid) s = .next u ∧ u.mem = s.mem ∧ g.gid ∈ u.dist.served ∧
       u.grid? g.gid = some h ∧ h.st = .running ∧ h.next = g.next + g.lrec.nBlocks ∧ h.pressing = false ∧ h.claims = [] ∧
       u.others.length = s.others.length + g.lrec.nBlocks * g.lrec.teams ∧ (∀ t ∈ s.others, t ∈ u.others) ∧
       (g.lrec.cupSize = 0 → (∀ b ∈ s.blocks, b.gid ≠ g.gid) → on = true) ∧
       ∀ k c, l[k]? = some c → towerOf c ∈ u.dist.towers ∧
         ∃ b ∈ u.blocks, b.gid = g.gid ∧ b.rank = k ∧ b.core = c ∧ b.life = .resident ∧ b.scratch = [] ∧
           (s.restoring = [] → b.started = on) ∧ ∀ i, i < g.lrec.teams → ∃ t ∈ u.others, t.bid = b.bid ∧ t.core = c ∧ Starting g k i t) ∧
  (∀ (v : SavedUnit) (g : Grid) (b : Block) (w : SavedQuad) (n core : Nat) (s : State),
     s.cand? v.u = some ⟨g, some v, v.u⟩ → s.grid? v.gid = some g → s.slotOf g.ctx = some n →
     g.lrec.gang = false → g.lrec.cluster = 0 → g.lrec.tiles = 0 → g.lrec.cupSize = 0 → v.blocks = [b.bid] →
     s.block? b.bid = some b → v.quadOf b.bid = some w → w.wide = none → s.turn ⟨g, some v, v.u⟩ = true →
     s.restoring = [] → s.eops = [] → (s.slot n).faults = [] → s.regs.towerlost = 0 → s.poison = [] →
     leastCore s (fun c => c < 640 ∧ s.distNow.towers.contains (towerOf c) = false ∧ s.claimed g c = false ∧
       s.eligible c g.gid g.lrec b.rank (s.teams.countP fun t => t.bid == b.bid && t.life == Life.evicted) = true) core →
     ∃ u, exec (.unitRestore v.u) s = .next u ∧ v.u ∈ u.dist.served ∧ (∀ x ∈ u.saved, x.u ≠ v.u) ∧ u.restoring = [] ∧
       (∃ c ∈ u.blocks, c.bid = b.bid ∧ c.core = core ∧ c.life = .resident ∧ c.started = true ∧ c.scratch = b.scratch) ∧
       (∀ p, b.save = some p → p ∉ (u.slot n).units) ∧
       ∀ t, t = s.t ∨ (t ∈ s.others ∧ t.tid ≠ s.t.tid) → t.bid = b.bid → t.life = .evicted →
         ∃ x ∈ u.teams,
           x = { t with life := .live, core := core, rdy := false, since := s.pkg.clk.toNat,
                        place := x.place, slot := x.slot, codeAt := x.codeAt, wait := x.wait, evq := x.evq, m := x.m } ∧
           ∀ k, sget {} k x.m =
             if v.inval then { sget {} k t.m with limit := 0, rd := false, w := false } else sget {} k t.m) ∧
  (∀ (c : Cand) (s s1 : State), s.cand? c.id = some c → s.turn c = true → s.placeCand c s.distNow.towers = some s1 →
     (c.unit = none → c.g.lrec.gang = false →
       ∃ u, exec (.blockPlacement c.id) s = .next u ∧ u = { s1 with dist := u.dist } ∧ c.id ∈ u.dist.served) ∧
     (c.unit = none → c.g.lrec.gang = true →
       ∃ u, exec (.gangPlacement c.id) s = .next u ∧ u = { s1 with dist := u.dist } ∧ c.id ∈ u.dist.served) ∧
     (∀ v, c.unit = some v → s.gangLost v = false →
       ∃ u, exec (.unitRestore c.id) s = .next u ∧ u = { s1 with dist := u.dist } ∧ c.id ∈ u.dist.served)) ∧
  (∀ (g : Grid) (s : State), s.grid? g.gid = some g →
     let age (c : Nat) : Nat := [s.regs.age0, s.regs.age1, s.regs.age2].getD c s.regs.age3
     let rise := max (g.clsAt + 1024 * age g.cls) (s.regs.ageAt + 1)
     (g.st = .queued ∨ g.st = .running → g.cls < 3 → age g.cls ≠ 0 → rise ≤ 2 * s.pkg.clk.toNat →
       (g.cls = 2 ∨ age (g.cls + 1) = 0 ∨ 2 * s.pkg.clk.toNat < rise + 1024 * age (g.cls + 1)) →
       ∃ u, exec (.effectiveClassAgeing g.gid) s = .next u ∧ u = { s with grids := u.grids } ∧
         u.grid? g.gid = some { g with cls := g.cls + 1, clsAt := rise } ∧
         ∀ k, k ≠ g.gid → u.grid? k = s.grid? k) ∧
     (g.st = .queued → g.lrec.gang = true → g.pressing = false → g.lrec.prio < 4 → age g.lrec.prio ≠ 0 →
       1024 * age g.lrec.prio < 2 * s.pkg.clk.toNat - g.queuedAt → s.regs.ageAt < 2 * s.pkg.clk.toNat →
       ∃ u h, exec (.gangPressing g.gid) s = .next u ∧ u = { s with grids := u.grids } ∧ u.grid? g.gid = some h ∧
         h.pressing = true ∧ h.st = .queued ∧ (g.lrec.lclass ≠ 2 → h.claims.length ≤ 1) ∧
         (∀ t ∈ h.claims, t < 8 ∧ ∀ x ∈ s.grids, x.gid ≠ g.gid → x.pressing = true → h.cls ≤ x.cls → t ∉ x.claims) ∧
         ∀ k, k ≠ g.gid → u.grid? k = s.grid? k)) ∧
  (∀ (g : Grid) (u : List Block) (c : Cand) (s s1 : State) (e : Evicted),
     let age (k : Nat) : Nat := [s.regs.age0, s.regs.age1, s.regs.age2].getD k s.regs.age3
     s.order.head? = some c → c.unit = none → c.id = c.g.gid → c.g.lrec.gang = false → c.g.lrec.cluster = 0 →
     (c.g.st = .running ∨ s.poolRoom c.g = true) →
     (∀ x, x < 640 → s.claimed c.g x = false → s.eligible x c.g.gid c.g.lrec c.g.next c.g.lrec.teams = false) →
     s.dist.head = c.id → age c.g.cls ≠ 0 → 1024 * age c.g.cls ≤ 2 * s.pkg.clk.toNat - s.dist.headAt →
     g ∈ s.grids → descendsFrom s g.gid 16 c.g → waitsForChild s g u → (∀ b ∈ s.blocks, b.order < s.uid) →
     (∀ x ∈ s.grids, descendsFrom s x.gid 16 c.g → ∀ y, waitsForChild s x y → x = g ∧ y = u ∨ g.cls < x.cls ∨
       (g.cls = x.cls ∧ unitAge y < unitAge u)) →
     s.evictCount {} u false = some (s1, e) →
     (∀ b ∈ s1.blocks, (∃ x ∈ u, x.bid = b.bid) → b.life = .evicted) ∧
     (∀ t ∈ s1.teams, (∃ x ∈ u, x.bid = t.bid) → t.life ≠ .live) ∧ e.blocks = u.length ∧
     e.teams = s.teams.countP (fun t => (u.map (·.bid)).contains t.bid && t.life == Life.live) ∧
     ((∀ v ∈ s1.saved, v.u ∈ e.units → v.pend = false) →
       exec (.childWaitEviction g.gid) s = .next { s1 with
         dist := { s1.dist with headAt := s1.fab }
         link := (s1.send 0 0x06 g.ctx 0 (savedBytes 0x10 0 0 e.blocks e.teams e.bytes)).link }) ∧
     ((∃ v ∈ s1.saved, v.u ∈ e.units ∧ v.pend = true) →
       exec (.childWaitEviction g.gid) s = .next { s1 with
         dist := { s1.dist with headAt := s1.fab }, saving := s1.saving ++ [e.saving g.ctx 0 0x10 0 []] })) ∧
  (∀ (q : Nat) (c : Cup) (g : Grid) (f : Nat → List Byte) (s : State),
     (s.quadD q).cups.find? (fun x => x.gid == g.gid) = some c →
     s.grid? g.gid = some g → c.done = false → c.fseq = 0 → s.ctxEnding g.ctx = false →
     (s.quads.any fun x => x.q == q) = true → s.restoring = [] → settled s → s.caches.counted = [] →
     let n := (s.slotOf g.ctx).getD 0
     let todo (k : Nat) : Prop := c.filled / 4096 ≤ k ∧ k < c.size / 4096
     s.inRegion n g.lrec.image c.size = true →
     (∀ k, todo k → s.readVirt n (.fill g.gid q) (ptrAdd g.lrec.image (4096 * k)) 4096 = .ok (f k) ∧ (f k).length = 4096) →
     ∃ u d, exec (.cupboardFill q g.gid) s = .next u ∧ u.mem = s.mem ∧ u.t = s.t ∧ u.others = s.others ∧
       (u.quadD q).cups.find? (fun x => x.gid == g.gid) = some d ∧ d.done = true ∧ d.size = c.size ∧ d.fseq = 0 ∧
       (∀ k i, todo k → i < 4096 → sget 0 (4096 * k + i) d.bytes = (f k).getD i 0) ∧
       (∀ a, ¬todo (a / 4096) → sget 0 a d.bytes = sget 0 a c.bytes) ∧
       (g.lrec.gang = false → ∀ b ∈ u.blocks, b.gid = g.gid → b.life = .resident → quadOf b.core = q →
         s.barred b.core g.lrec = false → b.started = true))

/-! ### Health, power and the Sideboard -/

/-- R434 to R437: a corrected error of a bundle in service counts in its VPxCE, which saturates, and in its LEAKx; the error
that brings LEAKx to 64 takes the bundle out of service with REASON 2 and alerts the Sideboard. An uncorrectable one with
both bundles in service takes that bundle out with REASON 3 and ends no context; on a core's only bundle it fences the core
with REASON 3, and the context of the team whose pass failed begins to end with status 0x44. Every 2^20 fabric cycles each
LEAKx falls by one.

R423, R431: a tower whose bridge times out is lost: TOWERLOST has its bit, its cores are fenced with REASON 4, every
context with a block there begins to end, and the Sideboard is alerted.

R438, R439: a corrected soft error only counts. An uncorrectable one counts, and by what it strikes poisons its sector,
which counts too, or begins to end the context that owns the storage with status 0x44, or nothing more.

R67, R379: at the end of an epoch each region's level goes down, up or stays by the first rule that applies to the counts
of the epoch, pinned regions keep theirs, as all do where REPLAUTO is not selected, and the counts start again.

The model's choices: the bundles of a lost tower are out of service (log 63); a sector that is poisoned again counts in
POISON again (log 65); a bundle leaves service at once (log 71). -/
def Obligations.Health : Prop :=
  ((∀ (core vp tid : Nat) (s : State), core < 640 → vp < 2 →
     let h := s.core core
     let up : CoreHealth := if vp = 0 then { h with ce0 := min 0xFFFF (h.ce0 + 1), leak0 := h.leak0 + 1 }
       else { h with ce1 := min 0xFFFF (h.ce1 + 1), leak1 := h.leak1 + 1 }
     let out (h : CoreHealth) (why : Nat) : CoreHealth :=
       if vp = 0 then { h with vp0 := false, reason := why } else { h with vp1 := false, reason := why }
     let leak := if vp = 0 then h.leak0 else h.leak1
     let other := if vp = 0 then h.vp1 else h.vp0
     let alert (l : List SbEvent) : Side := { s.side with alert := true, events := s.side.events ++ l }
     (if vp = 0 then h.vp0 else h.vp1) = true →
     (leak < 63 → ∃ u, exec (.vpCorrectedError core vp) s = .next u ∧ u = { s with cores := u.cores } ∧
       u.core core = up ∧ ∀ c, c ≠ core → u.core c = s.core c) ∧
     (63 ≤ leak → other = true → ∃ u, exec (.vpCorrectedError core vp) s = .next u ∧
       u = { s with cores := u.cores, side := alert [.bundleRemoved core vp] } ∧ u.core core = out up 2 ∧
       ∀ c, c ≠ core → u.core c = s.core c) ∧
     (63 ≤ leak → other = false → ∃ u, exec (.vpCorrectedError core vp) s = .next u ∧
       u.side = alert [.bundleRemoved core vp, .coreFenced core] ∧ u.core core = out up 2 ∧
       ∀ c, c ≠ core → u.core c = s.core c) ∧
     (other = true → ∃ u, exec (.vpUncorrectableError core vp tid) s = .next u ∧
       u = { s with cores := u.cores, side := alert [.bundleRemoved core vp] } ∧ u.core core = out h 3 ∧
       ∀ c, c ≠ core → u.core c = s.core c) ∧
     (other = false → ∃ u, exec (.vpUncorrectableError core vp tid) s = .next u ∧
       u.side = alert [.bundleRemoved core vp, .coreFenced core] ∧ u.core core = out h 3 ∧
       (∀ c, c ≠ core → u.core c = s.core c) ∧
       (s.regs.towerlost = 0 → (∀ q, (s.quadD q).port = []) →
         ∀ t n, s.team? tid = some t → t.core = core → t.life = .live → s.slotOf t.ctx = some n →
           (u.slot n).ending = some (endsWith s n 0x44)))) ∧
   (∀ s : State, s.pkg.leakAt + 2 ^ 20 ≤ 2 * s.pkg.clk.toNat →
     ∃ u, exec .leakDecay s = .next u ∧ u = { s with cores := u.cores, pkg := u.pkg } ∧
       u.pkg = { s.pkg with leakAt := s.pkg.leakAt + 2 ^ 20 } ∧
       ∀ k h, (k, h) ∈ u.cores ↔
         h ≠ {} ∧ ∃ o, (k, o) ∈ s.cores ∧ h = { o with leak0 := o.leak0 - 1, leak1 := o.leak1 - 1 })) ∧
  (∀ (t : Nat) (s : State), t < 8 → s.regs.towerlost.getLsbD t = false →
     ∃ u, exec (.bridgeTimeout t) s = .next u ∧
       u.regs = { s.regs with towerlost := s.regs.towerlost ||| BitVec.ofNat 8 (2 ^ t) } ∧
       (∀ c, c / 80 = t → u.core c = { s.core c with vp0 := false, vp1 := false, reason := 4 }) ∧
       (∀ c, c / 80 ≠ t → u.core c = s.core c) ∧ u.mem = s.mem ∧ u.t = s.t ∧ u.others = s.others ∧ u.blocks = s.blocks ∧
       u.side = { s.side with alert := true, events := s.side.events ++ [.towerLost t] } ∧
       (∀ b ∈ s.blocks, b.life = .resident → b.core / 80 = t → ∀ g, s.grid? b.gid = some g → ∀ n,
         s.slotOf g.ctx = some n → (u.slot n).ending = some (endsWith s n 0x41))) ∧
  (∀ (t k : Nat) (s : State), t < 8 → k < 8 →
     let counted (u : State) (o : Nat) : Prop :=
       sget 0 (256 * t + o) u.regs.soft = (sget 0 (256 * t + o) s.regs.soft + 1) % 2 ^ 64
     (∃ u, exec (.softErrorCorrected t k) s = .next u ∧ counted u (16 * k) ∧
       u = { s with regs := { s.regs with soft := u.regs.soft } } ∧
       ∀ o, o ≠ 256 * t + 16 * k → sget 0 o u.regs.soft = sget 0 o s.regs.soft) ∧
     (k = 2 ∨ k = 3 ∨ k = 5 → ∃ u, exec (.softErrorUncorrectable t k .clean) s = .next u ∧ counted u (16 * k + 8) ∧
       u = { s with regs := { s.regs with soft := u.regs.soft } }) ∧
     (∀ ctx n, k = 0 ∨ k = 1 ∨ k = 4 → s.slotOf ctx = some n →
       ∃ u, exec (.softErrorUncorrectable t k (.owned ctx)) s = .next u ∧ counted u (16 * k + 8) ∧
         (u.slot n).ending = some (endsWith s n 0x44) ∧
         u = { s with regs := { s.regs with soft := u.regs.soft }, ctxs := u.ctxs }) ∧
     (∀ pa, k = 2 ∨ k = 3 ∨ k = 6 ∨ k = 7 → pa < Config.dramSize →
       ∃ u, exec (.softErrorUncorrectable t k (.sector pa)) s = .next u ∧ counted u (16 * k + 8) ∧ counted u 0x80 ∧
         u = { s with regs := { s.regs with soft := u.regs.soft }, poison := u.poison } ∧
         ∀ q, q ∈ u.poison ↔ q = pa / 32 ∨ q ∈ s.poison)) ∧
  (∀ s : State, s.pkg.epochAt + 65536 ≤ 2 * s.pkg.clk.toNat →
     ∃ u, exec .replicationEpoch s = .next u ∧ u = { s with caches := u.caches, pkg := u.pkg } ∧
       u.pkg = { s.pkg with epochAt := s.pkg.epochAt + 65536 } ∧ u.caches.l1 = s.caches.l1 ∧
       u.caches.counted = s.caches.counted ∧
       ∀ k r, (k, r) ∈ u.caches.regions ↔ r ≠ {} ∧ ∃ o, (k, o) ∈ s.caches.regions ∧ r.pin = o.pin ∧ r.x = 0 ∧ r.n = 0 ∧
         r.w = 0 ∧ r.level =
           if o.pin.isSome ∨ s.feature 4 = false then o.level
           else if 0 < o.level ∧ (o.x < 8 * o.w ∨ o.x < 64) then o.level - 1
           else if o.level < 3 ∧ 1024 ≤ o.x ∧ 64 * o.w ≤ o.x ∧ o.x ≤ 4 * o.n then o.level + 1
           else o.level)

/-- R425, R426, R442: a device reset, by RESET_L or through the Sideboard, leaves memory zero, contexts inactive, no work, no
seal, the link down and unlocked, TIMEBASE 0; the Sideboard's endpoint and RSEL, the soft-error counters and the flash are
kept, the image staged last runs, and its minimum SVN rises.

R425, R427, R433: without power nothing but the flash keeps its contents; its rise starts bring-up. At 115 degrees of a
die the package trips: every clock stops, memory and contexts are lost, and the Sideboard is alerted. While
package power is above CAPW or a die at 105 degrees the clock steps down, to seven steps below nominal, and once both
conditions have been clear for 10 ms it steps up again.

R377, R427 to R429: at the end of bring-up the bring-up record has 168 bytes, two bits a core, then TOWERLOST; entries 2
to 5 of the measurement log are valid, the fourth the SHA-384 of the record; memory holds zeros and no poison; the link is up
and FEATURE PHASE 0 offers features 0 to 9.

The model's choices: at a trip the registers and the health of the cores stand, of which R433 says nothing (log 64); a reset
through the Sideboard is answered with the completion byte 0, a code of PLDM that the model presumes (log 6); each throttle
step raises the alert, and recovery goes one step at a time (log 64); the start of the link makes the steps of bring-up that
are left (logs 63 and 84). -/
def Obligations.ResetAndPower : Prop :=
  (∀ (i : Instr) (b : BringUp) (s : State), i = .deviceReset b ∨ (i = .pldmDeviceReset b ∧ s.sbOn = true) →
     s.pkg.pwrok = true → s.pkg.tripped = false →
     ∃ u, exec i s = .next u ∧ u.Sound ∧ (∀ a, u.byte a = 0) ∧ (∀ n, (u.slot n).act = false) ∧ u.grids = [] ∧
       u.blocks = [] ∧ u.teams = [] ∧ u.seals = [] ∧ u.eops = [] ∧ u.poison = [] ∧ u.saved = [] ∧ u.caches = {} ∧
       u.link = {} ∧ u.pkg.clk = 0 ∧ u.pkg.pwrok = true ∧ u.pkg.tests = b ∧ u.regs.towerlost = 0 ∧
       u.regs.soft = s.regs.soft ∧ u.regs.mlog = s.regs.mlog.take 1 ∧ u.regs.streams = [] ∧ u.regs.window = [] ∧ u.regs.pctl = [] ∧
       u.regs.rselSb = s.regs.rselSb ∧ u.side.eid = s.side.eid ∧ u.side.alert = s.side.alert ∧
       u.side.reply = (if i = .deviceReset b then s.side.reply else [0]) ∧
       (∀ n, n ≠ 2 → n ≠ 3 → sget {} n u.side.flash = sget {} n s.side.flash) ∧
       ∀ n, n = 2 ∨ n = 3 → ∀ f, f = sget {} n s.side.flash → sget {} n u.side.flash =
         { f with inUse := f.sel, minSvn := max f.minSvn (if f.sel = 0 then f.svn0 else f.svn1) }) ∧
  (∀ (b : BringUp) (s : State),
     (∃ u, exec .pwrokFall s = .next u ∧ u.pkg.pwrok = false ∧ u.pkg.tripped = false ∧ (∀ a, u.byte a = 0) ∧
       (∀ n, (u.slot n).act = false) ∧ u.link = {} ∧ u.regs = {} ∧ u.teams = [] ∧
       u.side = { flash := s.side.flash }) ∧
     (s.pkg.pwrok = false → ∃ u, exec (.pwrokRise b) s = .next u ∧ u.pkg.pwrok = true ∧ u.pkg.tripped = false ∧
       u.pkg.clk = 0 ∧ u.pkg.tests = b ∧ (∀ a, u.byte a = 0) ∧ u.link = {} ∧ u.regs = {} ∧ u.side.eid = 0 ∧
       (sget {} 1 u.side.flash).inUse = (sget {} 1 s.side.flash).sel) ∧
     (s.pkg.pwrok = true → s.pkg.tripped = false →
       let at_ (temp : Nat) : Prop := ∃ n, n < 16 ∧ temp ≤ sget 0 n s.pkg.sens
       let hot := s.regs.capw.toNat < sget 0 16 s.pkg.sens ∨ at_ 105
       (at_ 115 → ∃ u, exec .thermalTrip s = .next u ∧ u.pkg.tripped = true ∧ (∀ a, u.byte a = 0) ∧
         (∀ n, (u.slot n).act = false) ∧ u.teams = [] ∧ u.regs = s.regs ∧ u.cores = s.cores ∧
         u.side = { s.side with alert := true, events := s.side.events ++ [.tripped] }) ∧
       (¬at_ 115 → exec .thermalTrip s = .next s) ∧
       (hot → s.pkg.slow < 7 → exec .throttle s = .next { s with
         pkg := { s.pkg with slow := s.pkg.slow + 1 }
         side := { s.side with alert := true, events := s.side.events ++ [.throttled] } }) ∧
       (¬hot ∨ 7 ≤ s.pkg.slow → exec .throttle s = .next s) ∧
       (¬hot → 0 < s.pkg.slow → coolFull ≤ s.pkg.cool →
         exec .clockRecovery s = .next { s with pkg := { s.pkg with slow := s.pkg.slow - 1 } }) ∧
       (hot ∨ s.pkg.slow = 0 ∨ s.pkg.cool < coolFull → exec .clockRecovery s = .next s))) ∧
  (∀ s : State, s.pkg.pwrok = true → s.pkg.tripped = false → s.link.up = false → s.link.locked = false →
     s.pkg.bringStep = 0 → s.regs.mlog.length ≤ 1 →
     ∃ u, exec .linkStart s = .next u ∧ u.link.up = true ∧ u.link.rxseq = 0 ∧ u.link.txseq = 1 ∧
       (∀ a, u.byte a = 0) ∧ u.poison = [] ∧
       u.link.out = s.link.out ++ [⟨0, 0x07, 0, 0, 0, statusBytes 0 ++ leBytes 16 0x3FF ++ [1, 0, 1, 0, 1, 0, 1, 0] ++
         [1, 0, 1, 0, 1, 0, 1, 0] ++ leBytes 4 s.capDp.toNat ++ [0, 0, 0, 0] ++ statusBytes 1 ++ statusBytes 0⟩] ∧
       u.regs.bring.length = 168 ∧
       (∀ c, c < 640 → ((u.regs.bring.getD (c / 4) 0).getLsbD (2 * (c % 4)) = (u.core c).vp0) ∧
         ((u.regs.bring.getD (c / 4) 0).getLsbD (2 * (c % 4) + 1) = (u.core c).vp1)) ∧
       u.regs.bring.getD 160 0 = u.regs.towerlost ∧ u.regs.mlog.length = 5 ∧
       (∀ k, 1 ≤ k → k < 5 → ∃ e, u.regs.mlog[k]? = some e ∧ e.index = k + 1 ∧ e.valid = true) ∧
       (u.regs.mlog[3]?.map (·.digest)) = some (sha384 u.regs.bring) ∧
       (s.pkg.tests.failed = [] → s.pkg.tests.lost = [] → u.cores = s.cores ∧ u.side = s.side))

/-- R425, R431, R432, R442: the Sideboard. Its reset forgets endpoint and alert and touches nothing of the device; the bus
owner assigns its endpoint id; PLDM answers discovery with types 0, 2 and 5, sets the power cap clamped, brings the host link
down to retrain it, reads a sensor, and stages an image of at least the minimum SVN in the bank not in use, to run at
the next reset; a device reset is answered, and refused in a thermal trip. That its reset keeps the mailbox's negotiation is the
model's choice (log 84).

R376, R431, R440: the Sideboard reads register space with the status results of a host read, and changes nothing by it; it
sees what the host sees, but for the region that its own RSEL selects.

R430: each responder answers a request of its seven kinds once negotiation has come far enough, and any other with ERROR
UnsupportedRequest; the mailbox takes the response as its contents, with DONE set and BUSY clear; GET_VERSION lists 1.3;
ALGORITHMS selects ECDSA P-384 and SHA-384 where they are offered, and nothing else; DIGESTS and CHALLENGE_AUTH give the
SHA-384 of the identity chain, CERTIFICATE the part of it that is asked for; MEASUREMENTS gives the log entry of the index as
a digest, every valid one for 0xFF, and how many there are for 0; a request of another version or before its turn is
refused, as is a certificate slot other than 0; GET_MEASUREMENTS of an entry that is not valid is ERROR Busy. The codes and
layouts are those of DMTF SPDM, which the model presumes (log 6); what they leave open of a response is open here. -/
def Obligations.SideboardAndSpdm : Prop :=
  (∀ (s : State) (e : BitVec 8) (w : BitVec 16) (n img svn : Nat), s.pkg.pwrok = true →
     (∃ u, exec .sbReset s = .next u ∧ u.side = { negMbx := s.side.negMbx, flash := s.side.flash } ∧
       u = { s with side := u.side, regs := { s.regs with rselSb := [], mlog := u.regs.mlog } } ∧
       u.regs.mlog.drop 1 = s.regs.mlog.drop 1 ∧ (∃ e, u.regs.mlog.head? = some e ∧ e.index = 1 ∧ e.valid = true)) ∧
     (s.sbOn = true → exec (.endpointIdAssignment e) s = .next { s with side := { s.side with eid := e } } ∧
     exec .pldmDiscovery s = .next { s with side := { s.side with reply := [0, 0x25, 0, 0, 0, 0, 0, 0, 0] } } ∧
     exec (.pldmSensorRead n) s = .next { s with side := { s.side with
       reply := if n < 18 then 0 :: leBytes 4 (sget 0 n s.pkg.sens) else [0x80] } } ∧
     (∀ b, s.pkg.tripped = true →
       exec (.pldmDeviceReset b) s = .next { s with side := { s.side with reply := [1] } }) ∧
     exec (.pldmSetPowerCap w) s = .next { s with
       regs := { s.regs with capw := BitVec.ofNat 16 (max 1000 (min 2800 w.toNat)) }
       side := { s.side with reply := [0] } } ∧
     exec .pldmLinkRetrain s =
       .next { s with link := { s.link with up := false }, side := { s.side with reply := [0] } } ∧
     (1 ≤ img → img ≤ 3 → (sget {} img s.side.flash).minSvn ≤ svn →
       ∃ u f, exec (.pldmFirmwareStage img svn) s = .next u ∧ f = sget {} img u.side.flash ∧
         f.inUse = (sget {} img s.side.flash).inUse ∧ f.minSvn = (sget {} img s.side.flash).minSvn ∧
         (f.inUse = 0 → f.sel = 1 ∧ f.svn1 = svn ∧ f.svn0 = (sget {} img s.side.flash).svn0) ∧
         (f.inUse ≠ 0 → f.sel = 0 ∧ f.svn0 = svn ∧ f.svn1 = (sget {} img s.side.flash).svn1) ∧
         (∀ k, k ≠ img → sget {} k u.side.flash = sget {} k s.side.flash) ∧
         u = { s with side := { s.side with flash := u.side.flash, reply := [0] }, uid := u.uid }) ∧
     (svn < (sget {} img s.side.flash).minSvn → 1 ≤ img → img ≤ 3 →
       exec (.pldmFirmwareStage img svn) s = .next { s with side := { s.side with reply := [1] } }))) ∧
  (∀ (s : State) (o n : Nat) (rest : List Act),
     (s.acts = .sbRead o n :: rest → step s = .next (({ s.tick with acts := rest }).sbRead o n)) ∧
     (s.sbOn = true → s.pkg.tripped = false →
       (∀ v, n = 8 → s.regRead true o = some v →
         s.sbRead o n = { s with side := { s.side with reply := statusBytes 0 ++ leBytes 8 v } }) ∧
       (n ≠ 8 ∨ s.regRead true o = none →
         s.sbRead o n = { s with side := { s.side with reply := statusBytes 2 ++ List.replicate n 0 } })) ∧
     (s.sbOn = false ∨ s.pkg.tripped = true → s.sbRead o n = s) ∧
     (o < 0x100000 ∨ 0x108000 ≤ o ∨ o % 0x1000 < 0x40 ∨ 0x48 < o % 0x1000 → s.regRead true o = s.regRead false o) ∧
     (∀ t, t < 8 → s.regRead true (0x100040 + 0x1000 * t) = some (sget 0 t s.regs.rselSb) ∧
       s.regRead false (0x100040 + 0x1000 * t) = some (sget 0 t s.regs.rsel) ∧
       s.regRead true (0x100048 + 0x1000 * t) = some (s.caches.region (sget 0 t s.regs.rselSb)).rstate)) ∧
  (∀ (s : State) (r : SpdmReq) (k : Nat) (i : Instr) (bs : List Byte), bs = s.spdmBytes r → s.spdmOpen r = true →
     (k = 0x84 ∧ i = .getVersion r) ∨ (k = 0xE1 ∧ i = .getCapabilities r) ∨ (k = 0xE3 ∧ i = .negotiateAlgorithms r) ∨
       (k = 0x81 ∧ i = .getDigests r) ∨ (k = 0x82 ∧ i = .getCertificate r) ∨ (k = 0x83 ∧ i = .challenge r) ∨
       (k = 0xE0 ∧ i = .getMeasurements r) ∨
       (k ∉ [0x84, 0xE1, 0xE3, 0x81, 0x82, 0x83, 0xE0] ∧ i = .spdmUnsupportedRequest r) →
     (bs.getD 1 0).toNat = k →
     let need := if k = 0xE1 then 1 else if k = 0xE3 then 2 else if k ∈ [0x81, 0x82, 0x83, 0xE0] then 3 else 0
     let old := i ≠ .spdmUnsupportedRequest r ∧ bs.getD 0 0 ≠ (if k = 0x84 then 0x10 else 0x13)
     ∃ u out, exec i s = .next u ∧
       u = { s with regs := { s.regs with
               mbxBuf := u.regs.mbxBuf, mbxLen := u.regs.mbxLen, mbxDone := u.regs.mbxDone, mbxBusy := u.regs.mbxBusy }
                    side := { s.side with reply := u.side.reply, negMbx := u.side.negMbx, negI3c := u.side.negI3c } } ∧
       (r.mailbox = true → u.regs.mbxDone = true ∧ u.regs.mbxBusy = false ∧ u.regs.mbxLen = (out.take 4096).length ∧
         sgets 0 0 (out.take 4096).length u.regs.mbxBuf = out.take 4096 ∧ u.side.reply = s.side.reply) ∧
       (r.mailbox = false → u.side.reply = out ∧ u.regs = s.regs) ∧
       (old → out = [0x13, 0x7F, 0x41, 0] ∧ u.spdmNeg r = s.spdmNeg r) ∧
       (¬old →
         (k = 0x84 → out = [0x10, 0x04, 0, 0, 0, 1, 0x00, 0x13] ∧ u.spdmNeg r = 1) ∧
         (s.spdmNeg r < need → out = [0x13, 0x7F, 4, 0] ∧ u.spdmNeg r = s.spdmNeg r) ∧
         (k = 0xE1 → need ≤ s.spdmNeg r → u.spdmNeg r = 2 ∧ out.take 2 = [0x13, 0x61]) ∧
         (k = 0xE3 → need ≤ s.spdmNeg r → u.spdmNeg r = 3 ∧
           out = [0x13, 0x63, 0, 0, 36, 0, 1, 0] ++ leBytes 4 4 ++
             leBytes 4 (if leNat ((bs.drop 8).take 4) / 0x80 % 2 = 1 then 0x80 else 0) ++
             leBytes 4 (if leNat ((bs.drop 12).take 4) / 2 % 2 = 1 then 2 else 0) ++ List.replicate 16 0) ∧
         (k = 0x81 → need ≤ s.spdmNeg r → out = [0x13, 0x01, 1, 1] ++ sha384 Config.identity) ∧
         (k = 0x82 → need ≤ s.spdmNeg r → (bs.getD 2 0).toNat % 16 = 0 →
           let off := leNat ((bs.drop 4).take 2)
           let rest := Config.identity.length - off
           let n := min (leNat ((bs.drop 6).take 2)) rest
           (off < Config.identity.length →
             out = [0x13, 0x02, 0, 0] ++ leBytes 2 n ++ leBytes 2 (rest - n) ++ (Config.identity.drop off).take n) ∧
           (Config.identity.length ≤ off → out = [0x13, 0x7F, 1, 0])) ∧
         (k = 0x83 → need ≤ s.spdmNeg r → (bs.getD 2 0).toNat % 16 = 0 →
           ∃ tail, out = [0x13, 0x03, 0, 1] ++ sha384 Config.identity ++ tail) ∧
         (k = 0xE0 → need ≤ s.spdmNeg r →
           let n := (bs.getD 3 0).toNat
           let valid := s.regs.mlog.filter (·.valid)
           let block (type : MEntry → Byte) (e : MEntry) : List Byte :=
             [BitVec.ofNat 8 e.index, 1] ++ leBytes 2 51 ++ [type e] ++ leBytes 2 48 ++ e.digest
           let answer (l : List MEntry) : Prop := ∃ type tail, (∀ e, (type e).toNat < 128) ∧
             out = [0x13, 0x60, 0, 0, BitVec.ofNat 8 l.length] ++ leBytes 3 (l.flatMap (block type)).length ++
               l.flatMap (block type) ++ tail
           (n = 0 → ∃ tail, out = [0x13, 0x60, BitVec.ofNat 8 valid.length, 0, 0, 0, 0, 0] ++ tail) ∧
           (n = 0xFF → answer valid) ∧
           (∀ e, 1 ≤ n → n ≤ 5 → valid.find? (fun e => e.index == n) = some e → answer [e]) ∧
           (5 < n → n < 0xFF → out = [0x13, 0x7F, 1, 0])) ∧
         (k = 0x82 ∨ k = 0x83 → need ≤ s.spdmNeg r → (bs.getD 2 0).toNat % 16 ≠ 0 → out = [0x13, 0x7F, 1, 0]) ∧
         (k = 0xE0 → need ≤ s.spdmNeg r → 1 ≤ (bs.getD 3 0).toNat → (bs.getD 3 0).toNat ≤ 5 →
           (∀ e ∈ s.regs.mlog, e.index = (bs.getD 3 0).toNat → e.valid = false) → out = [0x13, 0x7F, 3, 0]) ∧
         (i = .spdmUnsupportedRequest r → out = [0x13, 0x7F, 7, BitVec.ofNat 8 k])))
end

