-- ==== Sys2Proof/Laws/Cells.lean ====
section
/-! SUPPORT. Sparse stores and local memory: what a read gives after a write, and the canonical form. -/

namespace Sys2Proof.Machine

variable {α : Type}

/-! ### Reads after writes -/

theorem sget_sdrop (z : α) {k n : Nat} (h : k < n) (m : SMap α) : sget z n (sdrop k m) = sget z n m := by
  induction m with
  | nil => rfl
  | cons p r ih =>
    obtain ⟨j, x⟩ := p
    by_cases hj : j ≤ k
    · simp [sdrop, hj, ih, sget, Nat.ne_of_gt (Nat.lt_of_le_of_lt hj h), Nat.not_lt.2 (Nat.le_of_lt (Nat.lt_of_le_of_lt hj h))]
    · simp [sdrop, hj]

theorem sget_sdrop_self (z : α) (k : Nat) (m : SMap α) : sget z k (sdrop k m) = z := by
  induction m with
  | nil => rfl
  | cons p r ih =>
    obtain ⟨j, x⟩ := p
    by_cases hj : j ≤ k
    · simp [sdrop, hj, ih]
    · have : k < j := Nat.lt_of_not_le hj
      simp [sdrop, hj, sget, this, Nat.ne_of_lt this]

/-- A read of the key written gives what was written. -/
@[simp] theorem sget_sput_self [DecidableEq α] (z : α) (k : Nat) (x : α) (m : SMap α) : sget z k (sput z k x m) = x := by
  induction m with
  | nil => by_cases h : x = z <;> simp [sput, sget, h]
  | cons p r ih =>
    obtain ⟨j, y⟩ := p
    unfold sput
    split
    · next h => split <;> simp_all [sget, Nat.ne_of_lt]
    · next h =>
      split
      · next e => split <;> simp_all [sget, sget_sdrop_self]
      · next e =>
        simp [sget, e, h, ih]

/-- A read of another key gives what it gave before. -/
theorem sget_sput_ne [DecidableEq α] (z : α) {k n : Nat} (h : n ≠ k) (x : α) (m : SMap α) :
    sget z n (sput z k x m) = sget z n m := by
  induction m with
  | nil => by_cases hx : x = z <;> simp [sput, sget, hx, h]
  | cons p r ih =>
    obtain ⟨j, y⟩ := p
    unfold sput
    split
    · next hk =>
      split
      · rfl
      · simp only [sget, h, if_false]
        by_cases hn : n < k
        · have : n < j := Nat.lt_trans hn hk
          simp [hn, this, Nat.ne_of_lt this]
        · simp [hn]
    · next hk =>
      split
      · next e =>
        subst e
        by_cases hn : n < k
        · split
          · rw [show sget z n ((k, y) :: r) = z from by simp [sget, hn, Nat.ne_of_lt hn]]
            clear ih
            induction r with
            | nil => rfl
            | cons q r ih =>
              obtain ⟨i, w⟩ := q
              by_cases hi : i ≤ k
              · simpa [sdrop, hi] using ih
              · have : n < i := Nat.lt_trans hn (Nat.lt_of_not_le hi)
                simp [sdrop, hi, sget, this, Nat.ne_of_lt this]
          · simp [sget, h, hn]
        · have hk' : k < n := by omega
          split <;> simp [sget, h, hn, sget_sdrop z hk']
      · simp only [sget, ih]

theorem sget_sput [DecidableEq α] (z : α) (k n : Nat) (x : α) (m : SMap α) :
    sget z n (sput z k x m) = if n = k then x else sget z n m := by
  by_cases h : n = k
  · simp [h]
  · simp [h, sget_sput_ne z h]

/-- Of a run of writes, a key outside it keeps its value. -/
theorem sget_sputRun_out [DecidableEq α] (z : α) (l : List α) {k n : Nat} (m : SMap α) (h : n < k ∨ k + l.length ≤ n) :
    sget z n (sputRun z k l m) = sget z n m := by
  induction l generalizing k m with
  | nil => rfl
  | cons x r ih =>
    simp only [List.length_cons] at h
    rw [sputRun, ih _ (by omega), sget_sput_ne z (by omega)]

/-- Of a run of writes, key k + i reads as its element i. -/
theorem sget_sputRun_in [DecidableEq α] (z : α) (l : List α) {k i : Nat} (m : SMap α) (h : i < l.length) :
    sget z (k + i) (sputRun z k l m) = l[i] := by
  induction l generalizing k i m with
  | nil => exact absurd h (Nat.not_lt_zero _)
  | cons x r ih =>
    cases i with
    | zero => rw [sputRun, sget_sputRun_out z r _ (by omega)]; simp
    | succ i =>
      have := ih (k := k + 1) (i := i) (sput z k x m) (by simpa using h)
      rw [sputRun, show k + (i + 1) = k + 1 + i by omega, this]; rfl

/-- A run written is read back. -/
theorem sgets_sputRun [DecidableEq α] (z : α) (l : List α) (k : Nat) (m : SMap α) :
    sgets z k l.length (sputRun z k l m) = l := by
  apply List.ext_getElem
  · simp [sgets]
  · intro i h1 h2
    simp [sgets, sget_sputRun_in z l m h2]

/-! ### The canonical form -/

theorem swf_mono [DecidableEq α] (z : α) {lo hi : Nat} {m : SMap α} (h : swf z hi m = true) (hl : lo ≤ hi) :
    swf z lo m = true := by
  cases m with
  | nil => rfl
  | cons p r =>
    obtain ⟨j, x⟩ := p
    simp only [swf, Bool.and_eq_true, decide_eq_true_eq] at h ⊢
    exact ⟨⟨Nat.le_trans hl h.1.1, h.1.2⟩, h.2⟩

theorem sdrop_of_swf [DecidableEq α] (z : α) {k : Nat} {m : SMap α} (h : swf z (k + 1) m = true) : sdrop k m = m := by
  cases m with
  | nil => rfl
  | cons p r =>
    obtain ⟨j, x⟩ := p
    simp only [swf, Bool.and_eq_true, decide_eq_true_eq] at h
    have : ¬j ≤ k := by omega
    simp [sdrop, this]

/-- A write keeps the canonical form. -/
theorem swf_sput [DecidableEq α] (z : α) {lo k : Nat} (x : α) {m : SMap α} (h : swf z lo m = true) (hk : lo ≤ k) :
    swf z lo (sput z k x m) = true := by
  induction m generalizing lo with
  | nil => by_cases hx : x = z <;> simp [sput, swf, hx, hk]
  | cons p r ih =>
    obtain ⟨j, y⟩ := p
    simp only [swf, Bool.and_eq_true, decide_eq_true_eq] at h
    unfold sput
    split
    · next hj =>
      split
      · simp [swf, h]
      · next hx => simp [swf, hk, hx, h, hj]
    · next hj =>
      split
      · next e =>
        subst e
        rw [sdrop_of_swf z h.2]
        split
        · exact swf_mono z h.2 (by omega)
        · next hx => simp [swf, hk, hx, h.2]
      · next e =>
        simp only [swf, Bool.and_eq_true, decide_eq_true_eq]
        exact ⟨h.1, ih h.2 (by omega)⟩

theorem swf_sputRun [DecidableEq α] (z : α) (l : List α) {lo k : Nat} {m : SMap α} (h : swf z lo m = true) (hk : lo ≤ k) :
    swf z lo (sputRun z k l m) = true := by
  induction l generalizing k m with
  | nil => exact h
  | cons x r ih => exact ih (swf_sput z x h hk) (by omega)

theorem swf_sputs [DecidableEq α] (z : α) (l : List (Nat × α)) {m : SMap α} (h : swf z 0 m = true) :
    swf z 0 (sputs z l m) = true := by
  induction l generalizing m with
  | nil => exact h
  | cons p r ih => exact ih (swf_sput z p.2 h (Nat.zero_le _))

/-- In canonical form, equal contents are equal data. -/
theorem swf_ext [DecidableEq α] (z : α) {a b : SMap α} {lo : Nat} (ha : swf z lo a = true) (hb : swf z lo b = true)
    (h : ∀ k, sget z k a = sget z k b) : a = b := by
  have low : ∀ {m : SMap α} {l k : Nat}, swf z l m = true → k < l → sget z k m = z := by
    intro m l k hm hk
    cases m with
    | nil => rfl
    | cons p r =>
      obtain ⟨j, x⟩ := p
      simp only [swf, Bool.and_eq_true, decide_eq_true_eq] at hm
      have : k < j := by omega
      simp [sget, this, Nat.ne_of_lt this]
  induction a generalizing b lo with
  | nil =>
    cases b with
    | nil => rfl
    | cons p r =>
      obtain ⟨j, x⟩ := p
      simp only [swf, Bool.and_eq_true, decide_eq_true_eq] at hb
      exact absurd (by simpa [sget] using (h j).symm) hb.1.2
  | cons p r ih =>
    obtain ⟨j, x⟩ := p
    simp only [swf, Bool.and_eq_true, decide_eq_true_eq] at ha
    cases b with
    | nil => exact absurd (by simpa [sget] using h j) ha.1.2
    | cons q t =>
      obtain ⟨i, y⟩ := q
      simp only [swf, Bool.and_eq_true, decide_eq_true_eq] at hb
      have hij : j = i := by
        rcases Nat.lt_trichotomy j i with c | c | c
        · have := h j; simp [sget, c, Nat.ne_of_lt c] at this; exact absurd this ha.1.2
        · exact c
        · have := h i; simp [sget, c, Nat.ne_of_lt c] at this; exact absurd this.symm hb.1.2
      subst hij
      have hxy : x = y := by simpa [sget] using h j
      subst hxy
      congr 1
      refine ih ha.2 hb.2 fun k => ?_
      rcases Nat.lt_trichotomy k j with c | c | c
      · rw [low ha.2 (by omega), low hb.2 (by omega)]
      · subst c; rw [low ha.2 (by omega), low hb.2 (by omega)]
      · have hk := h k
        have h1 : k ≠ j := by omega
        have h2 : ¬k < j := by omega
        simpa [sget, h1, h2] using hk

/-! ### Local memory -/

theorem memOk_reset : State.reset.MemOk := rfl

/-- Every write of bytes keeps local memory in its canonical form. -/
theorem memOk_putBytes {s : State} (h : s.MemOk) (a : Nat) (bs : List Byte) : (s.putBytes a bs).MemOk :=
  swf_sputRun 0 bs h (Nat.zero_le _)

/-- Taking entries out keeps the canonical form. -/
theorem swf_filter [DecidableEq α] (z : α) (p : Nat × α → Bool) {lo : Nat} {m : SMap α} (h : swf z lo m = true) :
    swf z lo (m.filter p) = true := by
  induction m generalizing lo with
  | nil => rfl
  | cons e r ih =>
    obtain ⟨j, x⟩ := e
    simp only [swf, Bool.and_eq_true, decide_eq_true_eq] at h
    rw [List.filter_cons]
    split
    · simp [swf, h.1, ih h.2]
    · exact swf_mono z (ih h.2) (by omega)

/-- Clearing a run keeps local memory in its canonical form. -/
theorem memOk_zeroBytes {s : State} (h : s.MemOk) (a n : Nat) : (s.zeroBytes a n).MemOk := swf_filter 0 _ h

theorem memOk_putNat {s : State} (h : s.MemOk) (a n v : Nat) : (s.putNat a n v).MemOk := memOk_putBytes h a _

/-- Every byte outside a write reads as before. -/
theorem byte_putBytes_out (s : State) {a n : Nat} (bs : List Byte) (h : n < a ∨ a + bs.length ≤ n) :
    (s.putBytes a bs).byte n = s.byte n := sget_sputRun_out 0 bs s.mem h

/-- Bytes written are read back. -/
theorem bytes_putBytes (s : State) (a : Nat) (bs : List Byte) : (s.putBytes a bs).bytes a bs.length = bs :=
  sgets_sputRun 0 bs a s.mem

/-! ### Numbers as bytes (R4) -/

@[simp] theorem length_leBytes (n v : Nat) : (leBytes n v).length = n := by
  induction n generalizing v with
  | zero => rfl
  | succ n ih => simp [leBytes, ih]

theorem leNat_leBytes (n v : Nat) : leNat (leBytes n v) = v % 2 ^ (8 * n) := by
  induction n generalizing v with
  | zero => simp [leBytes, leNat, Nat.mod_one]
  | succ n ih =>
    rw [leBytes, leNat, ih, BitVec.toNat_ofNat, show 2 ^ (8 * (n + 1)) = 256 * 2 ^ (8 * n) by
      rw [Nat.mul_add, Nat.pow_add, Nat.mul_comm], Nat.mod_mul]

theorem leNat_lt (l : List Byte) : leNat l < 2 ^ (8 * l.length) := by
  induction l with
  | nil => decide
  | cons b r ih =>
    have hb := b.isLt
    rw [List.length_cons, show 2 ^ (8 * (r.length + 1)) = 256 * 2 ^ (8 * r.length) by
      rw [Nat.mul_add, Nat.pow_add, Nat.mul_comm], leNat]
    omega

/-- A number written is read back. -/
theorem memNat_putNat (s : State) (a n v : Nat) : (s.putNat a n v).memNat a n = v % 2 ^ (8 * n) := by
  have h := bytes_putBytes s a (leBytes n v)
  rw [length_leBytes] at h
  rw [State.memNat, State.putNat, h, leNat_leBytes]

end Sys2Proof.Machine
end

