-- ==== Sys2Proof/Laws/State.lean ====
section
/-! SUPPORT. What each update of the state leaves and what it sets, field by field, so that no proof unfolds a record
update. -/

namespace Sys2Proof.Machine

/-! ### modT -/

@[simp] theorem State.modT_t (s : State) (f : Team → Team) : (s.modT f).t = f s.t := rfl
@[simp] theorem State.modT_others (s : State) (f : Team → Team) : (s.modT f).others = s.others := rfl
@[simp] theorem State.modT_blocks (s : State) (f : Team → Team) : (s.modT f).blocks = s.blocks := rfl
@[simp] theorem State.modT_grids (s : State) (f : Team → Team) : (s.modT f).grids = s.grids := rfl
@[simp] theorem State.modT_quads (s : State) (f : Team → Team) : (s.modT f).quads = s.quads := rfl
@[simp] theorem State.modT_cores (s : State) (f : Team → Team) : (s.modT f).cores = s.cores := rfl
@[simp] theorem State.modT_mem (s : State) (f : Team → Team) : (s.modT f).mem = s.mem := rfl
@[simp] theorem State.modT_poison (s : State) (f : Team → Team) : (s.modT f).poison = s.poison := rfl
@[simp] theorem State.modT_caches (s : State) (f : Team → Team) : (s.modT f).caches = s.caches := rfl
@[simp] theorem State.modT_seals (s : State) (f : Team → Team) : (s.modT f).seals = s.seals := rfl
@[simp] theorem State.modT_eops (s : State) (f : Team → Team) : (s.modT f).eops = s.eops := rfl
@[simp] theorem State.modT_ctxs (s : State) (f : Team → Team) : (s.modT f).ctxs = s.ctxs := rfl
@[simp] theorem State.modT_link (s : State) (f : Team → Team) : (s.modT f).link = s.link := rfl
@[simp] theorem State.modT_regs (s : State) (f : Team → Team) : (s.modT f).regs = s.regs := rfl
@[simp] theorem State.modT_side (s : State) (f : Team → Team) : (s.modT f).side = s.side := rfl
@[simp] theorem State.modT_pkg (s : State) (f : Team → Team) : (s.modT f).pkg = s.pkg := rfl
@[simp] theorem State.modT_dist (s : State) (f : Team → Team) : (s.modT f).dist = s.dist := rfl
@[simp] theorem State.modT_saved (s : State) (f : Team → Team) : (s.modT f).saved = s.saved := rfl
@[simp] theorem State.modT_restoring (s : State) (f : Team → Team) : (s.modT f).restoring = s.restoring := rfl
@[simp] theorem State.modT_saving (s : State) (f : Team → Team) : (s.modT f).saving = s.saving := rfl
@[simp] theorem State.modT_acts (s : State) (f : Team → Team) : (s.modT f).acts = s.acts := rfl
@[simp] theorem State.modT_free (s : State) (f : Team → Team) : (s.modT f).free = s.free := rfl
@[simp] theorem State.modT_uid (s : State) (f : Team → Team) : (s.modT f).uid = s.uid := rfl

/-! ### modBlock -/

@[simp] theorem State.modBlock_t (s : State) (n : Nat) (f : Block → Block) : (s.modBlock n f).t = s.t := rfl
@[simp] theorem State.modBlock_others (s : State) (n : Nat) (f : Block → Block) :
    (s.modBlock n f).others = s.others := rfl
@[simp] theorem State.modBlock_blocks (s : State) (n : Nat) (f : Block → Block) :
    (s.modBlock n f).blocks = updFirst (fun b => b.bid == n) f s.blocks := rfl
@[simp] theorem State.modBlock_grids (s : State) (n : Nat) (f : Block → Block) : (s.modBlock n f).grids = s.grids := rfl
@[simp] theorem State.modBlock_quads (s : State) (n : Nat) (f : Block → Block) : (s.modBlock n f).quads = s.quads := rfl
@[simp] theorem State.modBlock_cores (s : State) (n : Nat) (f : Block → Block) : (s.modBlock n f).cores = s.cores := rfl
@[simp] theorem State.modBlock_mem (s : State) (n : Nat) (f : Block → Block) : (s.modBlock n f).mem = s.mem := rfl
@[simp] theorem State.modBlock_poison (s : State) (n : Nat) (f : Block → Block) :
    (s.modBlock n f).poison = s.poison := rfl
@[simp] theorem State.modBlock_caches (s : State) (n : Nat) (f : Block → Block) :
    (s.modBlock n f).caches = s.caches := rfl
@[simp] theorem State.modBlock_seals (s : State) (n : Nat) (f : Block → Block) : (s.modBlock n f).seals = s.seals := rfl
@[simp] theorem State.modBlock_eops (s : State) (n : Nat) (f : Block → Block) : (s.modBlock n f).eops = s.eops := rfl
@[simp] theorem State.modBlock_ctxs (s : State) (n : Nat) (f : Block → Block) : (s.modBlock n f).ctxs = s.ctxs := rfl
@[simp] theorem State.modBlock_link (s : State) (n : Nat) (f : Block → Block) : (s.modBlock n f).link = s.link := rfl
@[simp] theorem State.modBlock_regs (s : State) (n : Nat) (f : Block → Block) : (s.modBlock n f).regs = s.regs := rfl
@[simp] theorem State.modBlock_side (s : State) (n : Nat) (f : Block → Block) : (s.modBlock n f).side = s.side := rfl
@[simp] theorem State.modBlock_pkg (s : State) (n : Nat) (f : Block → Block) : (s.modBlock n f).pkg = s.pkg := rfl
@[simp] theorem State.modBlock_dist (s : State) (n : Nat) (f : Block → Block) : (s.modBlock n f).dist = s.dist := rfl
@[simp] theorem State.modBlock_saved (s : State) (n : Nat) (f : Block → Block) : (s.modBlock n f).saved = s.saved := rfl
@[simp] theorem State.modBlock_restoring (s : State) (n : Nat) (f : Block → Block) :
    (s.modBlock n f).restoring = s.restoring := rfl
@[simp] theorem State.modBlock_saving (s : State) (n : Nat) (f : Block → Block) :
    (s.modBlock n f).saving = s.saving := rfl
@[simp] theorem State.modBlock_acts (s : State) (n : Nat) (f : Block → Block) : (s.modBlock n f).acts = s.acts := rfl
@[simp] theorem State.modBlock_free (s : State) (n : Nat) (f : Block → Block) : (s.modBlock n f).free = s.free := rfl
@[simp] theorem State.modBlock_uid (s : State) (n : Nat) (f : Block → Block) : (s.modBlock n f).uid = s.uid := rfl

/-! ### modGrid -/

@[simp] theorem State.modGrid_t (s : State) (n : Nat) (f : Grid → Grid) : (s.modGrid n f).t = s.t := rfl
@[simp] theorem State.modGrid_others (s : State) (n : Nat) (f : Grid → Grid) : (s.modGrid n f).others = s.others := rfl
@[simp] theorem State.modGrid_blocks (s : State) (n : Nat) (f : Grid → Grid) : (s.modGrid n f).blocks = s.blocks := rfl
@[simp] theorem State.modGrid_grids (s : State) (n : Nat) (f : Grid → Grid) :
    (s.modGrid n f).grids = updFirst (fun g => g.gid == n) f s.grids := rfl
@[simp] theorem State.modGrid_quads (s : State) (n : Nat) (f : Grid → Grid) : (s.modGrid n f).quads = s.quads := rfl
@[simp] theorem State.modGrid_cores (s : State) (n : Nat) (f : Grid → Grid) : (s.modGrid n f).cores = s.cores := rfl
@[simp] theorem State.modGrid_mem (s : State) (n : Nat) (f : Grid → Grid) : (s.modGrid n f).mem = s.mem := rfl
@[simp] theorem State.modGrid_poison (s : State) (n : Nat) (f : Grid → Grid) : (s.modGrid n f).poison = s.poison := rfl
@[simp] theorem State.modGrid_caches (s : State) (n : Nat) (f : Grid → Grid) : (s.modGrid n f).caches = s.caches := rfl
@[simp] theorem State.modGrid_seals (s : State) (n : Nat) (f : Grid → Grid) : (s.modGrid n f).seals = s.seals := rfl
@[simp] theorem State.modGrid_eops (s : State) (n : Nat) (f : Grid → Grid) : (s.modGrid n f).eops = s.eops := rfl
@[simp] theorem State.modGrid_ctxs (s : State) (n : Nat) (f : Grid → Grid) : (s.modGrid n f).ctxs = s.ctxs := rfl
@[simp] theorem State.modGrid_link (s : State) (n : Nat) (f : Grid → Grid) : (s.modGrid n f).link = s.link := rfl
@[simp] theorem State.modGrid_regs (s : State) (n : Nat) (f : Grid → Grid) : (s.modGrid n f).regs = s.regs := rfl
@[simp] theorem State.modGrid_side (s : State) (n : Nat) (f : Grid → Grid) : (s.modGrid n f).side = s.side := rfl
@[simp] theorem State.modGrid_pkg (s : State) (n : Nat) (f : Grid → Grid) : (s.modGrid n f).pkg = s.pkg := rfl
@[simp] theorem State.modGrid_dist (s : State) (n : Nat) (f : Grid → Grid) : (s.modGrid n f).dist = s.dist := rfl
@[simp] theorem State.modGrid_saved (s : State) (n : Nat) (f : Grid → Grid) : (s.modGrid n f).saved = s.saved := rfl
@[simp] theorem State.modGrid_restoring (s : State) (n : Nat) (f : Grid → Grid) :
    (s.modGrid n f).restoring = s.restoring := rfl
@[simp] theorem State.modGrid_saving (s : State) (n : Nat) (f : Grid → Grid) : (s.modGrid n f).saving = s.saving := rfl
@[simp] theorem State.modGrid_acts (s : State) (n : Nat) (f : Grid → Grid) : (s.modGrid n f).acts = s.acts := rfl
@[simp] theorem State.modGrid_free (s : State) (n : Nat) (f : Grid → Grid) : (s.modGrid n f).free = s.free := rfl
@[simp] theorem State.modGrid_uid (s : State) (n : Nat) (f : Grid → Grid) : (s.modGrid n f).uid = s.uid := rfl

/-! ### modCore -/

@[simp] theorem State.modCore_t (s : State) (n : Nat) (f : CoreHealth → CoreHealth) : (s.modCore n f).t = s.t := rfl
@[simp] theorem State.modCore_others (s : State) (n : Nat) (f : CoreHealth → CoreHealth) :
    (s.modCore n f).others = s.others := rfl
@[simp] theorem State.modCore_blocks (s : State) (n : Nat) (f : CoreHealth → CoreHealth) :
    (s.modCore n f).blocks = s.blocks := rfl
@[simp] theorem State.modCore_grids (s : State) (n : Nat) (f : CoreHealth → CoreHealth) :
    (s.modCore n f).grids = s.grids := rfl
@[simp] theorem State.modCore_quads (s : State) (n : Nat) (f : CoreHealth → CoreHealth) :
    (s.modCore n f).quads = s.quads := rfl
@[simp] theorem State.modCore_cores (s : State) (n : Nat) (f : CoreHealth → CoreHealth) :
    (s.modCore n f).cores = sput {} n (f (s.core n)) s.cores := rfl
@[simp] theorem State.modCore_mem (s : State) (n : Nat) (f : CoreHealth → CoreHealth) :
    (s.modCore n f).mem = s.mem := rfl
@[simp] theorem State.modCore_poison (s : State) (n : Nat) (f : CoreHealth → CoreHealth) :
    (s.modCore n f).poison = s.poison := rfl
@[simp] theorem State.modCore_caches (s : State) (n : Nat) (f : CoreHealth → CoreHealth) :
    (s.modCore n f).caches = s.caches := rfl
@[simp] theorem State.modCore_seals (s : State) (n : Nat) (f : CoreHealth → CoreHealth) :
    (s.modCore n f).seals = s.seals := rfl
@[simp] theorem State.modCore_eops (s : State) (n : Nat) (f : CoreHealth → CoreHealth) :
    (s.modCore n f).eops = s.eops := rfl
@[simp] theorem State.modCore_ctxs (s : State) (n : Nat) (f : CoreHealth → CoreHealth) :
    (s.modCore n f).ctxs = s.ctxs := rfl
@[simp] theorem State.modCore_link (s : State) (n : Nat) (f : CoreHealth → CoreHealth) :
    (s.modCore n f).link = s.link := rfl
@[simp] theorem State.modCore_regs (s : State) (n : Nat) (f : CoreHealth → CoreHealth) :
    (s.modCore n f).regs = s.regs := rfl
@[simp] theorem State.modCore_side (s : State) (n : Nat) (f : CoreHealth → CoreHealth) :
    (s.modCore n f).side = s.side := rfl
@[simp] theorem State.modCore_pkg (s : State) (n : Nat) (f : CoreHealth → CoreHealth) :
    (s.modCore n f).pkg = s.pkg := rfl
@[simp] theorem State.modCore_dist (s : State) (n : Nat) (f : CoreHealth → CoreHealth) :
    (s.modCore n f).dist = s.dist := rfl
@[simp] theorem State.modCore_saved (s : State) (n : Nat) (f : CoreHealth → CoreHealth) :
    (s.modCore n f).saved = s.saved := rfl
@[simp] theorem State.modCore_restoring (s : State) (n : Nat) (f : CoreHealth → CoreHealth) :
    (s.modCore n f).restoring = s.restoring := rfl
@[simp] theorem State.modCore_saving (s : State) (n : Nat) (f : CoreHealth → CoreHealth) :
    (s.modCore n f).saving = s.saving := rfl
@[simp] theorem State.modCore_acts (s : State) (n : Nat) (f : CoreHealth → CoreHealth) :
    (s.modCore n f).acts = s.acts := rfl
@[simp] theorem State.modCore_free (s : State) (n : Nat) (f : CoreHealth → CoreHealth) :
    (s.modCore n f).free = s.free := rfl
@[simp] theorem State.modCore_uid (s : State) (n : Nat) (f : CoreHealth → CoreHealth) :
    (s.modCore n f).uid = s.uid := rfl

/-! ### modSlot -/

@[simp] theorem State.modSlot_t (s : State) (n : Nat) (f : CtxSlot → CtxSlot) : (s.modSlot n f).t = s.t := rfl
@[simp] theorem State.modSlot_others (s : State) (n : Nat) (f : CtxSlot → CtxSlot) :
    (s.modSlot n f).others = s.others := rfl
@[simp] theorem State.modSlot_blocks (s : State) (n : Nat) (f : CtxSlot → CtxSlot) :
    (s.modSlot n f).blocks = s.blocks := rfl
@[simp] theorem State.modSlot_grids (s : State) (n : Nat) (f : CtxSlot → CtxSlot) :
    (s.modSlot n f).grids = s.grids := rfl
@[simp] theorem State.modSlot_quads (s : State) (n : Nat) (f : CtxSlot → CtxSlot) :
    (s.modSlot n f).quads = s.quads := rfl
@[simp] theorem State.modSlot_cores (s : State) (n : Nat) (f : CtxSlot → CtxSlot) :
    (s.modSlot n f).cores = s.cores := rfl
@[simp] theorem State.modSlot_mem (s : State) (n : Nat) (f : CtxSlot → CtxSlot) : (s.modSlot n f).mem = s.mem := rfl
@[simp] theorem State.modSlot_poison (s : State) (n : Nat) (f : CtxSlot → CtxSlot) :
    (s.modSlot n f).poison = s.poison := rfl
@[simp] theorem State.modSlot_caches (s : State) (n : Nat) (f : CtxSlot → CtxSlot) :
    (s.modSlot n f).caches = s.caches := rfl
@[simp] theorem State.modSlot_seals (s : State) (n : Nat) (f : CtxSlot → CtxSlot) :
    (s.modSlot n f).seals = s.seals := rfl
@[simp] theorem State.modSlot_eops (s : State) (n : Nat) (f : CtxSlot → CtxSlot) : (s.modSlot n f).eops = s.eops := rfl
@[simp] theorem State.modSlot_ctxs (s : State) (n : Nat) (f : CtxSlot → CtxSlot) :
    (s.modSlot n f).ctxs = s.ctxs.modify n f := rfl
@[simp] theorem State.modSlot_link (s : State) (n : Nat) (f : CtxSlot → CtxSlot) : (s.modSlot n f).link = s.link := rfl
@[simp] theorem State.modSlot_regs (s : State) (n : Nat) (f : CtxSlot → CtxSlot) : (s.modSlot n f).regs = s.regs := rfl
@[simp] theorem State.modSlot_side (s : State) (n : Nat) (f : CtxSlot → CtxSlot) : (s.modSlot n f).side = s.side := rfl
@[simp] theorem State.modSlot_pkg (s : State) (n : Nat) (f : CtxSlot → CtxSlot) : (s.modSlot n f).pkg = s.pkg := rfl
@[simp] theorem State.modSlot_dist (s : State) (n : Nat) (f : CtxSlot → CtxSlot) : (s.modSlot n f).dist = s.dist := rfl
@[simp] theorem State.modSlot_saved (s : State) (n : Nat) (f : CtxSlot → CtxSlot) :
    (s.modSlot n f).saved = s.saved := rfl
@[simp] theorem State.modSlot_restoring (s : State) (n : Nat) (f : CtxSlot → CtxSlot) :
    (s.modSlot n f).restoring = s.restoring := rfl
@[simp] theorem State.modSlot_saving (s : State) (n : Nat) (f : CtxSlot → CtxSlot) :
    (s.modSlot n f).saving = s.saving := rfl
@[simp] theorem State.modSlot_acts (s : State) (n : Nat) (f : CtxSlot → CtxSlot) : (s.modSlot n f).acts = s.acts := rfl
@[simp] theorem State.modSlot_free (s : State) (n : Nat) (f : CtxSlot → CtxSlot) : (s.modSlot n f).free = s.free := rfl
@[simp] theorem State.modSlot_uid (s : State) (n : Nat) (f : CtxSlot → CtxSlot) : (s.modSlot n f).uid = s.uid := rfl

/-! ### putBytes -/

@[simp] theorem State.putBytes_t (s : State) (a : Nat) (bs : List Byte) : (s.putBytes a bs).t = s.t := rfl
@[simp] theorem State.putBytes_others (s : State) (a : Nat) (bs : List Byte) :
    (s.putBytes a bs).others = s.others := rfl
@[simp] theorem State.putBytes_blocks (s : State) (a : Nat) (bs : List Byte) :
    (s.putBytes a bs).blocks = s.blocks := rfl
@[simp] theorem State.putBytes_grids (s : State) (a : Nat) (bs : List Byte) : (s.putBytes a bs).grids = s.grids := rfl
@[simp] theorem State.putBytes_quads (s : State) (a : Nat) (bs : List Byte) : (s.putBytes a bs).quads = s.quads := rfl
@[simp] theorem State.putBytes_cores (s : State) (a : Nat) (bs : List Byte) : (s.putBytes a bs).cores = s.cores := rfl
@[simp] theorem State.putBytes_mem (s : State) (a : Nat) (bs : List Byte) :
    (s.putBytes a bs).mem = sputRun 0 a bs s.mem := rfl
@[simp] theorem State.putBytes_poison (s : State) (a : Nat) (bs : List Byte) :
    (s.putBytes a bs).poison = s.poison := rfl
@[simp] theorem State.putBytes_caches (s : State) (a : Nat) (bs : List Byte) :
    (s.putBytes a bs).caches = s.caches := rfl
@[simp] theorem State.putBytes_seals (s : State) (a : Nat) (bs : List Byte) : (s.putBytes a bs).seals = s.seals := rfl
@[simp] theorem State.putBytes_eops (s : State) (a : Nat) (bs : List Byte) : (s.putBytes a bs).eops = s.eops := rfl
@[simp] theorem State.putBytes_ctxs (s : State) (a : Nat) (bs : List Byte) : (s.putBytes a bs).ctxs = s.ctxs := rfl
@[simp] theorem State.putBytes_link (s : State) (a : Nat) (bs : List Byte) : (s.putBytes a bs).link = s.link := rfl
@[simp] theorem State.putBytes_regs (s : State) (a : Nat) (bs : List Byte) : (s.putBytes a bs).regs = s.regs := rfl
@[simp] theorem State.putBytes_side (s : State) (a : Nat) (bs : List Byte) : (s.putBytes a bs).side = s.side := rfl
@[simp] theorem State.putBytes_pkg (s : State) (a : Nat) (bs : List Byte) : (s.putBytes a bs).pkg = s.pkg := rfl
@[simp] theorem State.putBytes_dist (s : State) (a : Nat) (bs : List Byte) : (s.putBytes a bs).dist = s.dist := rfl
@[simp] theorem State.putBytes_saved (s : State) (a : Nat) (bs : List Byte) : (s.putBytes a bs).saved = s.saved := rfl
@[simp] theorem State.putBytes_restoring (s : State) (a : Nat) (bs : List Byte) :
    (s.putBytes a bs).restoring = s.restoring := rfl
@[simp] theorem State.putBytes_saving (s : State) (a : Nat) (bs : List Byte) :
    (s.putBytes a bs).saving = s.saving := rfl
@[simp] theorem State.putBytes_acts (s : State) (a : Nat) (bs : List Byte) : (s.putBytes a bs).acts = s.acts := rfl
@[simp] theorem State.putBytes_free (s : State) (a : Nat) (bs : List Byte) : (s.putBytes a bs).free = s.free := rfl
@[simp] theorem State.putBytes_uid (s : State) (a : Nat) (bs : List Byte) : (s.putBytes a bs).uid = s.uid := rfl

/-! ### putNat -/

@[simp] theorem State.putNat_t (s : State) (a n v : Nat) : (s.putNat a n v).t = s.t := rfl
@[simp] theorem State.putNat_others (s : State) (a n v : Nat) : (s.putNat a n v).others = s.others := rfl
@[simp] theorem State.putNat_blocks (s : State) (a n v : Nat) : (s.putNat a n v).blocks = s.blocks := rfl
@[simp] theorem State.putNat_grids (s : State) (a n v : Nat) : (s.putNat a n v).grids = s.grids := rfl
@[simp] theorem State.putNat_quads (s : State) (a n v : Nat) : (s.putNat a n v).quads = s.quads := rfl
@[simp] theorem State.putNat_cores (s : State) (a n v : Nat) : (s.putNat a n v).cores = s.cores := rfl
@[simp] theorem State.putNat_mem (s : State) (a n v : Nat) :
    (s.putNat a n v).mem = sputRun 0 a (leBytes n v) s.mem := rfl
@[simp] theorem State.putNat_poison (s : State) (a n v : Nat) : (s.putNat a n v).poison = s.poison := rfl
@[simp] theorem State.putNat_caches (s : State) (a n v : Nat) : (s.putNat a n v).caches = s.caches := rfl
@[simp] theorem State.putNat_seals (s : State) (a n v : Nat) : (s.putNat a n v).seals = s.seals := rfl
@[simp] theorem State.putNat_eops (s : State) (a n v : Nat) : (s.putNat a n v).eops = s.eops := rfl
@[simp] theorem State.putNat_ctxs (s : State) (a n v : Nat) : (s.putNat a n v).ctxs = s.ctxs := rfl
@[simp] theorem State.putNat_link (s : State) (a n v : Nat) : (s.putNat a n v).link = s.link := rfl
@[simp] theorem State.putNat_regs (s : State) (a n v : Nat) : (s.putNat a n v).regs = s.regs := rfl
@[simp] theorem State.putNat_side (s : State) (a n v : Nat) : (s.putNat a n v).side = s.side := rfl
@[simp] theorem State.putNat_pkg (s : State) (a n v : Nat) : (s.putNat a n v).pkg = s.pkg := rfl
@[simp] theorem State.putNat_dist (s : State) (a n v : Nat) : (s.putNat a n v).dist = s.dist := rfl
@[simp] theorem State.putNat_saved (s : State) (a n v : Nat) : (s.putNat a n v).saved = s.saved := rfl
@[simp] theorem State.putNat_restoring (s : State) (a n v : Nat) : (s.putNat a n v).restoring = s.restoring := rfl
@[simp] theorem State.putNat_saving (s : State) (a n v : Nat) : (s.putNat a n v).saving = s.saving := rfl
@[simp] theorem State.putNat_acts (s : State) (a n v : Nat) : (s.putNat a n v).acts = s.acts := rfl
@[simp] theorem State.putNat_free (s : State) (a n v : Nat) : (s.putNat a n v).free = s.free := rfl
@[simp] theorem State.putNat_uid (s : State) (a n v : Nat) : (s.putNat a n v).uid = s.uid := rfl

/-! ### ws -/

@[simp] theorem State.ws_t (s : State) (n : Nat) (x : DWord) : (s.ws n x).t = { s.t with s := sput 0 n x s.t.s } := rfl
@[simp] theorem State.ws_others (s : State) (n : Nat) (x : DWord) : (s.ws n x).others = s.others := rfl
@[simp] theorem State.ws_blocks (s : State) (n : Nat) (x : DWord) : (s.ws n x).blocks = s.blocks := rfl
@[simp] theorem State.ws_grids (s : State) (n : Nat) (x : DWord) : (s.ws n x).grids = s.grids := rfl
@[simp] theorem State.ws_quads (s : State) (n : Nat) (x : DWord) : (s.ws n x).quads = s.quads := rfl
@[simp] theorem State.ws_cores (s : State) (n : Nat) (x : DWord) : (s.ws n x).cores = s.cores := rfl
@[simp] theorem State.ws_mem (s : State) (n : Nat) (x : DWord) : (s.ws n x).mem = s.mem := rfl
@[simp] theorem State.ws_poison (s : State) (n : Nat) (x : DWord) : (s.ws n x).poison = s.poison := rfl
@[simp] theorem State.ws_caches (s : State) (n : Nat) (x : DWord) : (s.ws n x).caches = s.caches := rfl
@[simp] theorem State.ws_seals (s : State) (n : Nat) (x : DWord) : (s.ws n x).seals = s.seals := rfl
@[simp] theorem State.ws_eops (s : State) (n : Nat) (x : DWord) : (s.ws n x).eops = s.eops := rfl
@[simp] theorem State.ws_ctxs (s : State) (n : Nat) (x : DWord) : (s.ws n x).ctxs = s.ctxs := rfl
@[simp] theorem State.ws_link (s : State) (n : Nat) (x : DWord) : (s.ws n x).link = s.link := rfl
@[simp] theorem State.ws_regs (s : State) (n : Nat) (x : DWord) : (s.ws n x).regs = s.regs := rfl
@[simp] theorem State.ws_side (s : State) (n : Nat) (x : DWord) : (s.ws n x).side = s.side := rfl
@[simp] theorem State.ws_pkg (s : State) (n : Nat) (x : DWord) : (s.ws n x).pkg = s.pkg := rfl
@[simp] theorem State.ws_dist (s : State) (n : Nat) (x : DWord) : (s.ws n x).dist = s.dist := rfl
@[simp] theorem State.ws_saved (s : State) (n : Nat) (x : DWord) : (s.ws n x).saved = s.saved := rfl
@[simp] theorem State.ws_restoring (s : State) (n : Nat) (x : DWord) : (s.ws n x).restoring = s.restoring := rfl
@[simp] theorem State.ws_saving (s : State) (n : Nat) (x : DWord) : (s.ws n x).saving = s.saving := rfl
@[simp] theorem State.ws_acts (s : State) (n : Nat) (x : DWord) : (s.ws n x).acts = s.acts := rfl
@[simp] theorem State.ws_free (s : State) (n : Nat) (x : DWord) : (s.ws n x).free = s.free := rfl
@[simp] theorem State.ws_uid (s : State) (n : Nat) (x : DWord) : (s.ws n x).uid = s.uid := rfl

/-! ### wv -/

@[simp] theorem State.wv_t (s : State) (n : Nat) (l : List (Nat × Word)) :
    (s.wv n l).t = { s.t with v := sputs 0 (l.map fun p => (1024 * n + p.1, p.2)) s.t.v } := rfl
@[simp] theorem State.wv_others (s : State) (n : Nat) (l : List (Nat × Word)) : (s.wv n l).others = s.others := rfl
@[simp] theorem State.wv_blocks (s : State) (n : Nat) (l : List (Nat × Word)) : (s.wv n l).blocks = s.blocks := rfl
@[simp] theorem State.wv_grids (s : State) (n : Nat) (l : List (Nat × Word)) : (s.wv n l).grids = s.grids := rfl
@[simp] theorem State.wv_quads (s : State) (n : Nat) (l : List (Nat × Word)) : (s.wv n l).quads = s.quads := rfl
@[simp] theorem State.wv_cores (s : State) (n : Nat) (l : List (Nat × Word)) : (s.wv n l).cores = s.cores := rfl
@[simp] theorem State.wv_mem (s : State) (n : Nat) (l : List (Nat × Word)) : (s.wv n l).mem = s.mem := rfl
@[simp] theorem State.wv_poison (s : State) (n : Nat) (l : List (Nat × Word)) : (s.wv n l).poison = s.poison := rfl
@[simp] theorem State.wv_caches (s : State) (n : Nat) (l : List (Nat × Word)) : (s.wv n l).caches = s.caches := rfl
@[simp] theorem State.wv_seals (s : State) (n : Nat) (l : List (Nat × Word)) : (s.wv n l).seals = s.seals := rfl
@[simp] theorem State.wv_eops (s : State) (n : Nat) (l : List (Nat × Word)) : (s.wv n l).eops = s.eops := rfl
@[simp] theorem State.wv_ctxs (s : State) (n : Nat) (l : List (Nat × Word)) : (s.wv n l).ctxs = s.ctxs := rfl
@[simp] theorem State.wv_link (s : State) (n : Nat) (l : List (Nat × Word)) : (s.wv n l).link = s.link := rfl
@[simp] theorem State.wv_regs (s : State) (n : Nat) (l : List (Nat × Word)) : (s.wv n l).regs = s.regs := rfl
@[simp] theorem State.wv_side (s : State) (n : Nat) (l : List (Nat × Word)) : (s.wv n l).side = s.side := rfl
@[simp] theorem State.wv_pkg (s : State) (n : Nat) (l : List (Nat × Word)) : (s.wv n l).pkg = s.pkg := rfl
@[simp] theorem State.wv_dist (s : State) (n : Nat) (l : List (Nat × Word)) : (s.wv n l).dist = s.dist := rfl
@[simp] theorem State.wv_saved (s : State) (n : Nat) (l : List (Nat × Word)) : (s.wv n l).saved = s.saved := rfl
@[simp] theorem State.wv_restoring (s : State) (n : Nat) (l : List (Nat × Word)) :
    (s.wv n l).restoring = s.restoring := rfl
@[simp] theorem State.wv_saving (s : State) (n : Nat) (l : List (Nat × Word)) : (s.wv n l).saving = s.saving := rfl
@[simp] theorem State.wv_acts (s : State) (n : Nat) (l : List (Nat × Word)) : (s.wv n l).acts = s.acts := rfl
@[simp] theorem State.wv_free (s : State) (n : Nat) (l : List (Nat × Word)) : (s.wv n l).free = s.free := rfl
@[simp] theorem State.wv_uid (s : State) (n : Nat) (l : List (Nat × Word)) : (s.wv n l).uid = s.uid := rfl

/-! ### wm -/

@[simp] theorem State.wm_t (s : State) (n : Nat) (x : XReg) : (s.wm n x).t = { s.t with m := sput {} n x s.t.m } := rfl
@[simp] theorem State.wm_others (s : State) (n : Nat) (x : XReg) : (s.wm n x).others = s.others := rfl
@[simp] theorem State.wm_blocks (s : State) (n : Nat) (x : XReg) : (s.wm n x).blocks = s.blocks := rfl
@[simp] theorem State.wm_grids (s : State) (n : Nat) (x : XReg) : (s.wm n x).grids = s.grids := rfl
@[simp] theorem State.wm_quads (s : State) (n : Nat) (x : XReg) : (s.wm n x).quads = s.quads := rfl
@[simp] theorem State.wm_cores (s : State) (n : Nat) (x : XReg) : (s.wm n x).cores = s.cores := rfl
@[simp] theorem State.wm_mem (s : State) (n : Nat) (x : XReg) : (s.wm n x).mem = s.mem := rfl
@[simp] theorem State.wm_poison (s : State) (n : Nat) (x : XReg) : (s.wm n x).poison = s.poison := rfl
@[simp] theorem State.wm_caches (s : State) (n : Nat) (x : XReg) : (s.wm n x).caches = s.caches := rfl
@[simp] theorem State.wm_seals (s : State) (n : Nat) (x : XReg) : (s.wm n x).seals = s.seals := rfl
@[simp] theorem State.wm_eops (s : State) (n : Nat) (x : XReg) : (s.wm n x).eops = s.eops := rfl
@[simp] theorem State.wm_ctxs (s : State) (n : Nat) (x : XReg) : (s.wm n x).ctxs = s.ctxs := rfl
@[simp] theorem State.wm_link (s : State) (n : Nat) (x : XReg) : (s.wm n x).link = s.link := rfl
@[simp] theorem State.wm_regs (s : State) (n : Nat) (x : XReg) : (s.wm n x).regs = s.regs := rfl
@[simp] theorem State.wm_side (s : State) (n : Nat) (x : XReg) : (s.wm n x).side = s.side := rfl
@[simp] theorem State.wm_pkg (s : State) (n : Nat) (x : XReg) : (s.wm n x).pkg = s.pkg := rfl
@[simp] theorem State.wm_dist (s : State) (n : Nat) (x : XReg) : (s.wm n x).dist = s.dist := rfl
@[simp] theorem State.wm_saved (s : State) (n : Nat) (x : XReg) : (s.wm n x).saved = s.saved := rfl
@[simp] theorem State.wm_restoring (s : State) (n : Nat) (x : XReg) : (s.wm n x).restoring = s.restoring := rfl
@[simp] theorem State.wm_saving (s : State) (n : Nat) (x : XReg) : (s.wm n x).saving = s.saving := rfl
@[simp] theorem State.wm_acts (s : State) (n : Nat) (x : XReg) : (s.wm n x).acts = s.acts := rfl
@[simp] theorem State.wm_free (s : State) (n : Nat) (x : XReg) : (s.wm n x).free = s.free := rfl
@[simp] theorem State.wm_uid (s : State) (n : Nat) (x : XReg) : (s.wm n x).uid = s.uid := rfl

/-! ### wp -/

@[simp] theorem State.wp_others (s : State) (n : Nat) (a x : Lanes) : (s.wp n a x).others = s.others := by
  unfold State.wp; split <;> rfl
@[simp] theorem State.wp_blocks (s : State) (n : Nat) (a x : Lanes) : (s.wp n a x).blocks = s.blocks := by
  unfold State.wp; split <;> rfl
@[simp] theorem State.wp_grids (s : State) (n : Nat) (a x : Lanes) : (s.wp n a x).grids = s.grids := by
  unfold State.wp; split <;> rfl
@[simp] theorem State.wp_quads (s : State) (n : Nat) (a x : Lanes) : (s.wp n a x).quads = s.quads := by
  unfold State.wp; split <;> rfl
@[simp] theorem State.wp_cores (s : State) (n : Nat) (a x : Lanes) : (s.wp n a x).cores = s.cores := by
  unfold State.wp; split <;> rfl
@[simp] theorem State.wp_mem (s : State) (n : Nat) (a x : Lanes) : (s.wp n a x).mem = s.mem := by
  unfold State.wp; split <;> rfl
@[simp] theorem State.wp_poison (s : State) (n : Nat) (a x : Lanes) : (s.wp n a x).poison = s.poison := by
  unfold State.wp; split <;> rfl
@[simp] theorem State.wp_caches (s : State) (n : Nat) (a x : Lanes) : (s.wp n a x).caches = s.caches := by
  unfold State.wp; split <;> rfl
@[simp] theorem State.wp_seals (s : State) (n : Nat) (a x : Lanes) : (s.wp n a x).seals = s.seals := by
  unfold State.wp; split <;> rfl
@[simp] theorem State.wp_eops (s : State) (n : Nat) (a x : Lanes) : (s.wp n a x).eops = s.eops := by
  unfold State.wp; split <;> rfl
@[simp] theorem State.wp_ctxs (s : State) (n : Nat) (a x : Lanes) : (s.wp n a x).ctxs = s.ctxs := by
  unfold State.wp; split <;> rfl
@[simp] theorem State.wp_link (s : State) (n : Nat) (a x : Lanes) : (s.wp n a x).link = s.link := by
  unfold State.wp; split <;> rfl
@[simp] theorem State.wp_regs (s : State) (n : Nat) (a x : Lanes) : (s.wp n a x).regs = s.regs := by
  unfold State.wp; split <;> rfl
@[simp] theorem State.wp_side (s : State) (n : Nat) (a x : Lanes) : (s.wp n a x).side = s.side := by
  unfold State.wp; split <;> rfl
@[simp] theorem State.wp_pkg (s : State) (n : Nat) (a x : Lanes) : (s.wp n a x).pkg = s.pkg := by
  unfold State.wp; split <;> rfl
@[simp] theorem State.wp_dist (s : State) (n : Nat) (a x : Lanes) : (s.wp n a x).dist = s.dist := by
  unfold State.wp; split <;> rfl
@[simp] theorem State.wp_saved (s : State) (n : Nat) (a x : Lanes) : (s.wp n a x).saved = s.saved := by
  unfold State.wp; split <;> rfl
@[simp] theorem State.wp_restoring (s : State) (n : Nat) (a x : Lanes) : (s.wp n a x).restoring = s.restoring := by
  unfold State.wp; split <;> rfl
@[simp] theorem State.wp_saving (s : State) (n : Nat) (a x : Lanes) : (s.wp n a x).saving = s.saving := by
  unfold State.wp; split <;> rfl
@[simp] theorem State.wp_acts (s : State) (n : Nat) (a x : Lanes) : (s.wp n a x).acts = s.acts := by
  unfold State.wp; split <;> rfl
@[simp] theorem State.wp_free (s : State) (n : Nat) (a x : Lanes) : (s.wp n a x).free = s.free := by
  unfold State.wp; split <;> rfl
@[simp] theorem State.wp_uid (s : State) (n : Nat) (a x : Lanes) : (s.wp n a x).uid = s.uid := by
  unfold State.wp; split <;> rfl

/-! ### newUid -/

@[simp] theorem State.newUid_t (s : State) : (s.newUid).t = s.t := rfl
@[simp] theorem State.newUid_others (s : State) : (s.newUid).others = s.others := rfl
@[simp] theorem State.newUid_blocks (s : State) : (s.newUid).blocks = s.blocks := rfl
@[simp] theorem State.newUid_grids (s : State) : (s.newUid).grids = s.grids := rfl
@[simp] theorem State.newUid_quads (s : State) : (s.newUid).quads = s.quads := rfl
@[simp] theorem State.newUid_cores (s : State) : (s.newUid).cores = s.cores := rfl
@[simp] theorem State.newUid_mem (s : State) : (s.newUid).mem = s.mem := rfl
@[simp] theorem State.newUid_poison (s : State) : (s.newUid).poison = s.poison := rfl
@[simp] theorem State.newUid_caches (s : State) : (s.newUid).caches = s.caches := rfl
@[simp] theorem State.newUid_seals (s : State) : (s.newUid).seals = s.seals := rfl
@[simp] theorem State.newUid_eops (s : State) : (s.newUid).eops = s.eops := rfl
@[simp] theorem State.newUid_ctxs (s : State) : (s.newUid).ctxs = s.ctxs := rfl
@[simp] theorem State.newUid_link (s : State) : (s.newUid).link = s.link := rfl
@[simp] theorem State.newUid_regs (s : State) : (s.newUid).regs = s.regs := rfl
@[simp] theorem State.newUid_side (s : State) : (s.newUid).side = s.side := rfl
@[simp] theorem State.newUid_pkg (s : State) : (s.newUid).pkg = s.pkg := rfl
@[simp] theorem State.newUid_dist (s : State) : (s.newUid).dist = s.dist := rfl
@[simp] theorem State.newUid_saved (s : State) : (s.newUid).saved = s.saved := rfl
@[simp] theorem State.newUid_restoring (s : State) : (s.newUid).restoring = s.restoring := rfl
@[simp] theorem State.newUid_saving (s : State) : (s.newUid).saving = s.saving := rfl
@[simp] theorem State.newUid_acts (s : State) : (s.newUid).acts = s.acts := rfl
@[simp] theorem State.newUid_free (s : State) : (s.newUid).free = s.free := rfl
@[simp] theorem State.newUid_uid (s : State) : (s.newUid).uid = s.uid + 1 := rfl

/-! ### send -/

@[simp] theorem State.send_t (s : State) (p ty ctx tag : Nat) (bs : List Byte) : (s.send p ty ctx tag bs).t = s.t := by
  unfold State.send; split <;> rfl
@[simp] theorem State.send_others (s : State) (p ty ctx tag : Nat) (bs : List Byte) :
    (s.send p ty ctx tag bs).others = s.others := by
  unfold State.send; split <;> rfl
@[simp] theorem State.send_blocks (s : State) (p ty ctx tag : Nat) (bs : List Byte) :
    (s.send p ty ctx tag bs).blocks = s.blocks := by
  unfold State.send; split <;> rfl
@[simp] theorem State.send_grids (s : State) (p ty ctx tag : Nat) (bs : List Byte) :
    (s.send p ty ctx tag bs).grids = s.grids := by
  unfold State.send; split <;> rfl
@[simp] theorem State.send_quads (s : State) (p ty ctx tag : Nat) (bs : List Byte) :
    (s.send p ty ctx tag bs).quads = s.quads := by
  unfold State.send; split <;> rfl
@[simp] theorem State.send_cores (s : State) (p ty ctx tag : Nat) (bs : List Byte) :
    (s.send p ty ctx tag bs).cores = s.cores := by
  unfold State.send; split <;> rfl
@[simp] theorem State.send_mem (s : State) (p ty ctx tag : Nat) (bs : List Byte) :
    (s.send p ty ctx tag bs).mem = s.mem := by
  unfold State.send; split <;> rfl
@[simp] theorem State.send_poison (s : State) (p ty ctx tag : Nat) (bs : List Byte) :
    (s.send p ty ctx tag bs).poison = s.poison := by
  unfold State.send; split <;> rfl
@[simp] theorem State.send_caches (s : State) (p ty ctx tag : Nat) (bs : List Byte) :
    (s.send p ty ctx tag bs).caches = s.caches := by
  unfold State.send; split <;> rfl
@[simp] theorem State.send_seals (s : State) (p ty ctx tag : Nat) (bs : List Byte) :
    (s.send p ty ctx tag bs).seals = s.seals := by
  unfold State.send; split <;> rfl
@[simp] theorem State.send_eops (s : State) (p ty ctx tag : Nat) (bs : List Byte) :
    (s.send p ty ctx tag bs).eops = s.eops := by
  unfold State.send; split <;> rfl
@[simp] theorem State.send_ctxs (s : State) (p ty ctx tag : Nat) (bs : List Byte) :
    (s.send p ty ctx tag bs).ctxs = s.ctxs := by
  unfold State.send; split <;> rfl
@[simp] theorem State.send_regs (s : State) (p ty ctx tag : Nat) (bs : List Byte) :
    (s.send p ty ctx tag bs).regs = s.regs := by
  unfold State.send; split <;> rfl
@[simp] theorem State.send_side (s : State) (p ty ctx tag : Nat) (bs : List Byte) :
    (s.send p ty ctx tag bs).side = s.side := by
  unfold State.send; split <;> rfl
@[simp] theorem State.send_pkg (s : State) (p ty ctx tag : Nat) (bs : List Byte) :
    (s.send p ty ctx tag bs).pkg = s.pkg := by
  unfold State.send; split <;> rfl
@[simp] theorem State.send_dist (s : State) (p ty ctx tag : Nat) (bs : List Byte) :
    (s.send p ty ctx tag bs).dist = s.dist := by
  unfold State.send; split <;> rfl
@[simp] theorem State.send_saved (s : State) (p ty ctx tag : Nat) (bs : List Byte) :
    (s.send p ty ctx tag bs).saved = s.saved := by
  unfold State.send; split <;> rfl
@[simp] theorem State.send_restoring (s : State) (p ty ctx tag : Nat) (bs : List Byte) :
    (s.send p ty ctx tag bs).restoring = s.restoring := by
  unfold State.send; split <;> rfl
@[simp] theorem State.send_saving (s : State) (p ty ctx tag : Nat) (bs : List Byte) :
    (s.send p ty ctx tag bs).saving = s.saving := by
  unfold State.send; split <;> rfl
@[simp] theorem State.send_acts (s : State) (p ty ctx tag : Nat) (bs : List Byte) :
    (s.send p ty ctx tag bs).acts = s.acts := by
  unfold State.send; split <;> rfl
@[simp] theorem State.send_free (s : State) (p ty ctx tag : Nat) (bs : List Byte) :
    (s.send p ty ctx tag bs).free = s.free := by
  unfold State.send; split <;> rfl
@[simp] theorem State.send_uid (s : State) (p ty ctx tag : Nat) (bs : List Byte) :
    (s.send p ty ctx tag bs).uid = s.uid := by
  unfold State.send; split <;> rfl

/-! ### hold -/

@[simp] theorem State.hold_t (s : State) (w : Wait) : (s.hold w).t = { s.t with wait := w } := rfl
@[simp] theorem State.hold_others (s : State) (w : Wait) : (s.hold w).others = s.others := rfl
@[simp] theorem State.hold_blocks (s : State) (w : Wait) : (s.hold w).blocks = s.blocks := rfl
@[simp] theorem State.hold_grids (s : State) (w : Wait) : (s.hold w).grids = s.grids := rfl
@[simp] theorem State.hold_quads (s : State) (w : Wait) : (s.hold w).quads = s.quads := rfl
@[simp] theorem State.hold_cores (s : State) (w : Wait) : (s.hold w).cores = s.cores := rfl
@[simp] theorem State.hold_mem (s : State) (w : Wait) : (s.hold w).mem = s.mem := rfl
@[simp] theorem State.hold_poison (s : State) (w : Wait) : (s.hold w).poison = s.poison := rfl
@[simp] theorem State.hold_caches (s : State) (w : Wait) : (s.hold w).caches = s.caches := rfl
@[simp] theorem State.hold_seals (s : State) (w : Wait) : (s.hold w).seals = s.seals := rfl
@[simp] theorem State.hold_eops (s : State) (w : Wait) : (s.hold w).eops = s.eops := rfl
@[simp] theorem State.hold_ctxs (s : State) (w : Wait) : (s.hold w).ctxs = s.ctxs := rfl
@[simp] theorem State.hold_link (s : State) (w : Wait) : (s.hold w).link = s.link := rfl
@[simp] theorem State.hold_regs (s : State) (w : Wait) : (s.hold w).regs = s.regs := rfl
@[simp] theorem State.hold_side (s : State) (w : Wait) : (s.hold w).side = s.side := rfl
@[simp] theorem State.hold_pkg (s : State) (w : Wait) : (s.hold w).pkg = s.pkg := rfl
@[simp] theorem State.hold_dist (s : State) (w : Wait) : (s.hold w).dist = s.dist := rfl
@[simp] theorem State.hold_saved (s : State) (w : Wait) : (s.hold w).saved = s.saved := rfl
@[simp] theorem State.hold_restoring (s : State) (w : Wait) : (s.hold w).restoring = s.restoring := rfl
@[simp] theorem State.hold_saving (s : State) (w : Wait) : (s.hold w).saving = s.saving := rfl
@[simp] theorem State.hold_acts (s : State) (w : Wait) : (s.hold w).acts = s.acts := rfl
@[simp] theorem State.hold_free (s : State) (w : Wait) : (s.hold w).free = s.free := rfl
@[simp] theorem State.hold_uid (s : State) (w : Wait) : (s.hold w).uid = s.uid := rfl

/-! ### jump -/

@[simp] theorem State.jump_others (s : State) (a : DWord) : (s.jump a).others = s.others := rfl
@[simp] theorem State.jump_blocks (s : State) (a : DWord) : (s.jump a).blocks = s.blocks := rfl
@[simp] theorem State.jump_grids (s : State) (a : DWord) : (s.jump a).grids = s.grids := rfl
@[simp] theorem State.jump_quads (s : State) (a : DWord) : (s.jump a).quads = s.quads := rfl
@[simp] theorem State.jump_cores (s : State) (a : DWord) : (s.jump a).cores = s.cores := rfl
@[simp] theorem State.jump_mem (s : State) (a : DWord) : (s.jump a).mem = s.mem := rfl
@[simp] theorem State.jump_poison (s : State) (a : DWord) : (s.jump a).poison = s.poison := rfl
@[simp] theorem State.jump_caches (s : State) (a : DWord) : (s.jump a).caches = s.caches := rfl
@[simp] theorem State.jump_seals (s : State) (a : DWord) : (s.jump a).seals = s.seals := rfl
@[simp] theorem State.jump_eops (s : State) (a : DWord) : (s.jump a).eops = s.eops := rfl
@[simp] theorem State.jump_ctxs (s : State) (a : DWord) : (s.jump a).ctxs = s.ctxs := rfl
@[simp] theorem State.jump_link (s : State) (a : DWord) : (s.jump a).link = s.link := rfl
@[simp] theorem State.jump_regs (s : State) (a : DWord) : (s.jump a).regs = s.regs := rfl
@[simp] theorem State.jump_side (s : State) (a : DWord) : (s.jump a).side = s.side := rfl
@[simp] theorem State.jump_pkg (s : State) (a : DWord) : (s.jump a).pkg = s.pkg := rfl
@[simp] theorem State.jump_dist (s : State) (a : DWord) : (s.jump a).dist = s.dist := rfl
@[simp] theorem State.jump_saved (s : State) (a : DWord) : (s.jump a).saved = s.saved := rfl
@[simp] theorem State.jump_restoring (s : State) (a : DWord) : (s.jump a).restoring = s.restoring := rfl
@[simp] theorem State.jump_saving (s : State) (a : DWord) : (s.jump a).saving = s.saving := rfl
@[simp] theorem State.jump_acts (s : State) (a : DWord) : (s.jump a).acts = s.acts := rfl
@[simp] theorem State.jump_free (s : State) (a : DWord) : (s.jump a).free = s.free := rfl
@[simp] theorem State.jump_uid (s : State) (a : DWord) : (s.jump a).uid = s.uid := rfl

/-! ### fall -/

@[simp] theorem State.fall_others (s : State) : (s.fall).others = s.others := rfl
@[simp] theorem State.fall_blocks (s : State) : (s.fall).blocks = s.blocks := rfl
@[simp] theorem State.fall_grids (s : State) : (s.fall).grids = s.grids := rfl
@[simp] theorem State.fall_quads (s : State) : (s.fall).quads = s.quads := rfl
@[simp] theorem State.fall_cores (s : State) : (s.fall).cores = s.cores := rfl
@[simp] theorem State.fall_mem (s : State) : (s.fall).mem = s.mem := rfl
@[simp] theorem State.fall_poison (s : State) : (s.fall).poison = s.poison := rfl
@[simp] theorem State.fall_caches (s : State) : (s.fall).caches = s.caches := rfl
@[simp] theorem State.fall_seals (s : State) : (s.fall).seals = s.seals := rfl
@[simp] theorem State.fall_eops (s : State) : (s.fall).eops = s.eops := rfl
@[simp] theorem State.fall_ctxs (s : State) : (s.fall).ctxs = s.ctxs := rfl
@[simp] theorem State.fall_link (s : State) : (s.fall).link = s.link := rfl
@[simp] theorem State.fall_regs (s : State) : (s.fall).regs = s.regs := rfl
@[simp] theorem State.fall_side (s : State) : (s.fall).side = s.side := rfl
@[simp] theorem State.fall_pkg (s : State) : (s.fall).pkg = s.pkg := rfl
@[simp] theorem State.fall_dist (s : State) : (s.fall).dist = s.dist := rfl
@[simp] theorem State.fall_saved (s : State) : (s.fall).saved = s.saved := rfl
@[simp] theorem State.fall_restoring (s : State) : (s.fall).restoring = s.restoring := rfl
@[simp] theorem State.fall_saving (s : State) : (s.fall).saving = s.saving := rfl
@[simp] theorem State.fall_acts (s : State) : (s.fall).acts = s.acts := rfl
@[simp] theorem State.fall_free (s : State) : (s.fall).free = s.free := rfl
@[simp] theorem State.fall_uid (s : State) : (s.fall).uid = s.uid := rfl

/-! ### attach -/

@[simp] theorem State.attach_others (s : State) (on : Until) (v r : List Nat) (l : List LateSrc) :
    (s.attach on v r l).others = s.others := rfl
@[simp] theorem State.attach_blocks (s : State) (on : Until) (v r : List Nat) (l : List LateSrc) :
    (s.attach on v r l).blocks = s.blocks := rfl
@[simp] theorem State.attach_grids (s : State) (on : Until) (v r : List Nat) (l : List LateSrc) :
    (s.attach on v r l).grids = s.grids := rfl
@[simp] theorem State.attach_quads (s : State) (on : Until) (v r : List Nat) (l : List LateSrc) :
    (s.attach on v r l).quads = s.quads := rfl
@[simp] theorem State.attach_cores (s : State) (on : Until) (v r : List Nat) (l : List LateSrc) :
    (s.attach on v r l).cores = s.cores := rfl
@[simp] theorem State.attach_mem (s : State) (on : Until) (v r : List Nat) (l : List LateSrc) :
    (s.attach on v r l).mem = s.mem := rfl
@[simp] theorem State.attach_poison (s : State) (on : Until) (v r : List Nat) (l : List LateSrc) :
    (s.attach on v r l).poison = s.poison := rfl
@[simp] theorem State.attach_caches (s : State) (on : Until) (v r : List Nat) (l : List LateSrc) :
    (s.attach on v r l).caches = s.caches := rfl
@[simp] theorem State.attach_seals (s : State) (on : Until) (v r : List Nat) (l : List LateSrc) :
    (s.attach on v r l).seals = s.seals := rfl
@[simp] theorem State.attach_eops (s : State) (on : Until) (v r : List Nat) (l : List LateSrc) :
    (s.attach on v r l).eops = s.eops := rfl
@[simp] theorem State.attach_ctxs (s : State) (on : Until) (v r : List Nat) (l : List LateSrc) :
    (s.attach on v r l).ctxs = s.ctxs := rfl
@[simp] theorem State.attach_link (s : State) (on : Until) (v r : List Nat) (l : List LateSrc) :
    (s.attach on v r l).link = s.link := rfl
@[simp] theorem State.attach_regs (s : State) (on : Until) (v r : List Nat) (l : List LateSrc) :
    (s.attach on v r l).regs = s.regs := rfl
@[simp] theorem State.attach_side (s : State) (on : Until) (v r : List Nat) (l : List LateSrc) :
    (s.attach on v r l).side = s.side := rfl
@[simp] theorem State.attach_pkg (s : State) (on : Until) (v r : List Nat) (l : List LateSrc) :
    (s.attach on v r l).pkg = s.pkg := rfl
@[simp] theorem State.attach_dist (s : State) (on : Until) (v r : List Nat) (l : List LateSrc) :
    (s.attach on v r l).dist = s.dist := rfl
@[simp] theorem State.attach_saved (s : State) (on : Until) (v r : List Nat) (l : List LateSrc) :
    (s.attach on v r l).saved = s.saved := rfl
@[simp] theorem State.attach_restoring (s : State) (on : Until) (v r : List Nat) (l : List LateSrc) :
    (s.attach on v r l).restoring = s.restoring := rfl
@[simp] theorem State.attach_saving (s : State) (on : Until) (v r : List Nat) (l : List LateSrc) :
    (s.attach on v r l).saving = s.saving := rfl
@[simp] theorem State.attach_acts (s : State) (on : Until) (v r : List Nat) (l : List LateSrc) :
    (s.attach on v r l).acts = s.acts := rfl
@[simp] theorem State.attach_free (s : State) (on : Until) (v r : List Nat) (l : List LateSrc) :
    (s.attach on v r l).free = s.free := rfl
@[simp] theorem State.attach_uid (s : State) (on : Until) (v r : List Nat) (l : List LateSrc) :
    (s.attach on v r l).uid = s.uid + 1 := rfl

/-! ### adv -/

@[simp] theorem State.adv_others (s : State) (n : Nat) : (s.adv n).others = s.others := by
  unfold State.adv; dsimp only; split <;> rfl
@[simp] theorem State.adv_blocks (s : State) (n : Nat) : (s.adv n).blocks = s.blocks := by
  unfold State.adv; dsimp only; split <;> rfl
@[simp] theorem State.adv_grids (s : State) (n : Nat) : (s.adv n).grids = s.grids := by
  unfold State.adv; dsimp only; split <;> rfl
@[simp] theorem State.adv_quads (s : State) (n : Nat) : (s.adv n).quads = s.quads := by
  unfold State.adv; dsimp only; split <;> rfl
@[simp] theorem State.adv_cores (s : State) (n : Nat) : (s.adv n).cores = s.cores := by
  unfold State.adv; dsimp only; split <;> rfl
@[simp] theorem State.adv_mem (s : State) (n : Nat) : (s.adv n).mem = s.mem := by
  unfold State.adv; dsimp only; split <;> rfl
@[simp] theorem State.adv_poison (s : State) (n : Nat) : (s.adv n).poison = s.poison := by
  unfold State.adv; dsimp only; split <;> rfl
@[simp] theorem State.adv_caches (s : State) (n : Nat) : (s.adv n).caches = s.caches := by
  unfold State.adv; dsimp only; split <;> rfl
@[simp] theorem State.adv_seals (s : State) (n : Nat) : (s.adv n).seals = s.seals := by
  unfold State.adv; dsimp only; split <;> rfl
@[simp] theorem State.adv_eops (s : State) (n : Nat) : (s.adv n).eops = s.eops := by
  unfold State.adv; dsimp only; split <;> rfl
@[simp] theorem State.adv_ctxs (s : State) (n : Nat) : (s.adv n).ctxs = s.ctxs := by
  unfold State.adv; dsimp only; split <;> rfl
@[simp] theorem State.adv_link (s : State) (n : Nat) : (s.adv n).link = s.link := by
  unfold State.adv; dsimp only; split <;> rfl
@[simp] theorem State.adv_regs (s : State) (n : Nat) : (s.adv n).regs = s.regs := by
  unfold State.adv; dsimp only; split <;> rfl
@[simp] theorem State.adv_side (s : State) (n : Nat) : (s.adv n).side = s.side := by
  unfold State.adv; dsimp only; split <;> rfl
@[simp] theorem State.adv_pkg (s : State) (n : Nat) : (s.adv n).pkg = s.pkg := by
  unfold State.adv; dsimp only; split <;> rfl
@[simp] theorem State.adv_dist (s : State) (n : Nat) : (s.adv n).dist = s.dist := by
  unfold State.adv; dsimp only; split <;> rfl
@[simp] theorem State.adv_saved (s : State) (n : Nat) : (s.adv n).saved = s.saved := by
  unfold State.adv; dsimp only; split <;> rfl
@[simp] theorem State.adv_restoring (s : State) (n : Nat) : (s.adv n).restoring = s.restoring := by
  unfold State.adv; dsimp only; split <;> rfl
@[simp] theorem State.adv_saving (s : State) (n : Nat) : (s.adv n).saving = s.saving := by
  unfold State.adv; dsimp only; split <;> rfl
@[simp] theorem State.adv_acts (s : State) (n : Nat) : (s.adv n).acts = s.acts := by
  unfold State.adv; dsimp only; split <;> rfl
@[simp] theorem State.adv_free (s : State) (n : Nat) : (s.adv n).free = s.free := by
  unfold State.adv; dsimp only; split <;> rfl
@[simp] theorem State.adv_uid (s : State) (n : Nat) : (s.adv n).uid = s.uid := by
  unfold State.adv; dsimp only; split <;> rfl

/-! ### done -/

@[simp] theorem State.done_others (s : State) (i : Instr) : (s.done i).others = s.others := by
  simp [State.done]
@[simp] theorem State.done_blocks (s : State) (i : Instr) : (s.done i).blocks = s.blocks := by
  simp [State.done]
@[simp] theorem State.done_grids (s : State) (i : Instr) : (s.done i).grids = s.grids := by
  simp [State.done]
@[simp] theorem State.done_quads (s : State) (i : Instr) : (s.done i).quads = s.quads := by
  simp [State.done]
@[simp] theorem State.done_cores (s : State) (i : Instr) : (s.done i).cores = s.cores := by
  simp [State.done]
@[simp] theorem State.done_mem (s : State) (i : Instr) : (s.done i).mem = s.mem := by
  simp [State.done]
@[simp] theorem State.done_poison (s : State) (i : Instr) : (s.done i).poison = s.poison := by
  simp [State.done]
@[simp] theorem State.done_caches (s : State) (i : Instr) : (s.done i).caches = s.caches := by
  simp [State.done]
@[simp] theorem State.done_seals (s : State) (i : Instr) : (s.done i).seals = s.seals := by
  simp [State.done]
@[simp] theorem State.done_eops (s : State) (i : Instr) : (s.done i).eops = s.eops := by
  simp [State.done]
@[simp] theorem State.done_ctxs (s : State) (i : Instr) : (s.done i).ctxs = s.ctxs := by
  simp [State.done]
@[simp] theorem State.done_link (s : State) (i : Instr) : (s.done i).link = s.link := by
  simp [State.done]
@[simp] theorem State.done_regs (s : State) (i : Instr) : (s.done i).regs = s.regs := by
  simp [State.done]
@[simp] theorem State.done_side (s : State) (i : Instr) : (s.done i).side = s.side := by
  simp [State.done]
@[simp] theorem State.done_pkg (s : State) (i : Instr) : (s.done i).pkg = s.pkg := by
  simp [State.done]
@[simp] theorem State.done_dist (s : State) (i : Instr) : (s.done i).dist = s.dist := by
  simp [State.done]
@[simp] theorem State.done_saved (s : State) (i : Instr) : (s.done i).saved = s.saved := by
  simp [State.done]
@[simp] theorem State.done_restoring (s : State) (i : Instr) : (s.done i).restoring = s.restoring := by
  simp [State.done]
@[simp] theorem State.done_saving (s : State) (i : Instr) : (s.done i).saving = s.saving := by
  simp [State.done]
@[simp] theorem State.done_acts (s : State) (i : Instr) : (s.done i).acts = s.acts := by
  simp [State.done]
@[simp] theorem State.done_free (s : State) (i : Instr) : (s.done i).free = s.free := by
  simp [State.done]
@[simp] theorem State.done_uid (s : State) (i : Instr) : (s.done i).uid = s.uid := by
  simp [State.done]

/-! ### modQuad -/

@[simp] theorem State.modQuad_t (s : State) (n : Nat) (f : Quad → Quad) : (s.modQuad n f).t = s.t := by
  unfold State.modQuad; split <;> rfl
@[simp] theorem State.modQuad_others (s : State) (n : Nat) (f : Quad → Quad) : (s.modQuad n f).others = s.others := by
  unfold State.modQuad; split <;> rfl
@[simp] theorem State.modQuad_blocks (s : State) (n : Nat) (f : Quad → Quad) : (s.modQuad n f).blocks = s.blocks := by
  unfold State.modQuad; split <;> rfl
@[simp] theorem State.modQuad_grids (s : State) (n : Nat) (f : Quad → Quad) : (s.modQuad n f).grids = s.grids := by
  unfold State.modQuad; split <;> rfl
@[simp] theorem State.modQuad_cores (s : State) (n : Nat) (f : Quad → Quad) : (s.modQuad n f).cores = s.cores := by
  unfold State.modQuad; split <;> rfl
@[simp] theorem State.modQuad_mem (s : State) (n : Nat) (f : Quad → Quad) : (s.modQuad n f).mem = s.mem := by
  unfold State.modQuad; split <;> rfl
@[simp] theorem State.modQuad_poison (s : State) (n : Nat) (f : Quad → Quad) : (s.modQuad n f).poison = s.poison := by
  unfold State.modQuad; split <;> rfl
@[simp] theorem State.modQuad_caches (s : State) (n : Nat) (f : Quad → Quad) : (s.modQuad n f).caches = s.caches := by
  unfold State.modQuad; split <;> rfl
@[simp] theorem State.modQuad_seals (s : State) (n : Nat) (f : Quad → Quad) : (s.modQuad n f).seals = s.seals := by
  unfold State.modQuad; split <;> rfl
@[simp] theorem State.modQuad_eops (s : State) (n : Nat) (f : Quad → Quad) : (s.modQuad n f).eops = s.eops := by
  unfold State.modQuad; split <;> rfl
@[simp] theorem State.modQuad_ctxs (s : State) (n : Nat) (f : Quad → Quad) : (s.modQuad n f).ctxs = s.ctxs := by
  unfold State.modQuad; split <;> rfl
@[simp] theorem State.modQuad_link (s : State) (n : Nat) (f : Quad → Quad) : (s.modQuad n f).link = s.link := by
  unfold State.modQuad; split <;> rfl
@[simp] theorem State.modQuad_regs (s : State) (n : Nat) (f : Quad → Quad) : (s.modQuad n f).regs = s.regs := by
  unfold State.modQuad; split <;> rfl
@[simp] theorem State.modQuad_side (s : State) (n : Nat) (f : Quad → Quad) : (s.modQuad n f).side = s.side := by
  unfold State.modQuad; split <;> rfl
@[simp] theorem State.modQuad_pkg (s : State) (n : Nat) (f : Quad → Quad) : (s.modQuad n f).pkg = s.pkg := by
  unfold State.modQuad; split <;> rfl
@[simp] theorem State.modQuad_dist (s : State) (n : Nat) (f : Quad → Quad) : (s.modQuad n f).dist = s.dist := by
  unfold State.modQuad; split <;> rfl
@[simp] theorem State.modQuad_saved (s : State) (n : Nat) (f : Quad → Quad) : (s.modQuad n f).saved = s.saved := by
  unfold State.modQuad; split <;> rfl
@[simp] theorem State.modQuad_restoring (s : State) (n : Nat) (f : Quad → Quad) :
    (s.modQuad n f).restoring = s.restoring := by
  unfold State.modQuad; split <;> rfl
@[simp] theorem State.modQuad_saving (s : State) (n : Nat) (f : Quad → Quad) : (s.modQuad n f).saving = s.saving := by
  unfold State.modQuad; split <;> rfl
@[simp] theorem State.modQuad_acts (s : State) (n : Nat) (f : Quad → Quad) : (s.modQuad n f).acts = s.acts := by
  unfold State.modQuad; split <;> rfl
@[simp] theorem State.modQuad_free (s : State) (n : Nat) (f : Quad → Quad) : (s.modQuad n f).free = s.free := by
  unfold State.modQuad; split <;> rfl
@[simp] theorem State.modQuad_uid (s : State) (n : Nat) (f : Quad → Quad) : (s.modQuad n f).uid = s.uid := by
  unfold State.modQuad; split <;> rfl

/-! ### modCtx -/

@[simp] theorem State.modCtx_t (s : State) (n : Nat) (f : CtxSlot → CtxSlot) : (s.modCtx n f).t = s.t := by
  unfold State.modCtx; split <;> rfl
@[simp] theorem State.modCtx_others (s : State) (n : Nat) (f : CtxSlot → CtxSlot) :
    (s.modCtx n f).others = s.others := by
  unfold State.modCtx; split <;> rfl
@[simp] theorem State.modCtx_blocks (s : State) (n : Nat) (f : CtxSlot → CtxSlot) :
    (s.modCtx n f).blocks = s.blocks := by
  unfold State.modCtx; split <;> rfl
@[simp] theorem State.modCtx_grids (s : State) (n : Nat) (f : CtxSlot → CtxSlot) : (s.modCtx n f).grids = s.grids := by
  unfold State.modCtx; split <;> rfl
@[simp] theorem State.modCtx_quads (s : State) (n : Nat) (f : CtxSlot → CtxSlot) : (s.modCtx n f).quads = s.quads := by
  unfold State.modCtx; split <;> rfl
@[simp] theorem State.modCtx_cores (s : State) (n : Nat) (f : CtxSlot → CtxSlot) : (s.modCtx n f).cores = s.cores := by
  unfold State.modCtx; split <;> rfl
@[simp] theorem State.modCtx_mem (s : State) (n : Nat) (f : CtxSlot → CtxSlot) : (s.modCtx n f).mem = s.mem := by
  unfold State.modCtx; split <;> rfl
@[simp] theorem State.modCtx_poison (s : State) (n : Nat) (f : CtxSlot → CtxSlot) :
    (s.modCtx n f).poison = s.poison := by
  unfold State.modCtx; split <;> rfl
@[simp] theorem State.modCtx_caches (s : State) (n : Nat) (f : CtxSlot → CtxSlot) :
    (s.modCtx n f).caches = s.caches := by
  unfold State.modCtx; split <;> rfl
@[simp] theorem State.modCtx_seals (s : State) (n : Nat) (f : CtxSlot → CtxSlot) : (s.modCtx n f).seals = s.seals := by
  unfold State.modCtx; split <;> rfl
@[simp] theorem State.modCtx_eops (s : State) (n : Nat) (f : CtxSlot → CtxSlot) : (s.modCtx n f).eops = s.eops := by
  unfold State.modCtx; split <;> rfl
@[simp] theorem State.modCtx_link (s : State) (n : Nat) (f : CtxSlot → CtxSlot) : (s.modCtx n f).link = s.link := by
  unfold State.modCtx; split <;> rfl
@[simp] theorem State.modCtx_regs (s : State) (n : Nat) (f : CtxSlot → CtxSlot) : (s.modCtx n f).regs = s.regs := by
  unfold State.modCtx; split <;> rfl
@[simp] theorem State.modCtx_side (s : State) (n : Nat) (f : CtxSlot → CtxSlot) : (s.modCtx n f).side = s.side := by
  unfold State.modCtx; split <;> rfl
@[simp] theorem State.modCtx_pkg (s : State) (n : Nat) (f : CtxSlot → CtxSlot) : (s.modCtx n f).pkg = s.pkg := by
  unfold State.modCtx; split <;> rfl
@[simp] theorem State.modCtx_dist (s : State) (n : Nat) (f : CtxSlot → CtxSlot) : (s.modCtx n f).dist = s.dist := by
  unfold State.modCtx; split <;> rfl
@[simp] theorem State.modCtx_saved (s : State) (n : Nat) (f : CtxSlot → CtxSlot) : (s.modCtx n f).saved = s.saved := by
  unfold State.modCtx; split <;> rfl
@[simp] theorem State.modCtx_restoring (s : State) (n : Nat) (f : CtxSlot → CtxSlot) :
    (s.modCtx n f).restoring = s.restoring := by
  unfold State.modCtx; split <;> rfl
@[simp] theorem State.modCtx_saving (s : State) (n : Nat) (f : CtxSlot → CtxSlot) :
    (s.modCtx n f).saving = s.saving := by
  unfold State.modCtx; split <;> rfl
@[simp] theorem State.modCtx_acts (s : State) (n : Nat) (f : CtxSlot → CtxSlot) : (s.modCtx n f).acts = s.acts := by
  unfold State.modCtx; split <;> rfl
@[simp] theorem State.modCtx_free (s : State) (n : Nat) (f : CtxSlot → CtxSlot) : (s.modCtx n f).free = s.free := by
  unfold State.modCtx; split <;> rfl
@[simp] theorem State.modCtx_uid (s : State) (n : Nat) (f : CtxSlot → CtxSlot) : (s.modCtx n f).uid = s.uid := by
  unfold State.modCtx; split <;> rfl

/-! ### endCtx -/

@[simp] theorem State.endCtx_t (s : State) (n st : Nat) : (s.endCtx n st).t = s.t := by
  simp [State.endCtx]
@[simp] theorem State.endCtx_others (s : State) (n st : Nat) : (s.endCtx n st).others = s.others := by
  simp [State.endCtx]
@[simp] theorem State.endCtx_blocks (s : State) (n st : Nat) : (s.endCtx n st).blocks = s.blocks := by
  simp [State.endCtx]
@[simp] theorem State.endCtx_grids (s : State) (n st : Nat) : (s.endCtx n st).grids = s.grids := by
  simp [State.endCtx]
@[simp] theorem State.endCtx_quads (s : State) (n st : Nat) : (s.endCtx n st).quads = s.quads := by
  simp [State.endCtx]
@[simp] theorem State.endCtx_cores (s : State) (n st : Nat) : (s.endCtx n st).cores = s.cores := by
  simp [State.endCtx]
@[simp] theorem State.endCtx_mem (s : State) (n st : Nat) : (s.endCtx n st).mem = s.mem := by
  simp [State.endCtx]
@[simp] theorem State.endCtx_poison (s : State) (n st : Nat) : (s.endCtx n st).poison = s.poison := by
  simp [State.endCtx]
@[simp] theorem State.endCtx_caches (s : State) (n st : Nat) : (s.endCtx n st).caches = s.caches := by
  simp [State.endCtx]
@[simp] theorem State.endCtx_seals (s : State) (n st : Nat) : (s.endCtx n st).seals = s.seals := by
  simp [State.endCtx]
@[simp] theorem State.endCtx_eops (s : State) (n st : Nat) : (s.endCtx n st).eops = s.eops := by
  simp [State.endCtx]
@[simp] theorem State.endCtx_link (s : State) (n st : Nat) : (s.endCtx n st).link = s.link := by
  simp [State.endCtx]
@[simp] theorem State.endCtx_regs (s : State) (n st : Nat) : (s.endCtx n st).regs = s.regs := by
  simp [State.endCtx]
@[simp] theorem State.endCtx_side (s : State) (n st : Nat) : (s.endCtx n st).side = s.side := by
  simp [State.endCtx]
@[simp] theorem State.endCtx_pkg (s : State) (n st : Nat) : (s.endCtx n st).pkg = s.pkg := by
  simp [State.endCtx]
@[simp] theorem State.endCtx_dist (s : State) (n st : Nat) : (s.endCtx n st).dist = s.dist := by
  simp [State.endCtx]
@[simp] theorem State.endCtx_saved (s : State) (n st : Nat) : (s.endCtx n st).saved = s.saved := by
  simp [State.endCtx]
@[simp] theorem State.endCtx_restoring (s : State) (n st : Nat) : (s.endCtx n st).restoring = s.restoring := by
  simp [State.endCtx]
@[simp] theorem State.endCtx_saving (s : State) (n st : Nat) : (s.endCtx n st).saving = s.saving := by
  simp [State.endCtx]
@[simp] theorem State.endCtx_acts (s : State) (n st : Nat) : (s.endCtx n st).acts = s.acts := by
  simp [State.endCtx]
@[simp] theorem State.endCtx_free (s : State) (n st : Nat) : (s.endCtx n st).free = s.free := by
  simp [State.endCtx]
@[simp] theorem State.endCtx_uid (s : State) (n st : Nat) : (s.endCtx n st).uid = s.uid := by
  simp [State.endCtx]

/-! ### modTeam -/

@[simp] theorem State.modTeam_blocks (s : State) (n : Nat) (f : Team → Team) : (s.modTeam n f).blocks = s.blocks := by
  unfold State.modTeam; split <;> rfl
@[simp] theorem State.modTeam_grids (s : State) (n : Nat) (f : Team → Team) : (s.modTeam n f).grids = s.grids := by
  unfold State.modTeam; split <;> rfl
@[simp] theorem State.modTeam_quads (s : State) (n : Nat) (f : Team → Team) : (s.modTeam n f).quads = s.quads := by
  unfold State.modTeam; split <;> rfl
@[simp] theorem State.modTeam_cores (s : State) (n : Nat) (f : Team → Team) : (s.modTeam n f).cores = s.cores := by
  unfold State.modTeam; split <;> rfl
@[simp] theorem State.modTeam_mem (s : State) (n : Nat) (f : Team → Team) : (s.modTeam n f).mem = s.mem := by
  unfold State.modTeam; split <;> rfl
@[simp] theorem State.modTeam_poison (s : State) (n : Nat) (f : Team → Team) : (s.modTeam n f).poison = s.poison := by
  unfold State.modTeam; split <;> rfl
@[simp] theorem State.modTeam_caches (s : State) (n : Nat) (f : Team → Team) : (s.modTeam n f).caches = s.caches := by
  unfold State.modTeam; split <;> rfl
@[simp] theorem State.modTeam_seals (s : State) (n : Nat) (f : Team → Team) : (s.modTeam n f).seals = s.seals := by
  unfold State.modTeam; split <;> rfl
@[simp] theorem State.modTeam_eops (s : State) (n : Nat) (f : Team → Team) : (s.modTeam n f).eops = s.eops := by
  unfold State.modTeam; split <;> rfl
@[simp] theorem State.modTeam_ctxs (s : State) (n : Nat) (f : Team → Team) : (s.modTeam n f).ctxs = s.ctxs := by
  unfold State.modTeam; split <;> rfl
@[simp] theorem State.modTeam_link (s : State) (n : Nat) (f : Team → Team) : (s.modTeam n f).link = s.link := by
  unfold State.modTeam; split <;> rfl
@[simp] theorem State.modTeam_regs (s : State) (n : Nat) (f : Team → Team) : (s.modTeam n f).regs = s.regs := by
  unfold State.modTeam; split <;> rfl
@[simp] theorem State.modTeam_side (s : State) (n : Nat) (f : Team → Team) : (s.modTeam n f).side = s.side := by
  unfold State.modTeam; split <;> rfl
@[simp] theorem State.modTeam_pkg (s : State) (n : Nat) (f : Team → Team) : (s.modTeam n f).pkg = s.pkg := by
  unfold State.modTeam; split <;> rfl
@[simp] theorem State.modTeam_dist (s : State) (n : Nat) (f : Team → Team) : (s.modTeam n f).dist = s.dist := by
  unfold State.modTeam; split <;> rfl
@[simp] theorem State.modTeam_saved (s : State) (n : Nat) (f : Team → Team) : (s.modTeam n f).saved = s.saved := by
  unfold State.modTeam; split <;> rfl
@[simp] theorem State.modTeam_restoring (s : State) (n : Nat) (f : Team → Team) :
    (s.modTeam n f).restoring = s.restoring := by
  unfold State.modTeam; split <;> rfl
@[simp] theorem State.modTeam_saving (s : State) (n : Nat) (f : Team → Team) : (s.modTeam n f).saving = s.saving := by
  unfold State.modTeam; split <;> rfl
@[simp] theorem State.modTeam_acts (s : State) (n : Nat) (f : Team → Team) : (s.modTeam n f).acts = s.acts := by
  unfold State.modTeam; split <;> rfl
@[simp] theorem State.modTeam_free (s : State) (n : Nat) (f : Team → Team) : (s.modTeam n f).free = s.free := by
  unfold State.modTeam; split <;> rfl
@[simp] theorem State.modTeam_uid (s : State) (n : Nat) (f : Team → Team) : (s.modTeam n f).uid = s.uid := by
  unfold State.modTeam; split <;> rfl

/-! ### modTeams -/

@[simp] theorem State.modTeams_t (s : State) (p : Team → Bool) (f : Team → Team) :
    (s.modTeams p f).t = if p s.t then f s.t else s.t := rfl
@[simp] theorem State.modTeams_blocks (s : State) (p : Team → Bool) (f : Team → Team) :
    (s.modTeams p f).blocks = s.blocks := rfl
@[simp] theorem State.modTeams_grids (s : State) (p : Team → Bool) (f : Team → Team) :
    (s.modTeams p f).grids = s.grids := rfl
@[simp] theorem State.modTeams_quads (s : State) (p : Team → Bool) (f : Team → Team) :
    (s.modTeams p f).quads = s.quads := rfl
@[simp] theorem State.modTeams_cores (s : State) (p : Team → Bool) (f : Team → Team) :
    (s.modTeams p f).cores = s.cores := rfl
@[simp] theorem State.modTeams_mem (s : State) (p : Team → Bool) (f : Team → Team) : (s.modTeams p f).mem = s.mem := rfl
@[simp] theorem State.modTeams_poison (s : State) (p : Team → Bool) (f : Team → Team) :
    (s.modTeams p f).poison = s.poison := rfl
@[simp] theorem State.modTeams_caches (s : State) (p : Team → Bool) (f : Team → Team) :
    (s.modTeams p f).caches = s.caches := rfl
@[simp] theorem State.modTeams_seals (s : State) (p : Team → Bool) (f : Team → Team) :
    (s.modTeams p f).seals = s.seals := rfl
@[simp] theorem State.modTeams_eops (s : State) (p : Team → Bool) (f : Team → Team) :
    (s.modTeams p f).eops = s.eops := rfl
@[simp] theorem State.modTeams_ctxs (s : State) (p : Team → Bool) (f : Team → Team) :
    (s.modTeams p f).ctxs = s.ctxs := rfl
@[simp] theorem State.modTeams_link (s : State) (p : Team → Bool) (f : Team → Team) :
    (s.modTeams p f).link = s.link := rfl
@[simp] theorem State.modTeams_regs (s : State) (p : Team → Bool) (f : Team → Team) :
    (s.modTeams p f).regs = s.regs := rfl
@[simp] theorem State.modTeams_side (s : State) (p : Team → Bool) (f : Team → Team) :
    (s.modTeams p f).side = s.side := rfl
@[simp] theorem State.modTeams_pkg (s : State) (p : Team → Bool) (f : Team → Team) : (s.modTeams p f).pkg = s.pkg := rfl
@[simp] theorem State.modTeams_dist (s : State) (p : Team → Bool) (f : Team → Team) :
    (s.modTeams p f).dist = s.dist := rfl
@[simp] theorem State.modTeams_saved (s : State) (p : Team → Bool) (f : Team → Team) :
    (s.modTeams p f).saved = s.saved := rfl
@[simp] theorem State.modTeams_restoring (s : State) (p : Team → Bool) (f : Team → Team) :
    (s.modTeams p f).restoring = s.restoring := rfl
@[simp] theorem State.modTeams_saving (s : State) (p : Team → Bool) (f : Team → Team) :
    (s.modTeams p f).saving = s.saving := rfl
@[simp] theorem State.modTeams_acts (s : State) (p : Team → Bool) (f : Team → Team) :
    (s.modTeams p f).acts = s.acts := rfl
@[simp] theorem State.modTeams_free (s : State) (p : Team → Bool) (f : Team → Team) :
    (s.modTeams p f).free = s.free := rfl
@[simp] theorem State.modTeams_uid (s : State) (p : Team → Bool) (f : Team → Team) : (s.modTeams p f).uid = s.uid := rfl

/-! ### settle -/

@[simp] theorem State.settle_blocks (s : State) (p : LateSrc → Bool) : (s.settle p).blocks = s.blocks := by
  simp [State.settle]
@[simp] theorem State.settle_grids (s : State) (p : LateSrc → Bool) : (s.settle p).grids = s.grids := by
  simp [State.settle]
@[simp] theorem State.settle_quads (s : State) (p : LateSrc → Bool) : (s.settle p).quads = s.quads := by
  simp [State.settle]
@[simp] theorem State.settle_cores (s : State) (p : LateSrc → Bool) : (s.settle p).cores = s.cores := by
  simp [State.settle]
@[simp] theorem State.settle_mem (s : State) (p : LateSrc → Bool) : (s.settle p).mem = s.mem := by
  simp [State.settle]
@[simp] theorem State.settle_poison (s : State) (p : LateSrc → Bool) : (s.settle p).poison = s.poison := by
  simp [State.settle]
@[simp] theorem State.settle_caches (s : State) (p : LateSrc → Bool) : (s.settle p).caches = s.caches := by
  simp [State.settle]
@[simp] theorem State.settle_seals (s : State) (p : LateSrc → Bool) : (s.settle p).seals = s.seals := by
  simp [State.settle]
@[simp] theorem State.settle_eops (s : State) (p : LateSrc → Bool) : (s.settle p).eops = s.eops := by
  simp [State.settle]
@[simp] theorem State.settle_ctxs (s : State) (p : LateSrc → Bool) : (s.settle p).ctxs = s.ctxs := by
  simp [State.settle]
@[simp] theorem State.settle_link (s : State) (p : LateSrc → Bool) : (s.settle p).link = s.link := by
  simp [State.settle]
@[simp] theorem State.settle_regs (s : State) (p : LateSrc → Bool) : (s.settle p).regs = s.regs := by
  simp [State.settle]
@[simp] theorem State.settle_side (s : State) (p : LateSrc → Bool) : (s.settle p).side = s.side := by
  simp [State.settle]
@[simp] theorem State.settle_pkg (s : State) (p : LateSrc → Bool) : (s.settle p).pkg = s.pkg := by
  simp [State.settle]
@[simp] theorem State.settle_dist (s : State) (p : LateSrc → Bool) : (s.settle p).dist = s.dist := by
  simp [State.settle]
@[simp] theorem State.settle_saved (s : State) (p : LateSrc → Bool) : (s.settle p).saved = s.saved := by
  simp [State.settle]
@[simp] theorem State.settle_restoring (s : State) (p : LateSrc → Bool) : (s.settle p).restoring = s.restoring := by
  simp [State.settle]
@[simp] theorem State.settle_saving (s : State) (p : LateSrc → Bool) : (s.settle p).saving = s.saving := by
  simp [State.settle]
@[simp] theorem State.settle_acts (s : State) (p : LateSrc → Bool) : (s.settle p).acts = s.acts := by
  simp [State.settle]
@[simp] theorem State.settle_free (s : State) (p : LateSrc → Bool) : (s.settle p).free = s.free := by
  simp [State.settle]
@[simp] theorem State.settle_uid (s : State) (p : LateSrc → Bool) : (s.settle p).uid = s.uid := by
  simp [State.settle]

/-! ### select -/

@[simp] theorem State.select_blocks (s : State) (n : Nat) : (s.select n).blocks = s.blocks := by
  unfold State.select; split
  · rfl
  · split <;> rfl
@[simp] theorem State.select_grids (s : State) (n : Nat) : (s.select n).grids = s.grids := by
  unfold State.select; split
  · rfl
  · split <;> rfl
@[simp] theorem State.select_quads (s : State) (n : Nat) : (s.select n).quads = s.quads := by
  unfold State.select; split
  · rfl
  · split <;> rfl
@[simp] theorem State.select_cores (s : State) (n : Nat) : (s.select n).cores = s.cores := by
  unfold State.select; split
  · rfl
  · split <;> rfl
@[simp] theorem State.select_mem (s : State) (n : Nat) : (s.select n).mem = s.mem := by
  unfold State.select; split
  · rfl
  · split <;> rfl
@[simp] theorem State.select_poison (s : State) (n : Nat) : (s.select n).poison = s.poison := by
  unfold State.select; split
  · rfl
  · split <;> rfl
@[simp] theorem State.select_caches (s : State) (n : Nat) : (s.select n).caches = s.caches := by
  unfold State.select; split
  · rfl
  · split <;> rfl
@[simp] theorem State.select_seals (s : State) (n : Nat) : (s.select n).seals = s.seals := by
  unfold State.select; split
  · rfl
  · split <;> rfl
@[simp] theorem State.select_eops (s : State) (n : Nat) : (s.select n).eops = s.eops := by
  unfold State.select; split
  · rfl
  · split <;> rfl
@[simp] theorem State.select_ctxs (s : State) (n : Nat) : (s.select n).ctxs = s.ctxs := by
  unfold State.select; split
  · rfl
  · split <;> rfl
@[simp] theorem State.select_link (s : State) (n : Nat) : (s.select n).link = s.link := by
  unfold State.select; split
  · rfl
  · split <;> rfl
@[simp] theorem State.select_regs (s : State) (n : Nat) : (s.select n).regs = s.regs := by
  unfold State.select; split
  · rfl
  · split <;> rfl
@[simp] theorem State.select_side (s : State) (n : Nat) : (s.select n).side = s.side := by
  unfold State.select; split
  · rfl
  · split <;> rfl
@[simp] theorem State.select_pkg (s : State) (n : Nat) : (s.select n).pkg = s.pkg := by
  unfold State.select; split
  · rfl
  · split <;> rfl
@[simp] theorem State.select_dist (s : State) (n : Nat) : (s.select n).dist = s.dist := by
  unfold State.select; split
  · rfl
  · split <;> rfl
@[simp] theorem State.select_saved (s : State) (n : Nat) : (s.select n).saved = s.saved := by
  unfold State.select; split
  · rfl
  · split <;> rfl
@[simp] theorem State.select_restoring (s : State) (n : Nat) : (s.select n).restoring = s.restoring := by
  unfold State.select; split
  · rfl
  · split <;> rfl
@[simp] theorem State.select_saving (s : State) (n : Nat) : (s.select n).saving = s.saving := by
  unfold State.select; split
  · rfl
  · split <;> rfl
@[simp] theorem State.select_acts (s : State) (n : Nat) : (s.select n).acts = s.acts := by
  unfold State.select; split
  · rfl
  · split <;> rfl
@[simp] theorem State.select_free (s : State) (n : Nat) : (s.select n).free = s.free := by
  unfold State.select; split
  · rfl
  · split <;> rfl
@[simp] theorem State.select_uid (s : State) (n : Nat) : (s.select n).uid = s.uid := by
  unfold State.select; split
  · rfl
  · split <;> rfl

/-! ### takeTrap -/

@[simp] theorem State.takeTrap_others (s : State) : (s.takeTrap).others = s.others := by
  unfold State.takeTrap; dsimp only; split
  · rfl
  · split
    · simp
    · split <;> simp
@[simp] theorem State.takeTrap_blocks (s : State) : (s.takeTrap).blocks = s.blocks := by
  unfold State.takeTrap; dsimp only; split
  · rfl
  · split
    · simp
    · split <;> simp
@[simp] theorem State.takeTrap_grids (s : State) : (s.takeTrap).grids = s.grids := by
  unfold State.takeTrap; dsimp only; split
  · rfl
  · split
    · simp
    · split <;> simp
@[simp] theorem State.takeTrap_quads (s : State) : (s.takeTrap).quads = s.quads := by
  unfold State.takeTrap; dsimp only; split
  · rfl
  · split
    · simp
    · split <;> simp
@[simp] theorem State.takeTrap_cores (s : State) : (s.takeTrap).cores = s.cores := by
  unfold State.takeTrap; dsimp only; split
  · rfl
  · split
    · simp
    · split <;> simp
@[simp] theorem State.takeTrap_mem (s : State) : (s.takeTrap).mem = s.mem := by
  unfold State.takeTrap; dsimp only; split
  · rfl
  · split
    · simp
    · split <;> simp
@[simp] theorem State.takeTrap_poison (s : State) : (s.takeTrap).poison = s.poison := by
  unfold State.takeTrap; dsimp only; split
  · rfl
  · split
    · simp
    · split <;> simp
@[simp] theorem State.takeTrap_caches (s : State) : (s.takeTrap).caches = s.caches := by
  unfold State.takeTrap; dsimp only; split
  · rfl
  · split
    · simp
    · split <;> simp
@[simp] theorem State.takeTrap_seals (s : State) : (s.takeTrap).seals = s.seals := by
  unfold State.takeTrap; dsimp only; split
  · rfl
  · split
    · simp
    · split <;> simp
@[simp] theorem State.takeTrap_eops (s : State) : (s.takeTrap).eops = s.eops := by
  unfold State.takeTrap; dsimp only; split
  · rfl
  · split
    · simp
    · split <;> simp
@[simp] theorem State.takeTrap_link (s : State) : (s.takeTrap).link = s.link := by
  unfold State.takeTrap; dsimp only; split
  · rfl
  · split
    · simp
    · split <;> simp
@[simp] theorem State.takeTrap_regs (s : State) : (s.takeTrap).regs = s.regs := by
  unfold State.takeTrap; dsimp only; split
  · rfl
  · split
    · simp
    · split <;> simp
@[simp] theorem State.takeTrap_side (s : State) : (s.takeTrap).side = s.side := by
  unfold State.takeTrap; dsimp only; split
  · rfl
  · split
    · simp
    · split <;> simp
@[simp] theorem State.takeTrap_pkg (s : State) : (s.takeTrap).pkg = s.pkg := by
  unfold State.takeTrap; dsimp only; split
  · rfl
  · split
    · simp
    · split <;> simp
@[simp] theorem State.takeTrap_dist (s : State) : (s.takeTrap).dist = s.dist := by
  unfold State.takeTrap; dsimp only; split
  · rfl
  · split
    · simp
    · split <;> simp
@[simp] theorem State.takeTrap_saved (s : State) : (s.takeTrap).saved = s.saved := by
  unfold State.takeTrap; dsimp only; split
  · rfl
  · split
    · simp
    · split <;> simp
@[simp] theorem State.takeTrap_restoring (s : State) : (s.takeTrap).restoring = s.restoring := by
  unfold State.takeTrap; dsimp only; split
  · rfl
  · split
    · simp
    · split <;> simp
@[simp] theorem State.takeTrap_saving (s : State) : (s.takeTrap).saving = s.saving := by
  unfold State.takeTrap; dsimp only; split
  · rfl
  · split
    · simp
    · split <;> simp
@[simp] theorem State.takeTrap_acts (s : State) : (s.takeTrap).acts = s.acts := by
  unfold State.takeTrap; dsimp only; split
  · rfl
  · split
    · simp
    · split <;> simp
@[simp] theorem State.takeTrap_free (s : State) : (s.takeTrap).free = s.free := by
  unfold State.takeTrap; dsimp only; split
  · rfl
  · split
    · simp
    · split <;> simp
@[simp] theorem State.takeTrap_uid (s : State) : (s.takeTrap).uid = s.uid := by
  unfold State.takeTrap; dsimp only; split
  · rfl
  · split
    · simp
    · split <;> simp

/-! ### tryTrap -/

@[simp] theorem State.tryTrap_others (s : State) : (s.tryTrap).others = s.others := by
  unfold State.tryTrap; split <;> simp
@[simp] theorem State.tryTrap_blocks (s : State) : (s.tryTrap).blocks = s.blocks := by
  unfold State.tryTrap; split <;> simp
@[simp] theorem State.tryTrap_grids (s : State) : (s.tryTrap).grids = s.grids := by
  unfold State.tryTrap; split <;> simp
@[simp] theorem State.tryTrap_quads (s : State) : (s.tryTrap).quads = s.quads := by
  unfold State.tryTrap; split <;> simp
@[simp] theorem State.tryTrap_cores (s : State) : (s.tryTrap).cores = s.cores := by
  unfold State.tryTrap; split <;> simp
@[simp] theorem State.tryTrap_mem (s : State) : (s.tryTrap).mem = s.mem := by
  unfold State.tryTrap; split <;> simp
@[simp] theorem State.tryTrap_poison (s : State) : (s.tryTrap).poison = s.poison := by
  unfold State.tryTrap; split <;> simp
@[simp] theorem State.tryTrap_caches (s : State) : (s.tryTrap).caches = s.caches := by
  unfold State.tryTrap; split <;> simp
@[simp] theorem State.tryTrap_seals (s : State) : (s.tryTrap).seals = s.seals := by
  unfold State.tryTrap; split <;> simp
@[simp] theorem State.tryTrap_eops (s : State) : (s.tryTrap).eops = s.eops := by
  unfold State.tryTrap; split <;> simp
@[simp] theorem State.tryTrap_link (s : State) : (s.tryTrap).link = s.link := by
  unfold State.tryTrap; split <;> simp
@[simp] theorem State.tryTrap_regs (s : State) : (s.tryTrap).regs = s.regs := by
  unfold State.tryTrap; split <;> simp
@[simp] theorem State.tryTrap_side (s : State) : (s.tryTrap).side = s.side := by
  unfold State.tryTrap; split <;> simp
@[simp] theorem State.tryTrap_pkg (s : State) : (s.tryTrap).pkg = s.pkg := by
  unfold State.tryTrap; split <;> simp
@[simp] theorem State.tryTrap_dist (s : State) : (s.tryTrap).dist = s.dist := by
  unfold State.tryTrap; split <;> simp
@[simp] theorem State.tryTrap_saved (s : State) : (s.tryTrap).saved = s.saved := by
  unfold State.tryTrap; split <;> simp
@[simp] theorem State.tryTrap_restoring (s : State) : (s.tryTrap).restoring = s.restoring := by
  unfold State.tryTrap; split <;> simp
@[simp] theorem State.tryTrap_saving (s : State) : (s.tryTrap).saving = s.saving := by
  unfold State.tryTrap; split <;> simp
@[simp] theorem State.tryTrap_acts (s : State) : (s.tryTrap).acts = s.acts := by
  unfold State.tryTrap; split <;> simp
@[simp] theorem State.tryTrap_free (s : State) : (s.tryTrap).free = s.free := by
  unfold State.tryTrap; split <;> simp
@[simp] theorem State.tryTrap_uid (s : State) : (s.tryTrap).uid = s.uid := by
  unfold State.tryTrap; split <;> simp

/-! ### decide -/

@[simp] theorem State.decide_others (s : State) (l : List Dec) : (s.decide l).others = s.others := by
  unfold State.decide; split <;> simp
@[simp] theorem State.decide_blocks (s : State) (l : List Dec) : (s.decide l).blocks = s.blocks := by
  unfold State.decide; split <;> simp
@[simp] theorem State.decide_grids (s : State) (l : List Dec) : (s.decide l).grids = s.grids := by
  unfold State.decide; split <;> simp
@[simp] theorem State.decide_quads (s : State) (l : List Dec) : (s.decide l).quads = s.quads := by
  unfold State.decide; split <;> simp
@[simp] theorem State.decide_cores (s : State) (l : List Dec) : (s.decide l).cores = s.cores := by
  unfold State.decide; split <;> simp
@[simp] theorem State.decide_mem (s : State) (l : List Dec) : (s.decide l).mem = s.mem := by
  unfold State.decide; split <;> simp
@[simp] theorem State.decide_poison (s : State) (l : List Dec) : (s.decide l).poison = s.poison := by
  unfold State.decide; split <;> simp
@[simp] theorem State.decide_caches (s : State) (l : List Dec) : (s.decide l).caches = s.caches := by
  unfold State.decide; split <;> simp
@[simp] theorem State.decide_seals (s : State) (l : List Dec) : (s.decide l).seals = s.seals := by
  unfold State.decide; split <;> simp
@[simp] theorem State.decide_eops (s : State) (l : List Dec) : (s.decide l).eops = s.eops := by
  unfold State.decide; split <;> simp
@[simp] theorem State.decide_link (s : State) (l : List Dec) : (s.decide l).link = s.link := by
  unfold State.decide; split <;> simp
@[simp] theorem State.decide_regs (s : State) (l : List Dec) : (s.decide l).regs = s.regs := by
  unfold State.decide; split <;> simp
@[simp] theorem State.decide_side (s : State) (l : List Dec) : (s.decide l).side = s.side := by
  unfold State.decide; split <;> simp
@[simp] theorem State.decide_pkg (s : State) (l : List Dec) : (s.decide l).pkg = s.pkg := by
  unfold State.decide; split <;> simp
@[simp] theorem State.decide_dist (s : State) (l : List Dec) : (s.decide l).dist = s.dist := by
  unfold State.decide; split <;> simp
@[simp] theorem State.decide_saved (s : State) (l : List Dec) : (s.decide l).saved = s.saved := by
  unfold State.decide; split <;> simp
@[simp] theorem State.decide_restoring (s : State) (l : List Dec) : (s.decide l).restoring = s.restoring := by
  unfold State.decide; split <;> simp
@[simp] theorem State.decide_saving (s : State) (l : List Dec) : (s.decide l).saving = s.saving := by
  unfold State.decide; split <;> simp
@[simp] theorem State.decide_acts (s : State) (l : List Dec) : (s.decide l).acts = s.acts := by
  unfold State.decide; split <;> simp
@[simp] theorem State.decide_free (s : State) (l : List Dec) : (s.decide l).free = s.free := by
  unfold State.decide; split <;> simp
@[simp] theorem State.decide_uid (s : State) (l : List Dec) : (s.decide l).uid = s.uid := by
  unfold State.decide; split <;> simp

/-! ### raise -/

@[simp] theorem State.raise_others (s : State) (c : Nat) (x : DWord) : (s.raise c x).others = s.others := by
  simp [State.raise]
@[simp] theorem State.raise_blocks (s : State) (c : Nat) (x : DWord) : (s.raise c x).blocks = s.blocks := by
  simp [State.raise]
@[simp] theorem State.raise_grids (s : State) (c : Nat) (x : DWord) : (s.raise c x).grids = s.grids := by
  simp [State.raise]
@[simp] theorem State.raise_quads (s : State) (c : Nat) (x : DWord) : (s.raise c x).quads = s.quads := by
  simp [State.raise]
@[simp] theorem State.raise_cores (s : State) (c : Nat) (x : DWord) : (s.raise c x).cores = s.cores := by
  simp [State.raise]
@[simp] theorem State.raise_mem (s : State) (c : Nat) (x : DWord) : (s.raise c x).mem = s.mem := by
  simp [State.raise]
@[simp] theorem State.raise_poison (s : State) (c : Nat) (x : DWord) : (s.raise c x).poison = s.poison := by
  simp [State.raise]
@[simp] theorem State.raise_caches (s : State) (c : Nat) (x : DWord) : (s.raise c x).caches = s.caches := by
  simp [State.raise]
@[simp] theorem State.raise_seals (s : State) (c : Nat) (x : DWord) : (s.raise c x).seals = s.seals := by
  simp [State.raise]
@[simp] theorem State.raise_eops (s : State) (c : Nat) (x : DWord) : (s.raise c x).eops = s.eops := by
  simp [State.raise]
@[simp] theorem State.raise_link (s : State) (c : Nat) (x : DWord) : (s.raise c x).link = s.link := by
  simp [State.raise]
@[simp] theorem State.raise_regs (s : State) (c : Nat) (x : DWord) : (s.raise c x).regs = s.regs := by
  simp [State.raise]
@[simp] theorem State.raise_side (s : State) (c : Nat) (x : DWord) : (s.raise c x).side = s.side := by
  simp [State.raise]
@[simp] theorem State.raise_pkg (s : State) (c : Nat) (x : DWord) : (s.raise c x).pkg = s.pkg := by
  simp [State.raise]
@[simp] theorem State.raise_dist (s : State) (c : Nat) (x : DWord) : (s.raise c x).dist = s.dist := by
  simp [State.raise]
@[simp] theorem State.raise_saved (s : State) (c : Nat) (x : DWord) : (s.raise c x).saved = s.saved := by
  simp [State.raise]
@[simp] theorem State.raise_restoring (s : State) (c : Nat) (x : DWord) : (s.raise c x).restoring = s.restoring := by
  simp [State.raise]
@[simp] theorem State.raise_saving (s : State) (c : Nat) (x : DWord) : (s.raise c x).saving = s.saving := by
  simp [State.raise]
@[simp] theorem State.raise_acts (s : State) (c : Nat) (x : DWord) : (s.raise c x).acts = s.acts := by
  simp [State.raise]
@[simp] theorem State.raise_free (s : State) (c : Nat) (x : DWord) : (s.raise c x).free = s.free := by
  simp [State.raise]
@[simp] theorem State.raise_uid (s : State) (c : Nat) (x : DWord) : (s.raise c x).uid = s.uid := by
  simp [State.raise]

/-! ### raiseLanes -/

@[simp] theorem State.raiseLanes_others (s : State) (l : List LaneCause) : (s.raiseLanes l).others = s.others := by
  simp [State.raiseLanes]
@[simp] theorem State.raiseLanes_blocks (s : State) (l : List LaneCause) : (s.raiseLanes l).blocks = s.blocks := by
  simp [State.raiseLanes]
@[simp] theorem State.raiseLanes_grids (s : State) (l : List LaneCause) : (s.raiseLanes l).grids = s.grids := by
  simp [State.raiseLanes]
@[simp] theorem State.raiseLanes_quads (s : State) (l : List LaneCause) : (s.raiseLanes l).quads = s.quads := by
  simp [State.raiseLanes]
@[simp] theorem State.raiseLanes_cores (s : State) (l : List LaneCause) : (s.raiseLanes l).cores = s.cores := by
  simp [State.raiseLanes]
@[simp] theorem State.raiseLanes_mem (s : State) (l : List LaneCause) : (s.raiseLanes l).mem = s.mem := by
  simp [State.raiseLanes]
@[simp] theorem State.raiseLanes_poison (s : State) (l : List LaneCause) : (s.raiseLanes l).poison = s.poison := by
  simp [State.raiseLanes]
@[simp] theorem State.raiseLanes_caches (s : State) (l : List LaneCause) : (s.raiseLanes l).caches = s.caches := by
  simp [State.raiseLanes]
@[simp] theorem State.raiseLanes_seals (s : State) (l : List LaneCause) : (s.raiseLanes l).seals = s.seals := by
  simp [State.raiseLanes]
@[simp] theorem State.raiseLanes_eops (s : State) (l : List LaneCause) : (s.raiseLanes l).eops = s.eops := by
  simp [State.raiseLanes]
@[simp] theorem State.raiseLanes_link (s : State) (l : List LaneCause) : (s.raiseLanes l).link = s.link := by
  simp [State.raiseLanes]
@[simp] theorem State.raiseLanes_regs (s : State) (l : List LaneCause) : (s.raiseLanes l).regs = s.regs := by
  simp [State.raiseLanes]
@[simp] theorem State.raiseLanes_side (s : State) (l : List LaneCause) : (s.raiseLanes l).side = s.side := by
  simp [State.raiseLanes]
@[simp] theorem State.raiseLanes_pkg (s : State) (l : List LaneCause) : (s.raiseLanes l).pkg = s.pkg := by
  simp [State.raiseLanes]
@[simp] theorem State.raiseLanes_dist (s : State) (l : List LaneCause) : (s.raiseLanes l).dist = s.dist := by
  simp [State.raiseLanes]
@[simp] theorem State.raiseLanes_saved (s : State) (l : List LaneCause) : (s.raiseLanes l).saved = s.saved := by
  simp [State.raiseLanes]
@[simp] theorem State.raiseLanes_restoring (s : State) (l : List LaneCause) :
    (s.raiseLanes l).restoring = s.restoring := by
  simp [State.raiseLanes]
@[simp] theorem State.raiseLanes_saving (s : State) (l : List LaneCause) : (s.raiseLanes l).saving = s.saving := by
  simp [State.raiseLanes]
@[simp] theorem State.raiseLanes_acts (s : State) (l : List LaneCause) : (s.raiseLanes l).acts = s.acts := by
  simp [State.raiseLanes]
@[simp] theorem State.raiseLanes_free (s : State) (l : List LaneCause) : (s.raiseLanes l).free = s.free := by
  simp [State.raiseLanes]
@[simp] theorem State.raiseLanes_uid (s : State) (l : List LaneCause) : (s.raiseLanes l).uid = s.uid := by
  simp [State.raiseLanes]

/-! ### illegal -/

@[simp] theorem State.illegal_others (s : State) (w : Word) : (s.illegal w).others = s.others := by
  simp [State.illegal]
@[simp] theorem State.illegal_blocks (s : State) (w : Word) : (s.illegal w).blocks = s.blocks := by
  simp [State.illegal]
@[simp] theorem State.illegal_grids (s : State) (w : Word) : (s.illegal w).grids = s.grids := by
  simp [State.illegal]
@[simp] theorem State.illegal_quads (s : State) (w : Word) : (s.illegal w).quads = s.quads := by
  simp [State.illegal]
@[simp] theorem State.illegal_cores (s : State) (w : Word) : (s.illegal w).cores = s.cores := by
  simp [State.illegal]
@[simp] theorem State.illegal_mem (s : State) (w : Word) : (s.illegal w).mem = s.mem := by
  simp [State.illegal]
@[simp] theorem State.illegal_poison (s : State) (w : Word) : (s.illegal w).poison = s.poison := by
  simp [State.illegal]
@[simp] theorem State.illegal_caches (s : State) (w : Word) : (s.illegal w).caches = s.caches := by
  simp [State.illegal]
@[simp] theorem State.illegal_seals (s : State) (w : Word) : (s.illegal w).seals = s.seals := by
  simp [State.illegal]
@[simp] theorem State.illegal_eops (s : State) (w : Word) : (s.illegal w).eops = s.eops := by
  simp [State.illegal]
@[simp] theorem State.illegal_link (s : State) (w : Word) : (s.illegal w).link = s.link := by
  simp [State.illegal]
@[simp] theorem State.illegal_regs (s : State) (w : Word) : (s.illegal w).regs = s.regs := by
  simp [State.illegal]
@[simp] theorem State.illegal_side (s : State) (w : Word) : (s.illegal w).side = s.side := by
  simp [State.illegal]
@[simp] theorem State.illegal_pkg (s : State) (w : Word) : (s.illegal w).pkg = s.pkg := by
  simp [State.illegal]
@[simp] theorem State.illegal_dist (s : State) (w : Word) : (s.illegal w).dist = s.dist := by
  simp [State.illegal]
@[simp] theorem State.illegal_saved (s : State) (w : Word) : (s.illegal w).saved = s.saved := by
  simp [State.illegal]
@[simp] theorem State.illegal_restoring (s : State) (w : Word) : (s.illegal w).restoring = s.restoring := by
  simp [State.illegal]
@[simp] theorem State.illegal_saving (s : State) (w : Word) : (s.illegal w).saving = s.saving := by
  simp [State.illegal]
@[simp] theorem State.illegal_acts (s : State) (w : Word) : (s.illegal w).acts = s.acts := by
  simp [State.illegal]
@[simp] theorem State.illegal_free (s : State) (w : Word) : (s.illegal w).free = s.free := by
  simp [State.illegal]
@[simp] theorem State.illegal_uid (s : State) (w : Word) : (s.illegal w).uid = s.uid := by
  simp [State.illegal]

/-! ### unsupported -/

@[simp] theorem State.unsupported_others (s : State) (w : Word) (b : Nat) : (s.unsupported w b).others = s.others := by
  simp [State.unsupported]
@[simp] theorem State.unsupported_blocks (s : State) (w : Word) (b : Nat) : (s.unsupported w b).blocks = s.blocks := by
  simp [State.unsupported]
@[simp] theorem State.unsupported_grids (s : State) (w : Word) (b : Nat) : (s.unsupported w b).grids = s.grids := by
  simp [State.unsupported]
@[simp] theorem State.unsupported_quads (s : State) (w : Word) (b : Nat) : (s.unsupported w b).quads = s.quads := by
  simp [State.unsupported]
@[simp] theorem State.unsupported_cores (s : State) (w : Word) (b : Nat) : (s.unsupported w b).cores = s.cores := by
  simp [State.unsupported]
@[simp] theorem State.unsupported_mem (s : State) (w : Word) (b : Nat) : (s.unsupported w b).mem = s.mem := by
  simp [State.unsupported]
@[simp] theorem State.unsupported_poison (s : State) (w : Word) (b : Nat) : (s.unsupported w b).poison = s.poison := by
  simp [State.unsupported]
@[simp] theorem State.unsupported_caches (s : State) (w : Word) (b : Nat) : (s.unsupported w b).caches = s.caches := by
  simp [State.unsupported]
@[simp] theorem State.unsupported_seals (s : State) (w : Word) (b : Nat) : (s.unsupported w b).seals = s.seals := by
  simp [State.unsupported]
@[simp] theorem State.unsupported_eops (s : State) (w : Word) (b : Nat) : (s.unsupported w b).eops = s.eops := by
  simp [State.unsupported]
@[simp] theorem State.unsupported_link (s : State) (w : Word) (b : Nat) : (s.unsupported w b).link = s.link := by
  simp [State.unsupported]
@[simp] theorem State.unsupported_regs (s : State) (w : Word) (b : Nat) : (s.unsupported w b).regs = s.regs := by
  simp [State.unsupported]
@[simp] theorem State.unsupported_side (s : State) (w : Word) (b : Nat) : (s.unsupported w b).side = s.side := by
  simp [State.unsupported]
@[simp] theorem State.unsupported_pkg (s : State) (w : Word) (b : Nat) : (s.unsupported w b).pkg = s.pkg := by
  simp [State.unsupported]
@[simp] theorem State.unsupported_dist (s : State) (w : Word) (b : Nat) : (s.unsupported w b).dist = s.dist := by
  simp [State.unsupported]
@[simp] theorem State.unsupported_saved (s : State) (w : Word) (b : Nat) : (s.unsupported w b).saved = s.saved := by
  simp [State.unsupported]
@[simp] theorem State.unsupported_restoring (s : State) (w : Word) (b : Nat) :
    (s.unsupported w b).restoring = s.restoring := by
  simp [State.unsupported]
@[simp] theorem State.unsupported_saving (s : State) (w : Word) (b : Nat) : (s.unsupported w b).saving = s.saving := by
  simp [State.unsupported]
@[simp] theorem State.unsupported_acts (s : State) (w : Word) (b : Nat) : (s.unsupported w b).acts = s.acts := by
  simp [State.unsupported]
@[simp] theorem State.unsupported_free (s : State) (w : Word) (b : Nat) : (s.unsupported w b).free = s.free := by
  simp [State.unsupported]
@[simp] theorem State.unsupported_uid (s : State) (w : Word) (b : Nat) : (s.unsupported w b).uid = s.uid := by
  simp [State.unsupported]

/-! ### illegalMode -/

@[simp] theorem State.illegalMode_others (s : State) (w m : Word) : (s.illegalMode w m).others = s.others := by
  simp [State.illegalMode]
@[simp] theorem State.illegalMode_blocks (s : State) (w m : Word) : (s.illegalMode w m).blocks = s.blocks := by
  simp [State.illegalMode]
@[simp] theorem State.illegalMode_grids (s : State) (w m : Word) : (s.illegalMode w m).grids = s.grids := by
  simp [State.illegalMode]
@[simp] theorem State.illegalMode_quads (s : State) (w m : Word) : (s.illegalMode w m).quads = s.quads := by
  simp [State.illegalMode]
@[simp] theorem State.illegalMode_cores (s : State) (w m : Word) : (s.illegalMode w m).cores = s.cores := by
  simp [State.illegalMode]
@[simp] theorem State.illegalMode_mem (s : State) (w m : Word) : (s.illegalMode w m).mem = s.mem := by
  simp [State.illegalMode]
@[simp] theorem State.illegalMode_poison (s : State) (w m : Word) : (s.illegalMode w m).poison = s.poison := by
  simp [State.illegalMode]
@[simp] theorem State.illegalMode_caches (s : State) (w m : Word) : (s.illegalMode w m).caches = s.caches := by
  simp [State.illegalMode]
@[simp] theorem State.illegalMode_seals (s : State) (w m : Word) : (s.illegalMode w m).seals = s.seals := by
  simp [State.illegalMode]
@[simp] theorem State.illegalMode_eops (s : State) (w m : Word) : (s.illegalMode w m).eops = s.eops := by
  simp [State.illegalMode]
@[simp] theorem State.illegalMode_link (s : State) (w m : Word) : (s.illegalMode w m).link = s.link := by
  simp [State.illegalMode]
@[simp] theorem State.illegalMode_regs (s : State) (w m : Word) : (s.illegalMode w m).regs = s.regs := by
  simp [State.illegalMode]
@[simp] theorem State.illegalMode_side (s : State) (w m : Word) : (s.illegalMode w m).side = s.side := by
  simp [State.illegalMode]
@[simp] theorem State.illegalMode_pkg (s : State) (w m : Word) : (s.illegalMode w m).pkg = s.pkg := by
  simp [State.illegalMode]
@[simp] theorem State.illegalMode_dist (s : State) (w m : Word) : (s.illegalMode w m).dist = s.dist := by
  simp [State.illegalMode]
@[simp] theorem State.illegalMode_saved (s : State) (w m : Word) : (s.illegalMode w m).saved = s.saved := by
  simp [State.illegalMode]
@[simp] theorem State.illegalMode_restoring (s : State) (w m : Word) : (s.illegalMode w m).restoring = s.restoring := by
  simp [State.illegalMode]
@[simp] theorem State.illegalMode_saving (s : State) (w m : Word) : (s.illegalMode w m).saving = s.saving := by
  simp [State.illegalMode]
@[simp] theorem State.illegalMode_acts (s : State) (w m : Word) : (s.illegalMode w m).acts = s.acts := by
  simp [State.illegalMode]
@[simp] theorem State.illegalMode_free (s : State) (w m : Word) : (s.illegalMode w m).free = s.free := by
  simp [State.illegalMode]
@[simp] theorem State.illegalMode_uid (s : State) (w m : Word) : (s.illegalMode w m).uid = s.uid := by
  simp [State.illegalMode]

/-! ### chkRaise -/

@[simp] theorem State.chkRaise_others (s : State) (i : Instr) (c : Chk) : (s.chkRaise i c).others = s.others := by
  cases c <;> simp [State.chkRaise]
@[simp] theorem State.chkRaise_blocks (s : State) (i : Instr) (c : Chk) : (s.chkRaise i c).blocks = s.blocks := by
  cases c <;> simp [State.chkRaise]
@[simp] theorem State.chkRaise_grids (s : State) (i : Instr) (c : Chk) : (s.chkRaise i c).grids = s.grids := by
  cases c <;> simp [State.chkRaise]
@[simp] theorem State.chkRaise_quads (s : State) (i : Instr) (c : Chk) : (s.chkRaise i c).quads = s.quads := by
  cases c <;> simp [State.chkRaise]
@[simp] theorem State.chkRaise_cores (s : State) (i : Instr) (c : Chk) : (s.chkRaise i c).cores = s.cores := by
  cases c <;> simp [State.chkRaise]
@[simp] theorem State.chkRaise_mem (s : State) (i : Instr) (c : Chk) : (s.chkRaise i c).mem = s.mem := by
  cases c <;> simp [State.chkRaise]
@[simp] theorem State.chkRaise_poison (s : State) (i : Instr) (c : Chk) : (s.chkRaise i c).poison = s.poison := by
  cases c <;> simp [State.chkRaise]
@[simp] theorem State.chkRaise_caches (s : State) (i : Instr) (c : Chk) : (s.chkRaise i c).caches = s.caches := by
  cases c <;> simp [State.chkRaise]
@[simp] theorem State.chkRaise_seals (s : State) (i : Instr) (c : Chk) : (s.chkRaise i c).seals = s.seals := by
  cases c <;> simp [State.chkRaise]
@[simp] theorem State.chkRaise_eops (s : State) (i : Instr) (c : Chk) : (s.chkRaise i c).eops = s.eops := by
  cases c <;> simp [State.chkRaise]
@[simp] theorem State.chkRaise_link (s : State) (i : Instr) (c : Chk) : (s.chkRaise i c).link = s.link := by
  cases c <;> simp [State.chkRaise]
@[simp] theorem State.chkRaise_regs (s : State) (i : Instr) (c : Chk) : (s.chkRaise i c).regs = s.regs := by
  cases c <;> simp [State.chkRaise]
@[simp] theorem State.chkRaise_side (s : State) (i : Instr) (c : Chk) : (s.chkRaise i c).side = s.side := by
  cases c <;> simp [State.chkRaise]
@[simp] theorem State.chkRaise_pkg (s : State) (i : Instr) (c : Chk) : (s.chkRaise i c).pkg = s.pkg := by
  cases c <;> simp [State.chkRaise]
@[simp] theorem State.chkRaise_dist (s : State) (i : Instr) (c : Chk) : (s.chkRaise i c).dist = s.dist := by
  cases c <;> simp [State.chkRaise]
@[simp] theorem State.chkRaise_saved (s : State) (i : Instr) (c : Chk) : (s.chkRaise i c).saved = s.saved := by
  cases c <;> simp [State.chkRaise]
@[simp] theorem State.chkRaise_restoring (s : State) (i : Instr) (c : Chk) :
    (s.chkRaise i c).restoring = s.restoring := by
  cases c <;> simp [State.chkRaise]
@[simp] theorem State.chkRaise_saving (s : State) (i : Instr) (c : Chk) : (s.chkRaise i c).saving = s.saving := by
  cases c <;> simp [State.chkRaise]
@[simp] theorem State.chkRaise_acts (s : State) (i : Instr) (c : Chk) : (s.chkRaise i c).acts = s.acts := by
  cases c <;> simp [State.chkRaise]
@[simp] theorem State.chkRaise_free (s : State) (i : Instr) (c : Chk) : (s.chkRaise i c).free = s.free := by
  cases c <;> simp [State.chkRaise]
@[simp] theorem State.chkRaise_uid (s : State) (i : Instr) (c : Chk) : (s.chkRaise i c).uid = s.uid := by
  cases c <;> simp [State.chkRaise]

/-! ### The team after jump -/

@[simp] theorem State.jump_t_tid (s : State) (a : DWord) : (s.jump a).t.tid = s.t.tid := rfl
@[simp] theorem State.jump_t_ctx (s : State) (a : DWord) : (s.jump a).t.ctx = s.t.ctx := rfl
@[simp] theorem State.jump_t_gid (s : State) (a : DWord) : (s.jump a).t.gid = s.t.gid := rfl
@[simp] theorem State.jump_t_bid (s : State) (a : DWord) : (s.jump a).t.bid = s.t.bid := rfl
@[simp] theorem State.jump_t_idx (s : State) (a : DWord) : (s.jump a).t.idx = s.t.idx := rfl
@[simp] theorem State.jump_t_core (s : State) (a : DWord) : (s.jump a).t.core = s.t.core := rfl
@[simp] theorem State.jump_t_place (s : State) (a : DWord) : (s.jump a).t.place = s.t.place := rfl
@[simp] theorem State.jump_t_slot (s : State) (a : DWord) : (s.jump a).t.slot = s.t.slot := rfl
@[simp] theorem State.jump_t_lanes (s : State) (a : DWord) : (s.jump a).t.lanes = s.t.lanes := rfl
@[simp] theorem State.jump_t_vregs (s : State) (a : DWord) : (s.jump a).t.vregs = s.t.vregs := rfl
@[simp] theorem State.jump_t_landing (s : State) (a : DWord) : (s.jump a).t.landing = s.t.landing := rfl
@[simp] theorem State.jump_t_s (s : State) (a : DWord) : (s.jump a).t.s = s.t.s := rfl
@[simp] theorem State.jump_t_v (s : State) (a : DWord) : (s.jump a).t.v = s.t.v := rfl
@[simp] theorem State.jump_t_p (s : State) (a : DWord) : (s.jump a).t.p = s.t.p := rfl
@[simp] theorem State.jump_t_m (s : State) (a : DWord) : (s.jump a).t.m = s.t.m := rfl
@[simp] theorem State.jump_t_mode (s : State) (a : DWord) : (s.jump a).t.mode = s.t.mode := rfl
@[simp] theorem State.jump_t_mask (s : State) (a : DWord) : (s.jump a).t.mask = s.t.mask := rfl
@[simp] theorem State.jump_t_stack (s : State) (a : DWord) : (s.jump a).t.stack = s.t.stack := rfl
@[simp] theorem State.jump_t_infl (s : State) (a : DWord) : (s.jump a).t.infl = s.t.infl := rfl
@[simp] theorem State.jump_t_recent (s : State) (a : DWord) : (s.jump a).t.recent = s.t.recent := rfl
@[simp] theorem State.jump_t_clno (s : State) (a : DWord) : (s.jump a).t.clno = s.t.clno := rfl
@[simp] theorem State.jump_t_clmax (s : State) (a : DWord) : (s.jump a).t.clmax = s.t.clmax := rfl
@[simp] theorem State.jump_t_tclno (s : State) (a : DWord) : (s.jump a).t.tclno = s.t.tclno := rfl
@[simp] theorem State.jump_t_readyAt (s : State) (a : DWord) : (s.jump a).t.readyAt = s.t.readyAt := rfl
@[simp] theorem State.jump_t_busy (s : State) (a : DWord) : (s.jump a).t.busy = s.t.busy := rfl
@[simp] theorem State.jump_t_lag (s : State) (a : DWord) : (s.jump a).t.lag = s.t.lag := rfl
@[simp] theorem State.jump_t_rdy (s : State) (a : DWord) : (s.jump a).t.rdy = s.t.rdy := rfl
@[simp] theorem State.jump_t_since (s : State) (a : DWord) : (s.jump a).t.since = s.t.since := rfl
@[simp] theorem State.jump_t_taint (s : State) (a : DWord) : (s.jump a).t.taint = s.t.taint := rfl
@[simp] theorem State.jump_t_codeAt (s : State) (a : DWord) : (s.jump a).t.codeAt = s.t.codeAt := rfl
@[simp] theorem State.jump_t_log (s : State) (a : DWord) : (s.jump a).t.log = s.t.log := rfl
@[simp] theorem State.jump_t_ph (s : State) (a : DWord) : (s.jump a).t.ph = s.t.ph := rfl
@[simp] theorem State.jump_t_phmargin (s : State) (a : DWord) : (s.jump a).t.phmargin = s.t.phmargin := rfl
@[simp] theorem State.jump_t_srng (s : State) (a : DWord) : (s.jump a).t.srng = s.t.srng := rfl
@[simp] theorem State.jump_t_depth (s : State) (a : DWord) : (s.jump a).t.depth = s.t.depth := rfl
@[simp] theorem State.jump_t_bthr (s : State) (a : DWord) : (s.jump a).t.bthr = s.t.bthr := rfl
@[simp] theorem State.jump_t_crew (s : State) (a : DWord) : (s.jump a).t.crew = s.t.crew := rfl
@[simp] theorem State.jump_t_tvec (s : State) (a : DWord) : (s.jump a).t.tvec = s.t.tvec := rfl
@[simp] theorem State.jump_t_tcause (s : State) (a : DWord) : (s.jump a).t.tcause = s.t.tcause := rfl
@[simp] theorem State.jump_t_tlane (s : State) (a : DWord) : (s.jump a).t.tlane = s.t.tlane := rfl
@[simp] theorem State.jump_t_tsecond (s : State) (a : DWord) : (s.jump a).t.tsecond = s.t.tsecond := rfl
@[simp] theorem State.jump_t_tepc (s : State) (a : DWord) : (s.jump a).t.tepc = s.t.tepc := rfl
@[simp] theorem State.jump_t_frec (s : State) (a : DWord) : (s.jump a).t.frec = s.t.frec := rfl
@[simp] theorem State.jump_t_tmode (s : State) (a : DWord) : (s.jump a).t.tmode = s.t.tmode := rfl
@[simp] theorem State.jump_t_tclause (s : State) (a : DWord) : (s.jump a).t.tclause = s.t.tclause := rfl
@[simp] theorem State.jump_t_pendB (s : State) (a : DWord) : (s.jump a).t.pendB = s.t.pendB := rfl
@[simp] theorem State.jump_t_dec (s : State) (a : DWord) : (s.jump a).t.dec = s.t.dec := rfl
@[simp] theorem State.jump_t_eseq (s : State) (a : DWord) : (s.jump a).t.eseq = s.t.eseq := rfl
@[simp] theorem State.jump_t_evq (s : State) (a : DWord) : (s.jump a).t.evq = s.t.evq := rfl
@[simp] theorem State.jump_t_quota (s : State) (a : DWord) : (s.jump a).t.quota = s.t.quota := rfl
@[simp] theorem State.jump_t_kids (s : State) (a : DWord) : (s.jump a).t.kids = s.t.kids := rfl
@[simp] theorem State.jump_t_stat (s : State) (a : DWord) : (s.jump a).t.stat = s.t.stat := rfl
@[simp] theorem State.jump_t_life (s : State) (a : DWord) : (s.jump a).t.life = s.t.life := rfl

/-! ### The team after fall -/

@[simp] theorem State.fall_t_tid (s : State) : (s.fall).t.tid = s.t.tid := rfl
@[simp] theorem State.fall_t_ctx (s : State) : (s.fall).t.ctx = s.t.ctx := rfl
@[simp] theorem State.fall_t_gid (s : State) : (s.fall).t.gid = s.t.gid := rfl
@[simp] theorem State.fall_t_bid (s : State) : (s.fall).t.bid = s.t.bid := rfl
@[simp] theorem State.fall_t_idx (s : State) : (s.fall).t.idx = s.t.idx := rfl
@[simp] theorem State.fall_t_core (s : State) : (s.fall).t.core = s.t.core := rfl
@[simp] theorem State.fall_t_place (s : State) : (s.fall).t.place = s.t.place := rfl
@[simp] theorem State.fall_t_slot (s : State) : (s.fall).t.slot = s.t.slot := rfl
@[simp] theorem State.fall_t_lanes (s : State) : (s.fall).t.lanes = s.t.lanes := rfl
@[simp] theorem State.fall_t_vregs (s : State) : (s.fall).t.vregs = s.t.vregs := rfl
@[simp] theorem State.fall_t_landing (s : State) : (s.fall).t.landing = s.t.landing := rfl
@[simp] theorem State.fall_t_s (s : State) : (s.fall).t.s = s.t.s := rfl
@[simp] theorem State.fall_t_v (s : State) : (s.fall).t.v = s.t.v := rfl
@[simp] theorem State.fall_t_p (s : State) : (s.fall).t.p = s.t.p := rfl
@[simp] theorem State.fall_t_m (s : State) : (s.fall).t.m = s.t.m := rfl
@[simp] theorem State.fall_t_mode (s : State) : (s.fall).t.mode = s.t.mode := rfl
@[simp] theorem State.fall_t_mask (s : State) : (s.fall).t.mask = s.t.mask := rfl
@[simp] theorem State.fall_t_stack (s : State) : (s.fall).t.stack = s.t.stack := rfl
@[simp] theorem State.fall_t_infl (s : State) : (s.fall).t.infl = s.t.infl := rfl
@[simp] theorem State.fall_t_recent (s : State) : (s.fall).t.recent = s.t.recent := rfl
@[simp] theorem State.fall_t_clno (s : State) : (s.fall).t.clno = s.t.clno := rfl
@[simp] theorem State.fall_t_clmax (s : State) : (s.fall).t.clmax = s.t.clmax := rfl
@[simp] theorem State.fall_t_tclno (s : State) : (s.fall).t.tclno = s.t.tclno := rfl
@[simp] theorem State.fall_t_readyAt (s : State) : (s.fall).t.readyAt = s.t.readyAt := rfl
@[simp] theorem State.fall_t_busy (s : State) : (s.fall).t.busy = s.t.busy := rfl
@[simp] theorem State.fall_t_lag (s : State) : (s.fall).t.lag = s.t.lag := rfl
@[simp] theorem State.fall_t_rdy (s : State) : (s.fall).t.rdy = s.t.rdy := rfl
@[simp] theorem State.fall_t_since (s : State) : (s.fall).t.since = s.t.since := rfl
@[simp] theorem State.fall_t_taint (s : State) : (s.fall).t.taint = s.t.taint := rfl
@[simp] theorem State.fall_t_codeAt (s : State) : (s.fall).t.codeAt = s.t.codeAt := rfl
@[simp] theorem State.fall_t_log (s : State) : (s.fall).t.log = s.t.log := rfl
@[simp] theorem State.fall_t_ph (s : State) : (s.fall).t.ph = s.t.ph := rfl
@[simp] theorem State.fall_t_phmargin (s : State) : (s.fall).t.phmargin = s.t.phmargin := rfl
@[simp] theorem State.fall_t_srng (s : State) : (s.fall).t.srng = s.t.srng := rfl
@[simp] theorem State.fall_t_depth (s : State) : (s.fall).t.depth = s.t.depth := rfl
@[simp] theorem State.fall_t_bthr (s : State) : (s.fall).t.bthr = s.t.bthr := rfl
@[simp] theorem State.fall_t_crew (s : State) : (s.fall).t.crew = s.t.crew := rfl
@[simp] theorem State.fall_t_tvec (s : State) : (s.fall).t.tvec = s.t.tvec := rfl
@[simp] theorem State.fall_t_tcause (s : State) : (s.fall).t.tcause = s.t.tcause := rfl
@[simp] theorem State.fall_t_tlane (s : State) : (s.fall).t.tlane = s.t.tlane := rfl
@[simp] theorem State.fall_t_tsecond (s : State) : (s.fall).t.tsecond = s.t.tsecond := rfl
@[simp] theorem State.fall_t_tepc (s : State) : (s.fall).t.tepc = s.t.tepc := rfl
@[simp] theorem State.fall_t_frec (s : State) : (s.fall).t.frec = s.t.frec := rfl
@[simp] theorem State.fall_t_tmode (s : State) : (s.fall).t.tmode = s.t.tmode := rfl
@[simp] theorem State.fall_t_tclause (s : State) : (s.fall).t.tclause = s.t.tclause := rfl
@[simp] theorem State.fall_t_pendB (s : State) : (s.fall).t.pendB = s.t.pendB := rfl
@[simp] theorem State.fall_t_dec (s : State) : (s.fall).t.dec = s.t.dec := rfl
@[simp] theorem State.fall_t_eseq (s : State) : (s.fall).t.eseq = s.t.eseq := rfl
@[simp] theorem State.fall_t_evq (s : State) : (s.fall).t.evq = s.t.evq := rfl
@[simp] theorem State.fall_t_quota (s : State) : (s.fall).t.quota = s.t.quota := rfl
@[simp] theorem State.fall_t_kids (s : State) : (s.fall).t.kids = s.t.kids := rfl
@[simp] theorem State.fall_t_stat (s : State) : (s.fall).t.stat = s.t.stat := rfl
@[simp] theorem State.fall_t_life (s : State) : (s.fall).t.life = s.t.life := rfl

/-! ### The team after adv -/

@[simp] theorem State.adv_t_tid (s : State) (n : Nat) : (s.adv n).t.tid = s.t.tid := by
  unfold State.adv; dsimp only; split <;> rfl
@[simp] theorem State.adv_t_ctx (s : State) (n : Nat) : (s.adv n).t.ctx = s.t.ctx := by
  unfold State.adv; dsimp only; split <;> rfl
@[simp] theorem State.adv_t_gid (s : State) (n : Nat) : (s.adv n).t.gid = s.t.gid := by
  unfold State.adv; dsimp only; split <;> rfl
@[simp] theorem State.adv_t_bid (s : State) (n : Nat) : (s.adv n).t.bid = s.t.bid := by
  unfold State.adv; dsimp only; split <;> rfl
@[simp] theorem State.adv_t_idx (s : State) (n : Nat) : (s.adv n).t.idx = s.t.idx := by
  unfold State.adv; dsimp only; split <;> rfl
@[simp] theorem State.adv_t_core (s : State) (n : Nat) : (s.adv n).t.core = s.t.core := by
  unfold State.adv; dsimp only; split <;> rfl
@[simp] theorem State.adv_t_place (s : State) (n : Nat) : (s.adv n).t.place = s.t.place := by
  unfold State.adv; dsimp only; split <;> rfl
@[simp] theorem State.adv_t_slot (s : State) (n : Nat) : (s.adv n).t.slot = s.t.slot := by
  unfold State.adv; dsimp only; split <;> rfl
@[simp] theorem State.adv_t_lanes (s : State) (n : Nat) : (s.adv n).t.lanes = s.t.lanes := by
  unfold State.adv; dsimp only; split <;> rfl
@[simp] theorem State.adv_t_vregs (s : State) (n : Nat) : (s.adv n).t.vregs = s.t.vregs := by
  unfold State.adv; dsimp only; split <;> rfl
@[simp] theorem State.adv_t_landing (s : State) (n : Nat) : (s.adv n).t.landing = s.t.landing := by
  unfold State.adv; dsimp only; split <;> rfl
@[simp] theorem State.adv_t_s (s : State) (n : Nat) : (s.adv n).t.s = s.t.s := by
  unfold State.adv; dsimp only; split <;> rfl
@[simp] theorem State.adv_t_v (s : State) (n : Nat) : (s.adv n).t.v = s.t.v := by
  unfold State.adv; dsimp only; split <;> rfl
@[simp] theorem State.adv_t_p (s : State) (n : Nat) : (s.adv n).t.p = s.t.p := by
  unfold State.adv; dsimp only; split <;> rfl
@[simp] theorem State.adv_t_m (s : State) (n : Nat) : (s.adv n).t.m = s.t.m := by
  unfold State.adv; dsimp only; split <;> rfl
@[simp] theorem State.adv_t_mode (s : State) (n : Nat) : (s.adv n).t.mode = s.t.mode := by
  unfold State.adv; dsimp only; split <;> rfl
@[simp] theorem State.adv_t_mask (s : State) (n : Nat) : (s.adv n).t.mask = s.t.mask := by
  unfold State.adv; dsimp only; split <;> rfl
@[simp] theorem State.adv_t_stack (s : State) (n : Nat) : (s.adv n).t.stack = s.t.stack := by
  unfold State.adv; dsimp only; split <;> rfl
@[simp] theorem State.adv_t_infl (s : State) (n : Nat) : (s.adv n).t.infl = s.t.infl := by
  unfold State.adv; dsimp only; split <;> rfl
@[simp] theorem State.adv_t_recent (s : State) (n : Nat) : (s.adv n).t.recent = s.t.recent := by
  unfold State.adv; dsimp only; split <;> rfl
@[simp] theorem State.adv_t_clno (s : State) (n : Nat) : (s.adv n).t.clno = s.t.clno := by
  unfold State.adv; dsimp only; split <;> rfl
@[simp] theorem State.adv_t_clmax (s : State) (n : Nat) : (s.adv n).t.clmax = s.t.clmax := by
  unfold State.adv; dsimp only; split <;> rfl
@[simp] theorem State.adv_t_tclno (s : State) (n : Nat) : (s.adv n).t.tclno = s.t.tclno := by
  unfold State.adv; dsimp only; split <;> rfl
@[simp] theorem State.adv_t_readyAt (s : State) (n : Nat) : (s.adv n).t.readyAt = s.t.readyAt := by
  unfold State.adv; dsimp only; split <;> rfl
@[simp] theorem State.adv_t_busy (s : State) (n : Nat) : (s.adv n).t.busy = s.t.busy := by
  unfold State.adv; dsimp only; split <;> rfl
@[simp] theorem State.adv_t_lag (s : State) (n : Nat) : (s.adv n).t.lag = s.t.lag := by
  unfold State.adv; dsimp only; split <;> rfl
@[simp] theorem State.adv_t_rdy (s : State) (n : Nat) : (s.adv n).t.rdy = s.t.rdy := by
  unfold State.adv; dsimp only; split <;> rfl
@[simp] theorem State.adv_t_since (s : State) (n : Nat) : (s.adv n).t.since = s.t.since := by
  unfold State.adv; dsimp only; split <;> rfl
@[simp] theorem State.adv_t_taint (s : State) (n : Nat) : (s.adv n).t.taint = s.t.taint := by
  unfold State.adv; dsimp only; split <;> rfl
@[simp] theorem State.adv_t_codeAt (s : State) (n : Nat) : (s.adv n).t.codeAt = s.t.codeAt := by
  unfold State.adv; dsimp only; split <;> rfl
@[simp] theorem State.adv_t_log (s : State) (n : Nat) : (s.adv n).t.log = s.t.log := by
  unfold State.adv; dsimp only; split <;> rfl
@[simp] theorem State.adv_t_ph (s : State) (n : Nat) : (s.adv n).t.ph = s.t.ph := by
  unfold State.adv; dsimp only; split <;> rfl
@[simp] theorem State.adv_t_phmargin (s : State) (n : Nat) : (s.adv n).t.phmargin = s.t.phmargin := by
  unfold State.adv; dsimp only; split <;> rfl
@[simp] theorem State.adv_t_srng (s : State) (n : Nat) : (s.adv n).t.srng = s.t.srng := by
  unfold State.adv; dsimp only; split <;> rfl
@[simp] theorem State.adv_t_depth (s : State) (n : Nat) : (s.adv n).t.depth = s.t.depth := by
  unfold State.adv; dsimp only; split <;> rfl
@[simp] theorem State.adv_t_bthr (s : State) (n : Nat) : (s.adv n).t.bthr = s.t.bthr := by
  unfold State.adv; dsimp only; split <;> rfl
@[simp] theorem State.adv_t_crew (s : State) (n : Nat) : (s.adv n).t.crew = s.t.crew := by
  unfold State.adv; dsimp only; split <;> rfl
@[simp] theorem State.adv_t_tvec (s : State) (n : Nat) : (s.adv n).t.tvec = s.t.tvec := by
  unfold State.adv; dsimp only; split <;> rfl
@[simp] theorem State.adv_t_tcause (s : State) (n : Nat) : (s.adv n).t.tcause = s.t.tcause := by
  unfold State.adv; dsimp only; split <;> rfl
@[simp] theorem State.adv_t_tlane (s : State) (n : Nat) : (s.adv n).t.tlane = s.t.tlane := by
  unfold State.adv; dsimp only; split <;> rfl
@[simp] theorem State.adv_t_tsecond (s : State) (n : Nat) : (s.adv n).t.tsecond = s.t.tsecond := by
  unfold State.adv; dsimp only; split <;> rfl
@[simp] theorem State.adv_t_tepc (s : State) (n : Nat) : (s.adv n).t.tepc = s.t.tepc := by
  unfold State.adv; dsimp only; split <;> rfl
@[simp] theorem State.adv_t_frec (s : State) (n : Nat) : (s.adv n).t.frec = s.t.frec := by
  unfold State.adv; dsimp only; split <;> rfl
@[simp] theorem State.adv_t_tmode (s : State) (n : Nat) : (s.adv n).t.tmode = s.t.tmode := by
  unfold State.adv; dsimp only; split <;> rfl
@[simp] theorem State.adv_t_tclause (s : State) (n : Nat) : (s.adv n).t.tclause = s.t.tclause := by
  unfold State.adv; dsimp only; split <;> rfl
@[simp] theorem State.adv_t_pendB (s : State) (n : Nat) : (s.adv n).t.pendB = s.t.pendB := by
  unfold State.adv; dsimp only; split <;> rfl
@[simp] theorem State.adv_t_dec (s : State) (n : Nat) : (s.adv n).t.dec = s.t.dec := by
  unfold State.adv; dsimp only; split <;> rfl
@[simp] theorem State.adv_t_eseq (s : State) (n : Nat) : (s.adv n).t.eseq = s.t.eseq := by
  unfold State.adv; dsimp only; split <;> rfl
@[simp] theorem State.adv_t_evq (s : State) (n : Nat) : (s.adv n).t.evq = s.t.evq := by
  unfold State.adv; dsimp only; split <;> rfl
@[simp] theorem State.adv_t_quota (s : State) (n : Nat) : (s.adv n).t.quota = s.t.quota := by
  unfold State.adv; dsimp only; split <;> rfl
@[simp] theorem State.adv_t_kids (s : State) (n : Nat) : (s.adv n).t.kids = s.t.kids := by
  unfold State.adv; dsimp only; split <;> rfl
@[simp] theorem State.adv_t_stat (s : State) (n : Nat) : (s.adv n).t.stat = s.t.stat := by
  unfold State.adv; dsimp only; split <;> rfl
@[simp] theorem State.adv_t_life (s : State) (n : Nat) : (s.adv n).t.life = s.t.life := by
  unfold State.adv; dsimp only; split <;> rfl

@[simp] theorem State.jump_t_pc (s : State) (a : DWord) : (s.jump a).t.pc = a := rfl
@[simp] theorem State.jump_t_cl_idx (s : State) (a : DWord) : (s.jump a).t.cl.idx = 0 := rfl
@[simp] theorem State.fall_t_pc (s : State) : s.fall.t.pc = s.t.nextHdr := rfl
@[simp] theorem State.fall_t_cl_idx (s : State) : s.fall.t.cl.idx = 0 := rfl
@[simp] theorem State.adv_t_pc (s : State) (n : Nat) : (s.adv n).t.pc = s.t.pc + BitVec.ofNat 64 (4 * n) := by
  unfold State.adv; dsimp only; split <;> rfl
@[simp] theorem State.adv_t_ord (s : State) (n : Nat) : (s.adv n).t.ord = s.t.ord + 1 := by
  unfold State.adv; dsimp only; split <;> rfl
@[simp] theorem State.adv_t_cl_idx (s : State) (n : Nat) :
    (s.adv n).t.cl.idx = if hLEN s.t.cl.hdr < s.t.cl.idx + n then 0 else s.t.cl.idx + n := by
  unfold State.adv; dsimp only; split <;> rfl
@[simp] theorem State.adv_t_wait (s : State) (n : Nat) : (s.adv n).t.wait = .none := by
  unfold State.adv; dsimp only; split <;> rfl

end Sys2Proof.Machine
end

