-- ==== Sys2Proof/Laws/Ops.lean ====
section
/-! SUPPORT. What the shared operations do, once each: registers and masks without hazards, issue, going on, taking a trap
and returning from one. -/

namespace Sys2Proof.Machine

/-! ### Registers of a team without hazards (R170) -/

theorem State.Clear.hazardsAt {s : State} (h : s.Clear) (k : Nat) : s.t.hazardsAt k = [] := by
  simp [Team.hazardsAt, h.infl, h.recent]

theorem State.Clear.hazards {s : State} (h : s.Clear) : s.t.hazards = [] := h.hazardsAt 0

theorem State.Clear.hazardsOf {s : State} (h : s.Clear) (g : Nat) : s.t.hazardsOf g = [] := h.hazardsAt _

@[simp] theorem State.pick_nil {α : Type} (s : State) (k : Nat) (x : α) : s.pick k x [] = x := rfl

/-- A read gives the current value, or one that an earlier write may still be about to replace. -/
theorem State.pick_mem {α : Type} (s : State) (k : Nat) (x : α) (l : List α) : s.pick k x l = x ∨ s.pick k x l ∈ l := by
  cases l with
  | nil => exact .inl rfl
  | cons y r =>
    have : s.pick k x (y :: r) ∈ x :: y :: r := by
      unfold State.pick
      dsimp only
      rw [List.getD_eq_getElem?_getD]
      have hlt : s.freeNat k % ((y :: r).length + 1) < (x :: y :: r).length := Nat.mod_lt _ (by simp)
      rw [List.getElem?_eq_getElem hlt]
      exact List.getElem_mem hlt
    simpa using this

theorem State.Clear.rs {s : State} (h : s.Clear) (n : Nat) : s.rs n = s.sReg n := by
  simp [State.rs, h.hazards, oldS, State.sReg]

theorem State.Clear.rv {s : State} (h : s.Clear) (n l : Nat) : s.rv n l = s.vReg n l := by
  simp [State.rv, h.hazardsOf, oldV, State.vReg]

theorem State.Clear.rp {s : State} (h : s.Clear) (n : Nat) : s.rp n = s.pReg n := by
  simp [State.rp, h.hazards, State.pReg]

theorem State.Clear.rm {s : State} (h : s.Clear) (n g : Nat) : s.rm n g = s.mReg n := by
  simp [State.rm, h.hazardsOf, oldM, State.mReg]

theorem State.Clear.rc {s : State} (h : s.Clear) (et n l : Nat) : s.rc et n l = s.cont et n l := by
  simp [State.rc, State.cont, State.rv64, h.rv]

/-- p0 is never written (R162); another predicate takes the lanes of act from x. -/
@[simp] theorem State.wp_zero (s : State) (act x : Lanes) : s.wp 0 act x = s := rfl

theorem State.wp_pos (s : State) {n : Nat} (hn : n ≠ 0) (act x : Lanes) :
    s.wp n act x =
      { s with t := { s.t with p := sput 0 n ((sget 0 n s.t.p &&& ~~~act) ||| (x &&& act)) s.t.p } } := by
  simp [State.wp, hn]

/-- Whether a CMPCT is half done is read off the team's wait. -/
theorem Team.appending_eq (t : Team) :
    t.appending = (match t.wait with | .cmpct n _ => !(n == 0) | _ => false) := by
  unfold Team.appending Team.appended
  cases t.wait with
  | cmpct n i => by_cases h : n = 0 <;> simp [h]
  | _ => rfl

/-- A team that writes its own registers, mask or MODE, or moves on, stays clear. -/
theorem State.Clear.of_parts {s u : State} (h : s.Clear) (hd : u.t.dec = s.t.dec) (hc : u.t.ctx = s.t.ctx)
    (hx : u.ctxs = s.ctxs) (hl : u.t.log = s.t.log) (hi : u.t.infl = s.t.infl) (hr : u.t.recent = s.t.recent)
    (hq : u.link = s.link) (hw : u.t.wait = s.t.wait) : u.Clear where
  dec := hd.trans h.dec
  ctx := by
    have := h.ctx
    simp only [State.ctxEnding, State.ctxOf, State.slotOf, State.slot, hx, hc] at this ⊢
    exact this
  log := hl.trans h.log
  infl := hi.trans h.infl
  recent := hr.trans h.recent
  reqs := by rw [hq]; exact h.reqs
  appends := by simpa only [Team.appending_eq, hw] using h.appends

/-! ### Masks (R19 to R21) -/

theorem sum_bits (f : Nat → Bool) (n : Nat) :
    (List.range n).foldl (fun acc k => if f k then acc + 2 ^ k else acc) 0 < 2 ^ n ∧
    ∀ l, ((List.range n).foldl (fun acc k => if f k then acc + 2 ^ k else acc) 0).testBit l =
      (Decidable.decide (l < n) && f l) := by
  induction n with
  | zero => simp
  | succ n ih =>
    rw [List.range_succ, List.foldl_append]
    simp only [List.foldl_cons, List.foldl_nil]
    generalize (List.range n).foldl (fun acc k => if f k then acc + 2 ^ k else acc) 0 = a at ih ⊢
    obtain ⟨ha, hb⟩ := ih
    have hp : 2 ^ (n + 1) = 2 ^ n + 2 ^ n := by omega
    cases hf : f n with
    | false =>
      refine ⟨by simp; omega, fun l => ?_⟩
      by_cases hl : l = n
      · subst hl; simp [hf, hb]
      · have h1 : (l < n + 1) ↔ (l < n) := by omega
        simp [hb, h1]
    | true =>
      refine ⟨by simp; omega, fun l => ?_⟩
      simp only [if_true]
      rw [Nat.add_comm]
      by_cases hl : l = n
      · subst hl
        rw [Nat.testBit_two_pow_add_eq, hb]; simp [hf]
      · by_cases hlt : l < n
        · rw [Nat.testBit_two_pow_add_gt hlt, hb]
          have h2 : l < n + 1 := by omega
          simp [hlt, h2]
        · have h3 : 2 ^ n + a < 2 ^ l :=
            Nat.lt_of_lt_of_le (by omega) (Nat.pow_le_pow_right (by decide) (show n + 1 ≤ l by omega))
          have h2 : ¬l < n + 1 := by omega
          rw [Nat.testBit_lt_two_pow h3]; simp [h2]

/-- Lane l is in the set of the lanes below n that satisfy f exactly when it is one. -/
theorem getLsbD_laneSet (n : Nat) (f : Nat → Bool) (l : Nat) :
    (laneSet n f).getLsbD l = (Decidable.decide (l < 1024) && Decidable.decide (l < n) && f l) := by
  simp only [laneSet, BitVec.getLsbD_ofNat, (sum_bits f n).2 l, Bool.and_assoc]

theorem Team.getLsbD_present (t : Team) (l : Nat) :
    t.present.getLsbD l = (Decidable.decide (l < 1024) && Decidable.decide (l < t.lanes)) := by
  simp [Team.present, BitVec.getLsbD_ofNat, Nat.testBit_two_pow_sub_one]

/-- The active lanes are those of active(G). -/
theorem State.Clear.getLsbD_active {s : State} (h : s.Clear) {l : Nat} (hl : l < 1024) :
    s.active.getLsbD l = s.laneOn l := by
  simp only [State.active, State.guard, State.laneOn, h.rp, BitVec.getLsbD_and, Team.getLsbD_present]
  by_cases hg : mPGN s.t.mode
  · simp [hg, hl, Bool.and_comm]
  · simp [hg, hl, Bool.and_comm]

/-! ### Issue (R31, R38, R171, R181) -/

/-- A team that nothing holds back may issue whatever it has decoded. -/
theorem State.Clear.blocked {s : State} (h : s.Clear) (i : Instr) : s.blocked i = none := by
  have hs : s.stopped i = false := by simp [State.stopped, h.log]
  have ha : s.acquiring = false := by simp [State.acquiring, h.log, h.reqs, h.infl]
  have hx : s.interlocked i = false := by simp [State.interlocked, h.infl]
  have hd : s.destUnknown = false := by simp [State.destUnknown, h.log]
  simp only [State.blocked, h.dec, h.ctx, hs, ha, hx, hd, h.appends]
  cases s.t.nextFlag <;> simp [Team.flagCount, h.infl]

theorem State.Clear.awaitRecent {s : State} (h : s.Clear) (i : Instr) : s.awaitRecent i = s := by
  simp [State.awaitRecent, h.recent]

/-- The lane cycle until which the passes of an instruction hold the slot (R32). -/
def State.busyTo (s : State) (i : Instr) : Nat :=
  (s.awaitRecent i).t.cyc + 1 + (match i.raw with | some r => (s.awaitRecent i).extraCycles r | none => 0)

/-- What an issue leaves once its effect is there: when the lane cycles and the passes it takes are over, and, after a release, that no
store of the team may read its source late any more. -/
def Team.issued (t0 : Team) (i : Instr) (clk busy : Nat) (t : Team) : Team :=
  { t with
    readyAt := clk + (t.cyc - t0.cyc), busy := busy, since := clk
    infl := if isRelease i t0.cl.arr then t.infl.map fun f => { f with late := [] } else t.infl }

/-- The state after the effect of an instruction that has been recorded. -/
def State.issued (s : State) (i : Instr) (u : State) : State :=
  if u.t.ord = s.t.ord then u else u.modTeam s.t.tid (s.t.issued i s.pkg.clk.toNat (s.busyTo i))

/-- What an issue answers, for every team: it is held, a check traps it, or it runs. -/
theorem issue_cases (i : Instr) (s : State) (body : State → State) :
    (∃ w, s.blocked i = some w ∧ Machine.issue i s body = s.hold (if s.t.appending then s.t.wait else w)) ∨
    (s.blocked i = none ∧ ∃ c, s.checks i = some c ∧ Machine.issue i s body = s.chkRaise i c) ∨
    (s.blocked i = none ∧ s.checks i = none ∧
      Machine.issue i s body = s.issued i (record i (s.awaitRecent i) (body (s.awaitRecent i)))) := by
  unfold Machine.issue
  cases hb : s.blocked i with
  | some w => exact .inl ⟨w, rfl, rfl⟩
  | none =>
    refine .inr ?_
    cases hc : s.checks i with
    | some c => exact .inl ⟨rfl, c, rfl, rfl⟩
    | none => exact .inr ⟨rfl, rfl, rfl⟩

theorem State.Clear.issue {s : State} (h : s.Clear) {i : Instr} (hc : s.checks i = none) (body : State → State) :
    Machine.issue i s body = s.issued i (record i s (body s)) := by
  rcases issue_cases i s body with ⟨w, hw, -⟩ | ⟨-, c, hx, -⟩ | ⟨-, -, e⟩
  · simp [h.blocked] at hw
  · simp [hc] at hx
  · rw [e, h.awaitRecent]

/-- An effect that leaves the team where it is (it waits) leaves nothing to record. -/
theorem record_same (i : Instr) (s u : State) (h : u.t.ord = s.t.ord) : record i s u = u := by
  simp [record, h]

theorem State.issued_same (s : State) (i : Instr) (u : State) (h : u.t.ord = s.t.ord) : s.issued i u = u := by
  simp [State.issued, h]

/-- For a team that nothing overtakes, recording changes the counts of cycles and results, what the values were read from,
and what an outstanding instruction keeps: no register, and nothing else of the machine. -/
theorem State.Clear.record_eq {s : State} (h : s.Clear) (i : Instr) (u : State) :
    record i s u = { u with t := { u.t with
      infl := (record i s u).t.infl, cyc := (record i s u).t.cyc, recent := (record i s u).t.recent
      taint := (record i s u).t.taint } } := by
  have hz : ∀ n, s.t.overtaken n = [] := fun n => by simp [Team.overtaken, h.infl, h.recent]
  have hk : ∀ (lanes : Lanes) (t : Team) (w : RegRef), s.overtake [] lanes t w = t := fun lanes t w => by
    simp [State.overtake, State.standing]
  have hf : ∀ (lanes : Lanes) (l : List RegRef) (t : Team), l.foldl (s.overtake [] lanes) t = t := by
    intro lanes l
    induction l with
    | nil => exact fun _ => rfl
    | cons w r ih => exact fun t => by rw [List.foldl_cons, hk, ih]
  unfold record
  split
  · rfl
  · split
    · rfl
    · dsimp only
      rw [h.infl]
      simp only [hz, hf]
      rfl

theorem awaitRecent_eq (i : Instr) (s : State) :
    s.awaitRecent i = { s with t := { s.t with cyc := (s.awaitRecent i).t.cyc, lag := (s.awaitRecent i).t.lag } } := by
  unfold State.awaitRecent
  split <;> rfl

/-! ### Going on (R165, R166) -/

theorem past_adv (s : State) (n : Nat) : s.Past (s.adv n) n := ⟨by simp, by simp, by simp⟩

theorem onlyPlace_adv (s : State) (n : Nat) : s.OnlyPlace (s.adv n) := by
  unfold State.OnlyPlace Team.placeOf State.adv
  dsimp only
  split <;> rfl

theorem onlyPlace_jump (s : State) (a : DWord) : s.OnlyPlace (s.jump a) := rfl

theorem onlyPlace_fetchAfter (s : State) (k : Nat) : s.OnlyPlace (s.fetchAfter k) := rfl

theorem State.OnlyPlace.trans {s u w : State} (h : s.OnlyPlace u) (k : u.OnlyPlace w) : s.OnlyPlace w := by
  unfold State.OnlyPlace Team.placeOf at *
  rw [k, h]

theorem onlyPlace_fall (s : State) : s.OnlyPlace s.fall := rfl

/-! ### Traps (R206, R214, R216, R217, R408) -/

/-- Beginning to end a context changes that context's slot only. -/
theorem endCtx_frame (s : State) (n st : Nat) : s.endCtx n st = { s with ctxs := (s.endCtx n st).ctxs } := by
  unfold State.endCtx State.modCtx
  split <;> rfl

/-- What taking a trap does, in full: nothing is decided; or the context ends, with 0x20 more in a handler; or the winner's
handler is entered. -/
theorem takeTrap_cases (s : State) :
    (decWinner s.t.decision = none ∧ s.takeTrap = s) ∨
    ∃ w, decWinner s.t.decision = some w ∧
      ((s.t.hnd = true ∧ w.bnd = false ∧ s.takeTrap = (s.endCtx s.t.ctx (0x20 + w.cause)).hold .other) ∨
       ((s.t.hnd = false ∨ w.bnd = true) ∧ s.t.tvec.toNat % 2 = 0 ∧
         s.takeTrap = (s.endCtx s.t.ctx w.cause).hold .other) ∨
       ((s.t.hnd = false ∨ w.bnd = true) ∧ s.t.tvec.toNat % 2 = 1 ∧ ∃ a : Dec,
         a = (if w.bnd then (decFirst s.t.decision).getD w else w) ∧
         s.takeTrap = { s with t := { s.t with
           tepc := a.tepc &&& ~~~(3#64), tlane := w.tlane, tsecond := tsecondOf s.t.decision w, frec := w.frec
           tmode := s.t.mode, tclause := a.cl.toDWord, tcause := BitVec.ofNat 32 (2 ^ 31 + w.cause)
           mode := 0, pc := s.t.tvec &&& ~~~(127#64), cl := s.t.cl.ended, tclno := s.t.clno
           taint := sput 0 0x19A 0 s.t.taint, codeAt := max s.t.codeAt (sget 0 0x198 s.t.taint)
           via := 0, landing := w.cause, dec := [], pendB := if s.t.hnd then s.t.pendB else [], wait := .none } })) := by
  cases hw : decWinner s.t.decision with
  | none => exact .inl ⟨rfl, by simp [State.takeTrap, hw]⟩
  | some w =>
    refine .inr ⟨w, rfl, ?_⟩
    have hor : ¬(s.t.hnd && !w.bnd) = true → s.t.hnd = false ∨ w.bnd = true := by
      cases s.t.hnd <;> cases w.bnd <;> simp
    by_cases h1 : (s.t.hnd && !w.bnd) = true
    · refine .inl ⟨by simp_all, by simp_all, ?_⟩
      simp only [State.takeTrap, hw, h1, if_true]
    · by_cases h2 : s.t.tvec.toNat % 2 = 0
      · refine .inr (.inl ⟨hor h1, h2, ?_⟩)
        simp only [State.takeTrap, hw, h1, h2, if_true]
        simp
      · refine .inr (.inr ⟨hor h1, by omega, _, rfl, ?_⟩)
        simp only [State.takeTrap, hw, h1, h2, if_false]
        simp

/-- A cause of the whole instruction, raised by a team that nothing holds back, is taken at once. -/
theorem State.Clear.raise {s : State} (h : s.Clear) (c : Nat) (x : DWord) :
    s.raise c x = (s.modT fun t => { t with dec := [⟨c, 0, x, s.t.pc, s.t.cl, false, s.t.ord⟩] }).takeTrap := by
  have hw := h.appends
  simp only [Team.appending_eq] at hw
  simp [State.raise, State.decide, State.tryTrap, Team.quietForTrap, Team.appending_eq, State.modT, h.dec, h.log, h.infl, hw]

/-- The one cause of a decision wins it. -/
@[simp] theorem decWinner_one (d : Dec) : decWinner [d] = some d := rfl

/-- What a trap, taken or put off, leaves of the machine: all but the team and the context that it may begin to end. -/
theorem decide_frame (s : State) (l : List Dec) :
    s.decide l = { s with t := (s.decide l).t, ctxs := (s.decide l).ctxs } := by
  cases l with
  | nil => rfl
  | cons d r =>
    have hframe : ∀ u : State, u.takeTrap = { u with t := u.takeTrap.t, ctxs := u.takeTrap.ctxs } := fun u => by
      rcases takeTrap_cases u with ⟨-, e⟩ | ⟨w, -, ⟨-, -, e⟩ | ⟨-, -, e⟩ | ⟨-, -, a, -, e⟩⟩
      · rw [e]
      · rw [e, endCtx_frame]; rfl
      · rw [e, endCtx_frame]; rfl
      · rw [e]
    simp only [State.decide, State.tryTrap]
    split
    · rw [hframe]; rfl
    · rfl

/-! ### Contexts -/

@[simp] theorem length_modSlot (s : State) (n : Nat) (f : CtxSlot → CtxSlot) :
    (s.modSlot n f).ctxs.length = s.ctxs.length := by simp

@[simp] theorem length_modCtx (s : State) (n : Nat) (f : CtxSlot → CtxSlot) :
    (s.modCtx n f).ctxs.length = s.ctxs.length := by
  unfold State.modCtx; split <;> simp

theorem slot_modSlot_self (s : State) {n : Nat} (f : CtxSlot → CtxSlot) (h : n < s.ctxs.length) :
    (s.modSlot n f).slot n = f (s.slot n) := by
  simp [State.slot, State.modSlot, List.getD_eq_getElem?_getD, h]

theorem slot_modSlot_ne (s : State) {n k : Nat} (f : CtxSlot → CtxSlot) (h : k ≠ n) :
    (s.modSlot n f).slot k = s.slot k := by
  simp [State.slot, State.modSlot, List.getD_eq_getElem?_getD, Ne.symm h]

/-- A state whose memory and slots another shares is sound with it. -/
theorem State.Sound.of_eq {s u : State} (h : s.Sound) (hm : u.mem = s.mem) (hc : u.ctxs.length = s.ctxs.length) : u.Sound :=
  ⟨by unfold State.MemOk; rw [hm]; exact h.mem, hc.trans h.slots⟩

theorem State.Sound.putBytes {s : State} (h : s.Sound) (a : Nat) (bs : List Byte) : (s.putBytes a bs).Sound :=
  ⟨memOk_putBytes h.mem a bs, h.slots⟩

theorem State.Sound.zeroBytes {s : State} (h : s.Sound) (a n : Nat) : (s.zeroBytes a n).Sound :=
  ⟨memOk_zeroBytes h.mem a n, h.slots⟩

theorem State.Sound.modSlot {s : State} (h : s.Sound) (n : Nat) (f : CtxSlot → CtxSlot) : (s.modSlot n f).Sound :=
  h.of_eq rfl (by simp)

theorem State.Sound.decide {s : State} (h : s.Sound) (l : List Dec) : (s.decide l).Sound := by
  refine h.of_eq (by simp) ?_
  unfold State.decide State.tryTrap State.takeTrap
  split
  · rfl
  · split
    · dsimp only
      split
      · rfl
      · split
        · simp [State.endCtx]
        · split <;> simp [State.endCtx]
    · rfl

end Sys2Proof.Machine
end

