-- ==== Sys2Proof/Laws/PerInstr.lean ====
section
/-! SUPPORT. Of every instruction: its fields and literal words have the form of its opcode, and from them the decoder's last
stage builds the instruction again (R164, R165). -/

set_option Elab.async false

namespace Sys2Proof.Laws

/-- The opcode of the fields has a form, which gives the count of literals; the fields of a well-formed instruction are in
the classes of the form; and they build the instruction. Of an event it says nothing: it has no word. -/
def Rebuild.Statement (i : Instr) : Prop :=
  ∀ r, i.raw = some r → ∃ f, formOf r.op = some f ∧ r.lits.length = f.nLits r.b ∧
    (i.wf = true → (f.d.ok r.d && f.a.ok r.a && f.b.ok r.b) = true ∧
      ∀ w, buildInstr r.op r.d r.a r.b (r.lits.getD 0 0) (r.lits.getD 1 0) w = i)

theorem Rebuild.setm (l : Word) : Rebuild.Statement (.setm l) := by
  intro r h; cases h; exact ⟨_, rfl, rfl, fun h => ⟨rfl, fun _ => rfl⟩⟩
theorem Rebuild.setmk (l l2 : Word) : Rebuild.Statement (.setmk l l2) := by
  intro r h; cases h; exact ⟨_, rfl, rfl, fun h => ⟨rfl, fun _ => rfl⟩⟩
theorem Rebuild.bra (l : Word) : Rebuild.Statement (.bra l) := by
  intro r h; cases h; exact ⟨_, rfl, rfl, fun h => ⟨rfl, fun _ => rfl⟩⟩
theorem Rebuild.brs (a b : Nat) (l : Word) : Rebuild.Statement (.brs a b l) := by
  intro r h; cases h; exact ⟨_, rfl, rfl, fun h => ⟨h, fun _ => rfl⟩⟩
theorem Rebuild.brp (a : Nat) (l : Word) : Rebuild.Statement (.brp a l) := by
  intro r h; cases h; exact ⟨_, rfl, rfl, fun h => ⟨by rw [show FieldClass.ok .z 0 = true from rfl, Bool.and_true]; exact h, fun _ => rfl⟩⟩
theorem Rebuild.brv (a b : Nat) (l : Word) : Rebuild.Statement (.brv a b l) := by
  intro r h; cases h; exact ⟨_, rfl, rfl, fun h => ⟨h, fun _ => rfl⟩⟩
theorem Rebuild.mark (l : Word) : Rebuild.Statement (.mark l) := by
  intro r h; cases h; exact ⟨_, rfl, rfl, fun h => ⟨rfl, fun _ => rfl⟩⟩
theorem Rebuild.call (d : Nat) (l : Word) : Rebuild.Statement (.call d l) := by
  intro r h; cases h; exact ⟨_, rfl, rfl, fun h => ⟨by rw [show FieldClass.ok .z 0 = true from rfl, Bool.and_true, Bool.and_true]; exact h, fun _ => rfl⟩⟩
theorem Rebuild.calli (d a : Nat) : Rebuild.Statement (.calli d a) := by
  intro r h; cases h; exact ⟨_, rfl, rfl, fun h => ⟨by rw [show FieldClass.ok .z 0 = true from rfl, Bool.and_true]; exact h, fun _ => rfl⟩⟩
theorem Rebuild.ret (a : Nat) : Rebuild.Statement (.ret a) := by
  intro r h; cases h; exact ⟨_, rfl, rfl, fun h => ⟨by rw [show FieldClass.ok .z 0 = true from rfl, Bool.and_true]; exact h, fun _ => rfl⟩⟩
theorem Rebuild.jmpi (a : Nat) : Rebuild.Statement (.jmpi a) := by
  intro r h; cases h; exact ⟨_, rfl, rfl, fun h => ⟨by rw [show FieldClass.ok .z 0 = true from rfl, Bool.and_true]; exact h, fun _ => rfl⟩⟩
theorem Rebuild.loop (a : Nat) (l : Word) : Rebuild.Statement (.loop a l) := by
  intro r h; cases h; exact ⟨_, rfl, rfl, fun h => ⟨by rw [show FieldClass.ok .z 0 = true from rfl, Bool.and_true]; exact h, fun _ => rfl⟩⟩
theorem Rebuild.trap (b : Nat) : Rebuild.Statement (.trap b) := by
  intro r h; cases h; exact ⟨_, rfl, rfl, fun h => ⟨h, fun _ => rfl⟩⟩
theorem Rebuild.sadd (d a b : Nat) : Rebuild.Statement (.sadd d a b) := by
  intro r h; cases h; exact ⟨_, rfl, rfl, fun h => ⟨h, fun _ => rfl⟩⟩
theorem Rebuild.ssub (d a b : Nat) : Rebuild.Statement (.ssub d a b) := by
  intro r h; cases h; exact ⟨_, rfl, rfl, fun h => ⟨h, fun _ => rfl⟩⟩
theorem Rebuild.smul (d a b : Nat) : Rebuild.Statement (.smul d a b) := by
  intro r h; cases h; exact ⟨_, rfl, rfl, fun h => ⟨h, fun _ => rfl⟩⟩
theorem Rebuild.smulh (d a b : Nat) : Rebuild.Statement (.smulh d a b) := by
  intro r h; cases h; exact ⟨_, rfl, rfl, fun h => ⟨h, fun _ => rfl⟩⟩
theorem Rebuild.sdiv (d a b : Nat) : Rebuild.Statement (.sdiv d a b) := by
  intro r h; cases h; exact ⟨_, rfl, rfl, fun h => ⟨h, fun _ => rfl⟩⟩
theorem Rebuild.srem (d a b : Nat) : Rebuild.Statement (.srem d a b) := by
  intro r h; cases h; exact ⟨_, rfl, rfl, fun h => ⟨h, fun _ => rfl⟩⟩
theorem Rebuild.sand (d a b : Nat) : Rebuild.Statement (.sand d a b) := by
  intro r h; cases h; exact ⟨_, rfl, rfl, fun h => ⟨h, fun _ => rfl⟩⟩
theorem Rebuild.sor (d a b : Nat) : Rebuild.Statement (.sor d a b) := by
  intro r h; cases h; exact ⟨_, rfl, rfl, fun h => ⟨h, fun _ => rfl⟩⟩
theorem Rebuild.sxor (d a b : Nat) : Rebuild.Statement (.sxor d a b) := by
  intro r h; cases h; exact ⟨_, rfl, rfl, fun h => ⟨h, fun _ => rfl⟩⟩
theorem Rebuild.sshl (d a b : Nat) : Rebuild.Statement (.sshl d a b) := by
  intro r h; cases h; exact ⟨_, rfl, rfl, fun h => ⟨h, fun _ => rfl⟩⟩
theorem Rebuild.sshr (d a b : Nat) : Rebuild.Statement (.sshr d a b) := by
  intro r h; cases h; exact ⟨_, rfl, rfl, fun h => ⟨h, fun _ => rfl⟩⟩
theorem Rebuild.ssar (d a b : Nat) : Rebuild.Statement (.ssar d a b) := by
  intro r h; cases h; exact ⟨_, rfl, rfl, fun h => ⟨h, fun _ => rfl⟩⟩
theorem Rebuild.scmp (d a b : Nat) : Rebuild.Statement (.scmp d a b) := by
  intro r h; cases h; exact ⟨_, rfl, rfl, fun h => ⟨h, fun _ => rfl⟩⟩
theorem Rebuild.smin (d a b : Nat) : Rebuild.Statement (.smin d a b) := by
  intro r h; cases h; exact ⟨_, rfl, rfl, fun h => ⟨h, fun _ => rfl⟩⟩
theorem Rebuild.smax (d a b : Nat) : Rebuild.Statement (.smax d a b) := by
  intro r h; cases h; exact ⟨_, rfl, rfl, fun h => ⟨h, fun _ => rfl⟩⟩
theorem Rebuild.saddi (d a b : Nat) : Rebuild.Statement (.saddi d a b) := by
  intro r h; cases h; exact ⟨_, rfl, rfl, fun h => ⟨h, fun _ => rfl⟩⟩
theorem Rebuild.sshli (d a b : Nat) : Rebuild.Statement (.sshli d a b) := by
  intro r h; cases h; exact ⟨_, rfl, rfl, fun h => ⟨h, fun _ => rfl⟩⟩
theorem Rebuild.sshri (d a b : Nat) : Rebuild.Statement (.sshri d a b) := by
  intro r h; cases h; exact ⟨_, rfl, rfl, fun h => ⟨h, fun _ => rfl⟩⟩
theorem Rebuild.smovl (d : Nat) (l : Word) (l2 : Option Word) : Rebuild.Statement (.smovl d l l2) := by
  intro r h; cases h; cases l2 <;> exact ⟨_, rfl, rfl, fun h => ⟨by simpa [Instr.wf, FieldClass.ok] using h, fun _ => rfl⟩⟩
theorem Rebuild.smov (d a : Nat) : Rebuild.Statement (.smov d a) := by
  intro r h; cases h; exact ⟨_, rfl, rfl, fun h => ⟨by rw [show FieldClass.ok .z 0 = true from rfl, Bool.and_true]; exact h, fun _ => rfl⟩⟩
theorem Rebuild.sxlate (d a : Nat) : Rebuild.Statement (.sxlate d a) := by
  intro r h; cases h; exact ⟨_, rfl, rfl, fun h => ⟨by rw [show FieldClass.ok .z 0 = true from rfl, Bool.and_true]; exact h, fun _ => rfl⟩⟩
theorem Rebuild.srd (d b : Nat) : Rebuild.Statement (.srd d b) := by
  intro r h; cases h; exact ⟨_, rfl, rfl, fun h => ⟨by simpa [Instr.wf, FieldClass.ok] using h, fun _ => rfl⟩⟩
theorem Rebuild.swr (a b : Nat) : Rebuild.Statement (.swr a b) := by
  intro r h; cases h; exact ⟨_, rfl, rfl, fun h => ⟨h, fun _ => rfl⟩⟩
theorem Rebuild.phase (b : Nat) : Rebuild.Statement (.phase b) := by
  intro r h; cases h; exact ⟨_, rfl, rfl, fun h => ⟨h, fun _ => rfl⟩⟩
theorem Rebuild.launch (d a : Nat) : Rebuild.Statement (.launch d a) := by
  intro r h; cases h; exact ⟨_, rfl, rfl, fun h => ⟨by rw [show FieldClass.ok .z 0 = true from rfl, Bool.and_true]; exact h, fun _ => rfl⟩⟩
theorem Rebuild.cwait (d a : Nat) : Rebuild.Statement (.cwait d a) := by
  intro r h; cases h; exact ⟨_, rfl, rfl, fun h => ⟨by rw [show FieldClass.ok .z 0 = true from rfl, Bool.and_true]; exact h, fun _ => rfl⟩⟩
theorem Rebuild.sneg (d a : Nat) : Rebuild.Statement (.sneg d a) := by
  intro r h; cases h; exact ⟨_, rfl, rfl, fun h => ⟨by simpa [Instr.wf, FieldClass.ok] using h, fun _ => rfl⟩⟩
theorem Rebuild.snot (d a : Nat) : Rebuild.Statement (.snot d a) := by
  intro r h; cases h; exact ⟨_, rfl, rfl, fun h => ⟨by simpa [Instr.wf, FieldClass.ok] using h, fun _ => rfl⟩⟩
theorem Rebuild.sabs (d a : Nat) : Rebuild.Statement (.sabs d a) := by
  intro r h; cases h; exact ⟨_, rfl, rfl, fun h => ⟨by simpa [Instr.wf, FieldClass.ok] using h, fun _ => rfl⟩⟩
theorem Rebuild.sclz (d a : Nat) : Rebuild.Statement (.sclz d a) := by
  intro r h; cases h; exact ⟨_, rfl, rfl, fun h => ⟨by simpa [Instr.wf, FieldClass.ok] using h, fun _ => rfl⟩⟩
theorem Rebuild.sctz (d a : Nat) : Rebuild.Statement (.sctz d a) := by
  intro r h; cases h; exact ⟨_, rfl, rfl, fun h => ⟨by simpa [Instr.wf, FieldClass.ok] using h, fun _ => rfl⟩⟩
theorem Rebuild.spopc (d a : Nat) : Rebuild.Statement (.spopc d a) := by
  intro r h; cases h; exact ⟨_, rfl, rfl, fun h => ⟨by simpa [Instr.wf, FieldClass.ok] using h, fun _ => rfl⟩⟩
theorem Rebuild.sbrev (d a : Nat) : Rebuild.Statement (.sbrev d a) := by
  intro r h; cases h; exact ⟨_, rfl, rfl, fun h => ⟨by simpa [Instr.wf, FieldClass.ok] using h, fun _ => rfl⟩⟩
theorem Rebuild.sext32 (d a : Nat) : Rebuild.Statement (.sext32 d a) := by
  intro r h; cases h; exact ⟨_, rfl, rfl, fun h => ⟨by simpa [Instr.wf, FieldClass.ok] using h, fun _ => rfl⟩⟩
theorem Rebuild.saddr (d a b : Nat) : Rebuild.Statement (.saddr d a b) := by
  intro r h; cases h; exact ⟨_, rfl, rfl, fun h => ⟨h, fun _ => rfl⟩⟩
theorem Rebuild.sgetv (d a b : Nat) : Rebuild.Statement (.sgetv d a b) := by
  intro r h; cases h; exact ⟨_, rfl, rfl, fun h => ⟨h, fun _ => rfl⟩⟩
theorem Rebuild.vadd (d a b : Nat) : Rebuild.Statement (.vadd d a b) := by
  intro r h; cases h; exact ⟨_, rfl, rfl, fun h => ⟨h, fun _ => rfl⟩⟩
theorem Rebuild.vsub (d a b : Nat) : Rebuild.Statement (.vsub d a b) := by
  intro r h; cases h; exact ⟨_, rfl, rfl, fun h => ⟨h, fun _ => rfl⟩⟩
theorem Rebuild.vmul (d a b : Nat) : Rebuild.Statement (.vmul d a b) := by
  intro r h; cases h; exact ⟨_, rfl, rfl, fun h => ⟨h, fun _ => rfl⟩⟩
theorem Rebuild.vmulh (d a b : Nat) : Rebuild.Statement (.vmulh d a b) := by
  intro r h; cases h; exact ⟨_, rfl, rfl, fun h => ⟨h, fun _ => rfl⟩⟩
theorem Rebuild.vmad (d a b : Nat) : Rebuild.Statement (.vmad d a b) := by
  intro r h; cases h; exact ⟨_, rfl, rfl, fun h => ⟨h, fun _ => rfl⟩⟩
theorem Rebuild.vdiv (d a b : Nat) : Rebuild.Statement (.vdiv d a b) := by
  intro r h; cases h; exact ⟨_, rfl, rfl, fun h => ⟨h, fun _ => rfl⟩⟩
theorem Rebuild.vrem (d a b : Nat) : Rebuild.Statement (.vrem d a b) := by
  intro r h; cases h; exact ⟨_, rfl, rfl, fun h => ⟨h, fun _ => rfl⟩⟩
theorem Rebuild.vmin (d a b : Nat) : Rebuild.Statement (.vmin d a b) := by
  intro r h; cases h; exact ⟨_, rfl, rfl, fun h => ⟨h, fun _ => rfl⟩⟩
theorem Rebuild.vmax (d a b : Nat) : Rebuild.Statement (.vmax d a b) := by
  intro r h; cases h; exact ⟨_, rfl, rfl, fun h => ⟨h, fun _ => rfl⟩⟩
theorem Rebuild.vabsd (d a b : Nat) : Rebuild.Statement (.vabsd d a b) := by
  intro r h; cases h; exact ⟨_, rfl, rfl, fun h => ⟨h, fun _ => rfl⟩⟩
theorem Rebuild.vand (d a b : Nat) : Rebuild.Statement (.vand d a b) := by
  intro r h; cases h; exact ⟨_, rfl, rfl, fun h => ⟨h, fun _ => rfl⟩⟩
theorem Rebuild.vor (d a b : Nat) : Rebuild.Statement (.vor d a b) := by
  intro r h; cases h; exact ⟨_, rfl, rfl, fun h => ⟨h, fun _ => rfl⟩⟩
theorem Rebuild.vxor (d a b : Nat) : Rebuild.Statement (.vxor d a b) := by
  intro r h; cases h; exact ⟨_, rfl, rfl, fun h => ⟨h, fun _ => rfl⟩⟩
theorem Rebuild.vandn (d a b : Nat) : Rebuild.Statement (.vandn d a b) := by
  intro r h; cases h; exact ⟨_, rfl, rfl, fun h => ⟨h, fun _ => rfl⟩⟩
theorem Rebuild.vshl (d a b : Nat) : Rebuild.Statement (.vshl d a b) := by
  intro r h; cases h; exact ⟨_, rfl, rfl, fun h => ⟨h, fun _ => rfl⟩⟩
theorem Rebuild.vshr (d a b : Nat) : Rebuild.Statement (.vshr d a b) := by
  intro r h; cases h; exact ⟨_, rfl, rfl, fun h => ⟨h, fun _ => rfl⟩⟩
theorem Rebuild.vsar (d a b : Nat) : Rebuild.Statement (.vsar d a b) := by
  intro r h; cases h; exact ⟨_, rfl, rfl, fun h => ⟨h, fun _ => rfl⟩⟩
theorem Rebuild.vrotl (d a b : Nat) : Rebuild.Statement (.vrotl d a b) := by
  intro r h; cases h; exact ⟨_, rfl, rfl, fun h => ⟨h, fun _ => rfl⟩⟩
theorem Rebuild.vaddi (d a b : Nat) : Rebuild.Statement (.vaddi d a b) := by
  intro r h; cases h; exact ⟨_, rfl, rfl, fun h => ⟨h, fun _ => rfl⟩⟩
theorem Rebuild.vshli (d a b : Nat) : Rebuild.Statement (.vshli d a b) := by
  intro r h; cases h; exact ⟨_, rfl, rfl, fun h => ⟨h, fun _ => rfl⟩⟩
theorem Rebuild.vshri (d a b : Nat) : Rebuild.Statement (.vshri d a b) := by
  intro r h; cases h; exact ⟨_, rfl, rfl, fun h => ⟨h, fun _ => rfl⟩⟩
theorem Rebuild.vsari (d a b : Nat) : Rebuild.Statement (.vsari d a b) := by
  intro r h; cases h; exact ⟨_, rfl, rfl, fun h => ⟨h, fun _ => rfl⟩⟩
theorem Rebuild.vneg (d a : Nat) : Rebuild.Statement (.vneg d a) := by
  intro r h; cases h; exact ⟨_, rfl, rfl, fun h => ⟨by simpa [Instr.wf, FieldClass.ok] using h, fun _ => rfl⟩⟩
theorem Rebuild.vnot (d a : Nat) : Rebuild.Statement (.vnot d a) := by
  intro r h; cases h; exact ⟨_, rfl, rfl, fun h => ⟨by simpa [Instr.wf, FieldClass.ok] using h, fun _ => rfl⟩⟩
theorem Rebuild.vabs (d a : Nat) : Rebuild.Statement (.vabs d a) := by
  intro r h; cases h; exact ⟨_, rfl, rfl, fun h => ⟨by simpa [Instr.wf, FieldClass.ok] using h, fun _ => rfl⟩⟩
theorem Rebuild.vclz (d a : Nat) : Rebuild.Statement (.vclz d a) := by
  intro r h; cases h; exact ⟨_, rfl, rfl, fun h => ⟨by simpa [Instr.wf, FieldClass.ok] using h, fun _ => rfl⟩⟩
theorem Rebuild.vctz (d a : Nat) : Rebuild.Statement (.vctz d a) := by
  intro r h; cases h; exact ⟨_, rfl, rfl, fun h => ⟨by simpa [Instr.wf, FieldClass.ok] using h, fun _ => rfl⟩⟩
theorem Rebuild.vcnt (d a : Nat) : Rebuild.Statement (.vcnt d a) := by
  intro r h; cases h; exact ⟨_, rfl, rfl, fun h => ⟨by simpa [Instr.wf, FieldClass.ok] using h, fun _ => rfl⟩⟩
theorem Rebuild.vbrev (d a : Nat) : Rebuild.Statement (.vbrev d a) := by
  intro r h; cases h; exact ⟨_, rfl, rfl, fun h => ⟨by simpa [Instr.wf, FieldClass.ok] using h, fun _ => rfl⟩⟩
theorem Rebuild.vsgn (d a : Nat) : Rebuild.Statement (.vsgn d a) := by
  intro r h; cases h; exact ⟨_, rfl, rfl, fun h => ⟨by simpa [Instr.wf, FieldClass.ok] using h, fun _ => rfl⟩⟩
theorem Rebuild.vcmpeq (d a b : Nat) : Rebuild.Statement (.vcmpeq d a b) := by
  intro r h; cases h; exact ⟨_, rfl, rfl, fun h => ⟨h, fun _ => rfl⟩⟩
theorem Rebuild.vcmpne (d a b : Nat) : Rebuild.Statement (.vcmpne d a b) := by
  intro r h; cases h; exact ⟨_, rfl, rfl, fun h => ⟨h, fun _ => rfl⟩⟩
theorem Rebuild.vcmplt (d a b : Nat) : Rebuild.Statement (.vcmplt d a b) := by
  intro r h; cases h; exact ⟨_, rfl, rfl, fun h => ⟨h, fun _ => rfl⟩⟩
theorem Rebuild.vcmple (d a b : Nat) : Rebuild.Statement (.vcmple d a b) := by
  intro r h; cases h; exact ⟨_, rfl, rfl, fun h => ⟨h, fun _ => rfl⟩⟩
theorem Rebuild.vmov (d a : Nat) : Rebuild.Statement (.vmov d a) := by
  intro r h; cases h; exact ⟨_, rfl, rfl, fun h => ⟨by rw [show FieldClass.ok .z 0 = true from rfl, Bool.and_true]; exact h, fun _ => rfl⟩⟩
theorem Rebuild.vmovs (d a : Nat) : Rebuild.Statement (.vmovs d a) := by
  intro r h; cases h; exact ⟨_, rfl, rfl, fun h => ⟨by rw [show FieldClass.ok .z 0 = true from rfl, Bool.and_true]; exact h, fun _ => rfl⟩⟩
theorem Rebuild.vmovl (d : Nat) (l : Word) (l2 : Option Word) : Rebuild.Statement (.vmovl d l l2) := by
  intro r h; cases h; cases l2 <;> exact ⟨_, rfl, rfl, fun h => ⟨by simpa [Instr.wf, FieldClass.ok] using h, fun _ => rfl⟩⟩
theorem Rebuild.pand (d a b : Nat) : Rebuild.Statement (.pand d a b) := by
  intro r h; cases h; exact ⟨_, rfl, rfl, fun h => ⟨h, fun _ => rfl⟩⟩
theorem Rebuild.por (d a b : Nat) : Rebuild.Statement (.por d a b) := by
  intro r h; cases h; exact ⟨_, rfl, rfl, fun h => ⟨h, fun _ => rfl⟩⟩
theorem Rebuild.pxor (d a b : Nat) : Rebuild.Statement (.pxor d a b) := by
  intro r h; cases h; exact ⟨_, rfl, rfl, fun h => ⟨h, fun _ => rfl⟩⟩
theorem Rebuild.pnot (d a : Nat) : Rebuild.Statement (.pnot d a) := by
  intro r h; cases h; exact ⟨_, rfl, rfl, fun h => ⟨by rw [show FieldClass.ok .z 0 = true from rfl, Bool.and_true]; exact h, fun _ => rfl⟩⟩
theorem Rebuild.vbfe (d a : Nat) (l : Word) : Rebuild.Statement (.vbfe d a l) := by
  intro r h; cases h; exact ⟨_, rfl, rfl, fun h => ⟨by rw [show FieldClass.ok .z 0 = true from rfl, Bool.and_true]; exact h, fun _ => rfl⟩⟩
theorem Rebuild.vbfi (d a : Nat) (l : Word) : Rebuild.Statement (.vbfi d a l) := by
  intro r h; cases h; exact ⟨_, rfl, rfl, fun h => ⟨by rw [show FieldClass.ok .z 0 = true from rfl, Bool.and_true]; exact h, fun _ => rfl⟩⟩
theorem Rebuild.vdot4 (d a b : Nat) : Rebuild.Statement (.vdot4 d a b) := by
  intro r h; cases h; exact ⟨_, rfl, rfl, fun h => ⟨h, fun _ => rfl⟩⟩
theorem Rebuild.vfadd (d a b : Nat) : Rebuild.Statement (.vfadd d a b) := by
  intro r h; cases h; exact ⟨_, rfl, rfl, fun h => ⟨h, fun _ => rfl⟩⟩
theorem Rebuild.vfsub (d a b : Nat) : Rebuild.Statement (.vfsub d a b) := by
  intro r h; cases h; exact ⟨_, rfl, rfl, fun h => ⟨h, fun _ => rfl⟩⟩
theorem Rebuild.vfmul (d a b : Nat) : Rebuild.Statement (.vfmul d a b) := by
  intro r h; cases h; exact ⟨_, rfl, rfl, fun h => ⟨h, fun _ => rfl⟩⟩
theorem Rebuild.vfma (d a b : Nat) : Rebuild.Statement (.vfma d a b) := by
  intro r h; cases h; exact ⟨_, rfl, rfl, fun h => ⟨h, fun _ => rfl⟩⟩
theorem Rebuild.vfms (d a b : Nat) : Rebuild.Statement (.vfms d a b) := by
  intro r h; cases h; exact ⟨_, rfl, rfl, fun h => ⟨h, fun _ => rfl⟩⟩
theorem Rebuild.vfnma (d a b : Nat) : Rebuild.Statement (.vfnma d a b) := by
  intro r h; cases h; exact ⟨_, rfl, rfl, fun h => ⟨h, fun _ => rfl⟩⟩
theorem Rebuild.vfdiv (d a b : Nat) : Rebuild.Statement (.vfdiv d a b) := by
  intro r h; cases h; exact ⟨_, rfl, rfl, fun h => ⟨h, fun _ => rfl⟩⟩
theorem Rebuild.vfsqrt (d a : Nat) : Rebuild.Statement (.vfsqrt d a) := by
  intro r h; cases h; exact ⟨_, rfl, rfl, fun h => ⟨by rw [show FieldClass.ok .z 0 = true from rfl, Bool.and_true]; exact h, fun _ => rfl⟩⟩
theorem Rebuild.vfmin (d a b : Nat) : Rebuild.Statement (.vfmin d a b) := by
  intro r h; cases h; exact ⟨_, rfl, rfl, fun h => ⟨h, fun _ => rfl⟩⟩
theorem Rebuild.vfmax (d a b : Nat) : Rebuild.Statement (.vfmax d a b) := by
  intro r h; cases h; exact ⟨_, rfl, rfl, fun h => ⟨h, fun _ => rfl⟩⟩
theorem Rebuild.vfabs (d a : Nat) : Rebuild.Statement (.vfabs d a) := by
  intro r h; cases h; exact ⟨_, rfl, rfl, fun h => ⟨by rw [show FieldClass.ok .z 0 = true from rfl, Bool.and_true]; exact h, fun _ => rfl⟩⟩
theorem Rebuild.vfneg (d a : Nat) : Rebuild.Statement (.vfneg d a) := by
  intro r h; cases h; exact ⟨_, rfl, rfl, fun h => ⟨by rw [show FieldClass.ok .z 0 = true from rfl, Bool.and_true]; exact h, fun _ => rfl⟩⟩
theorem Rebuild.vfrcp (d a : Nat) : Rebuild.Statement (.vfrcp d a) := by
  intro r h; cases h; exact ⟨_, rfl, rfl, fun h => ⟨by rw [show FieldClass.ok .z 0 = true from rfl, Bool.and_true]; exact h, fun _ => rfl⟩⟩
theorem Rebuild.vfrsq (d a : Nat) : Rebuild.Statement (.vfrsq d a) := by
  intro r h; cases h; exact ⟨_, rfl, rfl, fun h => ⟨by rw [show FieldClass.ok .z 0 = true from rfl, Bool.and_true]; exact h, fun _ => rfl⟩⟩
theorem Rebuild.vfexp2 (d a : Nat) : Rebuild.Statement (.vfexp2 d a) := by
  intro r h; cases h; exact ⟨_, rfl, rfl, fun h => ⟨by rw [show FieldClass.ok .z 0 = true from rfl, Bool.and_true]; exact h, fun _ => rfl⟩⟩
theorem Rebuild.vflog2 (d a : Nat) : Rebuild.Statement (.vflog2 d a) := by
  intro r h; cases h; exact ⟨_, rfl, rfl, fun h => ⟨by rw [show FieldClass.ok .z 0 = true from rfl, Bool.and_true]; exact h, fun _ => rfl⟩⟩
theorem Rebuild.vfsin (d a : Nat) : Rebuild.Statement (.vfsin d a) := by
  intro r h; cases h; exact ⟨_, rfl, rfl, fun h => ⟨by rw [show FieldClass.ok .z 0 = true from rfl, Bool.and_true]; exact h, fun _ => rfl⟩⟩
theorem Rebuild.vfcos (d a : Nat) : Rebuild.Statement (.vfcos d a) := by
  intro r h; cases h; exact ⟨_, rfl, rfl, fun h => ⟨by rw [show FieldClass.ok .z 0 = true from rfl, Bool.and_true]; exact h, fun _ => rfl⟩⟩
theorem Rebuild.vfcmpeq (d a b : Nat) : Rebuild.Statement (.vfcmpeq d a b) := by
  intro r h; cases h; exact ⟨_, rfl, rfl, fun h => ⟨h, fun _ => rfl⟩⟩
theorem Rebuild.vfcmpne (d a b : Nat) : Rebuild.Statement (.vfcmpne d a b) := by
  intro r h; cases h; exact ⟨_, rfl, rfl, fun h => ⟨h, fun _ => rfl⟩⟩
theorem Rebuild.vfcmplt (d a b : Nat) : Rebuild.Statement (.vfcmplt d a b) := by
  intro r h; cases h; exact ⟨_, rfl, rfl, fun h => ⟨h, fun _ => rfl⟩⟩
theorem Rebuild.vfcmple (d a b : Nat) : Rebuild.Statement (.vfcmple d a b) := by
  intro r h; cases h; exact ⟨_, rfl, rfl, fun h => ⟨h, fun _ => rfl⟩⟩
theorem Rebuild.vfcmpun (d a b : Nat) : Rebuild.Statement (.vfcmpun d a b) := by
  intro r h; cases h; exact ⟨_, rfl, rfl, fun h => ⟨h, fun _ => rfl⟩⟩
theorem Rebuild.vfclass (d a : Nat) : Rebuild.Statement (.vfclass d a) := by
  intro r h; cases h; exact ⟨_, rfl, rfl, fun h => ⟨by rw [show FieldClass.ok .z 0 = true from rfl, Bool.and_true]; exact h, fun _ => rfl⟩⟩
theorem Rebuild.vfmull (d a : Nat) (l : Word) : Rebuild.Statement (.vfmull d a l) := by
  intro r h; cases h; exact ⟨_, rfl, rfl, fun h => ⟨by rw [show FieldClass.ok .z 0 = true from rfl, Bool.and_true]; exact h, fun _ => rfl⟩⟩
theorem Rebuild.vfaddl (d a : Nat) (l : Word) : Rebuild.Statement (.vfaddl d a l) := by
  intro r h; cases h; exact ⟨_, rfl, rfl, fun h => ⟨by rw [show FieldClass.ok .z 0 = true from rfl, Bool.and_true]; exact h, fun _ => rfl⟩⟩
theorem Rebuild.vffmal (d a b : Nat) (l : Word) : Rebuild.Statement (.vffmal d a b l) := by
  intro r h; cases h; exact ⟨_, rfl, rfl, fun h => ⟨h, fun _ => rfl⟩⟩
theorem Rebuild.vfldexp (d a b : Nat) : Rebuild.Statement (.vfldexp d a b) := by
  intro r h; cases h; exact ⟨_, rfl, rfl, fun h => ⟨h, fun _ => rfl⟩⟩
theorem Rebuild.vfrint (d a b : Nat) : Rebuild.Statement (.vfrint d a b) := by
  intro r h; cases h; exact ⟨_, rfl, rfl, fun h => ⟨h, fun _ => rfl⟩⟩
theorem Rebuild.vfcopys (d a b : Nat) : Rebuild.Statement (.vfcopys d a b) := by
  intro r h; cases h; exact ⟨_, rfl, rfl, fun h => ⟨h, fun _ => rfl⟩⟩
theorem Rebuild.vfdot2 (d a b : Nat) : Rebuild.Statement (.vfdot2 d a b) := by
  intro r h; cases h; exact ⟨_, rfl, rfl, fun h => ⟨h, fun _ => rfl⟩⟩
theorem Rebuild.cvt (d a b : Nat) : Rebuild.Statement (.cvt d a b) := by
  intro r h; cases h; exact ⟨_, rfl, rfl, fun h => ⟨h, fun _ => rfl⟩⟩
theorem Rebuild.cvtmx (d a b : Nat) : Rebuild.Statement (.cvtmx d a b) := by
  intro r h; cases h; exact ⟨_, rfl, rfl, fun h => ⟨h, fun _ => rfl⟩⟩
theorem Rebuild.cvtxm (d a b : Nat) : Rebuild.Statement (.cvtxm d a b) := by
  intro r h; cases h; exact ⟨_, rfl, rfl, fun h => ⟨h, fun _ => rfl⟩⟩
theorem Rebuild.cbdec (d a b : Nat) : Rebuild.Statement (.cbdec d a b) := by
  intro r h; cases h; exact ⟨_, rfl, rfl, fun h => ⟨h, fun _ => rfl⟩⟩
theorem Rebuild.vpack (d a b : Nat) : Rebuild.Statement (.vpack d a b) := by
  intro r h; cases h; exact ⟨_, rfl, rfl, fun h => ⟨h, fun _ => rfl⟩⟩
theorem Rebuild.vunpk (d a b : Nat) : Rebuild.Statement (.vunpk d a b) := by
  intro r h; cases h; exact ⟨_, rfl, rfl, fun h => ⟨h, fun _ => rfl⟩⟩
theorem Rebuild.shfl (d a b : Nat) : Rebuild.Statement (.shfl d a b) := by
  intro r h; cases h; exact ⟨_, rfl, rfl, fun h => ⟨h, fun _ => rfl⟩⟩
theorem Rebuild.shflx (d a b : Nat) : Rebuild.Statement (.shflx d a b) := by
  intro r h; cases h; exact ⟨_, rfl, rfl, fun h => ⟨h, fun _ => rfl⟩⟩
theorem Rebuild.permb (d a b : Nat) : Rebuild.Statement (.permb d a b) := by
  intro r h; cases h; exact ⟨_, rfl, rfl, fun h => ⟨h, fun _ => rfl⟩⟩
theorem Rebuild.scan (d a b : Nat) : Rebuild.Statement (.scan d a b) := by
  intro r h; cases h; exact ⟨_, rfl, rfl, fun h => ⟨h, fun _ => rfl⟩⟩
theorem Rebuild.redv (d a b : Nat) : Rebuild.Statement (.redv d a b) := by
  intro r h; cases h; exact ⟨_, rfl, rfl, fun h => ⟨h, fun _ => rfl⟩⟩
theorem Rebuild.ballot (d a b : Nat) : Rebuild.Statement (.ballot d a b) := by
  intro r h; cases h; exact ⟨_, rfl, rfl, fun h => ⟨h, fun _ => rfl⟩⟩
theorem Rebuild.popc (d a : Nat) : Rebuild.Statement (.popc d a) := by
  intro r h; cases h; exact ⟨_, rfl, rfl, fun h => ⟨by rw [show FieldClass.ok .z 0 = true from rfl, Bool.and_true]; exact h, fun _ => rfl⟩⟩
theorem Rebuild.lmv4 (d a b : Nat) : Rebuild.Statement (.lmv4 d a b) := by
  intro r h; cases h; exact ⟨_, rfl, rfl, fun h => ⟨h, fun _ => rfl⟩⟩
theorem Rebuild.lmv8 (d a b : Nat) : Rebuild.Statement (.lmv8 d a b) := by
  intro r h; cases h; exact ⟨_, rfl, rfl, fun h => ⟨h, fun _ => rfl⟩⟩
theorem Rebuild.vfirst (d a : Nat) : Rebuild.Statement (.vfirst d a) := by
  intro r h; cases h; exact ⟨_, rfl, rfl, fun h => ⟨by rw [show FieldClass.ok .z 0 = true from rfl, Bool.and_true]; exact h, fun _ => rfl⟩⟩
theorem Rebuild.vld (d a m : Nat) : Rebuild.Statement (.vld d a m) := by
  intro r h; cases h; exact ⟨_, rfl, rfl, fun h => by
    simp only [Instr.wf, FieldClass.ok, Bool.and_eq_true, decide_eq_true_eq] at h
    refine ⟨by simp [FieldClass.ok]; omega, fun w => ?_⟩
    show Instr.vld d a (m % 16) = _
    congr 1 <;> omega⟩
theorem Rebuild.vst (d a m : Nat) : Rebuild.Statement (.vst d a m) := by
  intro r h; cases h; exact ⟨_, rfl, rfl, fun h => by
    simp only [Instr.wf, FieldClass.ok, Bool.and_eq_true, decide_eq_true_eq] at h
    refine ⟨by simp [FieldClass.ok]; omega, fun w => ?_⟩
    show Instr.vst d a (m % 16) = _
    congr 1 <;> omega⟩
theorem Rebuild.vldn (d a m k : Nat) : Rebuild.Statement (.vldn d a m k) := by
  intro r h; cases h; exact ⟨_, rfl, rfl, fun h => by
    simp only [Instr.wf, FieldClass.ok, Bool.and_eq_true, decide_eq_true_eq] at h
    refine ⟨by simp [FieldClass.ok]; omega, fun w => ?_⟩
    show Instr.vldn d a (((k * 16 + m)) % 16) (((k * 16 + m)) / 16) = _
    congr 1 <;> omega⟩
theorem Rebuild.vlda (d a m k : Nat) : Rebuild.Statement (.vlda d a m k) := by
  intro r h; cases h; exact ⟨_, rfl, rfl, fun h => by
    simp only [Instr.wf, FieldClass.ok, Bool.and_eq_true, decide_eq_true_eq] at h
    refine ⟨by simp [FieldClass.ok]; omega, fun w => ?_⟩
    show Instr.vlda d a (((k * 16 + m)) % 16) (((k * 16 + m)) / 16) = _
    congr 1 <;> omega⟩
theorem Rebuild.vstr (d a m k : Nat) : Rebuild.Statement (.vstr d a m k) := by
  intro r h; cases h; exact ⟨_, rfl, rfl, fun h => by
    simp only [Instr.wf, FieldClass.ok, Bool.and_eq_true, decide_eq_true_eq] at h
    refine ⟨by simp [FieldClass.ok]; omega, fun w => ?_⟩
    show Instr.vstr d a (((k * 16 + m)) % 16) (((k * 16 + m)) / 16) = _
    congr 1 <;> omega⟩
theorem Rebuild.sld (d a m : Nat) : Rebuild.Statement (.sld d a m) := by
  intro r h; cases h; exact ⟨_, rfl, rfl, fun h => by
    simp only [Instr.wf, FieldClass.ok, Bool.and_eq_true, decide_eq_true_eq] at h
    refine ⟨by simp [FieldClass.ok]; omega, fun w => ?_⟩
    show Instr.sld d a (m % 16) = _
    congr 1 <;> omega⟩
theorem Rebuild.sst (d a m : Nat) : Rebuild.Statement (.sst d a m) := by
  intro r h; cases h; exact ⟨_, rfl, rfl, fun h => by
    simp only [Instr.wf, FieldClass.ok, Bool.and_eq_true, decide_eq_true_eq] at h
    refine ⟨by simp [FieldClass.ok]; omega, fun w => ?_⟩
    show Instr.sst d a (m % 16) = _
    congr 1 <;> omega⟩
theorem Rebuild.vlds (d a : Nat) : Rebuild.Statement (.vlds d a) := by
  intro r h; cases h; exact ⟨_, rfl, rfl, fun h => ⟨by rw [show FieldClass.ok .z 0 = true from rfl, Bool.and_true]; exact h, fun _ => rfl⟩⟩
theorem Rebuild.vsts (d a : Nat) : Rebuild.Statement (.vsts d a) := by
  intro r h; cases h; exact ⟨_, rfl, rfl, fun h => ⟨by rw [show FieldClass.ok .z 0 = true from rfl, Bool.and_true]; exact h, fun _ => rfl⟩⟩
theorem Rebuild.vldsr (d a b : Nat) : Rebuild.Statement (.vldsr d a b) := by
  intro r h; cases h; exact ⟨_, rfl, rfl, fun h => ⟨h, fun _ => rfl⟩⟩
theorem Rebuild.vstsr (d a b : Nat) : Rebuild.Statement (.vstsr d a b) := by
  intro r h; cases h; exact ⟨_, rfl, rfl, fun h => ⟨h, fun _ => rfl⟩⟩
theorem Rebuild.vldc (d a : Nat) : Rebuild.Statement (.vldc d a) := by
  intro r h; cases h; exact ⟨_, rfl, rfl, fun h => ⟨by rw [show FieldClass.ok .z 0 = true from rfl, Bool.and_true]; exact h, fun _ => rfl⟩⟩
theorem Rebuild.sldc (d a : Nat) : Rebuild.Statement (.sldc d a) := by
  intro r h; cases h; exact ⟨_, rfl, rfl, fun h => ⟨by rw [show FieldClass.ok .z 0 = true from rfl, Bool.and_true]; exact h, fun _ => rfl⟩⟩
theorem Rebuild.fence (b : Nat) : Rebuild.Statement (.fence b) := by
  intro r h; cases h; exact ⟨_, rfl, rfl, fun h => ⟨h, fun _ => rfl⟩⟩
theorem Rebuild.seal (d a m : Nat) : Rebuild.Statement (.seal d a m) := by
  intro r h; cases h; exact ⟨_, rfl, rfl, fun h => by
    simp only [Instr.wf, FieldClass.ok, Bool.and_eq_true, decide_eq_true_eq] at h
    refine ⟨by simp [FieldClass.ok]; omega, fun w => ?_⟩
    show Instr.seal d a (m % 16) = _
    congr 1 <;> omega⟩
theorem Rebuild.unseal (d a m : Nat) : Rebuild.Statement (.unseal d a m) := by
  intro r h; cases h; exact ⟨_, rfl, rfl, fun h => by
    simp only [Instr.wf, FieldClass.ok, Bool.and_eq_true, decide_eq_true_eq] at h
    refine ⟨by simp [FieldClass.ok]; omega, fun w => ?_⟩
    show Instr.unseal d a (m % 16) = _
    congr 1 <;> omega⟩
theorem Rebuild.repl (d a m : Nat) : Rebuild.Statement (.repl d a m) := by
  intro r h; cases h; exact ⟨_, rfl, rfl, fun h => by
    simp only [Instr.wf, FieldClass.ok, Bool.and_eq_true, decide_eq_true_eq] at h
    refine ⟨by simp [FieldClass.ok]; omega, fun w => ?_⟩
    show Instr.repl d a (m % 16) = _
    congr 1 <;> omega⟩
theorem Rebuild.vatom (d a m : Nat) (l : Word) : Rebuild.Statement (.vatom d a m l) := by
  intro r h; cases h; exact ⟨_, rfl, rfl, fun h => by
    simp only [Instr.wf, FieldClass.ok, Bool.and_eq_true, decide_eq_true_eq] at h
    refine ⟨by simp [FieldClass.ok]; omega, fun w => ?_⟩
    show Instr.vatom d a (m % 16) l = _
    congr 1 <;> omega⟩
theorem Rebuild.vred (d a m : Nat) (l : Word) : Rebuild.Statement (.vred d a m l) := by
  intro r h; cases h; exact ⟨_, rfl, rfl, fun h => by
    simp only [Instr.wf, FieldClass.ok, Bool.and_eq_true, decide_eq_true_eq] at h
    refine ⟨by simp [FieldClass.ok]; omega, fun w => ?_⟩
    show Instr.vred d a (m % 16) l = _
    congr 1 <;> omega⟩
theorem Rebuild.vcas (d a m : Nat) (l : Word) : Rebuild.Statement (.vcas d a m l) := by
  intro r h; cases h; exact ⟨_, rfl, rfl, fun h => by
    simp only [Instr.wf, FieldClass.ok, Bool.and_eq_true, decide_eq_true_eq] at h
    refine ⟨by simp [FieldClass.ok]; omega, fun w => ?_⟩
    show Instr.vcas d a (m % 16) l = _
    congr 1 <;> omega⟩
theorem Rebuild.vatoms (d a : Nat) (l : Word) : Rebuild.Statement (.vatoms d a l) := by
  intro r h; cases h; exact ⟨_, rfl, rfl, fun h => ⟨by rw [show FieldClass.ok .z 0 = true from rfl, Bool.and_true]; exact h, fun _ => rfl⟩⟩
theorem Rebuild.vreds (d a : Nat) (l : Word) : Rebuild.Statement (.vreds d a l) := by
  intro r h; cases h; exact ⟨_, rfl, rfl, fun h => ⟨by rw [show FieldClass.ok .z 0 = true from rfl, Bool.and_true]; exact h, fun _ => rfl⟩⟩
theorem Rebuild.satom (d a m : Nat) (l : Word) : Rebuild.Statement (.satom d a m l) := by
  intro r h; cases h; exact ⟨_, rfl, rfl, fun h => by
    simp only [Instr.wf, FieldClass.ok, Bool.and_eq_true, decide_eq_true_eq] at h
    refine ⟨by simp [FieldClass.ok]; omega, fun w => ?_⟩
    show Instr.satom d a (m % 16) l = _
    congr 1 <;> omega⟩
theorem Rebuild.vpref (a m : Nat) : Rebuild.Statement (.vpref a m) := by
  intro r h; cases h; exact ⟨_, rfl, rfl, fun h => by
    simp only [Instr.wf, FieldClass.ok, Bool.and_eq_true, decide_eq_true_eq] at h
    refine ⟨by simp [FieldClass.ok]; omega, fun w => ?_⟩
    show Instr.vpref a (m % 16) = _
    congr 1 <;> omega⟩
theorem Rebuild.arrk (a : Nat) : Rebuild.Statement (.arrk a) := by
  intro r h; cases h; exact ⟨_, rfl, rfl, fun h => ⟨by rw [show FieldClass.ok .z 0 = true from rfl, Bool.and_true]; exact h, fun _ => rfl⟩⟩
theorem Rebuild.waitk (a : Nat) : Rebuild.Statement (.waitk a) := by
  intro r h; cases h; exact ⟨_, rfl, rfl, fun h => ⟨by rw [show FieldClass.ok .z 0 = true from rfl, Bool.and_true]; exact h, fun _ => rfl⟩⟩
theorem Rebuild.synck (a : Nat) : Rebuild.Statement (.synck a) := by
  intro r h; cases h; exact ⟨_, rfl, rfl, fun h => ⟨by rw [show FieldClass.ok .z 0 = true from rfl, Bool.and_true]; exact h, fun _ => rfl⟩⟩
theorem Rebuild.arrq (a : Nat) : Rebuild.Statement (.arrq a) := by
  intro r h; cases h; exact ⟨_, rfl, rfl, fun h => ⟨by rw [show FieldClass.ok .z 0 = true from rfl, Bool.and_true]; exact h, fun _ => rfl⟩⟩
theorem Rebuild.waitq (a : Nat) : Rebuild.Statement (.waitq a) := by
  intro r h; cases h; exact ⟨_, rfl, rfl, fun h => ⟨by rw [show FieldClass.ok .z 0 = true from rfl, Bool.and_true]; exact h, fun _ => rfl⟩⟩
theorem Rebuild.syncq (a : Nat) : Rebuild.Statement (.syncq a) := by
  intro r h; cases h; exact ⟨_, rfl, rfl, fun h => ⟨by rw [show FieldClass.ok .z 0 = true from rfl, Bool.and_true]; exact h, fun _ => rfl⟩⟩
theorem Rebuild.arrg (a : Nat) : Rebuild.Statement (.arrg a) := by
  intro r h; cases h; exact ⟨_, rfl, rfl, fun h => ⟨by rw [show FieldClass.ok .z 0 = true from rfl, Bool.and_true]; exact h, fun _ => rfl⟩⟩
theorem Rebuild.waitg (a : Nat) : Rebuild.Statement (.waitg a) := by
  intro r h; cases h; exact ⟨_, rfl, rfl, fun h => ⟨by rw [show FieldClass.ok .z 0 = true from rfl, Bool.and_true]; exact h, fun _ => rfl⟩⟩
theorem Rebuild.syncg (a : Nat) : Rebuild.Statement (.syncg a) := by
  intro r h; cases h; exact ⟨_, rfl, rfl, fun h => ⟨by rw [show FieldClass.ok .z 0 = true from rfl, Bool.and_true]; exact h, fun _ => rfl⟩⟩
theorem Rebuild.twait (d a b : Nat) : Rebuild.Statement (.twait d a b) := by
  intro r h; cases h; exact ⟨_, rfl, rfl, fun h => ⟨h, fun _ => rfl⟩⟩
theorem Rebuild.evwait (d : Nat) : Rebuild.Statement (.evwait d) := by
  intro r h; cases h; exact ⟨_, rfl, rfl, fun h => ⟨by rw [show FieldClass.ok .z 0 = true from rfl, Bool.and_true, Bool.and_true]; exact h, fun _ => rfl⟩⟩
theorem Rebuild.evpop (d : Nat) : Rebuild.Statement (.evpop d) := by
  intro r h; cases h; exact ⟨_, rfl, rfl, fun h => ⟨by rw [show FieldClass.ok .z 0 = true from rfl, Bool.and_true, Bool.and_true]; exact h, fun _ => rfl⟩⟩
theorem Rebuild.cpy (d a b : Nat) (l : Word) : Rebuild.Statement (.cpy d a b l) := by
  intro r h; cases h; exact ⟨_, rfl, rfl, fun h => ⟨h, fun _ => rfl⟩⟩
theorem Rebuild.cpyt (d a b : Nat) (l : Word) : Rebuild.Statement (.cpyt d a b l) := by
  intro r h; cases h; exact ⟨_, rfl, rfl, fun h => ⟨h, fun _ => rfl⟩⟩
theorem Rebuild.merge (d a b : Nat) (l : Word) : Rebuild.Statement (.merge d a b l) := by
  intro r h; cases h; exact ⟨_, rfl, rfl, fun h => ⟨h, fun _ => rfl⟩⟩
theorem Rebuild.cmpct (a b : Nat) : Rebuild.Statement (.cmpct a b) := by
  intro r h; cases h; exact ⟨_, rfl, rfl, fun h => ⟨h, fun _ => rfl⟩⟩
theorem Rebuild.wltake (d a : Nat) : Rebuild.Statement (.wltake d a) := by
  intro r h; cases h; exact ⟨_, rfl, rfl, fun h => ⟨by rw [show FieldClass.ok .z 0 = true from rfl, Bool.and_true]; exact h, fun _ => rfl⟩⟩
theorem Rebuild.mrsv (d a : Nat) : Rebuild.Statement (.mrsv d a) := by
  intro r h; cases h; exact ⟨_, rfl, rfl, fun h => ⟨by rw [show FieldClass.ok .z 0 = true from rfl, Bool.and_true]; exact h, fun _ => rfl⟩⟩
theorem Rebuild.mcrew (l : Word) : Rebuild.Statement (.mcrew l) := by
  intro r h; cases h; exact ⟨_, rfl, rfl, fun h => ⟨rfl, fun _ => rfl⟩⟩
theorem Rebuild.mmj (d a b : Nat) (l : Word) : Rebuild.Statement (.mmj d a b l) := by
  intro r h; cases h; exact ⟨_, rfl, rfl, fun h => ⟨h, fun _ => rfl⟩⟩
theorem Rebuild.mms (d a b : Nat) (l : Word) : Rebuild.Statement (.mms d a b l) := by
  intro r h; cases h; exact ⟨_, rfl, rfl, fun h => ⟨h, fun _ => rfl⟩⟩
theorem Rebuild.mmg (d a b : Nat) (l : Word) : Rebuild.Statement (.mmg d a b l) := by
  intro r h; cases h; exact ⟨_, rfl, rfl, fun h => ⟨h, fun _ => rfl⟩⟩
theorem Rebuild.mmd (d a b : Nat) (l : Word) : Rebuild.Statement (.mmd d a b l) := by
  intro r h; cases h; exact ⟨_, rfl, rfl, fun h => ⟨h, fun _ => rfl⟩⟩
theorem Rebuild.mzero (d : Nat) : Rebuild.Statement (.mzero d) := by
  intro r h; cases h; exact ⟨_, rfl, rfl, fun h => ⟨by rw [show FieldClass.ok .z 0 = true from rfl, Bool.and_true, Bool.and_true]; exact h, fun _ => rfl⟩⟩
theorem Rebuild.mld (d a : Nat) : Rebuild.Statement (.mld d a) := by
  intro r h; cases h; exact ⟨_, rfl, rfl, fun h => ⟨by rw [show FieldClass.ok .z 0 = true from rfl, Bool.and_true]; exact h, fun _ => rfl⟩⟩
theorem Rebuild.mdrn (d a b : Nat) : Rebuild.Statement (.mdrn d a b) := by
  intro r h; cases h; exact ⟨_, rfl, rfl, fun h => ⟨h, fun _ => rfl⟩⟩
theorem Rebuild.mdrs (d a b : Nat) : Rebuild.Statement (.mdrs d a b) := by
  intro r h; cases h; exact ⟨_, rfl, rfl, fun h => ⟨h, fun _ => rfl⟩⟩
theorem Rebuild.mdrm (d a b : Nat) : Rebuild.Statement (.mdrm d a b) := by
  intro r h; cases h; exact ⟨_, rfl, rfl, fun h => ⟨h, fun _ => rfl⟩⟩
theorem Rebuild.mdrf (d a b : Nat) : Rebuild.Statement (.mdrf d a b) := by
  intro r h; cases h; exact ⟨_, rfl, rfl, fun h => ⟨h, fun _ => rfl⟩⟩
theorem Rebuild.mbrd (d a b : Nat) : Rebuild.Statement (.mbrd d a b) := by
  intro r h; cases h; exact ⟨_, rfl, rfl, fun h => ⟨h, fun _ => rfl⟩⟩
theorem Rebuild.mbwr (a b : Nat) : Rebuild.Statement (.mbwr a b) := by
  intro r h; cases h; exact ⟨_, rfl, rfl, fun h => ⟨h, fun _ => rfl⟩⟩
theorem Rebuild.mcvt (d a b : Nat) : Rebuild.Statement (.mcvt d a b) := by
  intro r h; cases h; exact ⟨_, rfl, rfl, fun h => ⟨h, fun _ => rfl⟩⟩
theorem Rebuild.reservedOpcode (w : Word) : Rebuild.Statement (.reservedOpcode w) :=
  fun _ h => nomatch h
theorem Rebuild.instructionFetch (x : DWord) : Rebuild.Statement (.instructionFetch x) :=
  fun _ h => nomatch h
theorem Rebuild.instructionComplete (tid u : Nat) : Rebuild.Statement (.instructionComplete tid u) :=
  fun _ h => nomatch h
theorem Rebuild.trapEntry (tid : Nat) : Rebuild.Statement (.trapEntry tid) :=
  fun _ h => nomatch h
theorem Rebuild.phaseOverrun (tid : Nat) : Rebuild.Statement (.phaseOverrun tid) :=
  fun _ h => nomatch h
theorem Rebuild.twaitTimeout (tid : Nat) : Rebuild.Statement (.twaitTimeout tid) :=
  fun _ h => nomatch h
theorem Rebuild.workListQuiet (gid : Nat) : Rebuild.Statement (.workListQuiet gid) :=
  fun _ h => nomatch h
theorem Rebuild.engineOperationComplete (op : Nat) : Rebuild.Statement (.engineOperationComplete op) :=
  fun _ h => nomatch h
theorem Rebuild.matrixReservationAdmit (q : Nat) : Rebuild.Statement (.matrixReservationAdmit q) :=
  fun _ h => nomatch h
theorem Rebuild.matrixLatchFire (q u : Nat) : Rebuild.Statement (.matrixLatchFire q u) :=
  fun _ h => nomatch h
theorem Rebuild.matrixPass (q u : Nat) : Rebuild.Statement (.matrixPass q u) :=
  fun _ h => nomatch h
theorem Rebuild.matrixOperationComplete (q u : Nat) : Rebuild.Statement (.matrixOperationComplete q u) :=
  fun _ h => nomatch h
theorem Rebuild.cupboardFill (q gid : Nat) : Rebuild.Statement (.cupboardFill q gid) :=
  fun _ h => nomatch h
theorem Rebuild.blockPlacement (gid : Nat) : Rebuild.Statement (.blockPlacement gid) :=
  fun _ h => nomatch h
theorem Rebuild.gangPlacement (gid : Nat) : Rebuild.Statement (.gangPlacement gid) :=
  fun _ h => nomatch h
theorem Rebuild.effectiveClassAgeing (gid : Nat) : Rebuild.Statement (.effectiveClassAgeing gid) :=
  fun _ h => nomatch h
theorem Rebuild.gangPressing (gid : Nat) : Rebuild.Statement (.gangPressing gid) :=
  fun _ h => nomatch h
theorem Rebuild.gridCompletion (gid : Nat) : Rebuild.Statement (.gridCompletion gid) :=
  fun _ h => nomatch h
theorem Rebuild.childWaitEviction (gid : Nat) : Rebuild.Statement (.childWaitEviction gid) :=
  fun _ h => nomatch h
theorem Rebuild.unitRestore (u : Nat) : Rebuild.Statement (.unitRestore u) :=
  fun _ h => nomatch h
theorem Rebuild.contextEnd (slot : Nat) : Rebuild.Statement (.contextEnd slot) :=
  fun _ h => nomatch h
theorem Rebuild.peerPortUp (p : Nat) : Rebuild.Statement (.peerPortUp p) :=
  fun _ h => nomatch h
theorem Rebuild.reductionRowArrival (p st ix : Nat) (row : List Word) (bound : Word) : Rebuild.Statement (.reductionRowArrival p st ix row bound) :=
  fun _ h => nomatch h
theorem Rebuild.getVersion (r : SpdmReq) : Rebuild.Statement (.getVersion r) :=
  fun _ h => nomatch h
theorem Rebuild.getCapabilities (r : SpdmReq) : Rebuild.Statement (.getCapabilities r) :=
  fun _ h => nomatch h
theorem Rebuild.negotiateAlgorithms (r : SpdmReq) : Rebuild.Statement (.negotiateAlgorithms r) :=
  fun _ h => nomatch h
theorem Rebuild.getDigests (r : SpdmReq) : Rebuild.Statement (.getDigests r) :=
  fun _ h => nomatch h
theorem Rebuild.getCertificate (r : SpdmReq) : Rebuild.Statement (.getCertificate r) :=
  fun _ h => nomatch h
theorem Rebuild.challenge (r : SpdmReq) : Rebuild.Statement (.challenge r) :=
  fun _ h => nomatch h
theorem Rebuild.getMeasurements (r : SpdmReq) : Rebuild.Statement (.getMeasurements r) :=
  fun _ h => nomatch h
theorem Rebuild.spdmUnsupportedRequest (r : SpdmReq) : Rebuild.Statement (.spdmUnsupportedRequest r) :=
  fun _ h => nomatch h
theorem Rebuild.pldmSensorRead (n : Nat) : Rebuild.Statement (.pldmSensorRead n) :=
  fun _ h => nomatch h
theorem Rebuild.pldmSetPowerCap (w : BitVec 16) : Rebuild.Statement (.pldmSetPowerCap w) :=
  fun _ h => nomatch h
theorem Rebuild.pldmDeviceReset (b : BringUp) : Rebuild.Statement (.pldmDeviceReset b) :=
  fun _ h => nomatch h
theorem Rebuild.pldmFirmwareStage (img svn : Nat) : Rebuild.Statement (.pldmFirmwareStage img svn) :=
  fun _ h => nomatch h
theorem Rebuild.pwrokRise (b : BringUp) : Rebuild.Statement (.pwrokRise b) :=
  fun _ h => nomatch h
theorem Rebuild.deviceReset (b : BringUp) : Rebuild.Statement (.deviceReset b) :=
  fun _ h => nomatch h
theorem Rebuild.bridgeTimeout (tw : Nat) : Rebuild.Statement (.bridgeTimeout tw) :=
  fun _ h => nomatch h
theorem Rebuild.vpCorrectedError (core vp : Nat) : Rebuild.Statement (.vpCorrectedError core vp) :=
  fun _ h => nomatch h
theorem Rebuild.vpUncorrectableError (core vp tid : Nat) : Rebuild.Statement (.vpUncorrectableError core vp tid) :=
  fun _ h => nomatch h
theorem Rebuild.softErrorCorrected (tw st : Nat) : Rebuild.Statement (.softErrorCorrected tw st) :=
  fun _ h => nomatch h
theorem Rebuild.softErrorUncorrectable (tw st : Nat) (w : SoftErr) : Rebuild.Statement (.softErrorUncorrectable tw st w) :=
  fun _ h => nomatch h
theorem Rebuild.engineOperationStopped (op : Nat) : Rebuild.Statement (.engineOperationStopped op) :=
  fun _ h => nomatch h
theorem Rebuild.endpointIdAssignment (eid : BitVec 8) : Rebuild.Statement (.endpointIdAssignment eid) :=
  fun _ h => nomatch h
theorem Rebuild.nop : Rebuild.Statement .nop := by
  intro r h; cases h; exact ⟨_, rfl, rfl, fun h => ⟨rfl, fun _ => rfl⟩⟩
theorem Rebuild.join : Rebuild.Statement .join := by
  intro r h; cases h; exact ⟨_, rfl, rfl, fun h => ⟨rfl, fun _ => rfl⟩⟩
theorem Rebuild.exit : Rebuild.Statement .exit := by
  intro r h; cases h; exact ⟨_, rfl, rfl, fun h => ⟨rfl, fun _ => rfl⟩⟩
theorem Rebuild.eret : Rebuild.Statement .eret := by
  intro r h; cases h; exact ⟨_, rfl, rfl, fun h => ⟨rfl, fun _ => rfl⟩⟩
theorem Rebuild.mrel : Rebuild.Statement .mrel := by
  intro r h; cases h; exact ⟨_, rfl, rfl, fun h => ⟨rfl, fun _ => rfl⟩⟩
theorem Rebuild.replicationEpoch : Rebuild.Statement .replicationEpoch :=
  fun _ h => nomatch h
theorem Rebuild.launchMsg : Rebuild.Statement .launchMsg :=
  fun _ h => nomatch h
theorem Rebuild.mwr : Rebuild.Statement .mwr :=
  fun _ h => nomatch h
theorem Rebuild.mrd : Rebuild.Statement .mrd :=
  fun _ h => nomatch h
theorem Rebuild.hostWrack : Rebuild.Statement .hostWrack :=
  fun _ h => nomatch h
theorem Rebuild.hostMrdresp : Rebuild.Statement .hostMrdresp :=
  fun _ h => nomatch h
theorem Rebuild.matomresp : Rebuild.Statement .matomresp :=
  fun _ h => nomatch h
theorem Rebuild.featureSelect : Rebuild.Statement .featureSelect :=
  fun _ h => nomatch h
theorem Rebuild.faultreply : Rebuild.Statement .faultreply :=
  fun _ h => nomatch h
theorem Rebuild.preemptMakeRoom : Rebuild.Statement .preemptMakeRoom :=
  fun _ h => nomatch h
theorem Rebuild.preemptSuspend : Rebuild.Statement .preemptSuspend :=
  fun _ h => nomatch h
theorem Rebuild.preemptResume : Rebuild.Statement .preemptResume :=
  fun _ h => nomatch h
theorem Rebuild.ctxctlActivate : Rebuild.Statement .ctxctlActivate :=
  fun _ h => nomatch h
theorem Rebuild.ctxctlEnd : Rebuild.Statement .ctxctlEnd :=
  fun _ h => nomatch h
theorem Rebuild.invalidateRange : Rebuild.Statement .invalidateRange :=
  fun _ h => nomatch h
theorem Rebuild.invalidateAll : Rebuild.Statement .invalidateAll :=
  fun _ h => nomatch h
theorem Rebuild.invalidateRegion : Rebuild.Statement .invalidateRegion :=
  fun _ h => nomatch h
theorem Rebuild.invalidateCode : Rebuild.Statement .invalidateCode :=
  fun _ h => nomatch h
theorem Rebuild.reductionStreamWrite : Rebuild.Statement .reductionStreamWrite :=
  fun _ h => nomatch h
theorem Rebuild.peerPortEnable : Rebuild.Statement .peerPortEnable :=
  fun _ h => nomatch h
theorem Rebuild.peerPortDisable : Rebuild.Statement .peerPortDisable :=
  fun _ h => nomatch h
theorem Rebuild.registerWrite : Rebuild.Statement .registerWrite :=
  fun _ h => nomatch h
theorem Rebuild.spdmMailboxGo : Rebuild.Statement .spdmMailboxGo :=
  fun _ h => nomatch h
theorem Rebuild.pldmDiscovery : Rebuild.Statement .pldmDiscovery :=
  fun _ h => nomatch h
theorem Rebuild.pldmLinkRetrain : Rebuild.Statement .pldmLinkRetrain :=
  fun _ h => nomatch h
theorem Rebuild.pwrokFall : Rebuild.Statement .pwrokFall :=
  fun _ h => nomatch h
theorem Rebuild.sbReset : Rebuild.Statement .sbReset :=
  fun _ h => nomatch h
theorem Rebuild.linkStart : Rebuild.Statement .linkStart :=
  fun _ h => nomatch h
theorem Rebuild.throttle : Rebuild.Statement .throttle :=
  fun _ h => nomatch h
theorem Rebuild.clockRecovery : Rebuild.Statement .clockRecovery :=
  fun _ h => nomatch h
theorem Rebuild.thermalTrip : Rebuild.Statement .thermalTrip :=
  fun _ h => nomatch h
theorem Rebuild.leakDecay : Rebuild.Statement .leakDecay :=
  fun _ h => nomatch h
theorem Rebuild.unknownType : Rebuild.Statement .unknownType :=
  fun _ h => nomatch h

end Sys2Proof.Laws
end

