-- ==== Sys2Proof/Laws/Record.lean ====
section
/-! SUPPORT. How long the records of the save area are, without their bytes. -/

namespace Sys2Proof.Machine

theorem lay_fold_length (l : List (Nat × List Byte)) (acc : List Byte) :
    (l.foldl (fun (acc : List Byte) p => acc ++ List.replicate (p.1 - acc.length) 0 ++ p.2) acc).length =
      l.foldl (fun a p => max a p.1 + p.2.length) acc.length := by
  induction l generalizing acc with
  | nil => rfl
  | cons p l ih =>
    simp only [List.foldl_cons]
    rw [ih]
    congr 1
    simp
    omega

/-- A layout reaches n, or the end of its last section. -/
theorem layOut_length (n : Nat) (l : List (Nat × List Byte)) :
    (layOut n l).length = max n (l.foldl (fun a p => max a p.1 + p.2.length) 0) := by
  unfold layOut
  simp only [List.length_append, List.length_replicate, lay_fold_length, List.length_nil]
  omega

/-- Whether a unit is evicted does not depend on the counts so far. -/
theorem evictCount_isSome (s : State) (n : Evicted) (bs : List Block) (m : Bool) :
    (s.evictCount n bs m).isSome = (s.evictUnit bs m).isSome := by simp [State.evictCount]

end Sys2Proof.Machine
end

