-- ==== Sys2Proof/Tests/Slice0.lean ====
section
/-! SUPPORT. Tests of the model, small and on fixed values: each check of WellFormed refuses an ill-formed term; words
written out from the spec's tables decode to what they stand for; single steps have the results that the spec's rules give;
and for every obligation with hypotheses, concrete states and operands that meet them together. -/

set_option Elab.async false

namespace Sys2Proof.Tests

open Machine Claims

/-! ### WellFormed -/

/-- One operand out of its class in each: S, V, P, M, T, E, K, Q, G, BARSEL (its three classes), SYS, the immediates. -/
theorem test_wf_refuses_operands : ([.sadd 64 0 0, .vadd 0 256 0, .brp 16 0, .sld 0 0 8, .mzero 16, .mbwr 16 0, .arrk 32,
    .arrq 8, .arrg 4, .twait 0 32 0, .twait 0 72 0, .twait 0 132 0, .twait 0 192 0, .srd 0 17, .trap 256, .sshli 0 0 64,
    .brs 0 8 0, .brv 0 3 0, .vfrint 0 0 6, .cvt 0 0 18, .redv 0 0 6, .vunpk 0 0 8] : List Instr).all (fun i => !i.wf) = true := by
  decide +kernel

/-- A P destination is not p0; SCAN, FENCE and the modifiers of the MS class have their own ranges. -/
theorem test_wf_refuses_special_ranges : ([.pand 0 1 1, .vcmpeq 0 1 1, .mrsv 0 1, .scan 0 0 6, .scan 0 0 16, .fence 4,
    .fence 0x45, .fence 0x48, .fence 256, .vldn 0 0 0 0, .vldn 0 0 0 16, .vlda 0 0 0 5, .vstr 0 0 0 5] : List Instr).all
    (fun i => !i.wf) = true := by
  decide +kernel

/-- An event names a quad, slot, tower, core, bundle, port, stream, row, structure or image that exists. -/
theorem test_wf_refuses_events : ([.matrixPass 160 0, .matrixLatchFire 160 0, .cupboardFill 160 0, .contextEnd 16,
    .bridgeTimeout 8, .vpCorrectedError 640 0, .vpUncorrectableError 0 2 0, .softErrorCorrected 8 0,
    .softErrorUncorrectable 0 8 .clean, .peerPortUp 0, .peerPortUp 19, .reductionRowArrival 1 256 0 (List.replicate 128 0) 0,
    .reductionRowArrival 1 0 128 (List.replicate 128 0) 0, .reductionRowArrival 1 0 0 [] 0, .pldmFirmwareStage 0 0,
    .pldmFirmwareStage 4 0, .deviceReset { lost := [8], failed := [] }, .pwrokRise { lost := [], failed := [(640, 0)] },
    .pldmDeviceReset { lost := [], failed := [(0, 2)] }] : List Instr).all (fun i => !i.wf) = true := by
  decide +kernel

/-! ### Decoding: words written out from the opcode map, opcode [31:24], d [23:16], a [15:8], b [7:0] (R164, R179) -/

/-- Control: SETMK has b 1 and two literals; BRP and CALL have one; EXIT none. -/
theorem test_decode_control : decodeWords 0x01000001#32 [0x1F#32, 0xF0#32] = .ok (.setmk 0x1F 0xF0, 3) ∧
    decodeWords 0x04000300#32 [0x80#32] = .ok (.brp 3 0x80, 2) ∧ decodeWords 0x08090000#32 [0x80#32] = .ok (.call 9 0x80, 2) ∧
    decodeWords 0x0D000000#32 [] = .ok (.exit, 1) := by decide +kernel

/-- Scalar: SSUB, SADDI, SXLATE, SUNOP 2 (SABS), SMOVL with b 0. -/
theorem test_decode_scalar : decodeWords 0x11010203#32 [] = .ok (.ssub 1 2 3, 1) ∧
    decodeWords 0x1F0102FF#32 [] = .ok (.saddi 1 2 255, 1) ∧ decodeWords 0x24030500#32 [] = .ok (.sxlate 3 5, 1) ∧
    decodeWords 0x2A010202#32 [] = .ok (.sabs 1 2, 1) ∧ decodeWords 0x22040000#32 [7#32] = .ok (.smovl 4 7 none, 2) := by
  decide +kernel

/-- Vector integer and predicates: VABSD, VSARI, VCMPLE, PNOT, VBFI. -/
theorem test_decode_vector_integer : decodeWords 0x39FF0102#32 [] = .ok (.vabsd 255 1 2, 1) ∧
    decodeWords 0x4501023F#32 [] = .ok (.vsari 1 2 63, 1) ∧ decodeWords 0x4A0F0102#32 [] = .ok (.vcmple 15 1 2, 1) ∧
    decodeWords 0x51010F00#32 [] = .ok (.pnot 1 15, 1) ∧ decodeWords 0x53010200#32 [0x805#32] = .ok (.vbfi 1 2 0x805, 2) := by
  decide +kernel

/-- Floating point and conversion: VFNMA, VFCMPUN, VFFMAL, CVT to ET 17, CBDEC. -/
theorem test_decode_float : decodeWords 0x5D010203#32 [] = .ok (.vfnma 1 2 3, 1) ∧
    decodeWords 0x6E010203#32 [] = .ok (.vfcmpun 1 2 3, 1) ∧
    decodeWords 0x72010203#32 [0x3F800000#32] = .ok (.vffmal 1 2 3 0x3F800000, 2) ∧
    decodeWords 0x88010211#32 [] = .ok (.cvt 1 2 17, 1) ∧ decodeWords 0x8B010203#32 [] = .ok (.cbdec 1 2 3, 1) := by
  decide +kernel

/-- Across lanes: SHFLX, exclusive SCAN of operation 5, REDV, BALLOT, LMV8. -/
theorem test_decode_cross_lane : decodeWords 0x990102FF#32 [] = .ok (.shflx 1 2 255, 1) ∧
    decodeWords 0x9B01020D#32 [] = .ok (.scan 1 2 13, 1) ∧ decodeWords 0x9C010205#32 [] = .ok (.redv 1 2 5, 1) ∧
    decodeWords 0x9D010203#32 [] = .ok (.ballot 1 2 3, 1) ∧ decodeWords 0xA0010203#32 [] = .ok (.lmv8 1 2 3, 1) := by
  decide +kernel

/-- Memory: VSTR of scope 4 through m7, VSTSR, SLDC, FENCE of kind 3 and scope 4, VCAS, SATOM, VPREF. -/
theorem test_decode_memory : decodeWords 0xAC010247#32 [] = .ok (.vstr 1 2 7 4, 1) ∧
    decodeWords 0xB2010203#32 [] = .ok (.vstsr 1 2 3, 1) ∧ decodeWords 0xB4010200#32 [] = .ok (.sldc 1 2, 1) ∧
    decodeWords 0xB50000C4#32 [] = .ok (.fence 0xC4, 1) ∧ decodeWords 0xBB010203#32 [0#32] = .ok (.vcas 1 2 3 0, 2) ∧
    decodeWords 0xBE010207#32 [9#32] = .ok (.satom 1 2 7 9, 2) ∧ decodeWords 0xBF000201#32 [] = .ok (.vpref 2 1, 1) := by
  decide +kernel

/-- Barriers, engines and lists: SYNCQ, TWAIT on g3, EVPOP, MERGE, WLTAKE. -/
theorem test_decode_barriers_and_engines : decodeWords 0xD5000700#32 [] = .ok (.syncq 7, 1) ∧
    decodeWords 0xD9018302#32 [] = .ok (.twait 1 0x83 2, 1) ∧ decodeWords 0xDB010000#32 [] = .ok (.evpop 1, 1) ∧
    decodeWords 0xE2010203#32 [8#32] = .ok (.merge 1 2 3 8, 2) ∧ decodeWords 0xE4010200#32 [] = .ok (.wltake 1 2, 1) := by
  decide +kernel

/-- The matrix engine: MRSV, MCREW, MMG, MDRF, MBWR, MCVT. -/
theorem test_decode_matrix : decodeWords 0xEC010200#32 [] = .ok (.mrsv 1 2, 1) ∧
    decodeWords 0xEE000000#32 [5#32] = .ok (.mcrew 5, 2) ∧ decodeWords 0xF1010203#32 [4#32] = .ok (.mmg 1 2 3 4, 2) ∧
    decodeWords 0xF8010203#32 [] = .ok (.mdrf 1 2 3, 1) ∧ decodeWords 0xFA000203#32 [] = .ok (.mbwr 2 3, 1) ∧
    decodeWords 0xFB010200#32 [] = .ok (.mcvt 1 2 0, 1) := by decide +kernel

/-! ### States for the tests -/

/-- A team of 4 lanes and 256 vector registers, trap vector enabled, at the first word of a clause of two. -/
def st : State := { (State.reset.place [0#32]).modT fun t => { t with
    pc := 0x200004, cl := { hdr := 0x2000FF0A, idx := 1 }, tvec := 0x300001, lanes := 4, mask := 0xF } with acts := [] }

def regs (s : State) (l : List (Nat × DWord)) : State := s.modT fun t => { t with s := sputs 0 l t.s }
def vreg (s : State) (n : Nat) (l : List Word) : State :=
  s.modT fun t => { t with v := sputs 0 ((List.zip (List.range 1024) l).map fun p => (1024 * n + p.1, p.2)) t.v }
def preg (s : State) (n : Nat) (x : Lanes) : State := s.modT fun t => { t with p := sput 0 n x t.p }
def mode (s : State) (m : Word) : State := s.modT fun t => { t with mode := m }

/-- The state that an instruction leaves. -/
def after (i : Instr) (s : State) : State := match exec i s with | .next u => u | _ => State.reset
def goesOn (o : Host.Outcome State Fault Refusal) : Bool := match o with | .next _ => true | _ => false

def clearB (s : State) : Bool :=
  s.t.dec == [] && !s.ctxEnding s.t.ctx && s.t.log == [] && s.t.infl == [] && s.t.recent == [] && s.link.reqs == [] &&
    !s.t.appending

theorem clear_of {s : State} (h : clearB s = true) : s.Clear := by
  simp only [clearB, Bool.and_eq_true, beq_iff_eq, Bool.not_eq_true'] at h
  obtain ⟨⟨⟨⟨⟨⟨h1, h2⟩, h3⟩, h4⟩, h5⟩, h6⟩, h7⟩ := h
  exact ⟨h1, h2, h3, h4, h5, h6, h7⟩

theorem reaches_of {s : State} {op : MemOp} {x : LaneAcc} {pa : Nat}
    (h : s.resolve (mySlot s) op x = .ok pa ∧ isLocal pa = true) : reaches s op x pa := h

theorem plain_of {s : State} (h : s.poison = [] ∧ s.caches.counted = [] ∧ s.eops = [] ∧ s.seals = [] ∧ s.others = []) :
    s.Plain :=
  ⟨h.1, h.2.1, h.2.2.1, h.2.2.2.1, fun _ ht => absurd (h.2.2.2.2 ▸ ht) (List.not_mem_nil)⟩

theorem settled_of {s : State} (h : ∀ t ∈ s.t :: s.others, ∀ f ∈ t.infl, f.late = []) : settled s := h

theorem linkOk_of {s : State} (h : s.link.rxseq < 2 ^ 32 ∧ s.link.txseq < 2 ^ 32 ∧ s.link.tag < 2 ^ 32 ∧
    s.link.out = [] ∧ s.link.reqs = [] ∧ s.link.wacks = [] ∧ s.link.asks = []) : s.LinkOk := by
  obtain ⟨h1, h2, h3, h4, h5, h6, h7⟩ := h
  exact ⟨h1, h2, h3, by simp [h4], by simp [h5], by simp [h6], by simp [h7]⟩

theorem ctxsOk_of {s : State} (h : (∀ n < 16, ∀ m < 16, (s.slot n).act = true → (s.slot m).act = true →
      (s.slot n).ctxid = (s.slot m).ctxid → n = m) ∧ (∀ n < 16, (s.slot n).ending.isSome = true → (s.slot n).act = true) ∧
    (∀ n < 16, (s.slot n).susp = true → (s.slot n).act = true)) : s.CtxsOk :=
  ⟨fun n m hn hm => h.1 n hn m hm, h.2.1, h.2.2⟩

theorem handlesOk_of {s : State} (h : (∀ b ∈ s.blocks, b.bid < s.uid) ∧ (∀ v ∈ s.saved, v.u < s.uid) ∧
    ∀ v ∈ s.restoring, v.u < s.uid) : s.HandlesOk := ⟨h.1, h.2.1, h.2.2⟩

theorem sound_of {s : State} (h : Memory.wf s.mem = true ∧ s.ctxs.length = 16) : s.Sound := ⟨h.1, h.2⟩

/-! ### Single steps -/

/-- R195: SADD wraps; R196: SDIV by zero is -1 and SREM by zero the dividend; R197: SSAR keeps the sign. -/
theorem test_scalar_corners :
    let s := regs st [(1, 0xFFFFFFFFFFFFFFFF), (2, 1), (3, 0x8000000000000000)]
    (after (.sadd 9 1 2) s).sReg 9 = 0 ∧ (after (.sdiv 9 2 0) s).sReg 9 = 0xFFFFFFFFFFFFFFFF ∧
      (after (.srem 9 2 0) s).sReg 9 = 1 ∧ (after (.ssar 9 3 2) s).sReg 9 = 0xC000000000000000 ∧
      (after (.sdiv 9 3 1) s).sReg 9 = 0x8000000000000000 ∧ (after (.smulh 9 3 2) s).sReg 9 = 0xFFFFFFFFFFFFFFFF := by
  decide +kernel

/-- R199: SADDR adds to the offset modulo 2^56 and keeps the region. -/
theorem test_saddr_keeps_the_region :
    (after (.saddr 9 1 2) (regs st [(1, 0x05FFFFFFFFFFFFFF), (2, 2)])).sReg 9 = 0x0500000000000001 := by decide +kernel

/-- R189: CALLI reads its target before it writes s_d, where they are one register. -/
theorem test_calli_same_register :
    let u := after (.calli 1 1) (regs st [(1, 0x200000)])
    u.t.pc = 0x200000 ∧ u.sReg 1 = 0x20000C := by decide +kernel

/-- R123: an I32 sum past the top wraps, and under SAT it is the greatest integer; a lane out of the mask stays. -/
theorem test_vadd_wraps_and_saturates :
    let s := (vreg (vreg (mode st 0x1A0) 1 [0x7FFFFFFF, 0x7FFFFFFF]) 2 [1, 1]).modT fun t => { t with mask := 1 }
    (after (.vadd 3 1 2) s).vReg 3 0 = 0x80000000 ∧ (after (.vadd 3 1 2) (mode s 0x21A0)).vReg 3 0 = 0x7FFFFFFF ∧
      (after (.vadd 3 1 2) s).vReg 3 1 = 0 := by decide +kernel

/-- R229, R120: 1.5 + 2.25 is 3.75; 1 + 2^-24 is a tie and goes to the even 1. -/
theorem test_vfadd_rounds_to_even :
    let s := vreg (vreg (mode st 0) 1 [0x3FC00000, 0x3F800000]) 2 [0x40100000, 0x33800000]
    (after (.vfadd 3 1 2) s).vReg 3 0 = 0x40700000 ∧ (after (.vfadd 3 1 2) s).vReg 3 1 = 0x3F800000 := by decide +kernel

/-- R230: one divided by zero is an infinity, and the square root of -1 is a NaN. -/
theorem test_float_specials :
    let s := vreg (mode st 0) 1 [0x3F800000, 0xBF800000]
    (after (.vfdiv 3 1 2) s).vReg 3 0 = 0x7F800000 ∧ Fmt.fp32.nonFinite ((after (.vfsqrt 3 1) s).vReg 3 1).toNat = true := by
  decide +kernel

/-- R187, R186: JOIN takes back what MARK put on the stack. -/
theorem test_mark_then_join :
    let u := after (.mark 0x80) st
    u.t.stack = [⟨false, 0x200080, 0xF, 0⟩] ∧ (after .join { u with t := { u.t with recent := [] } }).t.pc = 0x200080 := by
  decide +kernel

/-- R183, R201: SRD of DEPTH; SWR of SRNG with zero stores the seed of reset. -/
theorem test_srd_and_swr :
    (after (.srd 9 6) (st.modT fun t => { t with depth := 3 })).sReg 9 = 3 ∧
      (after (.swr 9 5) st).t.srng = 0x5EED0001 := by decide +kernel

/-- R214, R215: TRAP 5 with TVEC 0x300001 goes to 0x300000 with cause 15 and FREC 5; TEPC is the next header. -/
theorem test_trap :
    let u := after (.trap 5) st
    u.t.pc = 0x300000 ∧ u.t.tcause = 0x8000000F ∧ u.t.frec = 5 ∧ u.t.tepc = 0x20000C := by decide +kernel

/-- A register through which page 0 of region 0 is reached: VA offset 0x1000 on, 4 KiB, readable and writable. -/
def mx : XReg := { region := 0, vbase := 0x100000, framepg := 0x3000, limit := 0x10000, w := true, rd := true, v := true }

/-- m1 is mx; v20 holds the offsets 0, 8, 16, 24 and v21 8, 8, 0, 0; s6 is 0x40, s7 a pattern. -/
def ms : State :=
  regs (vreg (vreg (vreg (st.modT fun t => { t with m := [(1, mx)] }) 20 [0, 8, 16, 24]) 21 [8, 8, 0, 0]) 4
    [0x11111111, 0x22222222, 0x33333333, 0x44444444]) [(6, 0x40), (7, 0x0123456789ABCDEF)]

/-- R248, R85: SST stores its eight bytes low byte first, and SLD brings them back. -/
theorem test_sst_then_sld :
    let u := after (.sst 7 6 1) ms
    u.byte (mx.phys + 0x40) = 0xEF ∧ u.byte (mx.phys + 0x47) = 0x01 ∧
      (after (.sld 9 6 1) { u with t := { u.t with infl := [], recent := [] } }).sReg 9 = 0x0123456789ABCDEF := by decide +kernel

/-- R247: of overlapping lanes of one VST the highest wins. -/
theorem test_vst_highest_lane_wins :
    let u := after (.vst 4 21 1) (mode ms 0)
    u.memNat mx.phys 4 = 0x44444444 ∧ u.memNat (mx.phys + 8) 4 = 0x22222222 := by decide +kernel

/-- R438, R202: counters of structure 7 of tower 7; a step of the placed program runs its NOP. -/
theorem test_step_runs_the_placed_word :
    goesOn (step (State.reset.withFetchWord 32 0)) = true ∧
      (match step (State.reset.withFetchWord 32 0x0E000005) with | .next u => u.ctxEnding 255 | _ => false) = true := by
  decide +kernel

/-! ### Worked examples of the spec -/

/-- R163 and the sections on SETM, VLDA, VATOM and CPY: `SETM PG=p3, PGN=1, ET=BF16, RND=SR, SAT=1`;
`VLDN v8, v1, m2, 3`; `VLDA v8, v1, m2, device`; `VATOM v8, v2, m4, add, device`; `CPY s9, s10, s12, tag=5, arrive=k2`. -/
theorem test_examples_encode : encode (.setm 0x3473) = [0x01000000, 0x3473] ∧ encode (.vldn 8 1 2 3) = [0xAA080132] ∧
    encode (.vlda 8 1 2 3) = [0xAB080132] ∧ encode (.vatom 8 2 4 0xC00) = [0xB9080204, 0xC00] ∧
    encode (.cpy 9 10 12 0x08200005) = [0xE0090A0C, 0x08200005] := by decide +kernel

/-- R62: PA 0x12_3456_7880 has home tower 5 and lies in replication region 0x91A2. -/
theorem test_example_home_tower : homeTower 0x1234567880 = 5 ∧ regionOf 0x1234567880 = 0x91A2 := by decide +kernel

/-- R129: a block that begins 13.0, -0.3, 2.5, 0 takes scale 0x80 and elements 0b0111, 0b1000, 0b0010, 0. -/
theorem test_example_mx_block : mxBlock 8 ((0x41500000 :: 0xBE99999A :: 0x40200000 :: List.replicate 29 0).map fun x =>
    (Fmt.fp32.dec x, {})) = (0x80, [7, 8, 2] ++ List.replicate 29 0, false) := by decide +kernel

/-- R130: the sample entries of the codebook. -/
theorem test_example_codebook : [0, 1, 22, 23, 29, 30, 107, 108, 332, 511].map (fun i => cbRom.getD i 0) =
    [0, 0x480000, 0x249249, 0x400002, 0x12, 0x800000, 4, 0x890000, 0x900000, 0x090882] := by decide +kernel

/-- R131: the sum of the squared norms is 3,154 (four times that of the doubled values), that of the doubled values 4,804. -/
theorem test_example_codebook_sums :
    let v : List Nat := cbRom.flatMap fun w => (List.range 8).map fun e => bits w (3 * e + 2) (3 * e)
    v.length = 4096 ∧ v.foldl (· + ·) 0 = 4804 ∧ v.foldl (fun n x => n + x * x) 0 = 4 * 3154 := by decide +kernel

/-- R132: index 0x0BFF with scale code 0x7E decodes to -0.5, +0, -0.5, 1, +0, 0.5, 0.5, +0. -/
theorem test_example_codebook_weights : (List.range 8).map (fun e => Fmt.fp32.round {} (cbWeight 0x0BFF 0x7E e)) =
    [0xBF000000, 0, 0xBF000000, 0x3F800000, 0, 0x3F000000, 0x3F000000, 0] := by decide +kernel

/-- R234: VFDOT2 under BF16 of (2.0, 1.0) and (0.5, 3.0) onto 1.0 is 5.0. -/
theorem test_example_vfdot2 :
    (after (.vfdot2 3 1 2) (vreg (vreg (vreg (mode st 0x60) 1 [0x3F804000]) 2 [0x40403F00]) 3 [0x3F800000])).vReg 3 0 =
      0x40A00000 := by decide +kernel

/-- R222, R241: the first step of the nibble table, VSHRI by 4 under UINT8, and the lookup of its bytes. -/
theorem test_example_permb :
    let s := vreg (vreg (vreg (vreg (vreg (mode st 0x140) 4 [0x01010101]) 5 [0x01010101]) 6 [0x02020202]) 7 [0x10080404]) 8
      [0x2EA9C341]
    (after (.vshri 9 8 4) s).vReg 9 0 = 0x020A0C04 ∧
      (after (.permb 10 4 9) (vreg s 9 [0x020A0C04])).vReg 10 0 = 0x01020401 := by decide +kernel

/-- R242: the exclusive sum of 3, 5, 9, 7, -2 with lane 2 not active is 0, 3, -, 8, 15. -/
theorem test_example_scan :
    let s := (vreg (mode st 0x1A0) 1 [3, 5, 9, 7, 0xFFFFFFFE]).modT fun t => { t with lanes := 5, mask := 0x1B }
    (List.range 5).map (fun l => (after (.scan 2 1 8) s).vReg 2 l) = [0, 3, 0, 8, 15] := by decide +kernel

/-- R347: the image of the fragment's line expands to its 32 words. -/
theorem test_example_line_image :
    expandLine [0xFFFFFFFF, 0, 0x01000000, 0x0D000000] 0xFFFFFF06 32 0
      (leBytes 4 0x30000F0A ++ [2, 1] ++ leBytes 4 0xA8080102 ++ leBytes 4 0x4001FF0A ++ leBytes 4 0x70090800 ++
        leBytes 4 0x40200000 ++ leBytes 4 0xA9090103 ++ [3] ++ List.replicate 23 0) =
      some ([0x30000F0A, 0x01000000, 0, 0xA8080102, 0x4001FF0A, 0x70090800, 0x40200000, 0xA9090103, 0x0D000000] ++
        List.replicate 23 0xFFFFFFFF, []) := by decide +kernel

/-- An operation of a crew, of E4M3 into FP32 under RNE, of two rows and one column. -/
def op2 : MOp :=
  { u := 4, key := ⟨1, 0, 0x4000010⟩, op := 0xEF, d := 0, lit := 0x2000000, md := some (0x80, 0, 1), arrived := [],
    fired := true, step := 0, group := 0, gen := 7, wide := false, passed := false, fseq := 0, pages := [],
    trip := none }
def el (x : Nat) : Elem := ⟨true, x, 127⟩
def q0 : Quad := { q := 0, tgrants := [⟨1, [0, 1, 2, 3]⟩] }

/-- R141 to R143, worked example: after two passes a_00 is 0.75, b_0 is 2^-7 + 2^-25, and the bound of a row of zeros is
2^-148. -/
theorem test_example_bound_of_two_passes :
    let q1 := q0.pass op2 1 [[el 0x7E, el 1], [el 0, el 0]] [[el 0x7E], [el 1]]
    let q2 := q1.pass op2 1 [[el 0xFE, el 0x3C], [el 0, el 0]] [[el 0x7E], [el 0x30]]
    (q1.accRow 1 0 0 0).getD 0 0 = 0x48440000 ∧ q1.bound 1 0 0 = 0x3C000000 ∧
      (q2.accRow 1 0 0 0).getD 0 0 = 0x3F400000 ∧ q2.bound 1 0 0 = 0x3C000020 ∧ q2.bound 1 0 1 = 2 := by decide +kernel

/-- R275: the two inputs of the example, under add: the sum that is zero goes with KEEPZERO clear, and stays with it set. -/
theorem test_example_merge :
    let ins : List MRec := [⟨1, 0x40000000, 0⟩, ⟨4, 0xBFC00000, 0⟩, ⟨4, 0x3FC00000, 1⟩, ⟨0x100000000, 0x40400000, 0⟩,
      ⟨0x100000002, 0x40E00000, 1⟩]
    let m : MergeDesc := ⟨0, 0x200400, true, []⟩
    (m.form {} 9 ins).filterMap (·.1) = [(1, 0x40000000), (0x100000000, 0x40400000), (0x100000002, 0x40E00000)] ∧
      (({ m with ctrl := 0x280400 } : MergeDesc).form {} 9 ins).filterMap (·.1) =
        [(1, 0x40000000), (4, 0), (0x100000000, 0x40400000), (0x100000002, 0x40E00000)] := by decide +kernel

/-! ### The hypotheses of the statements can be met together -/

/-- DecodeOfEncode. -/
theorem met_decode_of_encode : WellFormed (.vldn 255 0 7 15) ∧ (Instr.vldn 255 0 7 15).raw.isSome = true ∧
    WellFormed (.reservedOpcode 0xFF000000) ∧ formOf (opOf 0xFF000000) = none := by decide +kernel

/-- EncodeOfDecode: a word with a literal after it. -/
theorem met_encode_of_decode : decodeWords 0x02000000#32 [0x80#32, 1#32] = .ok (.bra 0x80, 2) := by decide +kernel

/-- StepKeepsSound: a placed program. -/
theorem met_step_keeps_sound : (State.reset.place [0]).Sound ∧ goesOn (step (State.reset.place [0])) = true :=
  ⟨sound_of (by decide +kernel), by decide +kernel⟩

/-- StepKeepsLinkAndContexts: the same, with a context suspended and one about to end. -/
theorem met_step_keeps_link_and_contexts :
    let s := ((State.reset.place [0]).modSlot 15 fun c => { c with susp := true }).modSlot 3 fun c =>
      { c with act := true, ctxid := 7, ending := some 0x42 }
    s.LinkOk ∧ s.CtxsOk ∧ s.HandlesOk ∧ goesOn (step s) = true :=
  ⟨linkOk_of (by decide +kernel), ctxsOk_of (by decide +kernel), handlesOk_of (by decide +kernel), by decide +kernel⟩

def front? (f : Front) : Option Instr := match f with | .go i _ => some i | .stay _ => none

/-- StepRunsDecoded: the placed team's turn; a team that is there no longer. -/
theorem met_step_runs_decoded :
    ∃ s : State, s.clocked = true ∧ s.acts = [.issue 3] ∧ s.tick.selectable 3 = true ∧
      front? (({ s.tick with acts := [] }.select 3).front) = some (.sadd 1 2 3) := by
  refine ⟨State.reset.place [0x10010203], ?_⟩; decide +kernel

def stW : State := { (State.reset.place [0x10010203]).modT fun t => { t with pc := 0x200004, cl := { hdr := 0x1000FF0A, idx := 1 } }
                     with acts := [] }

def stL : State := { (State.reset.place [0x53010200, 0x805]).modT fun t =>
                       { t with pc := 0x200004, cl := { hdr := 0x2000FF0A, idx := 1 } } with acts := [] }
def stLand : State := { State.reset.place [0x53010200, 0x805] with acts := [] }

/-- StepRunsDecoded: the one fault. -/
theorem met_step_stops : (let s : State := { State.reset with pkg := { tripped := true } }
    (match step s with | .fault .clocksStopped => true | _ => false) = true ∧ s.pkg.tripped = true ∧ s.acts = []) := by decide +kernel

theorem met_step_runs_decoded_word :
    settled stW ∧ settled stL ∧ settled stLand ∧ (stW.slotOf stW.t.ctx = some 15 ∧ stW.runs stW.t = true ∧ stW.phaseOver stW.t = false ∧ stW.t.wait = .none ∧
      stW.t.dec = [] ∧ stW.t.pendB = [] ∧ stW.t.infl = []) ∧
    (stW.t.cl.idx ≠ 0 ∧ hSETA stW.t.cl.hdr ∉ [12, 13, 14] ∧ hSETB stW.t.cl.hdr ∉ [12, 13, 14]) ∧
    (match stW.fetchLine 15 0x200004 with | .line ls _ _ _ => ls.getD 1 0 == 0x10010203 | _ => false) = true ∧
    (formOf 0x10).isSome = true ∧ stW.t.cl.idx = hLEN stW.t.cl.hdr ∧
    decodeWords 0x10010203#32 [] = .ok (.sadd 1 2 3, 1) :=
  ⟨settled_of (by decide +kernel), settled_of (by decide +kernel), settled_of (by decide +kernel), by decide +kernel⟩

/-- StepRunsDecoded: a word with a literal, at the end of its clause; and the landing on its header. -/
theorem met_step_runs_decoded_literal :
    (stL.slotOf stL.t.ctx = some 15 ∧ stL.runs stL.t = true ∧ stL.phaseOver stL.t = false ∧ stL.t.wait = .none ∧
      stL.t.dec = [] ∧ stL.t.pendB = []) ∧ (match formOf 0x53 with | some f => f.nLits 0 == 1 && !f.ctl | none => false) = true ∧ hLEN stL.t.cl.hdr = 2 ∧
    (match stL.wordAt 15 0x200004 1 with
     | .ok w _ pt s1 => w == 0x53010200 &&
         (match ({ s1 with t := { s1.t with cl := { s1.t.cl with ptab := pt } } }).litsAt 15 1 0x200008 2 [] with
          | .inl (ls, _) => ls == [0x805]
          | .inr _ => false)
     | .stop _ => false) = true ∧
    decodeWords 0x53010200#32 [0x805] = .ok (.vbfi 1 2 0x805, 2) := by decide +kernel

theorem met_step_runs_decoded_header :
    (stLand.slotOf stLand.t.ctx = some 15 ∧ stLand.runs stLand.t = true ∧ stLand.phaseOver stLand.t = false ∧
      stLand.t.wait = .none ∧ stLand.t.dec = [] ∧ stLand.t.pendB = []) ∧
    stLand.t.cl.idx = 0 ∧ stLand.t.pc.toNat % 4 = 0 ∧ headerOk 0x2000FF0A = true ∧
    (match stLand.wordAt 15 stLand.t.pc.toNat 0 with
     | .ok h il pt s1 => h == 0x2000FF0A && il == stLand.t.cl.intlk &&
         ({ s1.t with cl := { hdr := h, idx := 1, aused := false, arr := false, intlk := il, ptab := pt } }).waitClear
     | .stop _ => false) = true := by decide +kernel

/-- An outstanding load into s9. -/
def busy (u : Nat) (on : Until) : Infl := { u := u, flag := some 2, saves := [.s 9 0], srcV := [], srcS := [], on := on }
def stLog : State := st.modT fun t => { t with dec := [⟨5, 0, 0, 0, {}, false, 0⟩] }

/-- An entry of the operand log, for a load into s9. -/
def logE : LogEntry where
  u := 0
  h := 5
  instr := .sld 9 6 1
  pc := 0
  cl := {}
  ord := 0
  mode := 0
  xreg := {}
  fseq := 1
  kind := .lanes { kind := .load, et := 15, size := 8, dst := .s 9 } [⟨0, 0, {}, 0, 0⟩]
  done := 0
  pages := []
  causes := []

theorem not_selectable {s : State} {n : Nat}
    (h : ((s.team? n).any fun t => t.rdy && t.readyAt == 2 ^ 64) = true) : s.selectable n = false := by
  cases e : s.team? n with
  | none => simp [e] at h
  | some t =>
    have hc := s.pkg.clk.isLt
    simp [e] at h
    simp [State.selectable, e, h, State.chosen, State.reached]
    omega

/-- StepRunsDecoded: a team whose passes have not ended. -/
theorem met_step_passes_over :
    ((State.reset.place [0x10010203]).modT fun t => { t with readyAt := 2 ^ 64 }).tick.selectable 3 = false :=
  not_selectable (by decide +kernel)

/-- StepRunsDecoded: a fetch of the next line while an acquire is not done. -/
theorem met_step_fetch_waits :
    let s := { (State.reset.place [0]).modT fun t => { t with pc := 0x200080, cl := { hdr := 0x2000FF0A, idx := 1 }, log := [{ logE with instr := .satom 7 6 1 0x7000 }] }
               with acts := [] }
    s.slotOf s.t.ctx = some 15 ∧ s.runs s.t = true ∧ s.phaseOver s.t = false ∧ s.t.wait = .none ∧ s.t.dec = [] ∧
      s.t.pendB = [] ∧ s.t.cl.idx ≠ 0 ∧ s.t.pc.toNat % 128 = 0 ∧ s.acquiring = true ∧ st.acquiring = false ∧ st.t.pc.toNat % 128 ≠ 0 := by
  decide +kernel

/-- IssueOrder: an instruction held back, two that R38 stops, one of them with a flag and of memory, one whose checks fail, one
whose word is ill-formed. -/
theorem met_issue_order : (Instr.sadd 1 9 9).raw.isSome = true ∧ stLog.blocked (.sadd 1 9 9) = some .other ∧
    (let s := st.modT fun t => { t with log := [logE], infl := [busy 5 .ready] }
     ∀ i ∈ [Instr.sadd 1 9 9, .sld 10 9 1], s.stopped i = true ∧ s.t.dec = [] ∧ s.t.appending = false ∧
       s.ctxEnding s.t.ctx = false ∧ s.acquiring = false ∧ s.destUnknown = false ∧ s.interlocked i = false ∧
       s.t.nextFlag.all (fun f => Decidable.decide (s.t.flagCount f < 63)) = true) ∧
    st.blocked (.waitg 0) = none ∧ st.checks (.waitg 0) = some .ill ∧ (Instr.sadd 64 0 0).wf = false := by decide +kernel

/-- TrapsAreEntered: outside a handler; within one; without one; two causes of which the lower wins. -/
theorem met_traps_are_entered :
    st.Clear ∧ (st.t.pendB = [] ∧ st.t.hnd = false ∧ st.t.tvec.toNat % 2 = 1) ∧
    (st.modT fun t => { t with tcause := 0x80000002 }).Clear ∧ (st.modT fun t => { t with tcause := 0x80000002 }).t.hnd = true ∧
    (st.modT fun t => { t with tvec := 0 }).Clear ∧ (st.slotOf st.t.ctx).isSome = true ∧
    decWinner [⟨7, 0, 0, 0, {}, false, 0⟩, ⟨5, 1, 0, 0, {}, false, 0⟩] = some ⟨5, 1, 0, 0, {}, false, 0⟩ :=
  ⟨clear_of (by decide +kernel), by decide +kernel, clear_of (by decide +kernel), by decide +kernel,
    clear_of (by decide +kernel), by decide +kernel, by decide +kernel⟩

/-- A handler with a clause to go back into, at its last word. -/
def stE : State := st.modT fun t => { t with
  tcause := 0x8000000F, tmode := 0x1C0, tepc := 0x200008, tclause := BitVec.ofNat 64 (2 * 2 ^ 32 + 0x2000FF1A + 2 ^ 36) }

/-- TrapAndEret. -/
theorem met_trap_and_eret :
    (st.Clear ∧ st.checks (.trap 255) = none ∧ st.t.pendB = [] ∧ st.t.hnd = false ∧ st.t.tvec.toNat % 2 = 1) ∧
    (stE.Clear ∧ stE.checks .eret = none ∧ stE.t.hnd = true ∧ modeOk stE.t.tmode = true ∧
      bits stE.t.tclause.toNat 35 32 ≠ 0 ∧ bits stE.t.tclause.toNat 35 32 ≤ bits stE.t.tclause.toNat 31 28) ∧
    (st.checks .eret = none ∧ modeOk (0x80000000 : Word) = false) ∧
    st.peekRuns (mySlot st) st.t.nextHdr.toNat = [] ∧ stE.peekRuns (mySlot stE) (stE.t.tepc - 4).toNat = [] ∧
    (stE.checks (.trap 0) = none ∧ stE.t.hnd = true ∧ (stE.slotOf stE.t.ctx).isSome = true ∧ stE.t.pendB = [] ∧
      stE.peekRuns (mySlot stE) stE.t.nextHdr.toNat = []) ∧
    (let s := stE.modT fun t => { t with tclause := BitVec.ofNat 64 (3 * 2 ^ 32 + 0x2000FF1A) }
     s.Clear ∧ s.t.hnd = true ∧ modeOk s.t.tmode = true ∧
       bits s.t.tclause.toNat 31 28 < bits s.t.tclause.toNat 35 32) :=
  ⟨⟨clear_of (by decide +kernel), by decide +kernel⟩, ⟨clear_of (by decide +kernel), by decide +kernel⟩, by decide +kernel,
    by decide +kernel, by decide +kernel, by decide +kernel, clear_of (by decide +kernel), by decide +kernel⟩

/-- ScalarResults: at the greatest immediate and register numbers. -/
theorem met_scalar_results : st.Clear ∧ st.checks (.sshli 63 63 63) = none ∧ scalarOut st (.sshli 63 63 63) = some (63, 0) ∧
    st.checks (.sgetv 0 255 0) = none ∧ scalarOut st (.sgetv 0 255 0) = some (0, 0) :=
  ⟨clear_of (by decide +kernel), by decide +kernel⟩

/-- NopModeExit: the greatest ET and RND that SETM takes are well formed, and the next not. -/
theorem met_nop_mode_exit : st.Clear ∧
    (bits (0x1620#32).toNat 31 26 = 0 ∧ bits (0x1620#32).toNat 12 10 = 5 ∧ bits (0x1620#32).toNat 9 5 = 17 ∧
      bits (0x1620#32).toNat 19 16 = 0 ∧ bits (0x1620#32).toNat 23 20 = 0) ∧ bits (0x1640#32).toNat 9 5 = 18 :=
  ⟨clear_of (by decide +kernel), ⟨by decide, by decide, by decide, by decide, by decide⟩, by decide⟩

/-- BranchesGo: each condition of BRS on 0, taken and not taken; BRV on p0. -/
theorem met_branches_go : st.Clear ∧ st.checks (.bra 0x80) = none ∧ st.checks (.brs 63 7 0x80) = none ∧ brsTaken 0 0 ∧
    ¬brsTaken 1 0 ∧ st.checks (.brv 15 2 0x80) = none ∧ st.checks (.brv 0 0 0x80) = none :=
  ⟨clear_of (by decide +kernel), by decide +kernel, by decide +kernel, rfl, fun h => h rfl, by decide +kernel,
    by decide +kernel⟩

/-- p1 is true in lanes 0 and 1; the stack holds 15 entries, or 16. -/
def stB (n : Nat) : State := (preg st 1 3).modT fun t => { t with stack := List.replicate n ⟨true, 0x200080, 5, 0x20⟩ }

/-- StackControl: nothing goes, all go, some go with the stack not full and full; JOIN with and without an entry. -/
theorem met_stack_control : (stB 15).Clear ∧ (stB 16).Clear ∧ (stB 0).Clear ∧
    ((stB 15).checks (.brp 1 0x80) = none ∧ (stB 15).checks (.brp 0 0x80) = none ∧ (stB 15).checks (.brp 2 0x80) = none) ∧
    (((stB 15).t.mask &&& (stB 15).t.present) &&& (stB 15).pReg 2 = 0 ∧
     ((stB 15).t.mask &&& (stB 15).t.present) &&& ~~~(stB 15).pReg 0 = 0 ∧
     ((stB 15).t.mask &&& (stB 15).t.present) &&& (stB 15).pReg 1 = 3 ∧
     ((stB 15).t.mask &&& (stB 15).t.present) &&& ~~~(stB 15).pReg 1 = 12) ∧
    (stB 15).t.stack.length < 16 ∧ (stB 16).checks (.brp 1 0x80) = none ∧ 16 ≤ (stB 16).t.stack.length ∧
    (stB 16).t.stack ≠ [] ∧ (stB 0).t.stack = [] :=
  ⟨clear_of (by decide +kernel), clear_of (by decide +kernel), clear_of (by decide +kernel), by decide +kernel⟩

/-- CallsAndLoops: LOOP on 0, 1 and more. -/
theorem met_calls_and_loops : (regs st [(1, 1), (2, 2)]).Clear ∧
    ∀ i ∈ [Instr.call 63 0x80, .calli 1 1, .ret 63, .jmpi 63, .loop 0 0x80, .loop 1 0x80, .loop 2 0x80],
      (regs st [(1, 1), (2, 2)]).checks i = none := ⟨clear_of (by decide +kernel), by decide +kernel⟩

/-- SystemRegisters: every number that SRD and SWR take; a MODE that is well formed, and one that is not. -/
theorem met_system_registers : (regs st [(5, 0x1620)]).Clear ∧
    (let s := regs st [(5, 0x1620)]
     (∀ b ∈ List.range 17, s.checks (.srd 63 b) = none) ∧ (∀ b ∈ List.range 16, b ≠ 2 → s.checks (.swr 63 b) = none) ∧
       s.checks (.swr 5 2) = none ∧ (s.sReg 5).setWidth 32 = 0x1620#32) :=
  ⟨clear_of (by decide +kernel), by decide +kernel⟩

/-- A phase table at the line of the clause: entry 3 is 40000, entry 4 zero; page 1 of region 0 is absent. -/
def stP : State := ((st.modT fun t => { t with cl := { t.cl with ptab := 0 } }).modSlot 15 fun c =>
  { c with ptabbase := 0x1000 }).putNat (placeBase + 0x1100C) 4 40000

def fetched (r : RdV × Nat) (bs : List Byte) : Bool := match r.1 with | .ok x => x == bs | _ => false
def walked (w : Walk) : Nat := match w with | .page .. => 1 | .absent _ => 2 | .bad _ => 3
def entered (g : RegionGot) (va : Nat) : Bool := match g with
  | .entry e => Decidable.decide (e.lower ≤ va) && Decidable.decide (va < e.upper)
  | _ => false
def faulted (r : RdV × Nat) : Bool := match r.1 with | .fault .. => true | _ => false

/-- PhaseAndSxlate, PHASE: no table; an entry; an entry of zero; one that cannot be read. -/
theorem met_phase : (st.modT fun t => { t with cl := { t.cl with ptab := 255 } }).Clear ∧ stP.Clear ∧
    (stP.checks (.phase 255) = none ∧ stP.t.cl.ptab ≠ 255 ∧ stP.slotOf stP.t.ctx = some 15 ∧
      fetched (stP.readItem 15 2 0 12 (ptrAdd 0x1000 12) 4) (leBytes 4 40000) = true ∧
      fetched (stP.readItem 15 2 0 16 (ptrAdd 0x1000 16) 4) (leBytes 4 0) = true ∧
      faulted (stP.readItem 15 2 0 12 (ptrAdd 0x3000000 12) 4) = true) ∧ settled stP :=
  ⟨clear_of (by decide +kernel), clear_of (by decide +kernel), by decide +kernel, settled_of (by decide +kernel)⟩

/-- PhaseAndSxlate, SXLATE: a pointer to a page; to one that is absent; outside every region. -/
theorem met_sxlate : st.Clear ∧
    (st.checks (.sxlate 7 63) = none ∧ st.slotOf st.t.ctx = some 15 ∧ entered (st.region? 15 0 0x1000) 0x1000 = true ∧
      walked (st.pageOf 15 0x1000) = 1 ∧ entered (st.region? 15 0 0x3000000) 0x3000000 = true ∧
      walked (st.pageOf 15 0x3000000) = 2 ∧ entered (st.region? 15 0 0x3000000) (2 ^ 56 - 1) = false ∧
      (match st.region? 15 1 0 with | .none => true | _ => false) = true) ∧ settled st ∧
    (match st.pageOf 15 0x1000 with
     | .page l _ => (match st.runFrom 15 l 34 (0x1000 + (l.size - 0x1000)) (l.size - 0x1000) with | .inl _ => true | _ => false)
     | _ => false) = true :=
  ⟨clear_of (by decide +kernel), by decide +kernel, settled_of (by decide +kernel), by decide +kernel⟩

/-- A team with values in v1 and v2, under this MODE. -/
def sv (m : Word) : State := vreg (vreg (mode st m) 1 [1, 2, 3, 4]) 2 [5, 6, 7, 8]

/-- VectorIntegerResults: an INT8 form, the greatest immediates, an INT64 pair at the last registers. -/
theorem met_vector_integer_results : (sv 0x120).Clear ∧ (sv 0x1E0).Clear ∧ (sv 0x120).checks (.vadd 3 1 2) = none ∧
    (vintOut (sv 0x120) (.vadd 3 1 2)).isSome = true ∧ (sv 0x120).checks (.vsari 255 1 63) = none ∧
    (vintOut (sv 0x120) (.vsari 255 1 63)).isSome = true ∧ (sv 0x1E0).checks (.vmul 254 254 2) = none ∧
    (vintOut (sv 0x1E0) (.vmul 254 254 2)).isSome = true ∧ (sv 0x120).laneOn 3 = true ∧ (sv 0x120).laneOn 4 = false :=
  ⟨clear_of (by decide +kernel), clear_of (by decide +kernel), by decide +kernel⟩

/-- VectorRawResults. -/
theorem met_vector_raw_results : (sv 0).Clear ∧ (sv 0).checks (.vbfe 255 1 0x1011F) = none ∧
    (rawOut (sv 0) (.vbfe 255 1 0x1011F)).isSome = true ∧ (sv 0x140).checks (.permb 3 4 2) = none ∧
    (rawOut (sv 0x140) (.permb 3 4 2)).isSome = true ∧ (sv 0).checks (.vmovl 254 5 (some 6)) = none :=
  ⟨clear_of (by decide +kernel), by decide +kernel⟩

/-- Predicates: a comparison, one of predicates, and the three that answer in a scalar register. -/
theorem met_predicates : (sv 0x1A0).Clear ∧ (sv 0x1A0).t.lanes ≤ 1024 ∧ (sv 0x1A0).checks (.vcmple 15 1 2) = none ∧
    (predOut (sv 0x1A0) (.vcmple 15 1 2)).isSome = true ∧ (sv 0).checks (.pxor 15 15 0) = none ∧
    (predOut (sv 0) (.pxor 15 15 0)).isSome = true ∧
    ((sv 0).checks (.popc 63 15) = none ∧ (sv 0).checks (.vfirst 63 15) = none ∧ (sv 0).checks (.ballot 63 15 0) = none) ∧
    (sv 0).t.passes ≠ [] ∧ ((sv 0).modT fun t => { t with mask := 0 }).t.passes = [] :=
  ⟨clear_of (by decide +kernel), by decide +kernel⟩

/-- FloatResults: FP32 under SR; a pair of FP64. -/
theorem met_float_results : (sv 0x1400).Clear ∧ (sv 0x20).Clear ∧ (sv 0x1400).checks (.vfma 255 1 2) = none ∧
    mNFT (sv 0x1400).t.mode = false ∧ (fltOut (sv 0x1400) (.vfma 255 1 2)).isSome = true ∧ mRND (sv 0x1400).t.mode = 5 ∧
    (sv 0x20).checks (.vfadd 254 0 2) = none ∧ (fltOut (sv 0x20) (.vfadd 254 0 2)).isSome = true :=
  ⟨clear_of (by decide +kernel), clear_of (by decide +kernel), by decide +kernel⟩

/-- FloatResults: NFT set, and every sum finite. -/
theorem met_float_results_let_through : (sv 0x8000).Clear ∧ (sv 0x8000).checks (.vfadd 3 1 2) = none ∧
    mNFT (sv 0x8000).t.mode = true ∧
    ((fltOut (sv 0x8000) (.vfadd 3 1 2)).all fun o => (List.range 1024).all fun l => !(sv 0x8000).laneOn l ||
      !Fmt.fp32.nonFinite (Fmt.fp32.round ((sv 0x8000).rmAt (sv 0x8000).srTab l 0) (o.2.1 l 0))) = true :=
  ⟨clear_of (by decide +kernel), by decide +kernel⟩

/-- NonFiniteHeld: one divided by zero in lane 3. -/
theorem met_non_finite_held :
    let s := vreg (mode st 0x8000) 1 [0x3F800000, 0x3F800000, 0x3F800000, 0x3F800000]
    s.Clear ∧ s.checks (.vfdiv 3 1 2) = none ∧ s.t.pendB = [] ∧ mNFT s.t.mode = true ∧ s.laneOn 3 = true ∧ s.t.hnd = false ∧
    s.t.tvec.toNat % 2 = 1 ∧
    ((heldOut s (.vfdiv 3 1 2)).any fun o => o.1 == 1 && o.2 3 0) = true :=
  ⟨clear_of (by decide +kernel), by decide +kernel⟩

/-- NonFiniteHeld: an infinity in lane 2 for a copy, a dot product, a conversion, a scan, and REDV. -/
theorem met_non_finite_held_forms :
    let s := vreg (mode st 0x8000) 1 [0, 0, 0x7F800000, 0]
    s.Clear ∧ (∀ i ∈ [Instr.vfcopys 3 1 2, .cvt 3 1 3, .scan 3 1 0], s.checks i = none ∧
      ((heldOut s i).any fun o => o.2 2 0) = true) ∧
    (s.checks (.redv 9 1 0) = none ∧ s.t.passes ≠ [] ∧ ((redRoot s 1 0 0).any (badElem (mET s.t.mode))) = true) ∧
    (let s := vreg (mode st 0x8060) 1 [0, 0, 0x7F80, 0]
     s.checks (.vfdot2 3 1 1) = none ∧ ((heldOut s (.vfdot2 3 1 1)).any fun o => o.2 2 0) = true) :=
  ⟨clear_of (by decide +kernel), by decide +kernel⟩

/-- FloatSpecialForms. -/
theorem met_float_special_forms : (sv 0x60).Clear ∧ mNFT (sv 0x60).t.mode = false ∧
    (sv 0x60).checks (.vfcopys 255 1 2) = none ∧ (sv 0x60).checks (.vfclass 255 1) = none ∧
    (sv 0x60).checks (.vfdot2 255 1 2) = none := ⟨clear_of (by decide +kernel), by decide +kernel⟩

/-- Conversions: to the last of the types; with scales; from the codebook to the last eight registers. -/
theorem met_conversions : (sv 0).Clear ∧ (sv 0x10080).Clear ∧ mNFT (sv 0x10080).t.mode = false ∧
    (sv 0).checks (.cvt 255 1 16) = none ∧ (sv 0x10080).checks (.cvtxm 255 1 2) = none ∧
    (sv 0).checks (.cbdec 248 1 2) = none ∧ (sv 0x80).checks (.vpack 255 1 2) = none ∧ etPair (mET (sv 0x80).t.mode) = false ∧
    (sv 0x10080).checks (.cvtmx 255 1 2) = none :=
  ⟨clear_of (by decide +kernel), clear_of (by decide +kernel), by decide +kernel⟩

/-- ScanAndRedv: the greatest operations, of integers and of floating point. -/
theorem met_scan_and_redv : (sv 0x1A0).Clear ∧ (sv 0).Clear ∧ mNFT (sv 0x1A0).t.mode = false ∧
    (sv 0x1A0).checks (.scan 255 1 13) = none ∧ (sv 0x1A0).checks (.redv 63 1 5) = none ∧ (sv 0).checks (.scan 255 1 2) = none ∧
    (sv 0).checks (.redv 63 1 2) = none ∧ (sv 0).t.passes ≠ [] ∧ ((sv 0).modT fun t => { t with mask := 0 }).t.passes = [] :=
  ⟨clear_of (by decide +kernel), clear_of (by decide +kernel), by decide +kernel⟩

/-- A Cupboard of 8 KiB on the team's quad, filled, with a few bytes. -/
def cupS : State := ms.modQuad 0 fun q => { q with cups := [⟨ms.t.gid, 8192, [(0, 5), (8191, 7)], 8192, true, 0⟩] }

/-- LaneMatrixVector: the last matrix that fits. -/
theorem met_lane_matrix_vector :
    let s := vreg cupS 20 [0, 64, 8128, 7936]
    (mode s 0).Clear ∧ (mode s 0).checks (.lmv4 252 0 20) = none ∧ mNFT (mode s 0).t.mode = false ∧
    (∀ l ∈ List.range 4, ((mode s 0).vReg 20 l).toNat % 64 = 0 ∧ ((mode s 0).vReg 20 l).toNat + 64 ≤ (mode s 0).cupSize) ∧
    (vreg (mode s 0) 20 [0, 64, 128, 7936]).checks (.lmv8 248 0 20) = none ∧
    (let s := vreg (mode (vreg cupS 20 [0, 0, 0, 0]) 0x8000) 0 [0x7FC00000]
     s.checks (.lmv4 252 0 20) = none ∧ mNFT s.t.mode = true ∧ ((heldOut s (.lmv4 252 0 20)).any fun o => o.2 0 0) = true ∧
     ∀ l ∈ List.range 4, (s.vReg 20 l).toNat % 64 = 0 ∧ (s.vReg 20 l).toNat + 64 ≤ s.cupSize) :=
  ⟨clear_of (by decide +kernel), by decide +kernel⟩

/-- VectorLoads: every lane's address is in local memory; MODE 0. -/
theorem met_vector_loads : ms.Clear ∧ ms.Plain ∧ ms.checks (.vld 4 20 1) = none ∧ ms.checks (.vldn 4 20 1 15) = none ∧
    ms.checks (.vlda 4 20 1 4) = none ∧ onLanes ms = [0, 1, 2, 3] ∧
    ∀ l ∈ onLanes ms, reaches ms (ms.memOp .load (.v 4)) (laneAcc ms 20 1 0 0 l) (mx.phys + (ms.vReg 20 l).toNat) :=
  ⟨clear_of (by decide +kernel), plain_of (by decide +kernel), by decide +kernel, by decide +kernel, by decide +kernel,
    by decide +kernel, fun l h => reaches_of (by revert l; decide +kernel)⟩

/-- VectorStores: lanes apart, and lanes that overlap. -/
theorem met_vector_stores : ms.Clear ∧ ms.Plain ∧ ms.checks (.vst 4 20 1) = none ∧ ms.checks (.vstr 4 21 1 4) = none ∧
    ms.link.wacks = [] ∧
    (∀ l ∈ onLanes ms, reaches ms (ms.memOp .store .none) (laneAcc ms 20 1 (ms.cont (mET ms.t.mode) 4 l) 0 l)
      (mx.phys + (ms.vReg 20 l).toNat)) ∧
    ∀ l ∈ onLanes ms, reaches ms (ms.memOp .store .none) (laneAcc ms 21 1 (ms.cont (mET ms.t.mode) 4 l) 0 l)
      (mx.phys + (ms.vReg 21 l).toNat) :=
  ⟨clear_of (by decide +kernel), plain_of (by decide +kernel), by decide +kernel, by decide +kernel, by decide +kernel,
    fun l h => reaches_of (by revert l; decide +kernel), fun l h => reaches_of (by revert l; decide +kernel)⟩

/-- ScalarLoadStore: the last eight bytes that the register covers. -/
theorem met_scalar_load_store :
    let s := regs ms [(6, 0xFFF8)]
    s.Clear ∧ s.Plain ∧ (s.sReg 6).toNat < 2 ^ 32 ∧ s.checks (.sld 63 6 1) = none ∧ s.checks (.sst 7 6 1) = none ∧
    reaches s { kind := .load, et := 15, size := 8, dst := .s 63 } ⟨0, (s.sReg 6).toNat, s.mReg 1, 0, 0⟩ (mx.phys + 0xFFF8) ∧
    reaches s { kind := .store, et := 15, size := 8 } ⟨0, (s.sReg 6).toNat, s.mReg 1, (s.sReg 7).toNat, 0⟩ (mx.phys + 0xFFF8) :=
  ⟨clear_of (by decide +kernel), plain_of (by decide +kernel), by decide +kernel, by decide +kernel, by decide +kernel,
    reaches_of (by decide +kernel), reaches_of (by decide +kernel)⟩

/-- m1 covers nothing and its region's pages are absent. -/
def pk : State := ms.modT fun t => { t with m := [(1, { mx with limit := 0, vbase := 0x3000000 })] }

/-- AccessPaths: not aligned; invalid; without permission; the last bytes in reach; every lane at an absent page. -/
theorem met_access_paths :
    (misaligned false 0x10001E 4 = true ∧ misaligned false 0x10FFFC 4 = false) ∧ ({ mx with v := false } : XReg).v = false ∧
    (0xFFFC + 4 ≤ mx.limit.toNat ∧ ({ mx with rd := false } : XReg).rd = false ∧ isLocal (mx.phys + 0xFFFC) = true) ∧
    pk.Clear ∧ pk.Plain ∧ pk.checks (.vld 4 20 1) = none ∧ onLanes pk ≠ [] ∧
    ∀ l ∈ onLanes pk, pk.resolve (mySlot pk) (pk.memOp .load (.v 4)) (laneAcc pk 20 1 0 0 l) = .park 8 :=
  ⟨by decide +kernel, by decide +kernel, by decide +kernel, clear_of (by decide +kernel), plain_of (by decide +kernel),
    by decide +kernel, by decide +kernel, by decide +kernel⟩

/-- OP op, ordering and scope of an atomic's literal. -/
def lit (op ord sc : Nat) : Word := BitVec.ofNat 32 (op * 16 + sc * 1024 + ord * 8192)

/-- Atomics: lanes that meet at one address, in INT32. -/
theorem met_atomics :
    let s := mode ms 0x1A0
    s.Clear ∧ s.Plain ∧ s.link.wacks = [] ∧ s.checks (.vatom 4 21 1 (lit 0 3 4)) = none ∧
    s.checks (.vred 4 21 1 (lit 0 2 4)) = none ∧ s.checks (.vcas 4 21 1 (lit 7 3 4)) = none ∧
    s.checks (.satom 7 6 1 (lit 0 3 4)) = none ∧
    (∀ n ∈ onLanes s, reaches s (s.atomOp (.atom (litOp (lit 0 3 4))) (.v 4) (lit 0 3 4))
      (laneAcc s 21 1 (s.cont (mET s.t.mode) 4 n) (s.cont (mET s.t.mode) 4 n) n) (mx.phys + (s.vReg 21 n).toNat)) ∧
    (∀ n ∈ onLanes s, reaches s (s.atomOp (.red (litOp (lit 0 2 4))) .none (lit 0 2 4))
      (laneAcc s 21 1 (s.cont (mET s.t.mode) 4 n) (s.cont (mET s.t.mode) 4 n) n) (mx.phys + (s.vReg 21 n).toNat)) ∧
    (∀ n ∈ onLanes s, reaches s (s.atomOp .cas (.v 4) (lit 7 3 4))
      (laneAcc s 21 1 (s.cont (mET s.t.mode) 5 n) (s.cont (mET s.t.mode) 4 n) n) (mx.phys + (s.vReg 21 n).toNat)) ∧
    reaches s (s.atomOp (.atom (litOp (lit 0 3 4))) (.s 7) (lit 0 3 4))
      ⟨0, (s.sReg 6).toNat % 2 ^ 32, s.mReg 1, (s.sReg 7).toNat % 2 ^ (8 * (s.atomOp (.atom (litOp (lit 0 3 4))) (.s 7) (lit 0 3 4)).size), 0⟩
      (mx.phys + 0x40) :=
  ⟨clear_of (by decide +kernel), plain_of (by decide +kernel), by decide +kernel, by decide +kernel, by decide +kernel,
    by decide +kernel, by decide +kernel, fun l h => reaches_of (by revert l; decide +kernel),
    fun l h => reaches_of (by revert l; decide +kernel), fun l h => reaches_of (by revert l; decide +kernel),
    reaches_of (by decide +kernel)⟩

/-- The block has bytes in its scratchpad, and its grid is a gang. -/
def ss : State := ((regs ms [(5, 0)]).modBlock 2 fun b => { b with scratch := [(0, 1), (9, 2), (40, 3)] }).modGrid 1 fun g =>
  { g with lrec := { g.lrec with entry := 1 } }
def blk : Block := (ss.block? 2).getD ⟨0, 0, 0, 0, 0, 0, 0, .retired, 0, [], [], false, 0, none⟩

/-- ScratchpadForms: all four; a lane at the last bytes of the allocation; a store past it. -/
theorem met_scratchpad_forms : ss.Clear ∧ settled ss ∧ ss.checks (.vlds 4 20) = none ∧ ss.checks (.vsts 4 20) = none ∧
    ss.checks (.vldsr 4 20 5) = none ∧ ss.checks (.vstsr 4 20 5) = none ∧ ss.block? blk.bid = some blk ∧
    ss.myBlock? = some blk ∧ ss.remoteBlock (ss.sReg 5).toNat = some blk ∧
    (∀ l ∈ onLanes ss, (ss.vReg 20 l).toNat % 32 + etBytes (mET ss.t.mode) ≤ 32 ∧
      (ss.vReg 20 l).toNat + etBytes (mET ss.t.mode) ≤ blk.scratchSize) ∧
    (let s := vreg ss 20 [0xFFFC, 0x10000, 0, 4]
     s.checks (.vsts 4 20) = none ∧ s.myBlock? = some blk ∧ 1 ∈ onLanes s ∧ s.t.pendB = [] ∧ s.t.hnd = false ∧
     s.t.tvec.toNat % 2 = 1 ∧ (s.vReg 20 0).toNat + 4 = blk.scratchSize ∧ blk.scratchSize < (s.vReg 20 1).toNat + 4) :=
  ⟨clear_of (by decide +kernel), settled_of (by decide +kernel), by decide +kernel⟩

/-- ScratchpadAtomics. -/
theorem met_scratchpad_atomics :
    let s := mode ss 0x1A0
    s.Clear ∧ s.checks (.vatoms 4 21 (lit 0 3 1)) = none ∧ s.checks (.vreds 4 21 (lit 5 2 1)) = none ∧ s.link.wacks = [] ∧ s.grantsDone s.t.tid = true ∧
    s.myBlock? = some blk ∧ ∀ n ∈ onLanes s, (s.vReg 21 n).toNat % 4 = 0 ∧ (s.vReg 21 n).toNat + 4 ≤ blk.scratchSize :=
  ⟨clear_of (by decide +kernel), by decide +kernel⟩

/-- CupboardFencePrefetch: a read of the last bytes; VPREF; FENCE of the least and the greatest kind and scope. -/
theorem met_cupboard_fence_prefetch : (regs (vreg cupS 20 [0, 4, 8188, 28]) [(6, 8184)]).Clear ∧
    (let s := regs (vreg cupS 20 [0, 4, 8188, 28]) [(6, 8184)]
     s.checks (.vldc 4 20) = none ∧ (∀ l ∈ onLanes s, (s.vReg 20 l).toNat % 32 + etBytes (mET s.t.mode) ≤ 32 ∧
       (s.vReg 20 l).toNat + etBytes (mET s.t.mode) ≤ s.cupSize) ∧
     s.checks (.sldc 63 6) = none ∧ (s.sReg 6).toNat % 32 + 8 ≤ 32 ∧ (s.sReg 6).toNat + 8 = s.cupSize ∧
     s.caches.counted = [] ∧ s.checks (.vpref 20 1) = none ∧ s.checks (.fence 0x40) = none ∧ s.checks (.fence 0xC4) = none ∧
     s.link.wacks = [] ∧ s.grantsDone s.t.tid = true ∧ ∀ t ∈ s.t :: s.others, ∀ f ∈ t.infl, f.late = []) :=
  ⟨clear_of (by decide +kernel), by decide +kernel⟩

/-- s6 is the length of one page. -/
def sl : State := regs ss [(6, 0x10000)]
/-- Virtual address 0x200000 on is one 2 MiB page, and m1 translates its start. -/
def big (s : State) : State := (s.putNat (placeBase + 0x3000 + 8) 8 0x3000000F).modT fun t =>
  { t with m := [(1, { mx with vbase := 0x200000 })] }

/-- REPL's team, with x in s6 and the region of m1 pinned so. -/
def rep (pin : Option Nat) (x : DWord) : State :=
  let s := regs ss [(6, x)]
  { s with caches := { s.caches with regions := [(regionOf mx.phys, { pin := pin, level := 2, x := 5 })] } }
def pageSize (s : State) : Option Nat :=
  match s.pageOf (mySlot s) (s.mReg 1).vbase.toNat with | .page l _ => some l.size | _ => none

theorem page_of {s : State} {n : Nat} (h : pageSize s = some n) :
    ∃ l p, s.pageOf (mySlot s) (s.mReg 1).vbase.toNat = .page l p ∧ l.size = n := by
  unfold pageSize at h
  split at h
  · rename_i l p e; exact ⟨l, p, e, Option.some.inj h⟩
  · simp at h

/-- SealsAndPins: a free table and range, the range taken, the table full; an entry to free; a store to a sealed byte. -/
theorem met_seals : sl.Clear ∧ sl.eops = [] ∧ sealRangeOk (sl.mReg 1) 0x10000 = true ∧
    sl.checks (.seal 9 6 1) = none ∧ sl.checks (.unseal 9 6 1) = none ∧ sl.seals = [] ∧
    (let e : Seal := ⟨mx.phys, 0x10000, 255, 0⟩
     (e.base < mx.phys + 0x10000 ∧ mx.phys < e.base + e.len) ∧ 64 ≤ (List.replicate 64 e).length ∧ e.refs = 0 ∧
     ms.checks (.sst 7 6 1) = none ∧ (ms.sReg 6).toNat < 2 ^ 32 ∧ e.base ≤ mx.phys + 0x40 ∧ mx.phys + 0x40 < e.base + e.len ∧
     ms.poison = [] ∧ ms.caches.counted = [] ∧ ms.eops = [] ∧ ms.t.pendB = [] ∧ ms.t.hnd = false ∧
     ms.t.tvec.toNat % 2 = 1) ∧
    ({ ms with seals := [⟨mx.phys, 0x10000, 255, 0⟩] } : State).Clear ∧
    reaches { ms with seals := [⟨mx.phys, 0x10000, 255, 0⟩] } { kind := .store, et := 15, size := 8 }
      ⟨0, (ms.sReg 6).toNat, ms.mReg 1, (ms.sReg 7).toNat, 0⟩ (mx.phys + 0x40) :=
  ⟨clear_of (by decide +kernel), by decide +kernel, by decide +kernel, by decide +kernel, by decide +kernel, by decide +kernel,
    by decide +kernel, clear_of (by decide +kernel), reaches_of (by decide +kernel)⟩

/-- REPL may act, on a page of 2 MiB, with its pin, and with s6, as given. -/
def repMeets (pin : Option Nat) (x : DWord) : Bool :=
  let s := big (rep pin x)
  clearB s && s.checks (.repl 63 6 1) == none && (s.mReg 1).v && (s.mReg 1).limit != 0 && pageSize s == some (2 ^ 21) &&
    s.sReg 6 == x && (s.caches.region (regionOf (s.mReg 1).phys)).pin == pin && s.t.ctx == 255

/-- SealsAndPins, REPL: without a pin, with its own, with another's; a level, an unpin, and what is neither; a page of 64 KiB, an
absent one, and an empty translation. -/
theorem met_pins : repMeets none 3 = true ∧ repMeets none 4 = true ∧ repMeets (some 255) 0 = true ∧
    repMeets (some 255) 4 = true ∧ repMeets (some 7) 4 = true ∧ repMeets none 5 = true ∧
    (let s := (rep none 4).modT fun t => { t with m := [(1, { mx with vbase := 0 })] }
     ∃ l p, s.pageOf (mySlot s) (s.mReg 1).vbase.toNat = .page l p ∧ l.size = 2 ^ 16) ∧
    (rep none 4).pageOf (mySlot (rep none 4)) ((rep none 4).mReg 1).vbase.toNat = .absent [] ∧
    (let s := (rep none 3).modT fun t => { t with m := [(1, { mx with limit := 0 })] }
     s.checks (.repl 63 6 1) = none ∧ (s.mReg 1).v = true ∧ (s.mReg 1).limit = 0) :=
  ⟨by decide +kernel, by decide +kernel, by decide +kernel, by decide +kernel, by decide +kernel, by decide +kernel,
    page_of (by decide +kernel), by decide +kernel, by decide +kernel⟩

/-- The quad grants the team's block four q barriers and six tiles; its gang has four g barriers. The team is the one
member of each barrier. -/
def qs : State := (ss.modQuad 0 fun q => { q with qgrants := [⟨1, ss.myCluster, List.replicate 4 { mem := [3] }⟩]
                                                  tgrants := [⟨1, [0, 1, 2, 3, 4, 5]⟩] }).modGrid 1 fun g =>
  { g with gbars := List.replicate 4 { mem := [3] } }

/-- f of every barrier. -/
def setB (f : Barrier → Barrier) (s : State) : State :=
  ((s.modBlock 2 fun b => { b with bars := b.bars.map f }).modQuad 0 fun q =>
    { q with qgrants := q.qgrants.map fun g => { g with bars := g.bars.map f } }).modGrid 1 fun g => { g with gbars := g.gbars.map f }

/-- A second member has yet to arrive; the team has arrived; the phase has turned. -/
def b2 : State := setB (fun b => { b with mem := [3, 8] }) qs
def b3 : State := setB (fun b => { b with mem := [3, 8], c := 1, arr := [3] }) qs
def b4 : State := setB (fun b => { b with p := true }) qs
def arrd (s : State) : State := s.modT fun t => { t with cl := { t.cl with arr := true } }

/-- Barriers, arrivals: the last barrier of each class, to complete the phase, not to, and made already. -/
theorem met_barrier_arrivals : qs.Clear ∧ b2.Clear ∧ b3.Clear ∧
    ∀ x ∈ [(Instr.arrk 31, 0, 31), (.arrq 3, 1, 3), (.arrg 3, 2, 3)],
      qs.checks x.1 = none ∧ b2.checks x.1 = none ∧ b3.checks x.1 = none ∧ (qs.myBar x.2.1 x.2.2).gone = [] ∧
      (qs.myBar x.2.1 x.2.2).c + 1 = (qs.myBar x.2.1 x.2.2).mem.length ∧ qs.t.tid ∉ (qs.myBar x.2.1 x.2.2).arr ∧
      (b2.myBar x.2.1 x.2.2).c + 1 ≠ (b2.myBar x.2.1 x.2.2).mem.length ∧ qs.t.tid ∉ (b2.myBar x.2.1 x.2.2).arr ∧
      b3.t.tid ∈ (b3.myBar x.2.1 x.2.2).arr :=
  ⟨clear_of (by decide +kernel), clear_of (by decide +kernel), clear_of (by decide +kernel), by decide +kernel⟩

/-- Barriers, waits: one that goes on, and one that stays. -/
theorem met_barrier_waits : qs.Clear ∧ b4.Clear ∧ qs.t.wait = .none ∧
    (∀ x ∈ [(Instr.waitk 31, 0, 31), (.waitq 3, 1, 3), (.waitg 3, 2, 3), (.twait 63 31 63, 0, 31), (.twait 63 0x43 63, 1, 3),
        (.twait 63 0x83 63, 2, 3)],
      qs.checks x.1 = none ∧ b4.checks x.1 = none ∧ (b4.myBar x.2.1 x.2.2).p ≠ (b4.myBar x.2.1 x.2.2).w.contains b4.t.tid ∧
      (qs.myBar x.2.1 x.2.2).p = (qs.myBar x.2.1 x.2.2).w.contains qs.t.tid) :=
  ⟨clear_of (by decide +kernel), clear_of (by decide +kernel), by decide +kernel, by decide +kernel⟩

/-- Barriers, SYNC: it completes the phase; it does not; its phase has turned; it has not. TWAIT whose limit has passed. -/
theorem met_barrier_syncs : qs.Clear ∧ b2.Clear ∧ (arrd b4).Clear ∧ (arrd qs).Clear ∧
    (∀ x ∈ [(Instr.synck 31, 0, 31), (.syncq 3, 1, 3), (.syncg 3, 2, 3)],
      qs.checks x.1 = none ∧ b2.checks x.1 = none ∧ (arrd b4).checks x.1 = none ∧ (arrd qs).checks x.1 = none ∧
      (qs.myBar x.2.1 x.2.2).c + 1 = (qs.myBar x.2.1 x.2.2).mem.length ∧
      (b2.myBar x.2.1 x.2.2).c + 1 ≠ (b2.myBar x.2.1 x.2.2).mem.length ∧
      (b4.myBar x.2.1 x.2.2).p ≠ (b4.myBar x.2.1 x.2.2).w.contains b4.t.tid ∧
      (qs.myBar x.2.1 x.2.2).p = (qs.myBar x.2.1 x.2.2).w.contains qs.t.tid) ∧
    qs.t.cl.arr = false ∧ (arrd qs).t.cl.arr = true ∧ qs.t.life = .live ∧ qs.t.infl = [] ∧ qs.t.recent = [] ∧
    (qs.modT fun t => { t with wait := .expired 63 }).t.wait = .expired 63 :=
  ⟨clear_of (by decide +kernel), clear_of (by decide +kernel), clear_of (by decide +kernel), clear_of (by decide +kernel),
    by decide +kernel⟩

/-- Bytes at a virtual address of page 0. -/
def memAt (s : State) (va : Nat) (bs : List Byte) : State := s.putBytes (placeBase + 0x10000 + va) bs
/-- A tensor record: BASE, DIM0, DIM1, format word, scale pointer, bitmap pointer, bound pointer. -/
def tlr (base d0 d1 fmt scale bmap bound : Nat) : List Byte :=
  leBytes 8 base ++ leBytes 4 d0 ++ leBytes 4 d1 ++ leBytes 4 1 ++ leBytes 4 1 ++ leBytes 4 (4 * d0) ++ leBytes 4 0 ++
    leBytes 4 0 ++ leBytes 4 fmt ++ leBytes 8 scale ++ leBytes 8 bmap ++ leBytes 8 bound
/-- A merge descriptor: output 0x4000, INT32 values under add, two inputs. -/
def mdesc : List Byte := leBytes 8 0x4000 ++ leBytes 4 (2 * 2 ^ 20 + 14 * 2 ^ 11) ++ leBytes 4 0 ++ leBytes 8 0x5000 ++
  leBytes 4 3 ++ leBytes 4 0 ++ leBytes 8 0x6000 ++ leBytes 4 2 ++ leBytes 4 0
/-- Records at 0x1000 and 0x2000, a descriptor at 0x200; s10, s11, s12 for CPY, s6 for MERGE. -/
def es : State :=
  memAt (memAt (memAt (regs qs [(10, 0x1000), (11, 0x2000), (12, 24), (6, 0x200), (2, 3)]) 0x1000 (tlr 0x3000 4 2 0 0 0 0)) 0x2000
    (tlr 0x5000 4 2 0 0 0 0)) 0x200 mdesc

def goes (r : Start) : Bool := match r with | .go _ (some _) _ => true | _ => false

/-- EngineOperationsStart: each operation starts; the conditions of a CPY that does. -/
theorem met_engine_operations_start : es.Clear ∧ es.t.eseq < 2 ^ 14 ∧
    (es.checks (.cpy 9 10 12 0x77) = none ∧ goes (es.startCpy 0x77 es.t.mode [es.sReg 10, es.sReg 11, es.sReg 12]) = true) ∧
    (es.checks (.cpyt 9 10 13 0x77) = none ∧
      goes (es.startCpyt es.recordWho (Instr.cpyt 9 10 13 0x77).word 0x77 es.t.mode [es.sReg 10, es.sReg 11, es.sReg 13] es.t.wait.recs) = true) ∧
    (es.checks (.merge 9 6 2 0x77) = none ∧
      goes (es.startMerge es.recordWho (Instr.merge 9 6 2 0x77).word 0x77 es.t.mode [es.sReg 6, es.sReg 2] es.t.wait.recs) = true) ∧
    es.Plain ∧ (es.link.reqs = [] ∧ eARR 0x77 = false ∧ es.t.quota < 16 ∧ es.inRegion (mySlot es) 0x1000 24 = true ∧
      es.inRegion (mySlot es) 0x2000 24 = true) :=
  ⟨clear_of (by decide +kernel), by decide +kernel, by decide +kernel, by decide +kernel, by decide +kernel,
    plain_of (by decide +kernel), by decide +kernel⟩

/-- A CPY of 24 bytes within a sector has started; one whose destination page is absent. -/
def ec : State := after (.cpy 9 10 12 0x5A) (regs es [(10, 0x1003), (11, 0x5001), (12, 24)])
def ef : State := after (.cpy 9 10 12 0x5A) (regs es [(10, 0x11000), (11, 0x5001), (12, 24)])

/-- EngineOperationsEnd: the operation is the only one, and its pages are there. -/
theorem met_engine_operation_completes :
    ec.eops.length = 1 ∧ (ec.eops.all fun o => o.kind == 0 && o.status == none && !o.sent && !o.stopped && o.fseq == 0 &&
      o.olds.isEmpty && !eARR o.lit && !eNOREC o.lit && o.ops == [0x1003, 0x5001, 24] && o.tid == ec.t.tid &&
      ec.slotOf o.ctx == some 15 && !ec.ctxEnding o.ctx) = true ∧
    ec.poison = [] ∧ ec.seals = [] ∧ ec.caches.counted = [] ∧ ec.link.wacks = [] ∧ 0x1003 % 32 + 24 ≤ 32 ∧
    (match ec.xlate 15 0x1003 24 false true, ec.xlate 15 0x5001 24 true false with
      | .ok a, .ok b => a == placeBase + 0x11003 && b == placeBase + 0x15001 && isLocal a && isLocal b
      | _, _ => false) = true ∧ ec.t.life = .live ∧ ec.others = [] := by decide +kernel

theorem met_engine_operation_stops :
    ef.eops.length = 1 ∧ (ef.eops.all fun o => match ef.engReadyOp o.u with
      | some (s1, slot, p) => p == o && slot == 15 && !o.stopped && (ef.slotOf o.ctx).isSome &&
          s1.engFault 15 o == some (8, 0x11000, true)
      | none => false) = true := by decide +kernel

/-- EventRecords: a record in the queue, and none. -/
theorem met_event_records : (ss.modT fun t => { t with evq := [⟨77, none⟩, ⟨78, none⟩], quota := 2 }).Clear ∧ ss.Clear ∧
    (ss.modT fun t => { t with evq := [⟨77, none⟩, ⟨78, none⟩], quota := 2 }).checks (.evwait 63) = none ∧
    (ss.modT fun t => { t with evq := [⟨77, none⟩, ⟨78, none⟩], quota := 2 }).checks (.evpop 63) = none ∧
    ss.checks (.evpop 63) = none ∧ ss.checks (.evwait 63) = none ∧ ss.t.evq = [] :=
  ⟨clear_of (by decide +kernel), clear_of (by decide +kernel), by decide +kernel⟩

/-- The grid has three lists of 16 items; list 1 has these. -/
def wl (items : List DWord) (q : Bool) : State := (regs ss [(6, 1)]).modGrid 1 fun g =>
  { g with lists := [[], items, []], quiet := q, lrec := { g.lrec with mem := BitVec.ofNat 32 (2 ^ 16 + 3 * 2 ^ 9 + 16) } }

/-- WorkLists: room for just the items of every lane; items to take, fewer than lanes; none, and the grid quiet; a grid about
to become quiet. -/
theorem met_work_lists :
    (let cap := (wl [] false).myRec.wlcap
     let s := wl (List.replicate (cap - 4) 5) false
     s.Clear ∧ s.checks (.cmpct 4 6) = none ∧ s.t.passes ≠ [] ∧ s.t.wait = .none ∧ (s.grid? s.t.gid).isSome = true ∧
     s.listOk (s.sReg 6).toNat = true ∧ (s.listOf 1).length + (onLanes s).length = s.myRec.wlcap ∧ 4 ≤ cap) ∧
    ((wl [7, 8] false).Clear ∧ (wl [7, 8] false).checks (.wltake 254 6) = none ∧ (wl [7, 8] false).listOk 1 = true ∧
      (wl [7, 8] false).listOf 1 ≠ [] ∧ onLanes (wl [7, 8] false) ≠ []) ∧
    ((wl [] true).Clear ∧ (wl [] true).checks (.wltake 254 6) = none ∧ (wl [] true).myGrid.quiet = true) ∧
    (let s := ((wl [] false).modT fun t => { t with wait := .wltake }).modGrid 1 fun g => { g with next := g.lrec.nBlocks }
     (s.grid? 1).map (fun g => (g.gid, g.quiet, g.lists, Decidable.decide (g.st = .running), Decidable.decide (g.next = g.lrec.nBlocks))) =
       some (1, false, [[], [], []], true, true) ∧ s.teams.map (fun t => (t.gid, t.wait)) = [(1, .wltake)]) :=
  ⟨⟨clear_of (by decide +kernel), by decide +kernel⟩, ⟨clear_of (by decide +kernel), by decide +kernel⟩,
    ⟨clear_of (by decide +kernel), by decide +kernel⟩, by decide +kernel⟩

theorem portFree_of {s : State} {l : List Nat}
    (h : s.myQuad.port = [] ∧ s.tileBusy (s.portOp .nop [] [] l []) = false) : portFree s l := h

/-- TilesAndBounds: the last tile granted; the greatest bound and the two words that MBRD reads. -/
theorem met_tiles_and_bounds :
    let s := regs es [(6, 1), (7, 0x3F80000000000007)]
    s.Clear ∧ portFree s (accTiles 5 (mACC s.t.mode)) ∧ portFree s [5] ∧
    (s.checks (.mzero 5) = none ∧ s.tileCauses (Instr.mzero 5).word 5 [] = [] ∧
     s.checks (.mbrd 255 5 6) = none ∧ s.t.lanes ≤ 1024 ∧ (s.sReg 6).toNat = 1 ∧ (s.sReg 8).toNat = 0 ∧
     s.checks (.mbrd 255 5 8) = none ∧
     s.checks (.mbwr 5 7) = none ∧ bits (s.sReg 7).toNat 31 3 = 0 ∧ bits (s.sReg 7).toNat 2 2 = 1) :=
  ⟨clear_of (by decide +kernel), portFree_of (by decide +kernel), portFree_of (by decide +kernel), by decide +kernel⟩

def okRow (g : Got (List Nat × Word)) : Bool := match g with | .ok x => x.1.length ≤ 128 | _ => false
def theBytes (r : RdV) : List Byte := match r with | .ok bs => bs | _ => []

/-- TileRows: MLD of a record of two rows; MCVT to E4M3. -/
theorem met_tile_rows :
    let s := es
    let t := Tlr.of (theBytes (s.readRecord s.recordWho (s.sReg 11).toNat 64))
    s.Clear ∧ s.Plain ∧ portFree s (accTiles 5 (mACC s.t.mode)) ∧ portFree s (5 :: accTiles 0 (mACC s.t.mode)) ∧
    (mySlot s = 15 ∧ mACC s.t.mode = 0 ∧ s.checks (.mld 5 11) = none ∧ s.tileCauses (Instr.mld 5 11).word 5 [] = [] ∧
      (s.sReg 11).toNat % 64 = 0 ∧ (theBytes (s.readRecord s.recordWho (s.sReg 11).toNat 64)).length = 64 ∧
      mldOk t (mACC s.t.mode) = true ∧ mldRows t = [0, 1] ∧
      (mldRows t).all (fun r =>
        okRow ((s.noteRecords [((s.sReg 11).toNat, 64)]).mldRow (mySlot s) s.recordWho s.uid t r)) = true) ∧
    (s.checks (.mcvt 5 0 4) = none ∧ s.tileCauses (Instr.mcvt 5 0 4).word 0 [] = [] ∧ 5 ∉ accTiles 0 0 ∧
      5 < s.myTiles.length ∧ etOn s.pkg.profH 4 = true ∧ sfPairs (mSF s.t.mode) 4 = true) :=
  ⟨clear_of (by decide +kernel), plain_of (by decide +kernel), portFree_of (by decide +kernel),
    portFree_of (by decide +kernel), by decide +kernel⟩

/-- The condition of TileRows on a pair of FP64 tiles. -/
theorem met_tile_pair : let s := mode es 0x100000
    mACC s.t.mode = 1 ∧ s.myQuad.phys s.t.gid 4 ≠ s.myQuad.phys s.t.gid (4 + 1) := by decide +kernel

/-- Drain descriptor: first row and count less one. -/
def dsb (first cnt : Nat) : DWord := BitVec.ofNat 64 (first + cnt * 128)
/-- A team of 32 lanes with tiles; s6 is the descriptor, s7 0x80. -/
def sdr (first cnt : Nat) : State := (vreg (mode (regs es [(6, dsb first cnt), (7, 0x80)]) 0) 0 [0]).modT fun t =>
  { t with lanes := 32 }

/-- DrainsWriteImages, MDRN and MDRS: the last two rows, as FP32. -/
theorem met_drains_to_registers_and_scratchpad :
    let s := sdr 126 1
    s.Clear ∧ s.Plain ∧ portFree s (accTiles 5 (mACC s.t.mode)) ∧
    (s.t.lanes = 32 ∧ dBEN (s.sReg 6) = false ∧ s.checks (.mdrn 16 5 6) = none ∧ s.checks (.mdrs 7 5 6) = none ∧
      s.tileCauses (Instr.mdrn 16 5 6).word 5 [] = [] ∧ drainOk (s.sReg 6) false true true = true ∧
      s.tileCauses (Instr.mdrs 7 5 6).word 5 [] = [] ∧ drainOk (s.sReg 6) true false true = true ∧
      s.drainType (Instr.mdrn 16 5 6).word s.t.mode 0 0 (drainEt 0) = [] ∧
      s.drainType (Instr.mdrs 7 5 6).word s.t.mode 0 0 (drainEt 0) = [] ∧ dVBND (s.sReg 6) < s.t.vregs ∧
      s.myBlock? = some blk ∧
      (drainImage 0 (s.drainRows (s.portOp .nop [] [] [] []) (s.sReg 6) 5 0 0 128)).length =
        (dCNT (s.sReg 6) + 1) * (128 / etCount 0 * etBytes 0) ∧
      (s.sReg 7).toNat % 32 = 0 ∧ (s.sReg 7).toNat + 1024 ≤ blk.scratchSize) :=
  ⟨clear_of (by decide +kernel), plain_of (by decide +kernel), portFree_of (by decide +kernel), by decide +kernel⟩

/-- DrainsWriteImages: the bounds of those rows too, to v16 of 17 registers and to XTRA 0x10; MDRN of a team of 31 lanes, of more
bounds than lanes, and with VBND at V. -/
theorem met_drains_with_bounds :
    let d (vbnd xtra cnt : Nat) : DWord := dsb (127 - cnt) cnt + BitVec.ofNat 64 (2 ^ 14 + vbnd * 2 ^ 16 + xtra * 2 ^ 32)
    let s (x : DWord) (lanes vregs : Nat) : State := (regs (sdr 126 1) [(6, x)]).modT fun t => { t with lanes := lanes, vregs := vregs }
    (s (d 16 0 1) 32 17).Clear ∧ (s (d 16 0 1) 32 17).Plain ∧ portFree (s (d 16 0 1) 32 17) (accTiles 5 0) ∧
    (s (d 0 0x10 1) 32 17).Clear ∧ (s (d 0 0x10 1) 32 17).Plain ∧ portFree (s (d 0 0x10 1) 32 17) (accTiles 5 0) ∧
    (let u := s (d 16 0 1) 32 17
     dBEN (u.sReg 6) = true ∧ u.checks (.mdrn 8 5 6) = none ∧ mACC u.t.mode = 0 ∧ drainOk (u.sReg 6) false true true = true ∧
     u.drainType (Instr.mdrn 8 5 6).word u.t.mode 0 0 (drainEt 0) = [] ∧ dVBND (u.sReg 6) < u.t.vregs ∧
     dCNT (u.sReg 6) < u.t.lanes) ∧
    (let u := s (d 0 0x10 1) 32 17
     dBEN (u.sReg 6) = true ∧ u.checks (.mdrs 7 5 6) = none ∧ drainOk (u.sReg 6) true false true = true ∧
     u.myBlock? = some blk ∧ dXTRA (u.sReg 6) % 4 = 0 ∧ dXTRA (u.sReg 6) + 8 ≤ (u.sReg 7).toNat) ∧
    (∀ u ∈ [s (d 16 0 1) 31 17, s (d 200 0 40) 32 256, s (d 16 0 1) 32 16], u.checks (.mdrn 8 5 6) = none ∧
      u.tileCauses (Instr.mdrn 8 5 6).word 5 [] = [] ∧ (u.t.lanes % 32 ≠ 0 ∨ u.t.lanes ≤ dCNT (u.sReg 6) ∨
        u.t.vregs ≤ dVBND (u.sReg 6)) ∧ u.t.pendB = [] ∧ u.t.hnd = false ∧ u.t.tvec.toNat % 2 = 1) :=
  ⟨clear_of (by decide +kernel), plain_of (by decide +kernel), portFree_of (by decide +kernel), clear_of (by decide +kernel),
    plain_of (by decide +kernel), portFree_of (by decide +kernel), by decide +kernel, by decide +kernel, by decide +kernel⟩

/-- Pieces of a drained row, all local. -/
def localPieces (g : Got (List (Nat × Nat × List Byte))) : Bool := match g with | .ok l => l.all fun p => isLocal p.1 | _ => false

/-- DrainsWriteImages, MDRM: a record of two rows of 64 FP32 elements. -/
theorem met_drain_to_memory :
    let s := regs (memAt (sdr 1 1) 0x400 (tlr 0x5000 64 2 0 0 0 0)) [(7, 0x400)]
    let bs := theBytes (s.readRecord s.recordWho 0x400 64)
    s.Clear ∧ s.Plain ∧ portFree s (accTiles 0 (mACC s.t.mode)) ∧
    (s.checks (.mdrm 7 0 6) = none ∧ s.tileCauses (Instr.mdrm 7 0 6).word 0 [] = [] ∧
      drainOk (s.sReg 6) true false false = true ∧ (s.sReg 7).toNat = 0x400 ∧ bs.length = 64 ∧
      s.mdrmCauses (Instr.mdrm 7 0 6).word s.t.mode (s.sReg 7) (s.sReg 6) bs = [] ∧
      s.mdrmReady (mySlot s) (s.sReg 7) (s.sReg 6) bs = true ∧
      ∀ k ∈ List.range 2,
        let r := s.drainRow s.t.mode s.t.srng 0 (dFIRST (s.sReg 6) + k) k (Tlr.of bs).et (Tlr.of bs).sf (Tlr.of bs).dim0
        localPieces ((drainState s 7 6 bs).drainPa (mySlot s) s.uid
          (drainPieces (Tlr.of bs) (dXTRA (s.sReg 6) + k) r.1 r.2)) = true) :=
  ⟨clear_of (by decide +kernel), plain_of (by decide +kernel), portFree_of (by decide +kernel), by decide +kernel⟩

/-- DrainsWriteImages, MDRF: stream 255 takes rows on port 2. -/
def sdf : State :=
  { regs (sdr 1 1) [(7, 255)] with
    regs := { (sdr 1 1).regs with streams := [(255, { w0 := BitVec.ofNat 64 (255 * 2 ^ 32 + 3 * 256 + 2 * 2 + 1), dest := 0x100000 })]
                                  pctl := [(2, { up := true, en := true })] }
    link := { (sdr 1 1).link with set := 0x3FF } }

theorem met_drain_to_stream : sdf.Clear ∧ sdf.Plain ∧ portFree sdf (accTiles 0 (mACC sdf.t.mode)) ∧
    (sdf.checks (.mdrf 7 0 6) = none ∧ sdf.tileCauses (Instr.mdrf 7 0 6).word 0 [] = [] ∧
      drainOk (sdf.sReg 6) false false false = true ∧ dBEN (sdf.sReg 6) = false ∧ mET sdf.t.mode = 0 ∧
      sdf.drainType (Instr.mdrf 7 0 6).word sdf.t.mode 0 (mSF sdf.t.mode) true = [] ∧
      sdf.streamKnown (sdf.sReg 7).toNat = true ∧ sdf.regs.rowAt = sdf.fab ∧ sdf.regs.rowSrc ≤ sdf.t.core) :=
  ⟨clear_of (by decide +kernel), plain_of (by decide +kernel), portFree_of (by decide +kernel), by decide +kernel⟩

/-- A crew of two: teams 0 and 1 of the gang's block 0. -/
def crewW : Word := 0x4000010
def cs : State := ((es.modGrid 1 fun g => { g with lrec := { g.lrec with shape := g.lrec.shape ||| 0x400 } }).modT fun t =>
  { t with lanes := 32, crew := crewW })
def rs1 (k : CrewKey) : Resv := { key := k, cls := 0, at_ := 0, marked := false }

/-- CrewsAndReservations: a reservation held; a free entry; a full table. -/
theorem met_crews_and_reservations :
    let s := regs cs [(6, 3)]
    s.Clear ∧ s.crewOk crewW = true ∧ s.latched s.t.tid = false ∧ s.checks (.mrsv 15 6) = none ∧ s.t.lanes ≤ 1024 ∧
    s.t.crew ≠ 0 ∧ (s.entryIn s.t.crew).isSome = true ∧ (s.sReg 6).toNat = 3 ∧ s.engineOn (quadOf s.t.core) = true ∧
    (s.myQuad.resv.any fun r => r.key == s.myKey) = false ∧ (s.myQuad.rqueue.any fun r => r.key == s.myKey) = false ∧
    (s.modQuad 0 fun q => { q with resv := (List.range 8).map fun i => rs1 ⟨5, i, crewW⟩ }).myQuad.resv.length = 8 ∧
    ((s.modQuad 0 fun q => { q with resv := [rs1 s.myKey] }).myQuad.resv.any fun r => r.key == s.myKey) = true ∧
    s.myQuad.mops = [] := ⟨clear_of (by decide +kernel), by decide +kernel⟩

/-- Literal of a dense form of 4 rows, 4 columns and 16 products, A in the scratchpad. -/
def ml : Word := 0x60C003E
/-- Member 0 has its B share from v8. -/
def mb : State := mode (regs cs [(6, 0), (7, 8)]) 0x60
def goesM (r : Start) : Bool := match r with | .go _ none (.matrix _) => true | _ => false

/-- Member 1 is the one selected; its record, at 0x800, names a matrix in the scratchpad. -/
def cs2 : State :=
  let s := after (.mmj 0 6 7 ml) (memAt mb 0x800 (tlr 0x40 16 4 3 0 0 0))
  let t2 : Team := { s.t with tid := 9, idx := 1, infl := [], recent := [], pc := 0x200004,
                              cl := { hdr := 0x2000FF0A, idx := 1 }, s := [(6, 0x800)] }
  { s with others := [t2] }.select 9
def cs3 : State := after (.mmj 0 6 7 ml) cs2
def mop (s : State) : MOp := s.myQuad.mops.getD 0 op2

/-- MatrixArrivesAndFires: MMJ of the first member and of the last; the latch with both members arrived. -/
theorem met_matrix_arrives_and_fires : mb.Clear ∧ mb.checks (.mmj 0 6 7 ml) = none ∧
    goesM (mb.matStart mb.recordWho (Instr.mmj 0 6 7 ml).word 0xEF 0 ml [mb.sReg 6, mb.sReg 7]) = true ∧ cs2.Clear ∧
    goesM (cs2.matStart cs2.recordWho (Instr.mmj 0 6 7 ml).word 0xEF 0 ml [cs2.sReg 6, cs2.sReg 7]) = true ∧
    (cs3.myQuad.mops.length = 1 ∧ (mop cs3).fired = false ∧ (mop cs3).arrived.length = bits (mop cs3).key.crew.toNat 27 25) :=
  ⟨clear_of (by decide +kernel), by decide +kernel, by decide +kernel, clear_of (by decide +kernel), by decide +kernel⟩

/-- MatrixArrivesAndFires: the sparse form, the gathering form, and under profile H the FP64 form. -/
theorem met_matrix_other_forms :
    goesM (mb.matStart mb.recordWho (Instr.mms 0 6 7 ml).word 0xF0 0 ml [0, 8]) = true ∧ mb.checks (.mms 0 6 7 ml) = none ∧
    goesM (mb.matStart mb.recordWho (Instr.mmg 0 6 7 0x20C003E).word 0xF1 0 0x20C003E [0, 8]) = true ∧
    mb.checks (.mmg 0 6 7 0x20C003E) = none ∧
    (let h : State := { mode mb 0x100020 with pkg := { mb.pkg with profH := true } }
     h.checks (.mmd 0 6 7 0x60C0006) = none ∧
     goesM (h.matStart h.recordWho (Instr.mmd 0 6 7 0x60C0006).word 0xF2 0 0x60C0006 [0, 8]) = true) := by decide +kernel

def cs4 : State := after (.matrixLatchFire 0 4) cs3
def cs5 : State := after (.matrixPass 0 4) cs4
def passOf (g : Got (Quad × MOp)) : Option Nat := match g with | .ok x => some x.1.q | _ => none

/-- MatrixOperationRuns: two queued, of classes 1 and 2, and an entry free; the operation fired is the arbiter's choice and
makes its pass; the one pass done, it is complete. -/
theorem met_matrix_operation_runs :
    (let two : List Resv := [{ rs1 ⟨5, 1, 1⟩ with cls := 1 }, { rs1 ⟨5, 2, 1⟩ with cls := 2 }]
     let s := es.modQuad 0 fun q => { q with rqueue := two, resv := (List.range 7).map fun i => rs1 ⟨6, i, 1⟩ }
     (s.quads.any fun x => x.q == 0) = true ∧ (s.quadD 0).resv.length < 8 ∧ (s.quadD 0).rqueue ≠ []) ∧
    (cs4.quadD 0).mops.find? (fun o => o.u == (mop cs4).u) = some (mop cs4) ∧ cs4.arbiter 0 = some (mop cs4).u ∧
    passOf (cs4.grantPass 0 (mop cs4)) = some 0 ∧ cs4.caches.counted = [] ∧
    (∀ t ∈ cs4.t :: cs4.others, ∀ f ∈ t.infl, f.late = []) ∧
    ((cs5.quadD 0).mops.find? (fun o => o.u == (mop cs5).u) = some (mop cs5) ∧ (mop cs5).fired = true ∧
      (mop cs5).passed = true ∧ (mop cs5).fseq = 0 ∧ (mop cs5).has cs5.t.tid = true ∧ cs5.t.life = .live) := by decide +kernel

/-- PassAccumulates: the last row of a full A, in and beyond N. -/
theorem met_pass_accumulates : op2.wide = false ∧ mACC ((op2.md.getD (0, 0, 0)).1) = 0 ∧
    (List.replicate 128 [el 1]).length ≤ 128 ∧ mmN op2.lit = 1 := by decide +kernel

/-- The operation under this MODE, with this BTHR; as a wide re-issue; and a quad that holds a wide store for it. -/
def opM (mode bthr : Word) : MOp := { op2 with md := some (mode, bthr, 1) }
def opW : MOp := { opM 0x80 0 with wide := true }
def qW : Quad := { q0 with wide := some { u := 4, tile := [(0, 0x40000000)] } }

/-- PassAccumulates, bounds: FP32, wide, FP64 over a pair of tiles; INT32 within its range and past it, with SAT and without. -/
theorem met_pass_bounds : ((opM 0x80 0).wide = false ∧ mACC (opM 0x80 0).mode = 0) ∧ (opW.wide = true ∧ qW.wide.isSome = true) ∧
    (mACC (opM 0x100080 0).mode = 1 ∧ q0.phys 1 0 ≠ q0.phys 1 1 ∧ (opM 0x100080 0).key.gid = 1 ∧ (opM 0x100080 0).tile 0 = 0) ∧
    (mACC (opM 0x200120 0).mode = 2 ∧ mET (opM 0x200120 0).mode = 9 ∧ mSAT (opM 0x202120 0).mode = true ∧
      intSum (opM 0x200120 0) 0x7FFFFFFE [el 1] [[el 1]] 0 < 2 ^ 31 ∧ ¬intSum (opM 0x200120 0) 0x7FFFFFFF [el 1] [[el 1]] 0 < 2 ^ 31) := by
  decide +kernel

/-- The operation that has fired has made its one pass, with BPROP set, of INT8 into INT32. -/
def mProp : MOp := { mop cs4 with md := some (0x2200120, 0, 1), step := 1 }
def theList {α : Type} (g : Got (List α)) : List α := match g with | .ok l => l | _ => []

theorem known_of_int (e : Elem) : (e.val (mET mProp.mode)).isNan = false := by
  have h : mET mProp.mode = 9 := by decide +kernel
  rw [h]; simp only [Elem.val, etFmt]
  split
  · rfl
  · rfl

/-- PassAccumulates, propagation: K is 16, of 4 rows and 4 columns. -/
theorem met_propagation :
    let m := mProp
    mBPROP m.mode = true ∧ (theList (cs4.liveK m)).length = 16 ∧ (16 + kGroup (mET m.mode) - 1) / kGroup (mET m.mode) ≤ m.step ∧
    (theList (cs4.aOver m m.group (List.range (mmK m.lit)))).length = 4 ∧
    (theList (cs4.bOver m m.group (List.range (mmK m.lit)))).length = 16 ∧
    (theList (gotAll (fun k => match m.bTlr k with | some t => t.readBoundOf (cs4.matRead m) k | none => .ok 0) (List.range (mmK m.lit)))).length = 16 ∧
    (theList (gotAll (fun i => match m.aSource m.group i with | some (_, t, r) => t.readBoundOf (cs4.matRead m) r | none => .ok 0)
      (List.range (m.rows m.group)))).length = 4 ∧
    ∀ e : Elem, (e.val (mET m.mode)).isNan = false :=
  ⟨by decide +kernel, by decide +kernel, by decide +kernel, by decide +kernel, by decide +kernel, by decide +kernel, by decide +kernel,
    known_of_int⟩

/-- Row 1's bound is 4 and row 0's 0, over elements of 0. -/
def qB : Quad := qW.setBound 1 0 1 0x40800000

/-- PassAccumulates, the end of a group: no test; rows that fail from row 1 on; a re-issue; and the end of one. -/
theorem met_end_of_group : (bits (opM 0x80 0).bthr.toNat 8 8 ≠ 1) ∧ (bits (opM 0x80 0x100).bthr.toNat 8 8 = 1) ∧
    failsTest qB (opM 0x80 0x100) 1 ∧ (∀ k, k < 1 → ¬failsTest qB (opM 0x80 0x100) k) ∧ (∀ i, ¬failsTest q0 (opM 0x80 0x100) i) ∧
    (mBWIDE (opM 0x1000080 0x100).mode = true ∧ mACC (opM 0x1000080 0x100).mode = 0 ∧ (opM 0x1000080 0x100).wide = false ∧
      qB.wide = some { u := 4, tile := [(0, 0x40000000)] } ∧ swf (0 : Word) 0 [(0, (0x40000000 : Word))] = true) ∧
    (mACC opW.mode = 0 ∧ opW.rows opW.group = 2 ∧ mmN opW.lit = 1) := by
  refine ⟨by decide +kernel, by decide +kernel, by unfold failsTest; decide +kernel, ?_, ?_, by decide +kernel, by decide +kernel⟩
  · intro k hk; obtain rfl : k = 0 := by omega
    unfold failsTest; decide +kernel
  · intro i h
    have hi : i < 2 := h.1
    revert h; unfold failsTest
    revert i; decide +kernel

/-- Arrival of a message on a link that is up and locked, SEQ 7 expected. -/
def hm (typ ctx : Nat) (pl : List Byte) : HostMsg :=
  ⟨BitVec.ofNat 8 typ, 0, BitVec.ofNat 16 pl.length, 7, BitVec.ofNat 8 ctx, 0, 0x55, pl⟩
def rx (s : State) (m : HostMsg) : State :=
  { s with link := { s.link with up := true, locked := true, set := 0x3FF, rxseq := 7, rx := m } }
def arrB (s : State) (i : Instr) : Bool :=
  s.link.up && s.link.locked && Decidable.decide (decodeMsg s.link.rx = i) && s.link.rx.seq.toNat == s.link.rxseq &&
    msgFormOk s.link.rx

theorem arrives_of {s : State} {i : Instr} (h : arrB s i = true) : Arrives s i := by
  simp only [arrB, Bool.and_eq_true, decide_eq_true_eq, beq_iff_eq] at h
  obtain ⟨⟨⟨⟨h1, h2⟩, h3⟩, h4⟩, h5⟩ := h
  exact ⟨h1, h2, h3, h4, h5⟩

theorem writes_of {s : State} {i : Instr} {off v : Nat}
    (h : arrB s i = true ∧ s.link.rx.field 0 8 = 2 ^ 63 + off ∧ off < 2 ^ 44 ∧ s.link.rx.field 8 8 = v) : Writes s i off v :=
  ⟨arrives_of h.1, h.2.1, h.2.2.1, h.2.2.2⟩

/-- An 8-byte write of register space. -/
def wr (s : State) (off v : Nat) : State := rx s (hm 8 0 (leBytes 8 (2 ^ 63 + off) ++ leBytes 8 v))

def fsel (v : Nat) : HostMsg := hm 7 0 (leBytes 1 1 ++ leBytes 7 0 ++ leBytes 16 0x1FF ++ leBytes 8 0x0001000100010001 ++
  leBytes 8 v ++ leBytes 4 5 ++ leBytes 4 0 ++ leBytes 8 9 ++ leBytes 8 0)
def mrd (a n : Nat) : HostMsg := hm 9 0 (leBytes 8 a ++ leBytes 4 n ++ leBytes 4 0)

/-- MessagesAndFeatures: out of sequence; of an unknown type; in a bad form; before the lock; a select that is good, one that is
not. -/
theorem met_messages_and_features :
    (isMsgRow .mrd = true ∧ decodeMsg (mrd 0 64) = .mrd ∧ (mrd 0 64).seq.toNat = 7 ∧ msgFormOk (mrd 0 64) = true) ∧
    decodeMsg (hm 0x33 0 []) = .unknownType ∧ (decodeMsg (hm 9 0 [1]) = .mrd ∧ msgFormOk (hm 9 0 [1]) = false) ∧
    (decodeMsg (fsel 0x0001000100010001) = .featureSelect ∧ msgFormOk (fsel 0x0001000100010001) = true ∧
      (fsel 0x0001000100010001).field 8 16 = 0x1FF ∧ (fsel 0x0001000100010001).field 0 1 = 1 ∧
      (fsel 0x0001000100010001).field 1 7 = 0 ∧ (fsel 0x0001000100010001).field 0x18 8 = 0x0001000100010001 ∧
      (fsel 0x0001000100010001).field 0x20 8 = 0x0001000100010001 ∧ (fsel 0x0001000100010001).field 0x2C 4 = 0 ∧
      (fsel 0x0001000100010001).field 0x38 8 = 0 ∧ (fsel 2).field 0x20 8 = 2) := by decide +kernel

/-- MemoryMessages: the last eight bytes of local memory, and eight bytes more; a read of register space. -/
theorem met_memory_messages :
    let w (a : Nat) : State := rx es (hm 8 0 (leBytes 8 a ++ List.replicate 8 0xA5))
    Arrives (w (Config.dramSize - 8)) .mwr ∧ (w (Config.dramSize - 8)).link.rx.field 0 8 = Config.dramSize - 8 ∧
    Arrives (w Config.dramSize) .mwr ∧ (w Config.dramSize).link.rx.field 0 8 = Config.dramSize ∧
    Config.dramSize < 2 ^ 44 ∧ (es.eops = [] ∧ es.seals = [] ∧ es.poison = [] ∧ es.regs.towerlost = 0) ∧
    settled es ∧ es.caches.counted = [] ∧
    Arrives (rx es (mrd (Config.dramSize - 4088) 4088)) .mrd ∧ Arrives (rx es (mrd (Config.dramSize - 8) 16)) .mrd ∧
    (mrd (Config.dramSize - 8) 16).field 8 4 = 16 ∧ (mrd (Config.dramSize - 8) 16).field 0xC 4 = 0 ∧
    Arrives (rx es (mrd (2 ^ 63 + 0x510100) 8)) .mrd ∧ (mrd (2 ^ 63 + 0x510100) 8).field 0 8 = 2 ^ 63 + 0x510100 :=
  ⟨arrives_of (by decide +kernel), by decide +kernel, arrives_of (by decide +kernel), by decide +kernel, by decide +kernel,
    by decide +kernel, settled_of (by decide +kernel), by decide +kernel, arrives_of (by decide +kernel),
    arrives_of (by decide +kernel), by decide +kernel, by decide +kernel, arrives_of (by decide +kernel), by decide +kernel⟩

/-- A request outstanding through the window, of an atomic or a load. -/
def wq (k : AccKind) (dst : Dst) : WinReq :=
  { tag := 0x55, tid := 3, op := { kind := k, et := 13, size := 4, dst := dst }, acc := ⟨3, 16, mx, 5, 0⟩, pa := 0x80000000014
    pc := 0x200004, cl := {}, ord := 0, u := 77 }
def wqS (k : AccKind) (dst : Dst) (m : HostMsg) : State := rx { ms with link := { ms.link with reqs := [wq k dst] } } m

/-- MemoryMessages, replies: an acknowledgement, and the replies of the two kinds, accepted and refused. -/
theorem met_reply_messages :
    Arrives (rx { es with link := { es.link with wacks := [(0x55, 3)] } } (hm 0xB 0 (leBytes 8 2))) .hostWrack ∧
    (hm 0xB 0 (leBytes 8 2)).field 0 1 = 2 ∧ (hm 0xB 0 (leBytes 8 2)).field 1 7 = 0 ∧
    (∀ st ∈ [0, 2], ∀ dst ∈ [Dst.v 4, .s 9], arrB (wqS .load dst (hm 0xA 0 (leBytes 8 st ++ List.replicate 16 1))) .hostMrdresp = true) ∧
    (∀ st ∈ [0, 2], ∀ dst ∈ [Dst.none, .v 4, .s 9], arrB (wqS (.atom 0) dst (hm 0xE 0 (leBytes 8 st ++ List.replicate 8 1))) .matomresp = true) ∧
    (wq .load .none).bad = false ∧ (wq .load .none).dead = false ∧ ms.t.tid = 3 ∧ ms.t.life = .live ∧ (wq .load .none).tag = 0x55 :=
  ⟨arrives_of (by decide +kernel), by decide +kernel⟩

/-- A message through peer port 18, and the state in which it comes. -/
def pu : State := { es with regs := { es.regs with pctl := [(18, { en := true, up := true, drop := 0 })] } }
def atomM (a : Nat) : HostMsg := hm 0xD 0 (leBytes 8 a ++ [0, 8, 15, 0, 1, 0, 0, 0] ++ leBytes 8 5 ++ leBytes 8 0)

/-- MemoryMessages, from a peer: a step that takes one; writes of the last word and past it, with enables; a read; an atomic; a
port that is not UP. -/
theorem met_peer_messages :
    (let s : State := { pu with acts := [.peer 18 (mrd 0 8)] }
     s.clocked = true ∧ (({ s.tick with acts := [] }).peerMsg 18 (mrd 0 8)).isSome = true) ∧
    ((pu.pctl 18).up = true ∧ (pu.pctl 17).up = false ∧ pu.eops = [] ∧ pu.seals = [] ∧ pu.poison = [] ∧
      pu.regs.towerlost = 0 ∧ pu.caches.counted = []) ∧ settled pu ∧
    (let m := hm 8 0 (leBytes 8 (Config.dramSize - 8 + 0x80 * 2 ^ 52) ++ List.replicate 8 0xA5)
     m.typ = 8 ∧ (m.payload.drop 8).length = 8 ∧ m.field 0 8 = Config.dramSize - 8 + 2 ^ 44 * 0 + 2 ^ 52 * 0x80) ∧
    (hm 8 0 (leBytes 8 Config.dramSize ++ [1])).field 0 8 = Config.dramSize ∧
    ((mrd (Config.dramSize - 8) 8).typ = 9 ∧ (mrd (Config.dramSize - 8) 8).field 8 4 = 8) ∧
    ((atomM (Config.dramSize - 8)).typ = 0xD ∧ (atomM (Config.dramSize - 8)).field 8 1 = 0 ∧
      (atomM (Config.dramSize - 8)).field 9 1 = 8 ∧ (Config.dramSize - 8) % 8 = 0) :=
  ⟨by decide +kernel, by decide +kernel, settled_of (by decide +kernel), by decide +kernel⟩

/-- A launch record: entry, class, gang, arguments, shape of one team of 32 lanes, handler context 255, prerequisite. -/
def recB (entry prio gang prereq : Nat) : List Byte :=
  leBytes 8 (entry + prio * 16 + gang) ++ leBytes 8 0x1234 ++ leBytes 8 0 ++ leBytes 8 0 ++
    leBytes 4 (32 * 2 ^ 19 / 32 * 4 + 31) ++ leBytes 4 0 ++ leBytes 4 255 ++ leBytes 4 0 ++ leBytes 4 prereq ++ leBytes 12 0
def lm (s : State) (lid q : Nat) (r : List Byte) : State := rx s (hm 1 255 (leBytes 4 lid ++ leBytes 1 q ++ leBytes 11 0 ++ r))
def judged (s : State) : State := { s with link := { s.link with judged := true } }
def fullQ (s : State) : State := { s with grids := s.grids ++ (List.range 256).map fun i =>
  { Grid.none with gid := 100 + i, lid := 0, ctx := 255, st := .queued, qsel := 3, lrec := { entry := 16 } } }

/-- A launch record that passes every check of R384. -/
def r0 : LaunchRec := { entry := 0x200000, shape := 0x403, mem := 1, handctx := 255 }
/-- A gang of five blocks of which each fills a core, for one quad. -/
def r7 : LaunchRec := { r0 with entry := 0x200001, grid := 4, shape := 0x7C7FF }
/-- With these launch features selected. -/
def sf (set : Nat) : State := { ss with link := { ss.link with set := set } }
/-- No quad has four cores in service. -/
def sq : State := { sf 0x3FF with cores := (List.range 160).map fun q => (4 * q, { vp0 := false, vp1 := false }) }
def fails (s : State) (r : LaunchRec) (host : Option (Nat × Nat)) : List Nat := (List.range 12).filter (failsCheck s r host)

/-- Launches: a record that passes, from the host and from a team; for each code of R384 one whose first failure it is. -/
theorem met_launch_codes : (∀ h ∈ [none, some (5, 255)], fails (sf 0x3FF) r0 h = []) ∧
    ([{ r0 with entry := 0x200040 }, { r0 with grid := 0xFFFFFFFFFFFFFFFF }, { r0 with shape := 33 * 2 ^ 19 },
      { r0 with shape := 0x7FFFF }, { r0 with cupimg := 65 }, { r0 with mem := 65 * 2 ^ 9 }].map fun r =>
        fails (sf 0x3FF) r none) = [[1], [2], [3], [4], [5], [6]] ∧
    fails (sf 0x3FF) r7 none = [7] ∧
    fails (sf 0x3FD) r0 none = [8] ∧ fails (sf 0x3F7) { r0 with entry := 0x200008 } (some (5, 255)) = [8] ∧
    fails (sf 0x3FF) { r0 with handctx := 254 } (some (5, 255)) = [9] ∧
    fails sq { r0 with shape := 2 ^ 27 } none = [10] ∧ fails sq { r0 with shape := 2 ^ 26 } none = [10] ∧
    fails (sf 0x3FF) r0 (some (0, 255)) = [11] ∧ fails (sf 0x3FF) r0 (some (1, 255)) = [11] := by decide +kernel

/-- Launches, gangs: of the five blocks a quad takes only four. -/
theorem met_launch_gangs : r7.gang = true ∧ r7.cluster = 0 ∧ r7.nBlocks = 5 ∧
    ({ r7 with grid := 3 } : LaunchRec).nBlocks = 4 ∧ (sf 0x3FF).gangFits { r7 with grid := 3 } = true ∧ (sf 0x3FF).gangFits r7 = false := by
  decide +kernel

/-- Launches, from the host: one refused; one whose queue is full; one Queued, and one that was judged before; one Held for
launch 1. -/
theorem met_launch_messages :
    Arrives (lm ss 5 3 (recB 0x200040 1 0 0)) .launchMsg ∧
    fails (heard (lm ss 5 3 (recB 0x200040 1 0 0))) (LaunchRec.of (recB 0x200040 1 0 0)) (some (5, 255)) = [1] ∧
    (lm ss 5 3 (recB 0x200040 1 0 0)).link.judged = false ∧ Arrives (judged (lm ss 5 3 (recB 0x200040 1 0 0))) .launchMsg ∧
    Arrives (lm (fullQ ss) 5 3 (recB 0x200000 1 0 0)) .launchMsg ∧ 256 ≤ (fullQ ss).qlevel 7 ∧
    fails (heard (lm (fullQ ss) 5 3 (recB 0x200000 1 0 0))) (LaunchRec.of (recB 0x200000 1 0 0)) (some (5, 255)) = [] ∧
    Arrives (lm ss 5 3 (recB 0x200000 1 0 1)) .launchMsg ∧ ss.qlevel 7 < 256 ∧
    fails (heard (lm ss 5 3 (recB 0x200000 1 0 1))) (LaunchRec.of (recB 0x200000 1 0 1)) (some (5, 255)) = [] ∧
    (let s := (judged (lm ss 5 3 (recB 0x200000 1 0 1))).modSlot 15 fun c => { c with ending := some 0x42 }
     (judged (lm ss 5 3 (recB 0x200000 1 0 1))).ctxEnding 255 = false ∧ s.ctxEnding 255 = true ∧ ss.slotOf 254 = none) ∧
    1 ∈ (LaunchRec.of (recB 0x200000 1 0 1)).prereq ∧ (lm ss 5 3 []).link.rx.field 4 1 = 3 :=
  ⟨arrives_of (by decide +kernel), by decide +kernel, by decide +kernel, arrives_of (by decide +kernel),
    arrives_of (by decide +kernel), by decide +kernel, by decide +kernel, arrives_of (by decide +kernel), by decide +kernel⟩

def li (r : List Byte) (d : Nat) : State :=
  let s := regs (memAt es 0x400 r) [(6, 0x400)]
  { s.modT fun t => { t with depth := d } with link := { s.link with set := 0x3FF } }

/-- Launches, from a team: at the greatest depth; refused; at the depth before it, enqueued; one that holds its record. -/
theorem met_launch_instruction : (li (recB 0x200000 1 0 0) 10).Clear ∧ (li (recB 0x200000 1 0 0) 9).Clear ∧
    (li (recB 0x200000 1 0 0) 10).Plain ∧ settled (li (recB 0x200000 1 0 0) 9) ∧
    (li (recB 0x200000 1 0 0) 10).checks (.launch 63 6) = none ∧ (li (recB 0x200000 1 0 0) 10).t.depth = 10 ∧
    (let s := li (recB 0x200040 1 0 0) 9
     s.checks (.launch 63 6) = none ∧ (s.sReg 6).toNat % 64 = 0 ∧ s.t.wait.recs = [] ∧
     (theBytes (s.readRecord s.recordWho 0x400 64)).length = 64 ∧
     fails (s.noteRecords [((s.sReg 6).toNat, 64)]) (LaunchRec.of (theBytes (s.readRecord s.recordWho 0x400 64))) none = [1] ∧
     (s.ctxOf s.t.ctx).lastLid < 2 ^ 32) ∧
    (let s := li (recB 0x200000 1 0 1) 9
     fails (s.noteRecords [((s.sReg 6).toNat, 64)]) (LaunchRec.of (theBytes (s.readRecord s.recordWho 0x400 64))) none = [] ∧
     s.qlevel (4 * 1 + s.myGrid.qsel) < 256 ∧
     (s.modT fun t => { t with wait := .queue (recB 0x200000 1 0 1) }).t.wait.recs = [recB 0x200000 1 0 1]) :=
  ⟨clear_of (by decide +kernel), clear_of (by decide +kernel), plain_of (by decide +kernel), settled_of (by decide +kernel),
    by decide +kernel⟩

/-- Two children, one of them as given. -/
def kd (st : GridSt) (x : DWord) : State :=
  let s := regs (ss.modT fun t => { t with kids := [(50, 2 ^ 31), (51, 2 ^ 31 + 1)] }) [(6, x)]
  { s with grids := s.grids ++ [{ Grid.none with gid := 50, lid := 2 ^ 31, ctx := 255, st := st },
    { Grid.none with gid := 51, lid := 2 ^ 31 + 1, ctx := 255, st := .complete }] }
def kidsDone (s : State) (x : Nat) : Bool :=
  (s.t.kids.filter fun k => x == 0 || k.2 == x).all fun k => s.grids.all fun g => g.gid != k.1 || Decidable.decide (g.st = .complete)

/-- Launches, CWAIT: an id not launched; all complete; one, while another runs; one that runs. -/
theorem met_cwait : (kd .running 5).Clear ∧ (kd .running 5).checks (.cwait 63 6) = none ∧
    ((kd .running 5).t.kids.filter fun k => (5 : Nat) == 0 || k.2 == 5) = [] ∧ kidsDone (kd .complete 0) 0 = true ∧
    kidsDone (kd .running 0x80000001) 0x80000001 = true ∧ kidsDone (kd .running 0) 0 = false :=
  ⟨clear_of (by decide +kernel), by decide +kernel⟩

/-- A grid whose blocks have retired, with one Held for it alone. -/
def gc (p : Option Nat) : State := { ss with grids :=
  (ss.grids.map fun g => { g with retired := 1, parent := p, tstart := 5 }) ++
    [{ Grid.none with gid := 50, lid := 7, ctx := 255, st := .held, watched := [1], lrec := { entry := 0x20 } }] }

/-- Launches, completion: of a launch of the host, and of a child. -/
theorem met_grid_completion : ∀ p ∈ [none, some 50], ((gc p).grid? 1).map (fun g => (g.gid, g.parent, g.watched, g.lrec.nBlocks)) =
    some (1, p, [], 1) ∧ ((gc p).grid? 1).map (fun g => (g.retired, Decidable.decide (g.st = .running))) = some (1, true) ∧
    (gc p).grids.all (fun h => h.parent != some 1 || Decidable.decide (h.st = .complete)) = true ∧
    ((gc p).grid? 50).map (·.watched) = some [1] ∧ (gc p).link.wlate = [] := by decide +kernel

/-- Slot 3 has a working area and a code heap. -/
def cx (s : State) : State := s.modSlot 3 fun c => { c with frarea := 0x2000000A, codesize := 0x200000 }

/-- RegisterWrites: each register and slot, the last of each range. -/
theorem met_register_writes : es.Sound ∧ Writes (wr es 0x518400 2801) .registerWrite 0x518400 2801 ∧
    Writes (wr es 0 (2 ^ 33)) .registerWrite 0 (2 ^ 33) ∧ Writes (wr es 0x510100 3) .registerWrite 0x510100 3 ∧
    Writes (wr es 0x510104 3) .registerWrite 0x510104 3 ∧ 0x510104 % 8 ≠ 0 ∧
    Writes (wr es (0x500000 + 256 * 14 + 8 * 15) 3) .registerWrite (0x500000 + 256 * 14 + 8 * 15) 3 ∧
    Writes (wr es (0x500000 + 256 * 15 + 8) 3) .registerWrite (0x500000 + 256 * 15 + 8) 3 ∧
    (es.slot 14).act = false ∧ (es.slot 15).act = true :=
  ⟨sound_of (by decide +kernel), writes_of (by decide +kernel), writes_of (by decide +kernel),
    writes_of (by decide +kernel), writes_of (by decide +kernel), by decide +kernel,
    writes_of (by decide +kernel), writes_of (by decide +kernel), by decide +kernel⟩

/-- RegisterWrites, contexts and the mailbox: an activation taken and three refused; an end of a slot not active, and of one
that is; GO of 4096 bytes, of none, and while busy. -/
theorem met_context_and_mailbox_writes : (cx es).Sound ∧ settled (cx es) ∧
    Writes (wr (cx es) (0x500000 + 256 * 3) (9 * 256 + 1)) .ctxctlActivate (0x500000 + 256 * 3) (9 * 256 + 1) ∧
    ((cx es).slot 3).act = false ∧ (cx es).slotOf 9 = none ∧ ((cx es).slot 3).regsOk = true ∧ es.regs.towerlost = 0 ∧
    Writes (wr (cx es) (0x500000 + 256 * 3) (255 * 256 + 1)) .ctxctlActivate (0x500000 + 256 * 3) (255 * 256 + 1) ∧
    (es.slotOf 255).isSome = true ∧ (es.slot 3).regsOk = false ∧
    Writes (wr es (0x500000 + 256 * 15) (9 * 256 + 1)) .ctxctlActivate (0x500000 + 256 * 15) (9 * 256 + 1) ∧
    (es.slot 15).ctxid ≠ 9 ∧ Writes (wr es (0x500000 + 256 * 15) 2) .ctxctlEnd (0x500000 + 256 * 15) 2 ∧
    es.slotOf (es.slot 15).ctxid = some 15 ∧
    Writes (wr es 0x518300 (2 ^ 31 + 4096)) .spdmMailboxGo 0x518300 (2 ^ 31 + 4096) ∧ es.regs.mbxBusy = false ∧
    Writes (wr es 0x518300 (2 ^ 31)) .spdmMailboxGo 0x518300 (2 ^ 31) :=
  ⟨sound_of (by decide +kernel), settled_of (by decide +kernel), writes_of (by decide +kernel), by decide +kernel, by decide +kernel, by decide +kernel, by decide +kernel,
    writes_of (by decide +kernel), by decide +kernel, by decide +kernel,
    writes_of (by decide +kernel), by decide +kernel, writes_of (by decide +kernel),
    by decide +kernel, writes_of (by decide +kernel), by decide +kernel,
    writes_of (by decide +kernel)⟩

/-- An invalidation of kind k for slot n. -/
def inv (n k a l : Nat) : State :=
  wr { es with regs := { es.regs with invaddr := BitVec.ofNat 64 a, invlen := BitVec.ofNat 64 l } } 0x510010 (n + 16 * k)

/-- Invalidations: the four kinds, for an active slot and for one that is not; m1 overlaps the range. -/
theorem met_invalidations : (inv 15 1 0x100000 0x10000).Sound ∧ (es.eops = [] ∧ es.link.reqs = [] ∧ es.link.asks = [] ∧ es.link.wacks = [] ∧ es.link.wlate = []) ∧
    Writes (inv 15 1 0x100000 0x10000) .invalidateRange 0x510010 31 ∧ Writes (inv 15 2 0 0) .invalidateAll 0x510010 47 ∧
    Writes (inv 15 3 0 0) .invalidateRegion 0x510010 63 ∧ Writes (inv 15 4 0 0) .invalidateCode 0x510010 79 ∧
    Writes (inv 2 4 0 0) .invalidateCode 0x510010 66 ∧ (es.slot 15).act = true ∧ (es.slot 2).act = false ∧
    es.t.ctx = (es.slot 15).ctxid ∧ es.t.life = .live ∧ (es.mReg 1).vbase.toNat = 0x100000 ∧
    (let s : State := { inv 15 2 0 0 with others := [{ es.t with tid := 90 }, { es.t with tid := 91, ctx := 7 }] }
     s.others.map (·.ctx) = [255, 7] ∧ (s.slot 15).ctxid = 255) :=
  ⟨sound_of (by decide +kernel), by decide +kernel, writes_of (by decide +kernel),
    writes_of (by decide +kernel), writes_of (by decide +kernel),
    writes_of (by decide +kernel), writes_of (by decide +kernel), by decide +kernel⟩

/-- Port 18 is up, with stream 5 of ncontrib n. -/
def pp (n : Nat) : State := { es with link := { es.link with set := 0x3FF }, regs := { es.regs with
  pctl := [(18, { en := true, up := true, drop := 3 })]
  streams := [(5, { w0 := BitVec.ofNat 64 (n * 256 + 36 + 1 + 255 * 2 ^ 32), dest := 0x20000000 })] } }

/-- PortsAndStreams: the last port goes up and down; stream words taken and refused; rows dropped, copied, and emitted. -/
theorem met_ports_and_streams : Writes (wr es (0x300000 + 256 * 18) 1) .peerPortEnable (0x300000 + 256 * 18) 1 ∧
    ((pp 1).pctl 18).en = true ∧ (pp 1).feature 7 = true ∧
    Writes (wr (pp 1) (0x300000 + 256 * 18) 0) .peerPortDisable (0x300000 + 256 * 18) 0 ∧
    Writes (wr (pp 1) (0x400000 + 32 * 255 + 24) 7) .reductionStreamWrite (0x400000 + 32 * 255 + 24) 7 ∧
    Writes (wr (pp 1) (0x400000 + 32 * 9) 0x125) .reductionStreamWrite (0x400000 + 32 * 9) 0x125 ∧
    (bits 0x125 5 1 = 18 ∧ bits 0x125 13 8 = 1 ∧ bits 0x125 16 16 = 0 ∧ ((pp 1).stream 9).v = false) ∧
    Writes (wr (pp 1) (0x400000 + 32 * 9) 0x127) .reductionStreamWrite (0x400000 + 32 * 9) 0x127 ∧ bits 0x127 5 1 = 19 ∧
    Writes (wr (pp 1) (0x400000 + 32 * 5 + 8) 1) .reductionStreamWrite (0x400000 + 32 * 5 + 8) 1 ∧ ((pp 1).stream 5).v = true ∧ settled (pp 1) ∧
    Writes (wr (pp 1) (0x400000 + 32 * 5) 0x124) .reductionStreamWrite (0x400000 + 32 * 5) 0x124 ∧
    ((pp 1).stream 5).port = 18 ∧ (pp 1).eops = [] ∧ ((pp 1).pctl 18).up = true ∧ ((pp 3).stream 5).ncontrib = 3 ∧
    ((pp 1).stream 5).ncontrib = 1 ∧ ((pp 1).pctl 17).up = false ∧
    (let s : State := (pp 3).putStream 5 { (pp 3).stream 5 with cnt := [(127, 2)] }
     sget 0 127 (s.stream 5).cnt + 1 = (s.stream 5).ncontrib ∧ (s.stream 5).v = true) ∧ ((pp 1).stream 5).outKind = 0 ∧ ((pp 1).stream 5).bdest = 0 ∧ ((pp 1).stream 5).seqa = 0 ∧
    (pp 1).seals = [] ∧ ((pp 1).stream 5).dest.toNat + 512 * 127 + 512 ≤ Config.dramSize :=
  ⟨writes_of (by decide +kernel), by decide +kernel, by decide +kernel,
    writes_of (by decide +kernel), writes_of (by decide +kernel),
    writes_of (by decide +kernel), by decide +kernel, writes_of (by decide +kernel),
    by decide +kernel, writes_of (by decide +kernel), by decide +kernel, settled_of (by decide +kernel),
    writes_of (by decide +kernel), by decide +kernel⟩
/-- The team waits for the line that f asked for; the driver answers. -/
def f4 : FaultRec := { fseq := 4, src := 1, owner := 3, quad := 0, pages := [0x210008] }
def frS (fseq unsv : Nat) (pages : List DWord) : State :=
  rx ((es.modSlot 15 fun c => { c with faults := [f4], fseq := 4 }).modT fun t => { t with wait := .fetch 4 0x212345 0x200080 0 })
    (hm 4 255 (leBytes 4 fseq ++ leBytes 1 unsv ++ leBytes 1 pages.length ++ leBytes 2 0 ++
      pages.flatMap fun p => leBytes 8 p.toNat))

/-- FaultsAndPreemption, replies: of no fault; unservable; a retry; a decline of the page with cause 7. -/
theorem met_fault_replies : Arrives (frS 9 0 []) .faultreply ∧ Arrives (frS 4 1 []) .faultreply ∧
    Arrives (frS 4 0 [0x210000]) .faultreply ∧ Arrives (frS 4 0 [0x210107]) .faultreply ∧
    (∀ p ∈ [[], [0x210000], [0x210107]], replyOk (frS 4 0 p).link.rx p = true) ∧ (frS 4 0 []).slotOf 255 = some 15 ∧
    ((frS 4 0 []).slot 15).ending = none ∧ ((frS 4 0 []).slot 15).faults = [f4] ∧ f4.sent = true ∧ f4.reply = none ∧
    f4.owner = (frS 4 0 []).t.tid ∧ (frS 4 0 []).restoring = [] ∧
    ((f4.pages.take 32).any fun q => q.toNat / 2 ^ 16 == 0x212345 / 2 ^ 16) = true ∧ (frS 4 0 []).t.life = .live ∧ (frS 4 0 []).others = [] ∧
    (frS 4 0 []).t.wait = .fetch 4 0x212345 0x200080 0 ∧ (0x210107#64).toNat / 2 ^ 16 = 0x212345 / 2 ^ 16 ∧
    bits (0x210107#64).toNat 15 8 = 1 ∧ bits (0x210000#64).toNat 15 8 = 0 ∧ (0x210008#64).toNat / 2 ^ 16 = 0x212345 / 2 ^ 16 :=
  ⟨arrives_of (by decide +kernel), arrives_of (by decide +kernel), arrives_of (by decide +kernel), arrives_of (by decide +kernel),
    by decide +kernel⟩

def pre (s : State) (k lid : Nat) : State := rx s (hm 5 255 (leBytes 1 k ++ leBytes 7 0 ++ leBytes 4 lid ++ leBytes 4 0))
/-- A launch 9 of context 255 has its one block still to place. -/
def gN : Grid := { Grid.none with gid := 50, lid := 9, ctx := 255, st := .running, lrec :=
  { entry := 0x200000, args := 77, grid := 1, shape := 0x400 + 3, mem := 1, handctx := 255 } }
def pw : State := { es with grids := es.grids ++ [gN] }
def roomOf (s : State) (g : Grid) : Bool :=
  match s.roomFor g with
  | (some (s1, _, cores), _) => (s1.placeNext g fun c => cores.contains c).isSome
  | _ => false

/-- FaultsAndPreemption, PREEMPT: a launch that is none; one with room; a context to suspend without units; one to
resume. -/
theorem met_preempt : Arrives (pre es 0 99) .preemptMakeRoom ∧ (heard (pre es 0 99)).wanted 255 99 = none ∧
    Arrives (pre pw 0 9) .preemptMakeRoom ∧ (heard (pre pw 0 9)).wanted 255 9 = some gN ∧
    roomOf (heard (pre pw 0 9)) gN = true ∧ Arrives (pre { es with blocks := [] } 1 0) .preemptSuspend ∧
    Arrives (pre es 2 0) .preemptResume ∧
    ((pre es 0 99).link.rx.field 0 1 = 0 ∧ (pre es 0 99).link.rx.field 8 4 = 99 ∧ (pre es 1 0).link.rx.field 1 7 = 0 ∧
      (pre es 1 0).link.rx.field 0xC 4 = 0 ∧ es.slotOf 255 = some 15 ∧ (es.slot 15).ending = none ∧
      (es.slot 15).susp = false ∧
      (heard (pre { es with blocks := [] } 1 0)).unitsOf ((heard (pre { es with blocks := [] } 1 0)).blockOf 255) = []) :=
  ⟨arrives_of (by decide +kernel), by decide +kernel, arrives_of (by decide +kernel), by decide +kernel, by decide +kernel,
    arrives_of (by decide +kernel), arrives_of (by decide +kernel), by decide +kernel⟩

/-- The slot has a save area that holds the block of one team of one lane and 8 registers. -/
def small : State :=
  let s := es.modSlot 15 fun c => { c with savebase := 0x30000000, savesize := 0x1000000 }
  let s := (s.modT fun t => { t with wait := .cwait, kids := [(50, 9)], lanes := 1, vregs := 8, v := [], m := [], mask := 1 }).modGrid 1
    fun g => { g with lrec := { g.lrec with shape := 0, mem := 0 } }
  s.modBlock 2 fun b => { b with scratch := [], scratchSize := 0, bars := [] }

def ps : State := heard (pre small 1 0)
def ps0 : State := ps.modSlot 15 fun c => { c with susp := true }

theorem ps_evicts : ∀ u ∈ ps.unitsOf (ps.blockOf 255), (ps.evictUnit u true).isSome = true := by
  unfold State.evictUnit State.blockRecord
  simp only [layOut_length]
  decide +kernel

theorem ps0_evicts : ((ps0.block? 2).all fun b => (ps0.evictUnit [b] true).isSome) = true := by
  unfold State.evictUnit State.blockRecord
  simp only [layOut_length]
  decide +kernel

/-- FaultsAndPreemption, PREEMPT: a context to suspend whose one unit fits its save area. -/
theorem met_preempt_suspend : Arrives (pre small 1 0) .preemptSuspend ∧
    ((ps.unitsOf (ps.blockOf 255)).map fun u => u.map (·.bid)) = [[2]] ∧ ((ps0.block? 2).any fun b => !ps0.fillHeld [b]) = true ∧
    (∀ u ∈ ps.unitsOf (ps.blockOf 255), (ps.evictCount {} u true).isSome = true) ∧
    ((ps0.block? 2).all fun b => (ps0.evictCount {} [b] true).isSome) = true :=
  ⟨arrives_of (by decide +kernel), by decide +kernel, by decide +kernel,
    fun u h => by rw [evictCount_isSome]; exact ps_evicts u h, by simp only [evictCount_isSome]; exact ps0_evicts⟩

/-- ContextEnds: slot 15 with a live team and a save area, nothing in flight. -/
theorem met_context_ends : (small.modSlot 15 fun c => { c with ending := some 0x42 }).Sound ∧
    (let s := small.modSlot 15 fun c => { c with ending := some 0x42 }
     (s.slot 15).act = true ∧ (s.slot 15).ending = some 0x42 ∧ s.ctxQuiet (s.slot 15).ctxid = true ∧ s.eops = [] ∧
       s.saving = [] ∧ (s.slot 15).savesize ≠ 0 ∧ (es.slot 15).savesize = 0) :=
  ⟨sound_of (by decide +kernel), by decide +kernel⟩

/-- TeamEvents: a line that can be read; one that cannot; an instruction that is ready, an UNSEAL, and a store through the
window that is acknowledged; a phase over its limit by one (R204: expected 100, margin 4, limit 106); a boundary cause
pending. -/
theorem met_team_events : settled es ∧
    ((es.slotOf es.t.ctx = some 15 ∧ es.t.life = .live ∧ es.ctxEnding es.t.ctx = false ∧ es.t.dec = []) ∧
    (match es.fetchLine 15 0x200000 with | .line .. => true | _ => false) = true ∧
    (let s := es.modSlot 15 fun c => { c with lattbase := 0x50000 }
     (match s.fetchLine 15 0x200080 with | .fault c _ => c == 8 | _ => false) = true ∧ (s.slot 15).fseq + 1 < 2 ^ 32) ∧
    (let s := es.modT fun t => { t with infl := [busy 5 .ready, busy 77 (.unseal 0x10000 0x10000 9), busy 6 .window] }
     s.t.infl.find? (fun g => g.u == 5) = some (busy 5 .ready) ∧ s.t.log = [] ∧
     s.t.infl.find? (fun g => g.u == 77) = some (busy 77 (.unseal 0x10000 0x10000 9)) ∧
     s.t.infl.find? (fun g => g.u == 6) = some (busy 6 .window) ∧ s.link.reqs = [] ∧ s.link.wacks = []) ∧
    (let s := es.modT fun t => { t with ph := ⟨true, 7, 100, 107⟩ }
     s.t.ph.on = true ∧ (s.core s.t.core).vp0 = (s.core s.t.core).vp1 ∧ s.t.pendB = [] ∧
     s.t.ph.e + s.t.ph.e / 2 ^ s.t.phmargin.toNat = 106) ∧
    (es.runs es.t = true ∧ es.waitStands es.t = false ∧ es.t.log = [] ∧ es.t.infl = [] ∧ es.t.hnd = false ∧
      es.t.tvec.toNat % 2 = 1 ∧ es.peekRuns (mySlot es) es.t.pc.toNat = [])) := ⟨settled_of (by decide +kernel), by decide +kernel⟩

/-- TeamEvents, R441: no overrun counted yet; one counted in this fabric cycle on the lower team place. -/
theorem met_phase_tie : (es.slot 15).phcnt = 0 ∧
    (let s := (es.modSlot 15 fun c => { c with phcnt := 1, phlast := 0x640000000A, phAt := es.fab }).modT
       fun t => { t with core := 0, place := 1, ph := ⟨true, 7, 100, 107⟩ }
     (s.slot 15).phAt = s.fab ∧ (s.slot 15).phcnt ≠ 0 ∧
       bits (s.slot 15).phlast.toNat 31 16 < bits (s.t.core * 2 ^ 22 + s.t.place * 2 ^ 16) 31 16 ∧
       s.t.ph.num < 2 ^ 16) := by decide +kernel

/-- c is the least of the cores below 640 with b, which those with p have. -/
theorem least_of {s : State} {p : Nat → Prop} {c : Nat} (b : Nat → Bool) (h : p c) (hp : ∀ x, p x → x < 640 ∧ b x = true)
    (hb : ((List.range 640).all fun x => !b x || Decidable.decide (s.nTeams [c] < s.nTeams [x]) ||
      (s.nTeams [c] == s.nTeams [x] && Decidable.decide (c ≤ x))) = true) : leastCore s p c :=
  ⟨h, fun x hx => by
    have := List.all_eq_true.mp hb x (List.mem_range.mpr (hp x hx).1); simpa [(hp x hx).2] using this⟩

/-- Core 0 has a team, and only tower 0 takes a placement in this fabric cycle. -/
def dS : State := { pw with dist := { pw.dist with towers := [1, 2, 3, 4, 5, 6, 7] } }
/-- Launch 9's block may go to core 1, of tower 0; core 0 has a team. -/
theorem met_block_placement : dS.cand? 50 = some ⟨gN, none, 50⟩ ∧ dS.grid? 50 = some gN ∧ gN.st = .running ∧ gN.lrec.gang = false ∧
    gN.lrec.cluster = 0 ∧ dS.turn ⟨gN, none, 50⟩ = true ∧
    leastCore dS (fun c => c < 640 ∧ dS.distNow.towers.contains (towerOf c) = false ∧ dS.claimed gN c = false ∧
      dS.eligible c 50 gN.lrec gN.next gN.lrec.teams = true) 1 :=
  ⟨by decide +kernel, by decide +kernel, by decide +kernel, by decide +kernel, by decide +kernel, by decide +kernel,
    least_of (fun _ => true) (by decide +kernel) (fun _ h => ⟨h.1, rfl⟩) (by decide +kernel)⟩

/-- The same launch, Queued; and one of clusters of two. -/
def gQ : Grid := { gN with st := .queued }
def dQ : State := { es with grids := es.grids ++ [gQ] }
theorem met_block_placement_queued : dQ.cand? 50 = some ⟨gQ, none, 50⟩ ∧ gQ.st = .queued ∧ (gQ.lrec.wlcnt = 0 ∧ gQ.lrec.cupSize = 0) ∧
    mayRun dQ gQ ∧ dQ.turn ⟨gQ, none, 50⟩ = true :=
  ⟨by decide +kernel, by decide +kernel, by decide +kernel, ⟨.inl (by decide +kernel), .inl (by decide +kernel)⟩, by decide +kernel⟩

/-- Distribution, placement: a grid of two blocks with clusters of two. -/
def gC : Grid := { gN with lrec := { gN.lrec with shape := 0x2000403 } }
def dC : State := { es with grids := es.grids ++ [gC] }
theorem met_cluster_placement : dC.cand? 50 = some ⟨gC, none, 50⟩ ∧ dC.turn ⟨gC, none, 50⟩ = true ∧ gC.lrec.gang = false ∧
    gC.lrec.cluster ≠ 0 ∧ (dC.placeCand ⟨gC, none, 50⟩ dC.distNow.towers).isSome = true := by decide +kernel

/-- A gang. -/
def gG : Grid := { gN with st := .queued, lrec := { gN.lrec with entry := 0x200001 } }
def dG : State := { es with grids := es.grids ++ [gG] }
/-- In this fabric cycle no placement goes to tower 0 any more. -/
def dT : State := { dG with dist := { dG.dist with towers := [0] } }

/-- Distribution, gangs: a gang of two blocks, on quad 0. -/
theorem met_gang_placement : dG.cand? 50 = some ⟨gG, none, 50⟩ ∧ dG.grid? 50 = some gG ∧ gG.st = .queued ∧ mayRun dG gG ∧ gG.lrec.gang = true ∧
    gG.lrec.cluster = 0 ∧ dG.turn ⟨gG, none, 50⟩ = true ∧ gG.lrec.nBlocks = 2 ∧ gG.lrec.lclass = 0 ∧
    gangCores gG (fun c => scopeHas 0 0 c && !dG.distNow.towers.contains (towerOf c) && !dG.claimed gG c) [1, 2] 0 dG ∧
    dG.restoring = [] ∧ gG.lrec.cupSize = 0 ∧ (∀ b ∈ dG.blocks, b.gid ≠ gG.gid) ∧
    (dG.placeCand ⟨gG, none, 50⟩ dG.distNow.towers).isSome = true :=
  ⟨by decide +kernel, by decide +kernel, by decide +kernel, ⟨.inl (by decide +kernel), .inl (by decide +kernel)⟩, by decide +kernel,
    by decide +kernel, by decide +kernel, by decide +kernel, by decide +kernel,
    ⟨least_of (fun _ => true) (by decide +kernel) (fun _ h => ⟨h.1, rfl⟩) (by decide +kernel),
     least_of (fun _ => true) (by decide +kernel) (fun _ h => ⟨h.1, rfl⟩) (by decide +kernel), by simp only [gangCores]; decide +kernel⟩,
    by decide +kernel, by decide +kernel, by decide +kernel, by decide +kernel⟩

/-- The cores of quad 20. -/
def in20 (c : Nat) : Bool := c / 4 == 20
theorem in20_of {s : State} {k : Nat} (c : Nat) (h : c < 640 ∧ (scopeHas 0 20 c && !dT.distNow.towers.contains (towerOf c) &&
    !dT.claimed gG c) = true ∧ s.eligible c gG.gid gG.lrec k gG.lrec.teams = true) : c < 640 ∧ in20 c = true := by
  have := h.2.1
  simp [scopeHas] at this
  exact ⟨h.1, by simp [in20, this]⟩

/-- Distribution, gangs: the scopes of tower 0 do not take it. -/
theorem met_gang_placement_next : dT.cand? 50 = some ⟨gG, none, 50⟩ ∧ dT.grid? 50 = some gG ∧ dT.turn ⟨gG, none, 50⟩ = true ∧
    (let free (m c : Nat) : Bool := scopeHas 0 m c && !dT.distNow.towers.contains (towerOf c) && !dT.claimed gG c
     gangCores gG (free 20) [80, 81] 0 dT ∧ ∀ m k, m < nScopes 0 → scopeFirst dT 0 m 20 → ¬gangCores gG (free m) k 0 dT) := by
  refine ⟨by decide +kernel, by decide +kernel, by decide +kernel,
    ⟨least_of in20 (by decide +kernel) in20_of (by decide +kernel),
     least_of in20 (by decide +kernel) in20_of (by decide +kernel), by simp only [gangCores]; decide +kernel⟩, ?_⟩
  intro m k _ hm hk
  cases k with
  | nil => exact absurd hk (by simp only [gangCores]; decide +kernel)
  | cons c r =>
    obtain ⟨-, hf, -⟩ := hk.1.1
    have ht : dT.distNow.towers = [0] := by decide +kernel
    simp [scopeHas, scopeFirst, ht, towerOf] at hf hm
    omega

/-- Distribution, ageing: a grid of class 1 whose interval has just passed; a queued gang past its class's interval. -/
theorem met_ageing : let s : State := { es with grids := es.grids ++ [gG], pkg := { es.pkg with clk := 0x200000 } }
    s.grid? 50 = some gG ∧ gG.st = .queued ∧ gG.cls < 3 ∧ gG.lrec.gang = true ∧ gG.pressing = false ∧ gG.lrec.prio < 4 ∧
    s.regs.age0 ≠ 0 ∧ max (gG.clsAt + 1024 * s.regs.age0) (s.regs.ageAt + 1) ≤ 2 * s.pkg.clk.toNat ∧
    1024 * s.regs.age0 < 2 * s.pkg.clk.toNat - gG.queuedAt ∧ s.regs.ageAt < 2 * s.pkg.clk.toNat := by decide +kernel

/-- A child that no core can take. -/
def gK : Grid := { Grid.none with gid := 50, lid := 9, ctx := 255, st := .queued, parent := some 1, lrec :=
      { entry := 0x200000, shape := 0x7FFFF, handctx := 255 } }
/-- The team waits for its child, which has been first in the order for long. -/
def cw : State :=
  { small with
    grids := small.grids ++ [gK]
    pkg := { small.pkg with clk := 0x200000 }, dist := { small.dist with head := 50, headAt := 3 } }

/-- The unit of that team can be evicted: its record fits in the save area. -/
theorem cw_evicts : ∀ p ∈ cw.waitingUnits, (cw.evictUnit p.2 false).isSome = true := by
  unfold State.evictUnit State.blockRecord
  simp only [layOut_length]
  decide +kernel

/-- The unit that waits; its grid. -/
def uW : List Block := (cw.block? 2).toList
def gW : Grid := (cw.grid? 1).getD Grid.none

/-- Distribution, a wait for a child: the first candidate, which no core can take; the unit that goes. -/
theorem met_child_wait : cw.order.head? = some ⟨gK, none, 50⟩ ∧ gK.lrec.gang = false ∧ gK.lrec.cluster = 0 ∧ cw.poolRoom gK = true ∧
    (((List.range 640).all fun x => !cw.eligible x 50 gK.lrec gK.next gK.lrec.teams) = true) ∧ cw.dist.head = 50 ∧
    cw.regs.age0 ≠ 0 ∧ gK.cls = 0 ∧ 1024 * cw.regs.age0 ≤ 2 * cw.pkg.clk.toNat - cw.dist.headAt ∧ gW ∈ cw.grids ∧
    (∀ b ∈ cw.blocks, b.order < cw.uid) := by decide +kernel

theorem met_child_wait_unit : descendsFrom cw gW.gid 16 gK ∧ waitsForChild cw gW uW ∧
    (∀ x ∈ cw.grids, descendsFrom cw x.gid 16 gK → ∀ y, waitsForChild cw x y → x = gW ∧ y = uW ∨ gW.cls < x.cls ∨
       (gW.cls = x.cls ∧ unitAge y < unitAge uW)) ∧ (cw.evictCount {} uW false).isSome = true := by
  have hb : ∀ b ∈ cw.blocks, b.gid = gW.gid ∧ cw.unitOf b = uW := by decide +kernel
  have hg : ∀ x ∈ cw.grids, x.gid = gW.gid → x = gW := by decide +kernel
  refine ⟨⟨1, by decide +kernel, .inl (by decide +kernel)⟩, ⟨?_, by decide +kernel, by decide +kernel, by decide +kernel⟩, ?_, ?_⟩
  · decide +kernel
  · rintro x hx - y ⟨⟨b, hm, hbx, -, rfl⟩, -⟩
    exact .inl ⟨hg x hx (hbx ▸ (hb b hm).1), (hb b hm).2⟩
  · rw [evictCount_isSome]
    exact cw_evicts (gW, uW) (by decide +kernel)

/-- That unit evicted, its context not suspended and its child gone. -/
def sus : State :=
  let s := cw.modT (Team.evict cw.pkg.clk.toNat)
  let b := (s.blocks.map fun b => { b with life := .evicted, save := some (1, 2) })
  { s with
    saved := [{ u := 4, gid := 1, blocks := [2], quads := [cw.saveQuad 1 cw.myRec cw.blocks 0] }], blocks := b
    grids := s.grids.filter fun g => g.gid != 50, dist := { s.dist with head := 0, headAt := 0 } }

/-- The same unit, of a grid that is no gang. -/
def sn : State := sus.modGrid 1 fun g => { g with lrec := { g.lrec with entry := 0x200000 } }
def gR : Grid := (sn.grid? 1).getD Grid.none
/-- The unit and its block. -/
def v4 : SavedUnit := sn.saved.getD 0 { u := 0, gid := 0, blocks := [], quads := [] }
def bS : Block := (sn.block? 2).getD blk
/-- Distribution, restores: the unit's turn, to core 0. -/
theorem met_unit_restore : sn.cand? 4 = some ⟨gR, some v4, 4⟩ ∧ sn.grid? v4.gid = some gR ∧ sn.slotOf gR.ctx = some 15 ∧
    (gR.lrec.gang = false ∧ gR.lrec.cluster = 0 ∧ gR.lrec.tiles = 0 ∧ gR.lrec.cupSize = 0) ∧ v4.blocks = [bS.bid] ∧
    sn.block? bS.bid = some bS ∧ ((v4.quadOf bS.bid).any fun w => w.wide == none) = true ∧ sn.turn ⟨gR, some v4, 4⟩ = true ∧
    (sn.restoring = [] ∧ sn.eops = [] ∧ (sn.slot 15).faults = [] ∧ sn.regs.towerlost = 0 ∧ sn.poison = []) ∧
    leastCore sn (fun c => c < 640 ∧ sn.distNow.towers.contains (towerOf c) = false ∧ sn.claimed gR c = false ∧
       sn.eligible c gR.gid gR.lrec bS.rank (sn.teams.countP fun t => t.bid == bS.bid && t.life == Life.evicted) = true) 0 ∧
    bS.save = some (1, 2) ∧ sn.t.bid = bS.bid ∧ sn.t.life = .evicted ∧ sn.gangLost v4 = false ∧
    (sn.placeCand ⟨gR, some v4, 4⟩ sn.distNow.towers).isSome = true :=
  ⟨by decide +kernel, by decide +kernel, by decide +kernel, by decide +kernel, by decide +kernel, by decide +kernel, by decide +kernel,
    by decide +kernel, by decide +kernel, least_of (fun _ => true) (by decide +kernel) (fun _ h => ⟨h.1, rfl⟩) (by decide +kernel),
    by decide +kernel⟩

/-- A Cupboard whose one chunk has come, not yet done, and a block that waits for it. -/
def cf : State :=
  ((es.modGrid 1 fun g => { g with lrec := { g.lrec with cupimg := 0x3001, entry := 0 } }).modQuad 0 fun q =>
    { q with cups := [⟨1, 4096, [], 4096, false, 0⟩] }).modBlock 2 fun b => { b with started := false }
/-- The fill has yet to begin. -/
def cf0 : State := cf.modQuad 0 fun q => { q with cups := [⟨1, 4096, [(5, 9)], 0, false, 0⟩] }
theorem met_cupboard_fill : ((cf0.quadD 0).cups.find? fun x => x.gid == 1) = some ⟨1, 4096, [(5, 9)], 0, false, 0⟩ ∧
    ((cf0.grid? 1).map fun g => (g.ctx, cf0.ctxEnding g.ctx, cf0.slotOf g.ctx, g.lrec.image, g.lrec.gang)) = some (255, false, some 15, 0x3000, false) ∧
    cf0.inRegion 15 0x3000 4096 = true ∧ (theBytes (cf0.readVirt 15 (.fill 1 0) 0x3000 4096)).length = 4096 ∧
    (cf0.quads.any fun x => x.q == 0) = true ∧ cf0.restoring = [] ∧ cf0.caches.counted = [] ∧
    (∀ t ∈ cf0.t :: cf0.others, ∀ f ∈ t.infl, f.late = []) := by decide +kernel

/-- Health: the last core, with its leak counts at and below the limit; the times of the decay and of an epoch; the last
tower, structure and byte. -/
theorem met_health :
    (let s : State := { es with cores := [(639, { leak0 := 62, leak1 := 63 })] }
     (s.core 639).vp0 = true ∧ (s.core 639).leak0 < 63 ∧ 63 ≤ (s.core 639).leak1 ∧ (s.core 639).vp1 = true) ∧
    (let s : State := { es with cores := [(639, { leak0 := 63, vp1 := false })] }
     (s.core 639).vp0 = true ∧ (s.core 639).vp1 = false) ∧
    ({ es.pkg with clk := 0x80000, leakAt := 0 } : Pkg).leakAt + 2 ^ 20 ≤ 2 * (0x80000#64).toNat ∧
    es.regs.towerlost.getLsbD 7 = false ∧ es.slotOf 255 = some 15 ∧
    Config.dramSize - 1 < Config.dramSize ∧ es.pkg.epochAt + 65536 ≤ 2 * (0x8000#64).toNat := by decide +kernel

theorem ports_of {s : State} (h : (s.quads.all fun x => x.port == []) = true) : ∀ q, (s.quadD q).port = [] := by
  intro q
  unfold State.quadD
  cases e : s.quads.find? fun x => x.q == q with
  | none => rfl
  | some x => simpa using List.all_eq_true.mp h x (List.mem_of_find?_eq_some e)

/-- Health: an uncorrectable error on the only bundle in service of the core where a team runs. -/
theorem met_health_only_bundle : let s : State := { es with cores := [(0, { vp1 := false })] }
    (s.core 0).vp0 = true ∧ (s.core 0).vp1 = false ∧ s.regs.towerlost = 0 ∧ (∀ q, (s.quadD q).port = []) ∧
      (s.team? 3).map (fun t => (t.core, Decidable.decide (t.life = .live), s.slotOf t.ctx)) = some (0, true, some 15) :=
  ⟨by decide +kernel, by decide +kernel, by decide +kernel, ports_of (by decide +kernel), by decide +kernel⟩

/-- ResetAndPower: running; without power; ready to bring the link up. -/
theorem met_reset_and_power : es.pkg.pwrok = true ∧ es.pkg.tripped = false ∧ (after .pwrokFall es).pkg.pwrok = false ∧
    es.pkg.slow < 7 ∧ (after (.pwrokRise { lost := [], failed := [] }) (after .pwrokFall es)).pkg.pwrok = true ∧
    (∃ n, n < 16 ∧ 115 ≤ sget 0 n [(15, 115)]) ∧ es.regs.capw.toNat < sget 0 16 [(16, 2801)] ∧
    (let s : State := { es with pkg := { es.pkg with slow := 7, cool := coolFull } }
     ¬s.regs.capw.toNat < sget 0 16 s.pkg.sens ∧ (∀ n < 16, sget 0 n s.pkg.sens < 105) ∧ 0 < s.pkg.slow ∧
       coolFull ≤ s.pkg.cool) ∧ State.reset.pkg.pwrok = true ∧ State.reset.pkg.tripped = false ∧ State.reset.link.up = false ∧
    State.reset.link.locked = false ∧ State.reset.pkg.bringStep = 0 ∧ State.reset.regs.mlog.length ≤ 1 := by decide +kernel

/-- SideboardAndSpdm: the last image; a request of each of the eight rows through the mailbox, and one by the Sideboard. -/
def spq (code p1 p2 : Nat) : State := { es with regs := { es.regs with
  mbxBuf := sputs 0 [(0, 0x10), (1, BitVec.ofNat 8 code), (2, BitVec.ofNat 8 p1), (3, BitVec.ofNat 8 p2)] [], mbxReq := 4, mbxBusy := true } }
def mbx : SpdmReq := { mailbox := true, bytes := [] }

theorem met_sideboard_and_spdm : (sget {} 3 es.side.flash).minSvn ≤ 0 ∧ (sget {} 1 es.side.flash).minSvn ≤ 0 ∧
    (∀ k ∈ [0x84, 0xE1, 0xE3, 0x81, 0x82, 0x83, 0xE0, 0xFF], (spq k 0 0).spdmOpen mbx = true ∧
      (((spq k 0 0).spdmBytes mbx).getD 1 0).toNat = k) ∧ (spq 0x84 0 0).spdmNeg mbx = 0 ∧
    es.pkg.pwrok = true ∧ (after .sbReset es).sbOn = true ∧ (after .sbReset es).spdmOpen { mailbox := false, bytes := [0x13, 0x84, 0, 0] } = true ∧
    (let s : State := { after .sbReset es with acts := [.sbRead 0x518400 8] }
     s.acts = [.sbRead 0x518400 8] ∧ s.pkg.tripped = false ∧ s.regRead true 0x518400 = some 2800 ∧
       s.regRead true 0x518404 = none ∧ ({ s with pkg := { s.pkg with tripped := true } } : State).sbOn = true) := by
  decide +kernel

/-- A request of code k with its parameters, negotiation complete, two entries of the measurement log valid. -/
def spn (code p1 p2 : Nat) : State :=
  let s := spq code p1 p2
  { s with side := { s.side with negMbx := 3 }
           regs := { s.regs with mbxBuf := sput 0 0 0x13 s.regs.mbxBuf
                                 mlog := [⟨1, true, 5, 6, List.replicate 48 7⟩, ⟨2, false, 0, 0, []⟩, ⟨5, true, 0, 168, List.replicate 48 8⟩] } }

/-- SideboardAndSpdm, contents: each request in its turn and before it; a certificate and a challenge of slots 0 and 7; measurements
none, all, 1, 5, one not valid, and 6. -/
theorem met_spdm_contents :
    ((∀ k ∈ [0xE1, 0xE3, 0x81, 0x82, 0x83, 0xE0], ((spn k 0 0).spdmNeg mbx = 3 ∧ (spn k 0 0).spdmOpen mbx = true ∧
      ((spn k 0 0).spdmBytes mbx).getD 0 0 = 0x13) ∧ (((spn k 0 0).spdmBytes mbx).getD 1 0).toNat = k ∧ (spq k 0 0).spdmNeg mbx = 0)) ∧
    ((((spn 0x82 0 0).spdmBytes mbx).getD 2 0).toNat % 16 = 0 ∧ (((spn 0x83 7 0).spdmBytes mbx).getD 2 0).toNat % 16 = 7) ∧
    ((∀ n ∈ [0, 1, 2, 5, 6, 0xFF], (((spn 0xE0 0 n).spdmBytes mbx).getD 3 0).toNat = n) ∧
      (∀ n ∈ [1, 5], (((spn 0xE0 0 n).regs.mlog.filter (·.valid)).find? fun e => e.index == n).isSome = true) ∧
      ∀ e ∈ (spn 0xE0 0 2).regs.mlog, e.index = 2 → e.valid = false) := by decide +kernel

/-- PortsAndStreams: a 17th valid stream on port 18. -/
def p16 : State := { pp 1 with regs := { (pp 1).regs with streams := (List.range 16).map fun k => (k, { w0 := 0x125 }) } }
theorem met_streams_full : Writes (wr p16 (0x400000 + 32 * 255) 0x125) .reductionStreamWrite (0x400000 + 32 * 255) 0x125 ∧
    ((p16.stream 255).v = false ∧
    16 ≤ ((List.range 256).filter fun j => j != 255 && (p16.stream j).v && (p16.stream j).port == bits 0x125 5 1).length) ∧
    ((List.range 256).filter fun j => j != 15 && (p16.stream j).v && (p16.stream j).port == bits 0x125 5 1).length < 16 :=
  ⟨writes_of (by decide +kernel), by decide +kernel, by decide +kernel⟩

/-- A stream of port 18, its destinations as given, whose one contribution comes. -/
def pe (w0 : Nat) (dest bdest seqa : DWord) : State := { pp 1 with regs := { (pp 1).regs with
  pctl := [(17, { en := true, up := true }), (18, { en := true, up := true })]
  streams := [(5, { w0 := BitVec.ofNat 64 (w0 + 0x125), dest := dest, bdest := bdest, seqa := seqa })] } }

/-- PortsAndStreams, emission: with bounds and a count, the last one at the end of local memory; past it; through port 17, and
through one that is down; and a row that waits, for the cycle has had one of a later source. -/
theorem met_emission :
    (let s := pe 0 0x20000000 0x30000000 (BitVec.ofNat 64 (Config.dramSize - 8))
     let x := s.stream 5
     let runs := [(x.dest.toNat + 512 * 127, 512), (x.bdest.toNat + 4 * 127, 4), (x.seqa.toNat, 8)]
     x.port = 18 ∧ x.v = true ∧ (s.pctl 18).up = true ∧ s.eops = [] ∧ s.regs.rowSrc ≤ 1018 ∧ sget 0 127 x.cnt + 1 = x.ncontrib ∧
     x.outKind = 0 ∧ x.bdest ≠ 0 ∧ x.seqa ≠ 0 ∧ (∀ r ∈ runs, r.1 + r.2 ≤ Config.dramSize) ∧ s.regs.towerlost = 0 ∧ s.seals = [] ∧
     s.poison = [] ∧ (∀ t ∈ s.t :: s.others, ∀ f ∈ t.infl, f.late = []) ∧
     runs.Pairwise (fun a b => a.1 + a.2 ≤ b.1 ∨ b.1 + b.2 ≤ a.1)) ∧
    (let s := pe 0 (BitVec.ofNat 64 (Config.dramSize - 512)) 0 0
     Config.dramSize < (s.stream 5).dest.toNat + 512 * 1 + 512 ∧ (s.stream 5).ncontrib = 1) ∧
    (let s := pe (2 ^ 16 + 17 * 2 ^ 17) 0 0 0
     (s.stream 5).outKind = 1 ∧ (s.stream 5).outPort = 17 ∧ (s.pctl 17).up = true ∧ (s.stream 5).v = true) ∧
    (let s := pe (2 ^ 16 + 16 * 2 ^ 17) 0 0 0
     (s.stream 5).outKind = 1 ∧ (s.pctl (s.stream 5).outPort).up = false) ∧
    (let s : State := { pp 1 with regs := { (pp 1).regs with rowAt := (pp 1).fab, rowSrc := 1019 } }
     (s.stream 5).port = 18 ∧ (s.stream 5).v = true ∧ (s.pctl 18).up = true ∧ s.regs.rowAt = s.fab ∧ 1000 + 18 < s.regs.rowSrc) := by
  decide +kernel

end Sys2Proof.Tests
end

section
/-! ## Every step keeps the canonical form of local memory and the 16 context slots

`State.Sound` speaks of two parts of the machine: local memory, which only `putBytes` and `zeroBytes` write, and the list
of context slots, which only `modSlot` writes. The model's laws say that these three keep it; an update of any other part
keeps it because the two parts stay (`State.Sound.upd`). What follows says it once of each function of the model, in the
order in which the model defines them, each lemma citing those of the functions it calls. Where a function answers more
than a state, a predicate of the same name says it of the state that the answer holds. -/

namespace Sys2Proof.Machine
open Sys2Proof

/-- What an attempt answers keeps local memory canonical and the 16 slots. -/
def Start.Sound : Start → Prop
  | .wait _ s => s.Sound
  | .go s _ _ => s.Sound
  | _ => True

/-- What taking a message answers keeps it. -/
def Took.Sound : Took → Prop
  | .ok s => s.Sound
  | _ => True

/-- The machine that reading an instruction word leaves, with the word or without it. -/
def WordAt.Sound : WordAt → Prop
  | .ok _ _ _ s => s.Sound
  | .stop s => s.Sound

/-- The machine that the front of an issue leaves, with an instruction to run or without. -/
def Front.Sound : Front → Prop
  | .stay s => s.Sound
  | .go _ s => s.Sound

/-- The machine that loading a tile leaves, where the load goes on. -/
def TileRes.Sound : TileRes → Prop
  | .go s _ => s.Sound
  | _ => True

/-- The machine that choosing the next act leaves. -/
def Pick.Sound : Pick → Prop
  | .run _ s => s.Sound
  | .idle s => s.Sound
  | .stopped => True

/-- The state that a step answers. -/
def Out.Sound : Out → Prop
  | .next s => s.Sound
  | _ => True

/-! ### The state that an answer holds -/

theorem Took.Sound.ok {x : Took} (h : x.Sound) {s} (e : x = .ok s) : s.Sound := by
  subst e; exact h

theorem WordAt.Sound.ok {x : WordAt} (h : x.Sound) {s w i p} (e : x = .ok w i p s) : s.Sound := by
  subst e; exact h

theorem WordAt.Sound.stop {x : WordAt} (h : x.Sound) {s} (e : x = .stop s) : s.Sound := by
  subst e; exact h

theorem Front.Sound.stay {x : Front} (h : x.Sound) {s} (e : x = .stay s) : s.Sound := by
  subst e; exact h

theorem Front.Sound.go {x : Front} (h : x.Sound) {s i} (e : x = .go i s) : s.Sound := by
  subst e; exact h

theorem TileRes.Sound.go {x : TileRes} (h : x.Sound) {s o} (e : x = .go s o) : s.Sound := by
  subst e; exact h

theorem Pick.Sound.run {x : Pick} (h : x.Sound) {s i} (e : x = .run i s) : s.Sound := by
  subst e; exact h

theorem Pick.Sound.idle {x : Pick} (h : x.Sound) {s} (e : x = .idle s) : s.Sound := by
  subst e; exact h

theorem Out.Sound.next {x : Out} (h : x.Sound) {s : State} (e : x = .next s) : s.Sound := by
  subst e; exact h

/-! ### Answers that may hold no state -/

theorem sound_some {α : Type} {P : α → Prop} {x : α} (h : P x) : ∀ u ∈ some x, P u := by simpa using h

theorem sound_none {α : Type} {P : α → Prop} : ∀ u ∈ (none : Option α), P u := by simp

/-! ### Choices and repetition -/

theorem State.Sound.ite {c : Prop} [Decidable c] {s u : State} (h : s.Sound) (k : u.Sound) : (if c then s else u).Sound :=
  iteInduction (fun _ => h) fun _ => k

/-- A step taken under a condition, and one taken unless it holds. -/
theorem State.Sound.maybe {c : Prop} [Decidable c] {s u : State} (h : s.Sound) (hu : s.Sound → u.Sound) :
    (if c then u else s).Sound := (hu h).ite h

theorem State.Sound.unless {c : Prop} [Decidable c] {s u : State} (h : s.Sound) (hu : s.Sound → u.Sound) :
    (if c then s else u).Sound := h.ite (hu h)

/-- An update of other parts than local memory and the slots. -/
theorem State.Sound.upd {s : State} (hs : s.Sound) {t others blocks grids quads cores poison caches seals eops link regs side
    pkg dist saved restoring saving acts free uid} :
    (State.mk t others blocks grids quads cores s.mem poison caches seals eops s.ctxs link regs side pkg dist saved restoring
      saving acts free uid).Sound := ⟨hs.mem, hs.slots⟩

/-- Steps that each keep it, one for each element of a list, keep it together. -/
theorem State.Sound.foldl {α : Type} {f : State → α → State} {s : State} (h : s.Sound)
    (hf : ∀ u x, u.Sound → (f u x).Sound) (l : List α) : (l.foldl f s).Sound :=
  List.foldlRecOn (motive := State.Sound) l f h fun u hu x _ => hf u x hu

/-- The same for steps that also keep a count or a list. -/
theorem State.Sound.foldl_fst {α β : Type} {f : State × β → α → State × β} {p : State × β} (hs : p.1.Sound)
    (hf : ∀ q x, q.1.Sound → (f q x).1.Sound) (l : List α) : (l.foldl f p).1.Sound :=
  List.foldlRecOn (motive := fun q => q.1.Sound) l f hs fun q hq x _ => hf q x hq

/-- The first answer of a search is sound when every answer is. -/
theorem sound_findSome {α : Type} {l : List α} {f : α → Option State} (hf : ∀ x, ∀ u ∈ f x, u.Sound) :
    ∀ u ∈ l.findSome? f, u.Sound := by
  intro u hu
  obtain ⟨x, -, hx⟩ := List.exists_of_findSome?_eq_some hu
  exact hf x u hx

theorem Start.Sound.ite {c : Prop} [Decidable c] {a b : Start} (ha : a.Sound) (hb : b.Sound) :
    (if c then a else b).Sound :=
  iteInduction (fun _ => ha) fun _ => hb

theorem Took.Sound.ite {c : Prop} [Decidable c] {a b : Took} (ha : a.Sound) (hb : b.Sound) :
    (if c then a else b).Sound :=
  iteInduction (fun _ => ha) fun _ => hb

theorem Front.Sound.ite {c : Prop} [Decidable c] {a b : Front} (ha : a.Sound) (hb : b.Sound) :
    (if c then a else b).Sound :=
  iteInduction (fun _ => ha) fun _ => hb

theorem WordAt.Sound.ite {c : Prop} [Decidable c] {a b : WordAt} (ha : a.Sound) (hb : b.Sound) :
    (if c then a else b).Sound :=
  iteInduction (fun _ => ha) fun _ => hb

theorem TileRes.Sound.ite {c : Prop} [Decidable c] {a b : TileRes} (ha : a.Sound) (hb : b.Sound) :
    (if c then a else b).Sound :=
  iteInduction (fun _ => ha) fun _ => hb

theorem Pick.Sound.ite {c : Prop} [Decidable c] {a b : Pick} (ha : a.Sound) (hb : b.Sound) :
    (if c then a else b).Sound :=
  iteInduction (fun _ => ha) fun _ => hb

theorem sound_ite {α : Type} {P : α → Prop} {c : Prop} [Decidable c] {a b : Option α} (ha : ∀ u ∈ a, P u) (hb : ∀ u ∈ b, P u) :
    ∀ u ∈ (if c then a else b), P u :=
  iteInduction (motive := fun o => ∀ u ∈ o, P u) (fun _ => ha) fun _ => hb

theorem sound_map {α β : Type} {P : β → Prop} {o : Option α} {f : α → β} (hf : ∀ x, P (f x)) : ∀ u ∈ o.map f, P u := by
  intro u hu
  obtain ⟨x, -, rfl⟩ := Option.map_eq_some_iff.1 hu
  exact hf x

theorem sound_map_of {o : Option State} {f : State → State} (ho : ∀ u ∈ o, u.Sound) (hf : ∀ u, u.Sound → (f u).Sound) :
    ∀ u ∈ o.map f, u.Sound := by
  intro u hu
  obtain ⟨w, hw, rfl⟩ := Option.map_eq_some_iff.1 hu
  exact hf w (ho w hw)

theorem sound_getD {o : Option State} {s : State} (ho : ∀ u ∈ o, u.Sound) (hs : s.Sound) : (o.getD s).Sound := by
  cases o with
  | none => exact hs
  | some u => exact ho u rfl

theorem Got.bind_eq_ok {α β : Type} {g : Got α} {f : α → Got β} {y : β} (e : g.bind f = .ok y) : ∃ x, g = .ok x ∧ f x = .ok y := by
  cases g with
  | ok x => exact ⟨x, rfl, e⟩
  | fault => cases e
  | ends => cases e
  | wait => cases e
  | stat => cases e

/-! ### State -/

theorem sound_reset : State.reset.Sound := ⟨rfl, rfl⟩

/-! ### Cells -/

theorem State.Sound.putNat {s : State} (hs : s.Sound) {a n v : Nat} : (s.putNat a n v).Sound := hs.putBytes _ _

/-! ### Ops -/

theorem State.Sound.modT {s : State} (hs : s.Sound) {f : Team → Team} : (s.modT f).Sound := hs.upd

theorem State.Sound.select {s : State} (hs : s.Sound) {tid : Nat} : (s.select tid).Sound := by
  unfold State.select
  refine hs.ite ?_
  split
  · exact hs
  · exact hs.upd

theorem State.Sound.modTeam {s : State} (hs : s.Sound) {tid : Nat} {f : Team → Team} : (s.modTeam tid f).Sound :=
  hs.modT.ite hs.upd

theorem State.Sound.modTeams {s : State} (hs : s.Sound) {p : Team → Bool} {f : Team → Team} : (s.modTeams p f).Sound :=
  hs.upd

theorem State.Sound.settle {s : State} (hs : s.Sound) {p : LateSrc → Bool} : (s.settle p).Sound := hs.modTeams

theorem State.Sound.modBlock {s : State} (hs : s.Sound) {bid : Nat} {f : Block → Block} : (s.modBlock bid f).Sound := hs.upd

theorem State.Sound.modGrid {s : State} (hs : s.Sound) {gid : Nat} {f : Grid → Grid} : (s.modGrid gid f).Sound := hs.upd

theorem State.Sound.modQuad {s : State} (hs : s.Sound) {q : Nat} {f : Quad → Quad} : (s.modQuad q f).Sound :=
  hs.upd.ite hs.upd

theorem State.Sound.modCore {s : State} (hs : s.Sound) {c : Nat} {f : CoreHealth → CoreHealth} : (s.modCore c f).Sound :=
  hs.upd

theorem State.Sound.modCtx {s : State} (hs : s.Sound) {ctx : Nat} {f : CtxSlot → CtxSlot} : (s.modCtx ctx f).Sound := by
  unfold State.modCtx
  split
  · exact hs.modSlot _ _
  · exact hs

theorem State.Sound.endCtx {s : State} (hs : s.Sound) {ctx status : Nat} : (s.endCtx ctx status).Sound := hs.modCtx

theorem State.Sound.send {s : State} (hs : s.Sound) {port typ ctx tag : Nat} {payload : List Byte} :
    (s.send port typ ctx tag payload).Sound :=
  hs.upd.ite hs.upd

theorem State.Sound.ws {s : State} (hs : s.Sound) {n : Nat} {x : DWord} : (s.ws n x).Sound := hs.upd

theorem State.Sound.wv {s : State} (hs : s.Sound) {n : Nat} {l : List (Nat × Word)} : (s.wv n l).Sound := hs.upd

theorem State.Sound.wp {s : State} (hs : s.Sound) {n : Nat} {act x : Lanes} : (s.wp n act x).Sound := hs.ite hs.upd

theorem State.Sound.wm {s : State} (hs : s.Sound) {n : Nat} {x : XReg} : (s.wm n x).Sound := hs.upd

theorem State.Sound.wc {s : State} (hs : s.Sound) {et n : Nat} {l : List (Nat × Nat)} : (s.wc et n l).Sound :=
  hs.wv.maybe (·.wv)

theorem State.Sound.adv {s : State} (hs : s.Sound) {n : Nat} : (s.adv n).Sound := hs.upd.ite hs.upd

theorem State.Sound.done {s : State} (hs : s.Sound) {i : Instr} : (s.done i).Sound := hs.adv

theorem State.Sound.jump {s : State} (hs : s.Sound) {target : DWord} : (s.jump target).Sound := hs.upd

theorem State.Sound.fall {s : State} (hs : s.Sound) : s.fall.Sound := hs.jump.upd

theorem State.Sound.hold {s : State} (hs : s.Sound) {w : Wait} : (s.hold w).Sound := hs.upd

theorem State.Sound.takeTrap {s : State} (hs : s.Sound) : s.takeTrap.Sound := by
  unfold State.takeTrap
  dsimp only
  split
  · exact hs
  · exact hs.endCtx.hold.ite (hs.endCtx.hold.ite hs.upd)

theorem State.Sound.tryTrap {s : State} (hs : s.Sound) : s.tryTrap.Sound := hs.takeTrap.ite hs.hold

theorem State.Sound.raise {s : State} (hs : s.Sound) {cause : Nat} {frec : DWord} : (s.raise cause frec).Sound := hs.decide _

theorem State.Sound.raiseLanes {s : State} (hs : s.Sound) {cs : List LaneCause} : (s.raiseLanes cs).Sound := hs.decide _

theorem State.Sound.illegal {s : State} (hs : s.Sound) {w : Word} : (s.illegal w).Sound := hs.raise

theorem State.Sound.unsupported {s : State} (hs : s.Sound) {w : Word} {bit : Nat} : (s.unsupported w bit).Sound := hs.raise

theorem State.Sound.illegalMode {s : State} (hs : s.Sound) {w mode : Word} : (s.illegalMode w mode).Sound := hs.raise

/-! ### Operands -/

theorem State.Sound.chkRaise {s : State} (hs : s.Sound) {i : Instr} {c : Chk} : (s.chkRaise i c).Sound := by
  unfold State.chkRaise
  split
  · exact hs.illegal
  · exact hs.unsupported
  · exact hs.illegalMode

theorem State.Sound.awaitRecent {s : State} (hs : s.Sound) {i : Instr} : (s.awaitRecent i).Sound := by
  unfold State.awaitRecent
  split
  · exact hs
  · exact hs.upd.modT

theorem State.Sound.storeLater {s : State} (hs : s.Sound) {t : Team} {lanes : Lanes} {ws : List RegRef} :
    (s.storeLater t lanes ws).Sound := by
  refine hs.foldl (fun u x hu => ?_) _
  dsimp only
  split
  · exact hu
  · split
    · split
      · exact hu.putBytes _ _
      · exact hu.modBlock
    · exact hu

theorem State.Sound.dropLater {s : State} (hs : s.Sound) {uid : Nat} {lanes : Lanes} {ws : List RegRef}
    {kept : RegRef → Lanes} : (s.dropLater uid lanes ws kept).Sound :=
  hs.upd

/-- What an issue records of its results changes neither. -/
theorem State.Sound.record {s u : State} (hu : u.Sound) {i : Instr} : (record i s u).Sound := by
  unfold Machine.record
  split
  · exact hu
  · split
    · exact hu
    · dsimp only
      split
      · exact hu.upd
      · exact hu.upd.storeLater.dropLater

theorem State.Sound.attach {s : State} (hs : s.Sound) {on : Until} {srcV srcS : List Nat} {late : List LateSrc} :
    (s.attach on srcV srcS late).Sound :=
  hs.upd

theorem State.Sound.issue {s : State} (hs : s.Sound) {i : Instr} {body : State → State}
    (hbody : ∀ u, u.Sound → (body u).Sound) : (issue i s body).Sound := by
  have hrun : (Machine.record i (s.awaitRecent i) (body (s.awaitRecent i))).Sound := (hbody _ hs.awaitRecent).record
  unfold Machine.issue
  split
  · exact hs.hold
  · split
    · exact hs.chkRaise
    · exact hrun.ite hrun.modTeam

/-! ### Xlate -/

theorem State.Sound.keepXl {s : State} (hs : s.Sound) {slot ptr : Nat} : (s.keepXl slot ptr).Sound := hs.modSlot _ _

theorem State.Sound.flushFaults {s : State} (hs : s.Sound) {slot : Nat} : (s.flushFaults slot).Sound := by
  unfold State.flushFaults
  dsimp only
  split
  · exact hs
  · exact (hs.modSlot _ _).foldl (fun _ _ h1 => h1.send) _

theorem State.Sound.sendFault {s : State} (hs : s.Sound) {slot src core team unit owner quad : Nat} {pages : List Nat} :
    (s.sendFault slot src core team unit owner quad pages).1.Sound := by
  unfold State.sendFault
  dsimp only
  exact (hs.modSlot _ _).flushFaults

/-! ### Caches -/

theorem State.Sound.homeRead {s : State} (hs : s.Sound) {line : Nat} : (s.homeRead line).Sound := by
  unfold State.homeRead
  split
  · exact hs
  · exact hs.upd.ite ((hs.upd.putBytes _ _).ite hs.upd)

theorem State.Sound.l2Read {s : State} (hs : s.Sound) {t line : Nat} {rd : Bool} : (s.l2Read t line rd).Sound :=
  (hs.homeRead.ite hs).ite ((hs.upd.maybe (·.homeRead)).ite (hs.upd.ite (hs.upd.ite hs.upd)))

theorem State.Sound.collapse {s : State} (hs : s.Sound) {line : Nat} : (s.collapse line).Sound := hs.upd

theorem State.Sound.writeBack {s : State} (hs : s.Sound) {line : Nat} : (s.writeBack line).Sound := hs.collapse.upd

theorem State.Sound.recall {s : State} (hs : s.Sound) {h line : Nat} : (s.recall h line).Sound := hs.writeBack.ite hs

theorem State.Sound.evictLine {s : State} (hs : s.Sound) {e : L1Line} : (s.evictLine e).Sound := hs.writeBack.ite hs.upd

theorem State.Sound.addLine {s : State} (hs : s.Sound) {e : L1Line} : (s.addLine e).Sound := by
  unfold State.addLine
  refine State.Sound.upd ?_
  refine hs.ite ?_
  split
  · exact hs.evictLine
  · exact hs

theorem State.Sound.fill {s : State} (hs : s.Sound) {h c line cnt secs : Nat} {rd : Bool} :
    (s.fill h c line cnt secs rd).Sound :=
  hs.recall.l2Read.upd.unless (·.addLine)

theorem State.Sound.settleLine {s : State} (hs : s.Sound) {line : Nat} : (s.settleLine line).Sound := hs.settle

theorem State.Sound.readIn {s : State} (hs : s.Sound) {a : Agent} {cnt line secs : Nat} {rd : Bool} :
    (s.readIn a cnt line secs rd).Sound := by
  unfold State.readIn
  split
  · exact hs.recall.homeRead
  · exact hs.recall.l2Read
  · exact hs.recall.l2Read
  · split
    · dsimp only
      split
      · exact hs.evictLine.fill
      · exact hs.fill
    · dsimp only
      split
      · exact hs.ite hs.fill
      · exact hs.fill
  · split
    · dsimp only
      split
      · exact hs.evictLine.fill
      · exact hs.fill
    · dsimp only
      split
      · exact hs.upd.ite hs.fill
      · exact hs.fill

theorem State.Sound.noteRead {s : State} (hs : s.Sound) {a : Agent} {cnt line secs : Nat} {rd : Bool} :
    (s.noteRead a cnt line secs rd).Sound := by
  unfold State.noteRead
  have h0 := hs.settleLine (line := line)
  cases a with
  | core c => exact ⟨(hs.readIn (a := .core c)).mem, hs.slots⟩
  | fetch c => exact hs.upd
  | host => exact ⟨(h0.readIn (a := .host)).mem, h0.slots⟩
  | engine t => exact ⟨(h0.readIn (a := .engine t)).mem, h0.slots⟩
  | unit c => exact h0.upd

theorem State.Sound.noteWrite {s : State} (hs : s.Sound) {a : Agent} {line : Nat} : (s.noteWrite a line).Sound := by
  unfold State.noteWrite
  refine State.Sound.upd ?_
  split
  · exact hs
  · exact hs.settleLine

theorem State.Sound.newExcl {s : State} (hs : s.Sound) {h line : Nat} : (s.newExcl h line).Sound :=
  hs.recall.collapse.upd.addLine

theorem State.Sound.takeExcl {s : State} (hs : s.Sound) {h line : Nat} : (s.takeExcl h line).Sound := by
  unfold State.takeExcl
  split
  · exact hs.newExcl.ite (hs.evictLine.newExcl.ite hs)
  · exact hs.newExcl

theorem State.Sound.noteExcl {s : State} (hs : s.Sound) {core line : Nat} : (s.noteExcl core line).Sound := hs.takeExcl

theorem State.Sound.noteUnit {s : State} (hs : s.Sound) {core line : Nat} : (s.noteUnit core line).Sound := hs.takeExcl

theorem State.Sound.metaRead {s : State} (hs : s.Sound) {tower ctx line : Nat} : (s.metaRead tower ctx line).Sound :=
  hs.ite hs.settleLine.recall.l2Read.upd

theorem State.Sound.noteSealed {s : State} (hs : s.Sound) {pa : Nat} : (s.noteSealed pa).Sound := hs.upd

theorem State.Sound.clearPoison {s : State} (hs : s.Sound) {pa n : Nat} : (s.clearPoison pa n).Sound := hs.upd

theorem State.Sound.clearPoisonBytes {s : State} (hs : s.Sound) {written : List Nat} :
    (s.clearPoisonBytes written).Sound := by
  unfold State.clearPoisonBytes
  split
  · exact hs
  · exact hs.upd

theorem State.Sound.noteReads {s : State} (hs : s.Sound) {a : Agent} {cnt : Nat} {lines : List Nat} :
    (s.noteReads a cnt lines).Sound :=
  hs.foldl (fun _ _ h1 => h1.noteRead) _

theorem State.Sound.noteWrites {s : State} (hs : s.Sound) {a : Agent} {lines : List Nat} : (s.noteWrites a lines).Sound :=
  hs.foldl (fun _ _ h1 => h1.noteWrite) _

theorem State.Sound.noteRuns {s : State} (hs : s.Sound) {a : Agent} {cnt : Nat} {runs : List (Nat × Nat)} :
    (s.noteRuns a cnt runs).Sound :=
  hs.foldl (fun _ _ h1 => h1.noteRead) _

theorem State.Sound.noteOnce {s : State} (hs : s.Sound) {a : Agent} {cnt : Nat} {seen : Reads} {runs : List (Nat × Nat)} :
    (s.noteOnce a cnt seen runs).1.Sound :=
  State.Sound.foldl_fst hs (fun _ _ hq => hq.noteRead) _

theorem State.Sound.paid {s : State} (hs : s.Sound) {r : Reads} : (s.paid r).Sound := hs.foldl (fun _ _ h1 => h1.homeRead) _

theorem State.Sound.newTag {s : State} (hs : s.Sound) : s.newTag.Sound := hs.upd

theorem State.Sound.askFor {s : State} (hs : s.Sound) {who : Asker} {runs : Runs} : (s.askFor who runs).Sound :=
  hs.foldl (fun _ _ h1 => h1.ite h1.newTag.send.upd) _

theorem State.Sound.noteWalk {s : State} (hs : s.Sound) {t key : Nat} {r : Nat × Bool} : (s.noteWalk t key r).Sound :=
  hs.settle.upd

theorem State.Sound.noteXls {s : State} (hs : s.Sound) {t slot : Nat} {ptrs : List Nat} : (s.noteXls t slot ptrs).Sound :=
  hs.foldl (fun _ _ h1 => (h1.foldl (fun _ _ h2 => h2.noteWalk) _).keepXl) _

theorem State.Sound.noteVirt {s : State} (hs : s.Sound) {a : Agent} {slot : Nat} {runs : List (Nat × Nat)} :
    (s.noteVirt a slot runs).Sound := by
  unfold State.noteVirt
  split
  · exact hs.noteXls.noteRuns.settle
  · exact hs.noteXls.noteRuns.settle
  · exact hs.noteXls.noteRuns

theorem State.Sound.noteVirtOnce {s : State} (hs : s.Sound) {a : Agent} {slot : Nat} {seen : Reads}
    {runs : List (Nat × Nat)} : (s.noteVirtOnce a slot seen runs).1.Sound := by
  unfold State.noteVirtOnce
  split
  · dsimp only
    exact hs.noteXls.noteOnce.settle
  · dsimp only
    exact hs.noteXls.noteOnce

/-! ### Fetch -/

theorem State.Sound.keepRead {s : State} (hs : s.Sound) {slot kind idx ptr n : Nat} :
    (s.keepRead slot kind idx ptr n).Sound := by
  unfold State.keepRead
  split
  · exact hs.ite ((hs.ite hs.noteVirt).modSlot _ _)
  · exact hs

theorem State.Sound.keepLine {s : State} (hs : s.Sound) {slot x : Nat} {words : List Word} {intlk : Bool} {ptab at_ : Nat}
    : (s.keepLine slot x words intlk ptab at_).Sound := by
  unfold State.keepLine
  refine (hs.modSlot _ _).ite ?_
  refine State.Sound.modSlot ?_ _ _
  split
  · exact hs.keepRead.noteVirt.unless (·.keepRead)
  · exact hs

theorem State.Sound.fetchFault {s : State} (hs : s.Sound) {slot x cause ptr idx : Nat} :
    (s.fetchFault slot x cause ptr idx).Sound :=
  ((hs.ite hs.noteXls).upd.modSlot _ _).flushFaults.hold.ite ((hs.ite hs.noteXls).upd.decide _)

theorem State.Sound.wordAt {s : State} (hs : s.Sound) {slot x idx : Nat} : (s.wordAt slot x idx).Sound := by
  unfold State.wordAt
  refine WordAt.Sound.ite hs.hold ?_
  split
  · exact hs.keepLine
  · exact hs.fetchFault
  · exact hs.endCtx.hold
  · exact hs.askFor.hold

theorem State.Sound.withLine {s : State} (hs : s.Sound) {slot x : Nat} {f : State → State}
    (hf : ∀ u, u.Sound → (f u).Sound) : (s.withLine slot x f).Sound := by
  unfold State.withLine
  split
  · exact hf _ hs
  · exact hs.askFor.hold

theorem State.Sound.syncHdr {s : State} (hs : s.Sound) : s.syncHdr.Sound := by
  unfold State.syncHdr
  split
  · split
    · exact hs
    · exact hs.upd
  · exact hs

theorem State.Sound.acquired {s : State} (hs : s.Sound) : s.acquired.Sound := hs.modT

theorem State.Sound.fetchAfter {s : State} (hs : s.Sound) {step : Nat} : (s.fetchAfter step).Sound := hs.modT

/-- Of the literals read, or of the wait or fault that stops them, the state is sound. -/
theorem State.Sound.litsAt {s : State} (hs : s.Sound) {slot n x idx : Nat} {acc : List Word} :
    (∀ ls u, s.litsAt slot n x idx acc = .inl (ls, u) → u.Sound) ∧ ∀ u, s.litsAt slot n x idx acc = .inr u → u.Sound := by
  induction n generalizing s x idx acc with
  | zero =>
    refine ⟨fun ls u e => ?_, fun u e => by simp [State.litsAt] at e⟩
    obtain ⟨-, rfl⟩ : acc = ls ∧ s = u := by simpa [State.litsAt] using e
    exact hs
  | succ n ih =>
    unfold State.litsAt
    split
    · next e => exact ih (hs.wordAt.ok e)
    · next e =>
      refine ⟨fun ls u e' => by simp at e', fun u e' => ?_⟩
      obtain rfl := Sum.inr.inj e'
      exact hs.wordAt.stop e

theorem State.Sound.frontWord {s : State} (hs : s.Sound) {slot : Nat} : (s.frontWord slot).Sound := by
  unfold State.frontWord
  dsimp only
  split
  · next e => exact hs.wordAt.stop e
  · next e =>
    have h1 := hs.wordAt.ok e
    split
    · exact h1.upd
    · split
      · exact h1.upd
      · split
        · next e => exact (h1.upd.litsAt).2 _ e
        · next e =>
          split
          · exact (h1.upd.litsAt).1 _ _ e
          · exact (h1.upd.litsAt).1 _ _ e

theorem State.Sound.frontHeader {s : State} (hs : s.Sound) {slot : Nat} : (s.frontHeader slot).Sound := by
  unfold State.frontHeader
  refine Front.Sound.ite (hs.endCtx.hold.ite (hs.decide _)) ?_
  split
  · next e => exact hs.wordAt.stop e
  · next e =>
      exact Front.Sound.ite ((hs.wordAt.ok e).endCtx.hold.ite ((hs.wordAt.ok e).decide _))
        (Front.Sound.ite (hs.wordAt.ok e).hold (Front.Sound.ite (hs.wordAt.ok e).hold (hs.wordAt.ok e).upd.frontWord))

theorem State.Sound.trapHere {s : State} (hs : s.Sound) {slot : Nat} : (s.trapHere slot).Sound :=
  (hs.withLine (fun _ h1 => h1.syncHdr.tryTrap)).ite hs.tryTrap

theorem State.Sound.front {s : State} (hs : s.Sound) : s.front.Sound := by
  unfold State.front
  dsimp only
  split
  · exact hs
  · refine Front.Sound.ite hs ?_
    refine Front.Sound.ite hs ?_
    refine Front.Sound.ite hs.hold ?_
    split
    · split
      · exact hs
      · exact hs
    · exact Front.Sound.ite hs.tryTrap (Front.Sound.ite hs.trapHere (Front.Sound.ite hs.frontHeader hs.frontWord))

/-! ### Lifecycle -/

theorem State.Sound.modBar {s : State} (hs : s.Sound) {gid bid core cluster cls n : Nat} {f : Barrier → Barrier} :
    (s.modBar gid bid core cluster cls n f).Sound := by
  unfold State.modBar
  split
  · exact hs.modBlock
  · exact hs.modQuad
  · exact hs.modGrid
  · exact hs

theorem State.Sound.modMyBar {s : State} (hs : s.Sound) {cls n : Nat} {f : Barrier → Barrier} : (s.modMyBar cls n f).Sound :=
  hs.modBar

theorem State.Sound.leaveBarriers {s : State} (hs : s.Sound) : s.leaveBarriers.Sound := hs.modBlock.modQuad.modGrid

theorem State.Sound.freeQuad {s : State} (hs : s.Sound) {gid cluster q : Nat} {r : LaunchRec} :
    (s.freeQuad gid cluster q r).Sound :=
  hs.modQuad

theorem State.Sound.retireBlock {s : State} (hs : s.Sound) {bid : Nat} : (s.retireBlock bid).Sound := by
  unfold State.retireBlock
  split
  · exact hs
  · exact hs.upd.freeQuad.modGrid

theorem State.Sound.lateWrites {s : State} (hs : s.Sound) {tid gid ctx : Nat} : (s.lateWrites tid gid ctx).Sound := hs.upd

theorem State.Sound.exitTeam {s : State} (hs : s.Sound) : s.exitTeam.Sound :=
  (hs.leaveBarriers.lateWrites.upd.maybe (·.modQuad)).maybe (·.retireBlock)

/-! ### Scalar -/

theorem State.Sound.sBin {s : State} (hs : s.Sound) {i : Instr} {d a b : Nat} {f : DWord → DWord → DWord} :
    (sBin i d a b f s).Sound :=
  hs.issue fun _ h1 => h1.ws.done

theorem State.Sound.sUn {s : State} (hs : s.Sound) {i : Instr} {d a : Nat} {f : DWord → DWord} : (sUn i d a f s).Sound :=
  hs.issue fun _ h1 => h1.ws.done

/-! ### Control -/

theorem State.Sound.setMode {s : State} (hs : s.Sound) {i : Instr} {new : Word} : (setMode i new s).Sound :=
  hs.upd.done.ite hs.illegalMode

theorem State.Sound.branch {s : State} (hs : s.Sound) {taken : Bool} {l : Word} : (branch taken l s).Sound :=
  hs.jump.ite hs.fall

theorem State.Sound.brp {s : State} (hs : s.Sound) {a : Nat} {l : Word} : (brp a l s).Sound :=
  hs.fall.ite (hs.jump.ite (hs.raise.ite hs.upd.jump))

theorem State.Sound.execJoin {s : State} (hs : s.Sound) : Out.Sound (execJoin s) := by
  unfold Machine.execJoin
  refine hs.issue fun u hu => ?_
  split
  · exact hu.illegal
  · exact hu.upd.jump

theorem State.Sound.returnFromTrap {s : State} (hs : s.Sound) : (returnFromTrap s).Sound :=
  hs.illegal.ite (hs.illegalMode.ite
  (hs.illegal.ite (hs.upd.fetchAfter.jump.ite (hs.withLine (fun _ _ => hs.upd.fetchAfter.jump.upd)))))

theorem State.Sound.execReservedOpcode {s : State} (hs : s.Sound) {w : Word} : Out.Sound (execReservedOpcode w s) := by
  unfold Machine.execReservedOpcode
  split
  · exact hs.hold
  · exact hs.illegal

/-! ### System -/

theorem State.Sound.execSxlate {s : State} (hs : s.Sound) {d a : Nat} : Out.Sound (execSxlate d a s) := by
  unfold Machine.execSxlate
  refine hs.issue fun u hu => ?_
  dsimp only
  split
  · exact hu.raise
  · exact hu.endCtx.hold
  · exact hu.noteXls.wm.attach.done

theorem State.Sound.execPhase {s : State} (hs : s.Sound) {b : Nat} : Out.Sound (execPhase b s) := by
  unfold Machine.execPhase
  refine hs.issue fun u hu => ?_
  refine hu.upd.done.ite ?_
  dsimp only
  split
  · exact hu.fetchFault
  · exact hu.endCtx.hold
  · exact hu.askFor.hold
  · exact hu.keepRead.upd.done

/-! ### VecInt -/

theorem State.Sound.vInt2 {s : State} (hs : s.Sound) {i : Instr} {d a b : Nat} {f : Nat → Bool → Nat → Nat → Nat} :
    (vInt2 i d a b f s).Sound :=
  hs.issue fun _ h1 => h1.wc.done

theorem State.Sound.vInt1 {s : State} (hs : s.Sound) {i : Instr} {d a : Nat} {f : Nat → Bool → Nat → Nat} :
    (vInt1 i d a f s).Sound :=
  hs.issue fun _ h1 => h1.wc.done

theorem State.Sound.vRaw2 {s : State} (hs : s.Sound) {i : Instr} {d a b : Nat} {f : Word → Word → Word} :
    (vRaw2 i d a b f s).Sound :=
  hs.issue fun _ h1 => h1.wv.done

theorem State.Sound.vRaw1 {s : State} (hs : s.Sound) {i : Instr} {d a : Nat} {f : Word → Word} : (vRaw1 i d a f s).Sound :=
  hs.issue fun _ h1 => h1.wv.done

theorem State.Sound.vCmp {s : State} (hs : s.Sound) {i : Instr} {d a b : Nat} {f : Int → Int → Bool} :
    (vCmp i d a b f s).Sound :=
  hs.issue fun _ h1 => h1.wp.done

theorem State.Sound.pOp {s : State} (hs : s.Sound) {i : Instr} {d a b : Nat} {f : Lanes → Lanes → Lanes} :
    (pOp i d a b f s).Sound :=
  hs.issue fun _ h1 => h1.wp.done

theorem State.Sound.execVmovl {s : State} (hs : s.Sound) {d : Nat} {l : Word} {l2 : Option Word} :
    Out.Sound (execVmovl d l l2 s) := by
  unfold Machine.execVmovl
  refine hs.issue fun u hu => ?_
  refine State.Sound.done ?_
  split
  · exact hu.wv
  · exact hu.wv.wv

/-! ### VecFloat -/

theorem State.Sound.srStep {s : State} (hs : s.Sound) {rounds : Bool} : (s.srStep rounds).Sound := hs.upd.ite hs

theorem State.Sound.wvRegs {s : State} (hs : s.Sound) {outs : List LaneOut} {d n : Nat} : (s.wvRegs outs d n).Sound := by
  induction n generalizing s d with
  | zero => exact hs
  | succ n ih => exact ih hs.wv

theorem State.Sound.finishF {s : State} (hs : s.Sound) {i : Instr} {d n : Nat} {outs : List LaneOut} :
    (s.finishF i d n outs).Sound :=
  hs.raiseLanes.ite (hs.wvRegs.attach.done.ite hs.wvRegs.done)

theorem State.Sound.vFlt {s : State} (hs : s.Sound) {i : Instr} {rounds : Bool} {d x y z : Nat}
    {f : Nat → Ex → Ex → Ex → Ex} : (vFlt i rounds d x y z f s).Sound :=
  hs.issue fun _ h1 => h1.srStep.finishF

theorem State.Sound.vfCmp {s : State} (hs : s.Sound) {i : Instr} {d a b : Nat} {f : Ex → Ex → Bool} :
    (vfCmp i d a b f s).Sound :=
  hs.issue fun _ h1 => h1.wp.done

theorem State.Sound.vfLit {s : State} (hs : s.Sound) {i : Instr} {d x y : Nat} {l : Word} {f : Nat → Ex → Ex → Ex → Ex} :
    (vfLit i d x y l f s).Sound :=
  hs.issue fun _ h1 => h1.srStep.finishF

/-! ### Cross -/

theorem State.Sound.lmv {s : State} (hs : s.Sound) {i : Instr} {n d a b : Nat} : (lmv i n d a b s).Sound :=
  hs.issue fun _ h1 => h1.raiseLanes.ite h1.srStep.finishF

/-! ### Window -/

theorem State.Sound.noFill {s : State} (hs : s.Sound) {h pa n : Nat} : (s.noFill h pa n).Sound := hs.upd

theorem State.Sound.winUpdate {s : State} (hs : s.Sound) {h pa : Nat} {data : List Byte} : (s.winUpdate h pa data).Sound :=
  hs.noFill.upd

theorem State.Sound.winForget {s : State} (hs : s.Sound) {h pa n : Nat} : (s.winForget h pa n).Sound := hs.noFill.upd

theorem State.Sound.winWrite {s : State} (hs : s.Sound) {tid pa : Nat} {data : List Byte} : (s.winWrite tid pa data).Sound :=
  hs.newTag.send.upd

theorem State.Sound.winRead {s : State} (hs : s.Sound) {h : Nat} {g : WinGroup} : (s.winRead h g).Sound :=
  hs.winForget.newTag.send.upd

theorem State.Sound.winAtom {s : State} (hs : s.Sound) {h : Nat} {r : WinReq} {op rnd : Nat} {ret : Bool} :
    (s.winAtom h r op rnd ret).Sound :=
  hs.winForget.newTag.send.upd

theorem State.Sound.winDrop {s : State} (hs : s.Sound) {h : Nat} : (s.winDrop h).Sound := hs.upd

theorem State.Sound.winHit {s : State} (hs : s.Sound) {h line : Nat} : (s.winHit h line).Sound := hs.upd

theorem State.Sound.winFill {s : State} (hs : s.Sound) {h cnt pa : Nat} {words : List Nat} :
    (s.winFill h cnt pa words).Sound :=
  hs.ite (hs.ite hs.addLine).upd

/-! ### Memory -/

theorem Perf.sound_lane {p : Perf} (hp : p.s.Sound) {op : MemOp} {x : LaneAcc × Nat} : (p.lane op x).s.Sound := by
  obtain ⟨a, pa⟩ := x
  unfold Perf.lane
  dsimp only
  split
  · exact hp.noteSealed
  · exact hp.putNat.ite hp

theorem State.Sound.performLocal {s : State} (hs : s.Sound) {core : Nat} {op : MemOp} {l : List (LaneAcc × Nat)}
    {seen : Reads} : (s.performLocal core op l seen).s.Sound := by
  have hfold : ∀ (m : List (LaneAcc × Nat)) (p : Perf), p.s.Sound → (m.foldl (Perf.lane op) p).s.Sound := fun m p hp =>
    List.foldlRecOn (motive := fun p : Perf => p.s.Sound) m _ hp fun _ hq _ _ => Perf.sound_lane hq
  have hp := hfold (if op.kind.atomic && (l.map fun x => x.2).dedup.length != l.length then s.shuffle 41 l.length l else l)
    { s := s } hs
  unfold State.performLocal
  dsimp only
  refine State.Sound.settle ?_
  split
  · exact (hp.clearPoisonBytes.ite hp).noteOnce
  · exact (hp.clearPoisonBytes.ite hp).noteWrites
  · exact (State.Sound.foldl (hp.clearPoisonBytes.ite hp) (fun _ _ hu => hu.noteUnit) _).ite
      (hp.clearPoisonBytes.ite hp).noteWrites
  · exact State.Sound.foldl (hp.clearPoisonBytes.ite hp) (fun _ _ hu => hu.noteExcl) _

theorem State.Sound.deliver {s : State} (hs : s.Sound) {op : MemOp} {vals : List (Nat × Nat)} :
    (s.deliver op vals).Sound := by
  unfold State.deliver
  split
  · exact hs
  · exact hs.wc
  · exact hs.foldl (fun _ _ h1 => h1.ws) _

theorem State.Sound.deliverLate {s : State} (hs : s.Sound) {op : MemOp} {vals : List (Nat × Nat)} :
    (s.deliverLate op vals).Sound := by
  unfold State.deliverLate
  split
  · exact hs
  · exact hs.foldl (fun _ _ h1 => h1.modT) _
  · exact hs.modT

theorem State.Sound.winLoads {s : State} (hs : s.Sound) {core : Nat} {op : MemOp} {rs : List WinReq} :
    (s.winLoads core op rs).1.Sound := by
  unfold State.winLoads
  dsimp only
  exact (hs.foldl (fun _ _ h1 => h1.winHit) _).foldl (fun _ _ h1 => h1.winRead) _

theorem State.Sound.winPut {s : State} (hs : s.Sound) {core : Nat} {op : MemOp} {r : WinReq} :
    (s.winPut core op r).Sound := by
  unfold State.winPut
  split
  · exact hs
  · exact hs.winWrite.winUpdate
  · exact hs.winAtom
  · exact hs.winAtom
  · exact hs.winAtom

theorem State.Sound.winAccesses {s : State} (hs : s.Sound) {core : Nat} {op : MemOp} {rs : List WinReq} :
    (s.winAccesses core op rs).1.Sound := by
  unfold State.winAccesses
  split
  · exact hs.winLoads
  · dsimp only
    exact hs.foldl (fun _ _ h1 => h1.winPut) _

theorem State.Sound.acqDone {s : State} (hs : s.Sound) {op : MemOp} : (s.acqDone op).Sound :=
  (hs.winDrop.ite hs).acquired.ite hs

theorem State.Sound.access {s : State} (hs : s.Sound) {i : Instr} {op : MemOp} {uni : Bool} {accs : List LaneAcc}
    {srcV srcS : List Nat} {late : LaneAcc → Nat → List LateSrc} : (State.access i op uni accs srcV srcS late s).Sound := by
  unfold State.access
  dsimp only
  refine (hs.decide _).ite (hs.hold.ite ?_)
  split
  · exact hs.endCtx.hold
  · refine hs.hold.ite ?_
    generalize hp : State.performLocal _ _ _ _ = p
    have h1 : p.s.Sound := by
      rw [← hp]
      exact (hs.winDrop.ite hs).noteXls.performLocal
    generalize hw : State.winAccesses _ _ _ _ = r
    have h2 : r.1.Sound := by
      rw [← hw]
      exact (h1.paid.ite h1).winAccesses
    have h3 : ∀ (c : Prop) [Decidable c], ((if c then r.1.acqDone op else r.1).deliver op (p.vals ++ r.2)).Sound :=
      fun _ _ => (h2.acqDone.ite h2).deliver
    refine State.Sound.ite (State.Sound.ite ((h3 _).attach.ite (h3 _)).done
      (((h3 _).attach.decide _).ite ((h3 _).decide _))) ?_
    exact (h3 _).sendFault.attach.upd.done

theorem State.Sound.vload {s : State} (hs : s.Sound) {i : Instr} {d a m cnt : Nat} {acq : Option Nat} :
    (vload i d a m cnt acq s).Sound :=
  hs.issue fun _ h1 => h1.access

theorem State.Sound.vstore {s : State} (hs : s.Sound) {i : Instr} {d a m : Nat} {rel : Option Nat} :
    (vstore i d a m rel s).Sound :=
  hs.issue fun _ h1 => h1.hold.ite h1.access

theorem State.Sound.scalarAccess {s : State} (hs : s.Sound) {i : Instr} {op : MemOp} {a m x : Nat} {srcS : List Nat}
    {late : LaneAcc → Nat → List LateSrc} : (scalarAccess i op a m x srcS late s).Sound :=
  (hs.decide _).ite hs.access

theorem State.Sound.prefetch {s : State} (hs : s.Sound) {core line : Nat} : (s.prefetch core line).Sound := hs.ite hs.fill

theorem State.Sound.winPrefetch {s : State} (hs : s.Sound) {core pa : Nat} : (s.winPrefetch core pa).Sound :=
  hs.ite hs.winRead

theorem State.Sound.execVpref {s : State} (hs : s.Sound) {a m : Nat} : Out.Sound (execVpref a m s) := by
  unfold Machine.execVpref
  refine hs.issue fun u hu => ?_
  dsimp only
  split
  · exact hu.endCtx.hold
  · exact ((hu.noteXls.foldl (fun _ _ h2 => h2.prefetch) _).foldl (fun _ _ h2 => h2.winPrefetch) _).done

theorem State.Sound.scratchForm {s : State} (hs : s.Sound) {i : Instr} {d a : Nat} {store : Bool}
    {b : State → Option Block} : (scratchForm i d a store b s).Sound := by
  unfold Machine.scratchForm
  refine hs.issue fun u hu => ?_
  refine hu.raiseLanes.ite ?_
  split
  · exact hu.attach.done
  · exact hu.settle.modBlock.attach.done.ite hu.settle.wc.attach.done

theorem State.Sound.dropSeal {s : State} (hs : s.Sound) {base len ctx : Nat} : (s.dropSeal base len ctx).Sound := hs.upd

theorem State.Sound.execUnseal {s : State} (hs : s.Sound) {d a m : Nat} : Out.Sound (execUnseal d a m s) := by
  unfold Machine.execUnseal
  refine hs.issue fun u hu => ?_
  refine hu.raise.ite ?_
  refine hu.hold.ite ?_
  split
  · exact hu.acquired.ws.attach.done
  · exact hu.dropSeal.acquired.ws.attach.done.ite hu.attach.done

theorem State.Sound.execRepl {s : State} (hs : s.Sound) {d a m : Nat} : Out.Sound (execRepl d a m s) := by
  unfold Machine.execRepl
  refine hs.issue fun u hu => ?_
  refine hu.raise.ite ?_
  split
  · exact hu.endCtx.hold
  · refine State.Sound.done ?_
    refine State.Sound.attach ?_
    refine State.Sound.ws ?_
    split
    · exact hu
    · exact hu.upd

/-! ### Atomic -/

theorem State.Sound.atomForm {s : State} (hs : s.Sound) {i : Instr} {kind : AccKind} {dst : Dst} {a m x c : Nat}
    {srcV : List Nat} {l : Word} : (atomForm i kind dst a m x c srcV l s).Sound :=
  hs.issue fun _ h1 => h1.hold.ite h1.access

theorem State.Sound.scratchAtom {s : State} (hs : s.Sound) {i : Instr} {kind : AccKind} {dst : Dst} {d a : Nat}
    {srcV : List Nat} {l : Word} : (scratchAtom i kind dst d a srcV l s).Sound :=
  hs.issue fun _ h1 => h1.hold.ite (h1.raiseLanes.ite h1.settle.modBlock.acqDone.deliver.attach.done)

/-! ### Barrier -/

theorem State.Sound.arriveForm {s : State} (hs : s.Sound) {i : Instr} {cls n : Nat} : (arriveForm i cls n s).Sound :=
  hs.issue fun _ h1 => h1.modMyBar.done.ite h1.hold

theorem State.Sound.waitForm {s : State} (hs : s.Sound) {i : Instr} {cls n : Nat} : (waitForm i cls n s).Sound :=
  hs.issue fun _ h1 => h1.acquired.done.ite h1.hold

theorem State.Sound.syncForm {s : State} (hs : s.Sound) {i : Instr} {cls n : Nat} : (syncForm i cls n s).Sound :=
  hs.issue fun _ h1 => (h1.acquired.done.ite h1.hold).ite ((h1.modMyBar.acquired.done.ite h1.modMyBar.modT.hold).ite h1.hold)

theorem State.Sound.execTwait {s : State} (hs : s.Sound) {d a b : Nat} : Out.Sound (execTwait d a b s) := by
  unfold Machine.execTwait
  refine hs.issue fun u hu => ?_
  split
  · exact hu.ws.done
  · exact hu.acquired.ws.done.ite hu.hold
  · exact hu.acquired.ws.done.ite hu.hold

theorem State.Sound.timedOut {s : State} (hs : s.Sound) {bar d : Nat} : (s.timedOut bar d).Sound := hs.ws.adv.record

theorem State.Sound.execTwaitTimeout {s : State} (hs : s.Sound) {tid : Nat} : Out.Sound (execTwaitTimeout tid s) := by
  unfold Machine.execTwaitTimeout
  split
  · exact hs
  · refine hs.ite ?_
    split
    · exact hs
    · exact hs.select.timedOut.select

/-! ### Record -/

theorem State.Sound.writeRecord {s : State} (hs : s.Sound) {u : SavedUnit} {b : Block} : (s.writeRecord u b).Sound := by
  unfold State.writeRecord
  split
  · exact hs.endCtx.ite (hs.noteWrites.putBytes _ _).clearPoison
  · exact hs

theorem State.Sound.resave {s : State} (hs : s.Sound) {bid : Nat} : (s.resave bid).Sound := by
  unfold State.resave
  split
  · exact hs.ite hs.writeRecord
  · exact hs

/-! ### Collective -/

theorem State.Sound.putStream {s : State} (hs : s.Sound) {n : Nat} {st : Stream} : (s.putStream n st).Sound := hs.upd

theorem State.Sound.modPctl {s : State} (hs : s.Sound) {p : Nat} {f : Pctl → Pctl} : (s.modPctl p f).Sound := hs.upd

theorem State.Sound.dropRow {s : State} (hs : s.Sound) {p : Nat} : (s.dropRow p).Sound := hs.modPctl

theorem State.Sound.devWrite {s : State} (hs : s.Sound) {a : Nat} {bs : List Byte} : (s.devWrite a bs).Sound :=
  ((hs.foldl (fun _ _ h1 => h1.noteSealed) _).noteWrites.foldl (fun _ _ h1 => h1.putBytes _ _) _).clearPoisonBytes

theorem State.Sound.emit {s : State} (hs : s.Sound) {n i : Nat} {row : List Word} {bound : Word} :
    (s.emit n i row bound).Sound :=
  (hs.send.ite hs.dropRow).ite
  (hs.dropRow.ite (hs.endCtx.ite
  ((hs.devWrite.unless (·.devWrite)).ite
  ((hs.devWrite.unless (·.devWrite)).endCtx.ite (hs.devWrite.unless (·.devWrite)).devWrite))))

theorem State.Sound.rowArrive {s : State} (hs : s.Sound) {src n i : Nat} {row : List Word} {bound : Word} :
    (s.rowArrive src n i row bound).Sound :=
  hs.dropRow.ite (hs.upd.putStream.emit.ite hs.upd.putStream)

/-! ### Engine -/

theorem State.Sound.askStart {s : State} (hs : s.Sound) {who : Asker} {runs : Runs} : (s.askStart who runs).Sound :=
  hs.askFor

theorem State.Sound.dropGot {s : State} (hs : s.Sound) {who : Asker} : (s.dropGot who).Sound := hs.upd

theorem State.Sound.noteRecords {s : State} (hs : s.Sound) {runs : List (Nat × Nat)} : (s.noteRecords runs).Sound :=
  hs.noteVirt

theorem State.Sound.recordReads {s : State} (hs : s.Sound) {slot : Nat} {runs : List (Nat × Nat)} :
    (s.recordReads slot runs).1.Sound :=
  hs.noteVirtOnce

theorem State.Sound.parkRedo {s : State} (hs : s.Sound) {i : Instr} {ops : List DWord} {srcV srcS : List Nat}
    {cause ptr : Nat} {runs : List (Nat × Nat)} : (s.parkRedo i ops srcV srcS cause ptr runs).Sound :=
  hs.hold.ite (hs.noteXls.dropGot.modSlot _ _).flushFaults.attach.upd.done

theorem State.Sound.begin_ {s : State} (hs : s.Sound) {i : Instr} {d : Option Nat} {ops : List DWord}
    {srcV srcS : List Nat} {r : Start} (hr : r.Sound) : (s.begin_ i d ops srcV srcS r).Sound := by
  cases r with
  | trap cs => exact hs.decide _
  | park c p rs => exact hs.parkRedo
  | ends st => exact hs.endCtx.hold
  | wait w s1 => exact State.Sound.hold hr
  | go s1 res on =>
    have h1 : s1.Sound := hr
    unfold State.begin_
    dsimp only
    split
    · exact h1.ws.attach.done
    · exact h1.attach.done

theorem State.Sound.refSeals {s : State} (hs : s.Sound) {bases : List Nat} {up : Bool} : (s.refSeals bases up).Sound :=
  hs.upd

theorem State.Sound.grant {s : State} (hs : s.Sound) {tower : Nat} {l : List Nat} : (s.grant tower l).1.Sound := by
  induction l generalizing s with
  | nil => exact hs
  | cons n r ih =>
    unfold State.grant
    split
    · exact hs.noteSealed
    · exact ih hs.noteWrite

theorem State.Sound.engStart {s : State} (hs : s.Sound) {kind : Nat} {l mode : Word} {ops : List DWord}
    {recs : List (List Byte)} {status : Option Nat} : (s.engStart kind l mode ops recs status).Sound := by
  unfold State.engStart
  cases status with
  | none => exact Start.Sound.ite hs (hs.grant.refSeals.upd.modMyBar.ite hs.grant.refSeals.upd)
  | some n => exact Start.Sound.ite hs (hs.refSeals.upd.modMyBar.ite hs.refSeals.upd)

/-- A range that fails its checks gives a cause or a status, never a state. -/
theorem sound_regionsFail {s : State} {slot : Nat} {l : List (Nat × Nat)} : ∀ r ∈ s.regionsFail slot l, r.Sound := by
  induction l with
  | nil => simp [State.regionsFail]
  | cons p r ih =>
    unfold State.regionsFail
    split
    · rintro _ ⟨⟩; trivial
    · split
      · exact ih
      · rintro _ ⟨⟩; trivial

theorem State.Sound.startCpy {s : State} (hs : s.Sound) {l mode : Word} {ops : List DWord} :
    (s.startCpy l mode ops).Sound := by
  unfold State.startCpy
  dsimp only
  split
  · trivial
  · split
    · next e => exact sound_regionsFail _ e
    · exact hs.engStart

theorem State.Sound.startCpyt {s : State} (hs : s.Sound) {who : Asker} {w l mode : Word} {ops : List DWord}
    {held : List (List Byte)} : (s.startCpyt who w l mode ops held).Sound := by
  unfold State.startCpyt
  dsimp only
  refine Start.Sound.ite trivial (Start.Sound.ite trivial ?_)
  split
  · exact hs
  · split
    · trivial
    · trivial
    · exact hs.askStart
    · split
      · trivial
      · refine Start.Sound.ite trivial ?_
        split
        · next e => exact sound_regionsFail _ e
        · exact (hs.noteRecords.ite hs).engStart

theorem State.Sound.startMerge {s : State} (hs : s.Sound) {who : Asker} {w l mode : Word} {ops : List DWord}
    {held : List (List Byte)} : (s.startMerge who w l mode ops held).Sound := by
  unfold State.startMerge
  dsimp only
  refine Start.Sound.ite trivial ?_
  split
  · exact hs
  · split
    · trivial
    · trivial
    · exact hs.askStart
    · split
      · exact hs
      · split
        · trivial
        · trivial
        · exact hs.askStart
        · refine Start.Sound.ite trivial (Start.Sound.ite (hs.noteRecords.ite hs).engStart ?_)
          split
          · next e => exact sound_regionsFail _ e
          · exact (hs.noteRecords.ite hs).engStart

theorem State.Sound.takeRecord {s : State} (hs : s.Sound) {d : Nat} {r : EvRec} {rest : List EvRec} :
    (s.takeRecord d r rest).Sound :=
  hs.upd.ws

theorem State.Sound.execEvwait {s : State} (hs : s.Sound) {d : Nat} : Out.Sound (execEvwait d s) := by
  unfold Machine.execEvwait
  refine hs.issue fun u hu => ?_
  split
  · exact hu.hold
  · exact hu.acquired.takeRecord.done

theorem State.Sound.execEvpop {s : State} (hs : s.Sound) {d : Nat} : Out.Sound (execEvpop d s) := by
  unfold Machine.execEvpop
  refine hs.issue fun u hu => ?_
  split
  · exact hu.ws.done
  · exact hu.acquired.takeRecord.done

theorem State.Sound.modOp {s : State} (hs : s.Sound) {u : Nat} {f : EngOp → EngOp} : (s.modOp u f).Sound := hs.upd

theorem State.Sound.engWrite {s : State} (hs : s.Sound) {o : EngOp} {l : List (Nat × List Byte)} : (s.engWrite o l).Sound :=
  ((hs.upd.noteWrites.foldl (fun _ _ h1 => h1.putBytes _ _) _).clearPoisonBytes.unless (·.upd)).foldl
  (fun _ _ h1 => h1.winWrite) _

theorem State.Sound.engPartial {s : State} (hs : s.Sound) {slot : Nat} {o : EngOp} : (s.engPartial slot o).Sound :=
  hs.engWrite.foldl (fun _ _ h1 => h1.putBytes _ _) _

theorem State.Sound.engArrive {s : State} (hs : s.Sound) {o : EngOp} : (s.engArrive o).Sound := by
  unfold State.engArrive
  split
  · dsimp only
    split
    · exact (hs.upd.ite hs.modBar).foldl (fun _ _ h1 => h1.resave) _
    · exact hs.foldl (fun _ _ h1 => h1.resave) _
    · exact hs.modBar.foldl (fun _ _ h1 => h1.resave) _
  · dsimp only
    split
    · exact (hs.upd.ite hs.modBar).foldl (fun _ _ h1 => h1.resave) _
    · exact hs.foldl (fun _ _ h1 => h1.resave) _
    · exact hs.modBar.foldl (fun _ _ h1 => h1.resave) _

theorem State.Sound.engFinish {s : State} (hs : s.Sound) {o : EngOp} {status cnt : Nat} :
    (s.engFinish o status cnt).Sound := by
  unfold State.engFinish
  split
  · split
    · dsimp only
      split
      · exact hs.refSeals.upd.engArrive
      · exact (hs.refSeals.upd.modTeam.maybe (·.engArrive)).maybe (·.resave)
    · dsimp only
      split
      · exact hs.refSeals.upd.engArrive
      · exact (hs.refSeals.upd.modTeam.maybe (·.engArrive)).maybe (·.resave)
  · split
    · dsimp only
      split
      · exact hs.refSeals.upd
      · exact (hs.refSeals.upd.modTeam.maybe (·.engArrive)).maybe (·.resave)
    · dsimp only
      split
      · exact hs.refSeals.upd
      · exact (hs.refSeals.upd.modTeam.maybe (·.engArrive)).maybe (·.resave)

theorem State.Sound.noteSrc {s : State} (hs : s.Sound) {slot : Nat} {o : EngOp} : (s.noteSrc slot o).Sound :=
  (hs.noteXls.foldl (fun _ _ h1 => h1.noteRead) _).foldl (fun _ _ h1 => h1.noteRead.ite h1.metaRead) _

theorem State.Sound.engGrow {s : State} (hs : s.Sound) {slot : Nat} {o : EngOp} : (s.engGrow slot o).Sound :=
  hs.ite hs.grant.modOp

theorem State.Sound.engRun {s : State} (hs : s.Sound) {slot : Nat} {o : EngOp} {u : State} (e : s.engRun slot o = .ok u) :
    u.Sound := by
  unfold State.engRun at e
  dsimp only at e
  obtain ⟨_, -, e⟩ := Got.bind_eq_ok e
  obtain ⟨l, -, e⟩ := Got.bind_eq_ok e
  split at e
  · cases e
  · split at e
    · cases e; exact hs.noteSealed.modOp
    · cases e; exact hs.noteSrc.noteXls.engWrite.modOp

theorem State.Sound.stopMerge {s : State} (hs : s.Sound) {o : EngOp} : (s.stopMerge o).Sound := by
  unfold State.stopMerge
  refine hs.ite ?_
  dsimp only
  split
  · exact hs.engWrite.modOp.ite hs.modOp
  · exact hs.modOp

theorem State.Sound.resumeMerge {s : State} (hs : s.Sound) {o : EngOp} : (s.resumeMerge o).Sound := by
  unfold State.resumeMerge
  split
  · exact hs
  · exact hs.ite hs.modOp

theorem State.Sound.engReadyOp {s : State} (hs : s.Sound) {u : Nat} : ∀ r ∈ s.engReadyOp u, r.1.Sound := by
  unfold State.engReadyOp
  split
  · simp
  · dsimp only
    split
    · simp
    · intro r hr
      obtain ⟨o, -, rfl⟩ := Option.map_eq_some_iff.1 hr
      exact hs.engGrow

theorem State.Sound.execEngineOperationComplete {s : State} (hs : s.Sound) {u : Nat} :
    Out.Sound (execEngineOperationComplete u s) := by
  unfold Machine.execEngineOperationComplete
  change State.Sound _
  split
  · exact hs
  · next s2 slot o e =>
    have h2 : s2.Sound := hs.engReadyOp _ e
    split
    · exact h2.resumeMerge
    · have hgot : ∀ s1, (if o.sent then Got.ok s2 else match o.status with
          | some _ => .ok (s2.modOp u fun o => { o with sent := true })
          | none => s2.engRun slot o) = .ok s1 → s1.Sound := by
        intro s1 e1
        split at e1
        · cases e1; exact h2
        · split at e1
          · cases e1; exact h2.modOp
          · exact h2.engRun e1
      dsimp only
      split
      · next e1 =>
        have h1 := hgot _ e1
        split
        · split
          · exact h1.engFinish
          · exact h1
        · exact h1
      · exact h2.engPartial.engFinish
      · exact h2.endCtx
      · exact h2.askFor
      · exact h2

theorem State.Sound.execEngineOperationStopped {s : State} (hs : s.Sound) {u : Nat} :
    Out.Sound (execEngineOperationStopped u s) := by
  unfold Machine.execEngineOperationStopped
  split
  · exact hs
  · split
    · next e _ => exact hs.engReadyOp _ e
    · split
      · next e _ _ _ => exact hs.engReadyOp _ e
      · next e _ _ _ _ _ _ => exact ((hs.engReadyOp _ e).noteXls.modSlot _ _).flushFaults.modOp

theorem State.Sound.engDecline {s : State} (hs : s.Sound) {o : EngOp} {cause : Nat} : (s.engDecline o cause).Sound :=
  hs.engPartial.engFinish

/-! ### Lists -/

theorem State.Sound.setList {s : State} (hs : s.Sound) {n : Nat} {l : List DWord} : (s.setList n l).Sound := hs.modGrid

theorem State.Sound.writeItems {s : State} (hs : s.Sound) {d : Nat} {l : List (Nat × DWord)} : (s.writeItems d l).Sound :=
  hs.wv.wv

theorem State.Sound.execWorkListQuiet {s : State} (hs : s.Sound) {gid : Nat} : Out.Sound (execWorkListQuiet gid s) := by
  unfold Machine.execWorkListQuiet
  split
  · exact hs
  · exact hs.modGrid.ite hs

/-! ### Matrix -/

theorem State.Sound.setPred {s : State} (hs : s.Sound) {d : Nat} {b : Bool} : (s.setPred d b).Sound := hs.wp

theorem State.Sound.fixShares {s : State} (hs : s.Sound) {m : MOp} {mode : Word} : (s.fixShares m mode).Sound :=
  hs.foldl (fun _ _ h1 => h1.modTeam) _

theorem State.Sound.arriveAt {s : State} (hs : s.Sound) {op d : Nat} {l : Word} {ops : List DWord} {e : Nat}
    {tlr : List Byte} {groups : List DWord} {rd : Reads} : (s.arriveAt op d l ops e tlr groups rd).Sound := by
  unfold State.arriveAt
  split
  · dsimp only
    split
    · exact hs.modT.fixShares.modQuad
    · exact hs.modT.modQuad.upd
  · dsimp only
    split
    · exact hs.modT.modQuad
    · exact hs.modT.modQuad.upd

theorem State.Sound.matGo {s : State} (hs : s.Sound) {who : Asker} {w : Word} {op d : Nat} {l : Word} {ops : List DWord}
    {c : Word} {sa sb e : Nat} : (s.matGo who w op d l ops c sa sb e).Sound := by
  unfold State.matGo
  dsimp only
  refine Start.Sound.ite trivial ?_
  split
  · exact hs
  · split
    · trivial
    · trivial
    · exact hs.askStart
    · generalize hr : State.recordReads _ _ _ = r
      have h1 : r.1.Sound := by
        rw [← hr]
        exact hs.recordReads
      exact Start.Sound.ite trivial h1.arriveAt

theorem State.Sound.matStart {s : State} (hs : s.Sound) {who : Asker} {w : Word} {op d : Nat} {l : Word} {ops : List DWord}
    : (s.matStart who w op d l ops).Sound := by
  unfold State.matStart
  refine Start.Sound.ite trivial ?_
  split
  · exact trivial
  · split
    · exact Start.Sound.ite hs hs.matGo
    · exact hs.matGo

theorem State.Sound.matrixForm {s : State} (hs : s.Sound) {i : Instr} {op d a b : Nat} {l : Word} :
    (matrixForm i op d a b l s).Sound :=
  hs.issue fun _ h1 => h1.hold.ite (h1.begin_ h1.matStart)

theorem State.Sound.modMop {s : State} (hs : s.Sound) {q u : Nat} {f : MOp → MOp} : (s.modMop q u f).Sound := hs.modQuad

theorem State.Sound.execMatrixLatchFire {s : State} (hs : s.Sound) {q u : Nat} : Out.Sound (execMatrixLatchFire q u s) := by
  unfold Machine.execMatrixLatchFire
  split
  · exact hs
  · exact hs.ite hs.upd.modQuad

theorem State.Sound.mopFault {s : State} (hs : s.Sound) {q : Nat} {m : MOp} {c p : Nat} : (s.mopFault q m c p).Sound :=
  (hs.noteXls.dropGot.modSlot _ _).flushFaults.modMop

theorem State.Sound.noteMat {s : State} (hs : s.Sound) {slot : Nat} {a : Agent} {e : Nat} {reads : SMap Reads}
    {runs : List (Nat × Nat)} : (s.noteMat slot a e reads runs).1.Sound := by
  unfold State.noteMat
  dsimp only
  exact hs.noteXls.noteOnce

theorem State.Sound.notePass {s : State} (hs : s.Sound) {q : Nat} {m : MOp} : (s.notePass q m).Sound := by
  unfold State.notePass
  exact State.Sound.modMop (State.Sound.foldl_fst (State.Sound.foldl_fst hs (fun _ _ hx => hx.noteMat) _)
    (fun _ _ hx => hx.noteMat) _)

theorem State.Sound.execMatrixPass {s : State} (hs : s.Sound) {q u : Nat} : Out.Sound (execMatrixPass q u s) := by
  unfold Machine.execMatrixPass
  split
  · exact hs
  · refine hs.ite ?_
    split
    · exact hs.notePass.modQuad
    · exact hs.mopFault
    · split
      · exact hs.endCtx
      · exact hs
    · exact hs.mopFault
    · exact hs.askFor

theorem State.Sound.tickQuad {s : State} (hs : s.Sound) {q : Nat} : (s.tickQuad q).Sound := hs.modQuad

theorem State.Sound.execMatrixOperationComplete {s : State} (hs : s.Sound) {q u : Nat} :
    Out.Sound (execMatrixOperationComplete q u s) := by
  unfold Machine.execMatrixOperationComplete
  split
  · exact hs
  · exact hs.ite (hs.foldl (fun _ _ h1 => h1.paid) _).modQuad.modTeams

/-! ### Tile -/

theorem State.Sound.onTeam {s : State} (hs : s.Sound) {tid : Nat} {f : State → State} (hf : ∀ u, u.Sound → (f u).Sound) :
    (s.onTeam tid f).Sound :=
  (hf _ hs.select).select

theorem State.Sound.raiseAll {s : State} (hs : s.Sound) {cs : List (Nat × Nat)} : (s.raiseAll cs).Sound := hs.decide _

theorem State.Sound.modMyQuad {s : State} (hs : s.Sound) {f : Quad → Quad} : (s.modMyQuad f).Sound := hs.modQuad

theorem State.Sound.portEnd {s : State} (hs : s.Sound) {u : Nat} {on : Until} : (s.portEnd u on).Sound := hs.modT

theorem State.Sound.mzeroRun {s : State} (hs : s.Sound) {p : PortOp} {d : Nat} : (s.mzeroRun p d).Sound := hs.modMyQuad

theorem State.Sound.parkRows {s : State} (hs : s.Sound) {p : PortOp} {ops : List DWord}
    {parked : List (Nat × Nat × Nat × Bool)} {causes : List LaneCause} {spans : Spans} {reads : optParam Reads { }} :
    (s.parkRows p ops parked causes spans reads).Sound := by
  unfold State.parkRows
  exact (hs.noteXls.dropGot.modSlot _ _).flushFaults.modT

theorem State.Sound.mldRun {s : State} (hs : s.Sound) {p : PortOp} {d : Nat} : (s.mldRun p d).Sound := hs.modMyQuad

theorem State.Sound.drainSr {s : State} (hs : s.Sound) {n : Nat} : (s.drainSr n).Sound := hs.upd.ite hs

theorem State.Sound.mdrnRun {s : State} (hs : s.Sound) {p : PortOp} {d a : Nat} : (s.mdrnRun p d a).Sound := hs.modT

theorem State.Sound.mdrsRun {s : State} (hs : s.Sound) {p : PortOp} {a : Nat} : (s.mdrsRun p a).Sound := hs.settle.modBlock

theorem State.Sound.drainWrite {s : State} (hs : s.Sound) {u : Nat} {l : List (Nat × Nat × List Byte)} :
    (s.drainWrite u l).1.Sound := by
  unfold State.drainWrite
  split
  · dsimp only
    exact hs.noteSealed
  · split
    · dsimp only
      exact hs.engWrite
    · exact hs

theorem State.Sound.drainMem {s : State} (hs : s.Sound) {slot u : Nat} {l : List (Nat × List (Nat × Nat × List Byte))}
    {rest : List Nat} : (s.drainMem slot u l rest).1.Sound := by
  unfold State.drainMem
  refine State.Sound.modOp (State.Sound.foldl_fst hs (fun q x hq => ?_) _)
  have h1 := hq.drainWrite (u := u) (l := x.2)
  split
  · next e => rw [e] at h1; exact h1
  · next e => rw [e] at h1; exact h1

theorem State.Sound.drainGrant {s : State} (hs : s.Sound) {slot u : Nat} : (s.drainGrant slot u).Sound := by
  unfold State.drainGrant
  split
  · exact hs
  · exact hs.ite hs.grant.modOp

theorem State.Sound.mdrmRun {s : State} (hs : s.Sound) {p : PortOp} {a : Nat} : (s.mdrmRun p a).Sound := by
  unfold State.mdrmRun
  dsimp only
  split
  · exact trivial
  · exact TileRes.Sound.ite trivial
      (TileRes.Sound.ite hs.drainGrant.drainMem.noteXls.parkRows hs.drainGrant.drainMem.noteXls.modT)

theorem State.Sound.mdrfRun {s : State} (hs : s.Sound) {p : PortOp} {a : Nat} : (s.mdrfRun p a).Sound :=
  TileRes.Sound.ite trivial (hs.foldl (fun _ _ h1 => h1.rowArrive) _)

theorem State.Sound.mcvtRun {s : State} (hs : s.Sound) {p : PortOp} {d a b : Nat} : (s.mcvtRun p d a b).Sound := hs.modMyQuad

theorem State.Sound.mbrdRun {s : State} (hs : s.Sound) {p : PortOp} {d a : Nat} : (s.mbrdRun p d a).Sound := hs.modT

theorem State.Sound.mbwrRun {s : State} (hs : s.Sound) {p : PortOp} {a : Nat} : (s.mbwrRun p a).Sound := hs.modMyQuad

theorem State.Sound.tileRun {s : State} (hs : s.Sound) {p : PortOp} : (s.tileRun p).Sound := by
  unfold State.tileRun
  split
  · exact hs.mzeroRun
  · exact hs.mldRun
  · exact hs.mdrnRun
  · exact hs.mdrsRun
  · exact hs.mdrmRun
  · exact hs.mdrfRun
  · exact hs.mcvtRun
  · exact hs.mbrdRun
  · exact hs.mbwrRun
  · exact hs

theorem State.Sound.portSubmit {s : State} (hs : s.Sound) {p : PortOp} : (s.portSubmit p).Sound := by
  unfold State.portSubmit
  refine hs.modMyQuad.ite ?_
  split
  · next e => exact (hs.tileRun.go e).portEnd
  · exact hs.modMyQuad
  · exact hs.endCtx

theorem State.Sound.portTurn {s : State} (hs : s.Sound) {q : Nat} : (s.portTurn q).Sound := by
  unfold State.portTurn
  split
  · exact hs
  · refine hs.onTeam fun u hu => hu.ite ?_
    split
    · next e => exact (hu.tileRun.go e).portEnd.modQuad
    · exact hu
    · exact hu.endCtx

theorem State.Sound.tileIssue {s : State} (hs : s.Sound) {i : Instr} {ops : List DWord} {rec_ : List Byte}
    {tiles regs : List Nat} : (s.tileIssue i ops rec_ tiles regs).Sound :=
  hs.attach.portSubmit.done

theorem State.Sound.tileDrain {s : State} (hs : s.Sound) {n : Nat} {i : Instr} {ops : List DWord} {rec_ : List Byte}
    {tiles regs : List Nat} : (s.tileDrain n i ops rec_ tiles regs).Sound :=
  hs.drainSr.attach.portSubmit.done

theorem State.Sound.mldRead {s : State} (hs : s.Sound) {slot : Nat} {who : Asker} {u : Nat} {t : Tlr} {seen : Reads}
    {rows : List Nat} : (s.mldRead slot who u t seen rows).1.Sound := by
  unfold State.mldRead
  dsimp only
  exact hs.noteVirtOnce

theorem State.Sound.mldGo {s : State} (hs : s.Sound) {i : Instr} {d : Nat} {sa : DWord} {rec_ : List Byte} :
    (s.mldGo i d sa rec_).Sound := by
  unfold State.mldGo
  dsimp only
  refine hs.raiseAll.ite (hs.hold.ite ?_)
  generalize hr : State.mldRead _ _ _ _ _ _ _ = r
  have h1 : r.1.Sound := by
    rw [← hr]
    exact hs.recordReads.mldRead
  split
  · exact hs.endCtx.hold
  · refine hs.askFor.hold.ite (hs.hold.ite (State.Sound.done (State.Sound.portSubmit ?_)))
    exact h1.paid.attach.ite h1.attach.parkRows

theorem State.Sound.execMld {s : State} (hs : s.Sound) {d a : Nat} : Out.Sound (execMld d a s) := by
  unfold Machine.execMld
  refine hs.issue fun u hu => ?_
  refine hu.raiseAll.ite ?_
  split
  · exact hu.hold
  · split
    · exact hu.parkRedo
    · exact hu.endCtx.hold
    · exact hu.askFor.hold
    · exact hu.mldGo

theorem State.Sound.mdrmOp {s : State} (hs : s.Sound) {slot u : Nat} {mode : Word} {sd x : DWord} {rec_ : List Byte} :
    (s.mdrmOp slot u mode sd x rec_).Sound :=
  hs.grant.upd

theorem State.Sound.mdrmGo {s : State} (hs : s.Sound) {i : Instr} {a : Nat} {sd x : DWord} {rec_ : List Byte} :
    (s.mdrmGo i a sd x rec_).Sound :=
  hs.raiseAll.ite (hs.hold.ite hs.noteRecords.mdrmOp.tileDrain)

theorem State.Sound.execMdrm {s : State} (hs : s.Sound) {d a b : Nat} : Out.Sound (execMdrm d a b s) := by
  unfold Machine.execMdrm
  refine hs.issue fun u hu => ?_
  refine hu.raiseAll.ite ?_
  refine hu.hold.ite ?_
  split
  · exact hu.parkRedo
  · exact hu.endCtx.hold
  · exact hu.askFor.hold
  · exact hu.mdrmGo

/-! ### Place -/

theorem State.Sound.fuseQuad {s : State} (hs : s.Sound) {q : Nat} {l1f : Bool} : (s.fuseQuad q l1f).Sound :=
  hs.ite ((hs.foldl (fun _ _ h1 => h1.evictLine) _).foldl (fun _ _ h1 => h1.winDrop) _).modQuad

theorem State.Sound.addTeams {s : State} (hs : s.Sound) {g : Grid} {bid rank core : Nat} {tids : List Nat} :
    (s.addTeams g bid rank core tids).Sound :=
  hs.foldl (fun _ _ h1 => h1.upd) _

theorem State.Sound.putNew {s : State} (hs : s.Sound) {g : Grid} {rank core : Nat} : (s.putNew g rank core).Sound :=
  hs.fuseQuad.modQuad.upd.addTeams.modGrid

theorem State.Sound.startBlocks {s : State} (hs : s.Sound) {gid : Nat} : (s.startBlocks gid).Sound := by
  unfold State.startBlocks
  split
  · exact hs
  · exact hs.ite hs.upd

/-- Placing puts one item after another, each where a search finds room. -/
theorem State.Sound.putAll {elig : State → Nat → Nat → Bool} {put : State → Nat → Nat → State}
    (hput : ∀ u a b, u.Sound → (put u a b).Sound) {cores l : List Nat} {s : State} (hs : s.Sound) :
    ∀ u ∈ putAll elig put cores l s, u.Sound := by
  induction l generalizing s with
  | nil => exact sound_some hs
  | cons i r ih =>
    unfold Machine.putAll
    split
    · exact sound_none
    · exact ih (hput _ _ _ hs)

theorem State.Sound.putDistinct {elig : State → Nat → Nat → Bool} {put : State → Nat → Nat → State}
    (hput : ∀ u a b, u.Sound → (put u a b).Sound) {cores l : List Nat} {s : State} (hs : s.Sound) :
    ∀ u ∈ putDistinct elig put cores l s, u.Sound := by
  induction cores generalizing l s with
  | nil =>
    cases l with
    | nil => exact sound_some hs
    | cons i r => exact sound_none
  | cons c cs ih =>
    cases l with
    | nil => exact sound_some hs
    | cons i r =>
      unfold Machine.putDistinct
      split
      · exact ih (hput _ _ _ hs)
      · exact ih hs

theorem State.Sound.putGroup {elig : State → Nat → Nat → Bool} {put : State → Nat → Nat → State}
    (hput : ∀ u a b, u.Sound → (put u a b).Sound) {cores : List Nat} {g : Together} {s : State} (hs : s.Sound) :
    ∀ u ∈ putGroup elig put cores g s, u.Sound := by
  unfold Machine.putGroup
  split
  · exact hs.putAll hput
  · refine sound_findSome fun q => ?_
    dsimp only
    split
    · exact hs.putDistinct hput
    · exact hs.putAll hput

theorem State.Sound.putGroups {elig : State → Nat → Nat → Bool} {put : State → Nat → Nat → State}
    (hput : ∀ u a b, u.Sound → (put u a b).Sound) {cores : List Nat} {l : List Together} {s : State} (hs : s.Sound) :
    ∀ u ∈ putGroups elig put cores l s, u.Sound := by
  induction l generalizing s with
  | nil => exact sound_some hs
  | cons g r ih =>
    unfold Machine.putGroups
    split
    · exact sound_none
    · next e => exact ih (hs.putGroup hput _ e)

theorem State.Sound.putGang {s : State} (hs : s.Sound) {g : Grid} {f : Nat → Bool} : ∀ u ∈ s.putGang g f, u.Sound := by
  unfold State.putGang
  split
  · exact sound_none
  · exact sound_findSome fun _ => hs.putGroups fun _ _ _ hu => hu.putNew

/-! ### Launch -/

theorem State.Sound.enqueue {s : State} (hs : s.Sound) {ctx lid qsel depth : Nat} {parent : Option Nat} {r : LaunchRec} :
    (s.enqueue ctx lid qsel depth parent r).Sound :=
  hs.upd

theorem State.Sound.sendComplete {s : State} (hs : s.Sound) {ctx lid status code : Nat} {tstart : DWord} {blocks : Nat} :
    (s.sendComplete ctx lid status code tstart blocks).Sound :=
  hs.send

theorem State.Sound.gridOver {s : State} (hs : s.Sound) {g : Grid} {status code blocks : Nat} :
    (s.gridOver g status code blocks).Sound := by
  unfold State.gridOver
  refine State.Sound.upd ?_
  split
  · refine State.Sound.sendComplete ?_
    split
    · exact hs.refSeals
    · exact hs
  · split
    · exact hs.refSeals
    · exact hs

theorem State.Sound.execGridCompletion {s : State} (hs : s.Sound) {gid : Nat} : Out.Sound (execGridCompletion gid s) := by
  unfold Machine.execGridCompletion
  split
  · exact hs
  · exact hs.gridOver.ite hs

theorem State.Sound.enterRunning {s : State} (hs : s.Sound) {g : Grid} {sealBase : Option Nat} :
    (s.enterRunning g sealBase).Sound := by
  unfold State.enterRunning
  refine State.Sound.modGrid ?_
  split
  · exact hs.refSeals
  · exact hs

theorem State.Sound.placeNext {s : State} (hs : s.Sound) {g : Grid} {f : Nat → Bool} : ∀ u ∈ s.placeNext g f, u.Sound := by
  unfold State.placeNext
  refine sound_ite sound_none ?_
  generalize hp : (if g.lrec.gang = true then s.putGang g f else _) = put
  have hput : ∀ u ∈ put, u.Sound := by
    rw [← hp]
    exact sound_ite hs.putGang (hs.putGroup fun _ _ _ hu => hu.putNew)
  cases put with
  | none => exact sound_none
  | some s1 =>
    have h1 := hput s1 rfl
    refine sound_ite (sound_some h1.startBlocks) ?_
    split
    · exact sound_some hs.endCtx
    · exact sound_some hs.gridOver
    · exact sound_some h1.enterRunning.startBlocks

theorem State.Sound.startLaunch {s : State} (hs : s.Sound) {who : Asker} {ops : List DWord} {held : List (List Byte)} :
    (s.startLaunch who ops held).Sound := by
  unfold State.startLaunch
  refine Start.Sound.ite trivial ?_
  refine Start.Sound.ite trivial ?_
  split
  · exact hs
  · split
    · exact trivial
    · exact trivial
    · exact hs.askStart
    · split
      · dsimp only
        split
        · exact hs.noteRecords
        · exact Start.Sound.ite hs.noteRecords hs.noteRecords.enqueue.modCtx.upd
      · exact Start.Sound.ite hs hs.enqueue.modCtx.upd

/-! ### Link -/

theorem State.Sound.sendError {s : State} (hs : s.Sound) {reason : Nat} : (s.sendError reason).Sound := hs.send

theorem State.Sound.takeMsg {s : State} (hs : s.Sound) {i : Instr} {body : HostMsg → State → Took}
    (hbody : ∀ m u, u.Sound → (body m u).Sound) : (takeMsg i body s).Sound := by
  unfold Machine.takeMsg
  dsimp only
  refine hs.ite (hs.upd.sendError.ite (hs.upd.sendError.ite (hs.upd.sendError.ite (hs.upd.sendError.ite ?_))))
  have hb := fun (u : State) (hu : u.Sound) => hbody s.link.rx u hu
  split
  · exact hs.upd.sendError
  · exact hs.upd
  · next e => exact ((hb _ hs.upd).ok e).upd

theorem State.Sound.reply {s : State} (hs : s.Sound) {typ status : Nat} {data : List Byte} :
    (s.reply typ status data).Sound :=
  hs.send

theorem State.Sound.takeFeature {s : State} (hs : s.Sound) {m : HostMsg} : (takeFeature m s).Sound :=
  Took.Sound.ite trivial (Took.Sound.ite trivial (Took.Sound.ite trivial hs.upd.send))

theorem State.Sound.takeLaunch {s : State} (hs : s.Sound) {m : HostMsg} : (takeLaunch m s).Sound := by
  unfold Machine.takeLaunch
  refine Took.Sound.ite trivial ?_
  dsimp only
  split
  · exact hs.sendComplete
  · exact Took.Sound.ite trivial hs.enqueue

theorem sound_hostSector {acc : State × Nat} (hs : acc.1.Sound) {p : Nat × List Byte} : (hostSector acc p).1.Sound := by
  unfold hostSector
  dsimp only
  split
  · exact hs
  · split
    · exact hs.noteSealed
    · exact (hs.noteWrite.putBytes _ _).clearPoison

theorem State.Sound.hostWrite {s : State} (hs : s.Sound) {a : Nat} {data : List Byte} : (s.hostWrite a data).1.Sound :=
  State.Sound.foldl_fst hs (fun _ _ hq => sound_hostSector hq) _

theorem State.Sound.takeMwr {s : State} (hs : s.Sound) {m : HostMsg} : (takeMwr m s).Sound := by
  unfold Machine.takeMwr
  dsimp only
  exact Took.Sound.ite trivial (Took.Sound.ite hs.reply (Took.Sound.ite trivial hs.hostWrite.reply))

theorem State.Sound.takeMrd {s : State} (hs : s.Sound) {m : HostMsg} : (takeMrd m s).Sound := by
  unfold Machine.takeMrd
  refine Took.Sound.ite trivial ?_
  split
  · split
    · exact hs.reply
    · exact hs.reply
  · exact Took.Sound.ite hs.reply (Took.Sound.ite trivial (Took.Sound.ite hs.reply hs.noteReads.reply))

theorem State.Sound.settleReqs {s : State} (hs : s.Sound) {u : Nat} : (s.settleReqs u).Sound := by
  unfold State.settleReqs
  refine hs.ite ?_
  split
  · exact hs
  · exact hs.upd.modTeam

theorem State.Sound.acquireEnd {s : State} (hs : s.Sound) {r : WinReq} : (s.acquireEnd r).Sound :=
  (hs.winDrop.ite hs).modTeam.ite hs

theorem State.Sound.answerLane {s : State} (hs : s.Sound) {r : WinReq} {v : Nat} : (s.answerLane r v).Sound := by
  unfold State.answerLane
  split
  · exact hs
  · exact (hs.ite hs.select.deliverLate.select).resave.ite (hs.ite hs.select.deliverLate.select)

theorem State.Sound.answerBad {s : State} (hs : s.Sound) {rs : List WinReq} : (s.answerBad rs).Sound :=
  hs.upd.foldl (fun _ _ h1 => h1.settleReqs) _

theorem State.Sound.dropTag {s : State} (hs : s.Sound) {tag : Nat} : (s.dropTag tag).Sound := hs.upd

theorem State.Sound.answered {s : State} (hs : s.Sound) {rs : List WinReq} : (s.answered rs).Sound :=
  hs.foldl (fun _ _ h1 => h1.acquireEnd.settleReqs) _

theorem State.Sound.askReply {s : State} (hs : s.Sound) {tag status : Nat} {data : List Byte} :
    (s.askReply tag status data).Sound := by
  unfold State.askReply
  split
  · exact hs
  · exact hs.upd

theorem State.Sound.readReply {s : State} (hs : s.Sound) {tag status : Nat} {data : List Byte} :
    (s.readReply tag status data).Sound := by
  unfold State.readReply
  split
  · dsimp only
    split
    · exact hs.askReply
    · exact hs.answerBad
  · dsimp only
    split
    · exact hs.askReply
    · exact ((hs.dropTag.foldl (fun _ _ h1 => h1.answerLane) _).unless (·.winFill)).answered

theorem State.Sound.takeMrdresp {s : State} (hs : s.Sound) {m : HostMsg} : (takeMrdresp m s).Sound :=
  Took.Sound.ite trivial hs.readReply

theorem State.Sound.atomReply {s : State} (hs : s.Sound) {tag status : Nat} {data : List Byte} :
    ∀ u ∈ s.atomReply tag status data, u.Sound := by
  intro u hu
  obtain ⟨r, -, rfl⟩ := Option.map_eq_some_iff.1 hu
  exact hs.answerBad.upd.ite hs.dropTag.answerLane.answered

theorem State.Sound.takeMatomresp {s : State} (hs : s.Sound) {m : HostMsg} : (takeMatomresp m s).Sound := by
  unfold Machine.takeMatomresp
  refine Took.Sound.ite trivial ?_
  split
  · exact trivial
  · next e => exact hs.atomReply _ e

theorem State.Sound.writeReply {s : State} (hs : s.Sound) {tag : Nat} : (s.writeReply tag).Sound := hs.upd

theorem State.Sound.takeWrack {s : State} (hs : s.Sound) {m : HostMsg} : (takeWrack m s).Sound :=
  Took.Sound.ite trivial hs.writeReply

/-! ### Replay -/

theorem State.Sound.modEntry {s : State} (hs : s.Sound) {u : Nat} {f : LogEntry → LogEntry} : (s.modEntry u f).Sound :=
  hs.upd

theorem State.Sound.modWait {s : State} (hs : s.Sound) {e : LogEntry} {on : Until} : (s.modWait e on).Sound := hs.upd

theorem State.Sound.freeLog {s : State} (hs : s.Sound) {e : LogEntry} {more : List Dec} : (s.freeLog e more).Sound := hs.upd

theorem State.Sound.refault {s : State} (hs : s.Sound) {slot : Nat} {e : LogEntry} {pages : List Nat} :
    (s.refault slot e pages).Sound :=
  (hs.noteXls.dropGot.modSlot _ _).flushFaults.modEntry

theorem State.Sound.settleLanes {s : State} (hs : s.Sound) {e : LogEntry} {op : MemOp} {todo : List LaneAcc} :
    (s.settleLanes e op todo).Sound :=
  hs.paid.acqDone.freeLog.ite hs.modEntry

theorem State.Sound.replayLanes {s : State} (hs : s.Sound) {slot : Nat} {e : LogEntry} {op : MemOp} {todo : List LaneAcc}
    {dec : Nat → Option Nat} : (s.replayLanes slot e op todo dec).Sound := by
  unfold State.replayLanes
  dsimp only
  split
  · exact hs.endCtx
  · generalize hp : State.performLocal _ _ _ _ _ = p
    have h1 : p.s.Sound := by
      rw [← hp]
      exact (hs.winDrop.ite hs).noteXls.performLocal
    exact h1.upd.winAccesses.deliverLate.modEntry.refault.ite h1.upd.winAccesses.deliverLate.settleLanes

theorem State.Sound.settleRows {s : State} (hs : s.Sound) {slot : Nat} {e : LogEntry} {ops : List DWord} {rest : List Nat}
    {parked : List (Nat × Nat × Nat × Bool)} {causes : List LaneCause} :
    (s.settleRows slot e ops rest parked causes).Sound :=
  hs.paid.modWait.freeLog.ite (hs.modEntry.unless (·.refault))

theorem State.Sound.mldPut {s : State} (hs : s.Sound) {e : LogEntry} {d : Nat} {rows : List (Nat × List Nat × Word)} :
    (s.mldPut e d rows).Sound :=
  hs.modMyQuad.ite hs.modMyQuad

theorem State.Sound.replayMld {s : State} (hs : s.Sound) {slot : Nat} {e : LogEntry} {d : Nat} {ops : List DWord}
    {todo : List Nat} {dec : Nat → Option Nat} : (s.replayMld slot e d ops todo dec).Sound := by
  unfold State.replayMld
  dsimp only
  split
  · exact hs.endCtx
  · exact hs.mldRead.mldPut.settleRows.askFor

theorem State.Sound.replayMdrm {s : State} (hs : s.Sound) {slot : Nat} {e : LogEntry} {tile : Nat} {ops : List DWord}
    {todo : List Nat} {dec : Nat → Option Nat} : (s.replayMdrm slot e tile ops todo dec).Sound := by
  unfold State.replayMdrm
  dsimp only
  split
  · exact hs.drainGrant.endCtx
  · exact hs.drainGrant.drainMem.noteXls.settleRows

theorem State.Sound.replayRows {s : State} (hs : s.Sound) {slot : Nat} {e : LogEntry} {ops : List DWord} {todo : List Nat}
    {dec : Nat → Option Nat} : (s.replayRows slot e ops todo dec).Sound := by
  unfold State.replayRows
  split
  · exact hs.replayMld
  · exact hs.replayMdrm
  · exact hs

theorem State.Sound.redoMld {s : State} (hs : s.Sound) {slot : Nat} {e : LogEntry} {seen : Reads} {sa : DWord}
    {rec_ : List Byte} : (s.redoMld slot e seen sa rec_).Sound := by
  unfold State.redoMld
  dsimp only
  have hr := hs.mldRead (slot := slot) (who := .op e.h) (u := e.h) (t := Tlr.of rec_) (seen := seen)
    (rows := mldRows (Tlr.of rec_))
  split
  · exact hs.endCtx
  · exact hr.paid.modWait.freeLog.portSubmit.ite hr.settleRows.askFor.portSubmit

theorem State.Sound.redoMdrm {s : State} (hs : s.Sound) {slot : Nat} {e : LogEntry} {sd x : DWord} {rec_ : List Byte} :
    (s.redoMdrm slot e sd x rec_).Sound :=
  hs.modEntry.ite hs.mdrmOp.modT.modWait.freeLog.portSubmit

theorem State.Sound.redoFault {s : State} (hs : s.Sound) {slot : Nat} {e : LogEntry} {cause ptr : Nat}
    {runs : List (Nat × Nat)} : (s.redoFault slot e cause ptr runs).Sound :=
  hs.refault

theorem State.Sound.redoRows {s : State} (hs : s.Sound) {slot : Nat} {e : LogEntry} {ops : List DWord} :
    (s.redoRows slot e ops).Sound := by
  unfold State.redoRows
  dsimp only
  split
  · exact hs.modEntry
  · split
    · exact hs.redoFault
    · exact hs.endCtx
    · exact hs.modEntry.askFor
    · split
      · split
        · exact hs.modWait.freeLog
        · exact State.Sound.redoMld hs.recordReads
      · split
        · exact hs.modWait.freeLog
        · exact hs.noteRecords.redoMdrm
      · exact hs

/-- The start of an instruction again is one of the starts. -/
theorem State.Sound.startOf {s : State} (hs : s.Sound) {who : Asker} {i : Instr} {mode : Word} {ops : List DWord}
    {recs : List (List Byte)} : ∀ r ∈ s.startOf who i mode ops recs, r.1.Sound := by
  unfold State.startOf
  split
  · rintro _ ⟨⟩; exact hs.startLaunch
  · rintro _ ⟨⟩; exact hs.startCpy
  · rintro _ ⟨⟩; exact hs.startCpyt
  · rintro _ ⟨⟩; exact hs.startMerge
  · rintro _ ⟨⟩; exact hs.matStart
  · rintro _ ⟨⟩; exact hs.matStart
  · rintro _ ⟨⟩; exact hs.matStart
  · rintro _ ⟨⟩; exact hs.matStart
  · simp

theorem State.Sound.replayRedo {s : State} (hs : s.Sound) {slot : Nat} {e : LogEntry} {ops : List DWord}
    {dec : Nat → Option Nat} : (s.replayRedo slot e ops dec).Sound := by
  unfold State.replayRedo
  dsimp only
  split
  · exact hs.modWait.freeLog
  · split
    · exact hs.redoRows
    · next e' =>
      have hst := State.Sound.startOf (State.Sound.upd hs) _ e'
      split
      · exact hs.modWait.freeLog
      · exact hs.redoFault
      · exact hs.endCtx
      · exact (State.Sound.modT hst).modEntry
      · exact (State.Sound.upd hst).modWait.freeLog

theorem State.Sound.replay {s : State} (hs : s.Sound) {slot : Nat} {e : LogEntry} {dec : Nat → Option Nat} :
    (s.replay slot e dec).Sound := by
  unfold State.replay
  split
  · exact hs.replayLanes
  · exact hs.replayRedo
  · exact hs.replayRows

theorem State.Sound.closeFault {s : State} (hs : s.Sound) {slot fseq : Nat} : (s.closeFault slot fseq).Sound :=
  (hs.modSlot _ _).flushFaults

theorem State.Sound.mopServed {s : State} (hs : s.Sound) {q u : Nat} : (s.mopServed q u).Sound := hs.modMop.upd

theorem State.Sound.applyReply {s : State} (hs : s.Sound) {slot : Nat} {f : FaultRec} {rep : List DWord} :
    (s.applyReply slot f rep).Sound := by
  unfold State.applyReply
  split
  · refine hs.closeFault.onTeam fun u hu => ?_
    split
    · exact hu
    · exact hu.replay
  · exact hs.closeFault.modTeam
  · dsimp only
    split
    · exact hs.closeFault.endCtx
    · exact hs.closeFault.mopServed
  · dsimp only
    split
    · exact hs.closeFault.endCtx
    · exact hs.closeFault.modQuad
  · dsimp only
    split
    · exact hs.closeFault
    · split
      · exact hs.closeFault.engDecline
      · exact hs.closeFault.modOp

theorem State.Sound.saveReply {s : State} (hs : s.Sound) {slot : Nat} {f : FaultRec} {payload : List Byte}
    {rep : List DWord} : (s.saveReply slot f payload rep).Sound :=
  hs.endCtx.ite (hs.devWrite.devWrite.modSlot _ _).flushFaults

theorem State.Sound.takeFaultreply {s : State} (hs : s.Sound) {m : HostMsg} : (takeFaultreply m s).Sound := by
  unfold Machine.takeFaultreply
  refine Took.Sound.ite trivial ?_
  split
  · exact trivial
  · refine Took.Sound.ite trivial ?_
    split
    · exact trivial
    · exact Took.Sound.ite hs.endCtx (Took.Sound.ite hs.saveReply hs.applyReply)

theorem State.Sound.complete {s : State} (hs : s.Sound) {f : Infl} : (s.complete f).Sound := by
  unfold State.complete
  refine State.Sound.upd ?_
  split
  · exact hs.dropSeal.acquired.maybe (·.upd)
  · exact hs

theorem State.Sound.execInstructionComplete {s : State} (hs : s.Sound) {tid u : Nat} :
    Out.Sound (execInstructionComplete tid u s) := by
  unfold Machine.execInstructionComplete
  split
  · exact hs
  · refine hs.ite ?_
    refine hs.onTeam fun u hu => ?_
    split
    · split
      · dsimp only
        split
        · exact hu.replay.maybe (·.complete)
        · exact hu.replay
      · dsimp only
        split
        · exact hu.complete.ite hu
        · exact hu
    · dsimp only
      split
      · exact hu.complete.ite hu
      · exact hu

theorem State.Sound.execTrapEntry {s : State} (hs : s.Sound) {tid : Nat} : Out.Sound (execTrapEntry tid s) := by
  unfold Machine.execTrapEntry
  split
  · exact hs
  · exact (hs.onTeam (fun _ h1 => h1.trapHere.ite h1.tryTrap)).ite hs

theorem State.Sound.execInstructionFetch {s : State} (hs : s.Sound) {x : DWord} : Out.Sound (execInstructionFetch x s) := by
  unfold Machine.execInstructionFetch
  split
  · exact hs
  · refine hs.ite ?_
    split
    · next e => exact hs.wordAt.ok e
    · next e => exact hs.wordAt.stop e

theorem State.Sound.execPhaseOverrun {s : State} (hs : s.Sound) {tid : Nat} : Out.Sound (execPhaseOverrun tid s) := by
  unfold Machine.execPhaseOverrun
  split
  · exact hs
  · exact hs.ite hs.modTeam.modCtx

/-! ### Preempt -/

theorem State.Sound.writeMap {s : State} (hs : s.Sound) {slot lo n : Nat} : (s.writeMap slot lo n).Sound :=
  hs.endCtx.ite (hs.foldl (fun _ _ h1 => h1.noteWrite.putBytes _ _) _)

theorem State.Sound.clearMap {s : State} (hs : s.Sound) {slot : Nat} : (s.clearMap slot).Sound :=
  (hs.noteWrites.zeroBytes _ _).clearPoison.writeMap

theorem State.Sound.drainPort {s : State} (hs : s.Sound) {bids : List Nat} {q : Nat} : (s.drainPort bids q).Sound :=
  hs.foldl (fun _ _ h1 => h1.portTurn.ite h1) _

theorem State.Sound.stopMerges {s : State} (hs : s.Sound) {bids : List Nat} : (s.stopMerges bids).Sound :=
  hs.foldl (fun _ _ h1 => h1.stopMerge) _

theorem State.Sound.dropFillFaults {s : State} (hs : s.Sound) {slot : Nat} : (s.dropFillFaults slot).Sound :=
  (hs.modSlot _ _).flushFaults

theorem State.Sound.trimSave {s : State} (hs : s.Sound) {u : SavedUnit} {b : Block} : (s.trimSave u b).Sound := by
  unfold State.trimSave
  split
  · exact hs.ite (hs.upd.modBlock.modSlot _ _).writeMap
  · exact hs

theorem State.Sound.writeUnit {s : State} (hs : s.Sound) {u : SavedUnit} : (s.writeUnit u).Sound := by
  unfold State.writeUnit
  refine State.Sound.foldl (State.Sound.foldl hs.upd (fun w k hw => ?_) _) (fun w k hw => ?_) _
  · split
    · exact hw.trimSave
    · exact hw
  · split
    · exact hw.writeRecord
    · exact hw

theorem State.Sound.unsave {s : State} (hs : s.Sound) {slot : Nat} {bids : List Nat} : (s.unsave slot bids).Sound :=
  (hs.modSlot _ _).upd.foldl (fun _ _ h1 => h1.writeMap) _

theorem State.Sound.evictUnit {s : State} (hs : s.Sound) {bs : List Block} {stop : Bool} :
    ∀ r ∈ s.evictUnit bs stop, r.1.Sound := by
  unfold State.evictUnit
  split
  · exact sound_none
  · dsimp only
    split
    · exact sound_none
    · refine sound_some ((fun (h : State.Sound _) => h.ite h.writeUnit) ?_)
      refine State.Sound.foldl ?_ (fun _ _ hu => hu.writeMap) _
      refine State.Sound.foldl ?_ (fun _ _ hu => hu.modBlock) _
      refine State.Sound.dropFillFaults (State.Sound.modSlot ?_ _ _)
      refine State.Sound.foldl ?_ (fun _ _ hu => hu.freeQuad) _
      refine State.Sound.foldl (State.Sound.modTeams (State.Sound.upd (State.Sound.unsave ?_))) (fun _ _ hu => hu.modQuad) _
      exact (hs.foldl (fun _ _ hu => hu.drainPort) _).stopMerges.ite (hs.foldl (fun _ _ hu => hu.drainPort) _)

theorem State.Sound.evictCount {s : State} (hs : s.Sound) {n : Evicted} {bs : List Block} {stop : Bool} :
    ∀ r ∈ s.evictCount n bs stop, r.1.Sound := by
  intro r hr
  obtain ⟨p, hp, rfl⟩ := Option.map_eq_some_iff.1 hr
  exact hs.evictUnit p hp

theorem State.Sound.sendSaved {s : State} (hs : s.Sound) {v : Saving} {result : Nat} : (s.sendSaved v result).Sound :=
  hs.send

theorem State.Sound.settleSaving {s : State} (hs : s.Sound) {v : Saving} : (s.settleSaving v).Sound :=
  hs.sendSaved.ite hs.upd

theorem State.Sound.stepSaving {s : State} (hs : s.Sound) {v : Saving} : (s.stepSaving v).Sound := by
  unfold State.stepSaving
  generalize hp : List.foldl _ _ v.todo = p
  have h1 : p.1.Sound := by
    rw [← hp]
    refine State.Sound.foldl_fst hs (fun q x hq => ?_) _
    dsimp only
    split
    · exact hq
    · split
      · next e => exact hq.evictCount _ e
      · exact hq.endCtx
  exact h1.ite h1.settleSaving

theorem State.Sound.saveTurn {s : State} (hs : s.Sound) : s.saveTurn.Sound :=
  (hs.foldl (fun _ _ h1 => h1.writeUnit) _).upd.foldl (fun _ _ h1 => h1.stepSaving) _

theorem State.Sound.makeRoom {f : State → Bool} {l : List (List Block)} {s : State} (hs : s.Sound) {n : Evicted}
    {short : Bool} : ∀ r ∈ (makeRoom f l s n short).1, r.1.Sound := by
  induction l generalizing s n short with
  | nil =>
    unfold Machine.makeRoom
    dsimp only
    split
    · rintro _ ⟨⟩; exact hs
    · simp
  | cons u r ih =>
    unfold Machine.makeRoom
    split
    · rintro _ ⟨⟩; exact hs
    · split
      · next e => exact ih (hs.evictCount _ e)
      · exact ih hs

theorem State.Sound.roomFor {s : State} (hs : s.Sound) {g : Grid} : ∀ r ∈ (s.roomFor g).1, r.1.Sound := by
  unfold State.roomFor
  refine List.foldlRecOn (motive := fun acc : Option (State × Evicted × List Nat) × Bool => ∀ r ∈ acc.1, r.1.Sound) _ _
    (by simp) fun acc hacc cores _ => ?_
  have hm := hs.makeRoom (f := fun s => s.fitsOn g cores) (l := s.victims (s.roomCores g cores) g.cls) (n := {})
    (short := false)
  dsimp only
  split
  · next e _ =>
    split
    · rintro _ ⟨⟩; exact hm _ e
    · exact hacc
  · next e _ => rintro _ ⟨⟩; exact hm _ e
  · exact hacc

theorem State.Sound.preemptRoom {s : State} (hs : s.Sound) {slot ctx tag lid : Nat} :
    (s.preemptRoom slot ctx tag lid).Sound := by
  unfold State.preemptRoom
  dsimp only
  split
  · exact hs.sendSaved
  · split
    · next e =>
      split
      · next e' => exact ((hs.roomFor _ (congrArg Prod.fst e)).placeNext _ e').settleSaving
      · exact hs.sendSaved
    · exact hs.sendSaved

theorem State.Sound.takePreempt {s : State} (hs : s.Sound) {kind : Nat} {f : Nat → State → State} {m : HostMsg}
    (hf : ∀ a0 u, u.Sound → (f a0 u).Sound) : (takePreempt kind f m s).Sound := by
  unfold Machine.takePreempt
  refine Took.Sound.ite trivial ?_
  split
  · exact trivial
  · exact Took.Sound.ite trivial (hf _ _ hs)

theorem State.Sound.putBack {s : State} (hs : s.Sound) {u : SavedUnit} {g : Grid} {bid core : Nat} :
    (State.putBack u g s bid core).Sound := by
  unfold State.putBack
  split
  · exact (hs.fuseQuad.modQuad.upd.foldl (fun _ _ h1 => h1.modTeam) _).unless (·.modCtx)
  · exact hs

theorem State.Sound.putUnit {s : State} (hs : s.Sound) {u : SavedUnit} {f : Nat → Bool} : ∀ w ∈ s.putUnit u f, w.Sound := by
  unfold State.putUnit
  split
  · exact sound_none
  · exact sound_findSome fun _ => hs.putGroups fun _ _ _ hu => hu.putBack

theorem State.Sound.applyActs {s : State} (hs : s.Sound) {t : Team} : (s.applyActs t).Sound :=
  hs.ite (hs.foldl (fun _ _ h1 => h1.modBar) _).modTeam

theorem State.Sound.applySlot {s : State} (hs : s.Sound) {slot : Nat} {f : FaultRec} : (s.applySlot slot f).Sound :=
  hs.endCtx.ite (hs.endCtx.ite (hs.applyReply.devWrite.ite (hs.modSlot _ _)))

theorem State.Sound.restoreAcquire {s : State} (hs : s.Sound) {tids : List Nat} : (s.restoreAcquire tids).Sound :=
  (hs.foldl (fun _ _ h1 => h1.winDrop) _).modTeams.upd

theorem State.Sound.finishRestore {s : State} (hs : s.Sound) {u : SavedUnit} : (s.finishRestore u).Sound := by
  unfold State.finishRestore
  split
  · exact hs
  · exact ((((((hs.upd.restoreAcquire.maybe (·.modTeams)).foldl (fun _ _ h1 => h1.applySlot) _).modTeams.foldl
      (fun _ _ h1 => h1.resumeMerge) _).modSlot _ _).foldl (fun _ _ h1 => h1.writeMap) _).foldl
      (fun _ _ h1 => h1.modBlock) _).startBlocks

theorem State.Sound.restoreOn {s : State} (hs : s.Sound) : s.restoreOn.Sound := hs.foldl (fun _ _ h1 => h1.finishRestore) _

theorem State.Sound.restored {s : State} (hs : s.Sound) {u : SavedUnit} : (s.restored u).Sound := by
  unfold State.restored
  split
  · exact hs.endCtx
  · exact (hs.foldl (fun _ _ h1 => h1.applyActs) _).upd.restoreOn

/-! ### Distributor -/

theorem State.Sound.placeCand {s : State} (hs : s.Sound) {c : Cand} {used : List Nat} :
    ∀ u ∈ s.placeCand c used, u.Sound := by
  unfold State.placeCand
  dsimp only
  split
  · exact sound_map_of (hs.putUnit) fun _ hu => hu.restored
  · exact hs.placeNext

theorem State.Sound.serve {s : State} (hs : s.Sound) {c : Cand} : (s.serve c).Sound := by
  unfold State.serve
  refine hs.ite ?_
  dsimp only
  split
  · exact hs
  · next e => exact (hs.placeCand _ e).upd

theorem State.Sound.execBlockPlacement {s : State} (hs : s.Sound) {gid : Nat} : Out.Sound (execBlockPlacement gid s) := by
  unfold Machine.execBlockPlacement
  split
  · exact hs
  · exact hs.serve.ite hs

theorem State.Sound.execGangPlacement {s : State} (hs : s.Sound) {gid : Nat} : Out.Sound (execGangPlacement gid s) := by
  unfold Machine.execGangPlacement
  split
  · exact hs
  · exact hs.serve.ite hs

theorem State.Sound.endGang {s : State} (hs : s.Sound) {u : SavedUnit} : (s.endGang u).Sound := by
  unfold State.endGang
  split
  · exact hs
  · exact ((hs.upd.modSlot _ _).flushFaults.foldl (fun _ _ h1 => h1.writeMap) _).gridOver

theorem State.Sound.execUnitRestore {s : State} (hs : s.Sound) {u : Nat} : Out.Sound (execUnitRestore u s) := by
  unfold Machine.execUnitRestore
  split
  · exact hs
  · split
    · exact hs
    · exact hs.endGang.ite hs.serve

theorem State.Sound.press {s : State} (hs : s.Sound) {gid : Nat} : (s.press gid).Sound := by
  unfold State.press
  split
  · exact hs
  · exact hs.ite hs.modGrid

theorem State.Sound.ageGrids {s : State} (hs : s.Sound) : s.ageGrids.Sound := hs.upd.foldl (fun _ _ h1 => h1.press) _

theorem State.Sound.trackHead {s : State} (hs : s.Sound) : s.trackHead.Sound := by
  unfold State.trackHead
  split
  · exact hs.ite hs.upd
  · exact hs.ite hs.upd

theorem State.Sound.execChildWaitEviction {s : State} (hs : s.Sound) {gid : Nat} :
    Out.Sound (execChildWaitEviction gid s) := by
  unfold Machine.execChildWaitEviction
  change State.Sound _
  split
  · next e =>
    obtain ⟨x, -, hx⟩ := List.exists_of_findSome?_eq_some e
    obtain ⟨r, hr, e'⟩ := Option.map_eq_some_iff.1 hx
    have h1 := hs.evictCount _ hr
    cases e'
    exact h1.upd.settleSaving.ite hs
  · exact hs

theorem State.Sound.fillFault {s : State} (hs : s.Sound) {slot q gid cause ptr : Nat} :
    (s.fillFault slot q gid cause ptr).Sound :=
  (hs.noteXls.dropGot.modSlot _ _).flushFaults.modQuad

theorem State.Sound.execCupboardFill {s : State} (hs : s.Sound) {q gid : Nat} : Out.Sound (execCupboardFill q gid s) := by
  unfold Machine.execCupboardFill
  split
  · refine hs.ite ?_
    split
    · exact hs.endCtx
    · refine hs.fillFault.ite ?_
      dsimp only
      split
      · exact hs.noteVirt.modQuad.restoreOn.startBlocks
      · exact hs.noteVirt.modQuad.fillFault
      · exact hs.endCtx
      · exact hs.noteVirt.modQuad.askFor
  · exact hs

/-! ### Context -/

/-- A register write is acknowledged or refused. -/
theorem State.Sound.regDone {s : State} (hs : s.Sound) {r : Option State} (hr : ∀ u ∈ r, u.Sound) : (s.regDone r).Sound := by
  cases r with
  | none => exact hs.reply
  | some u => exact (hr u rfl).reply

theorem State.Sound.regWrite {s : State} (hs : s.Sound) {i : Instr} {f : Nat → Nat → State → Option State}
    (hf : ∀ a0 a1 u, u.Sound → ∀ w ∈ f a0 a1 u, w.Sound) : (regWrite i f s).Sound :=
  hs.takeMsg fun _ _ h1 => Took.Sound.ite trivial (h1.regDone (hf _ _ _ h1))

theorem State.Sound.ctxctl {s : State} (hs : s.Sound) {n v : Nat} : ∀ u ∈ s.ctxctl n v, u.Sound :=
  sound_ite (sound_ite (sound_some hs) sound_none)
  (sound_ite (sound_some (hs.modSlot _ _)) (sound_ite sound_none (sound_some (hs.modSlot _ _).clearMap)))

theorem State.Sound.invalidate {s : State} (hs : s.Sound) {slot : Nat} {f : CtxSlot → CtxSlot} {p : XReg → Bool} :
    (s.invalidate slot f p).Sound := by
  unfold State.invalidate
  exact (hs.modSlot _ _).upd.modTeams

theorem State.Sound.invCmd {s : State} (hs : s.Sound) {i : Instr} {ok : State → Bool} {what : State → InvScope}
    {f : State → Nat → State} (hf : ∀ u a1, u.Sound → (f u a1).Sound) : (invCmd i ok what f s).Sound :=
  hs.takeMsg fun _ _ h1 =>
  Took.Sound.ite trivial
  (Took.Sound.ite h1.reply (Took.Sound.ite h1.upd.reply (Took.Sound.ite trivial (hf _ _ h1.upd).reply)))

theorem State.Sound.dropFetched {s : State} (hs : s.Sound) {ctx : Nat} : (s.dropFetched ctx).Sound := hs.upd

theorem State.Sound.streamWrite {s : State} (hs : s.Sound) {n k v : Nat} : ∀ u ∈ s.streamWrite n k v, u.Sound := by
  unfold State.streamWrite
  refine sound_ite sound_none ?_
  split
  · exact sound_ite (sound_some hs.putStream) sound_none
  · exact sound_some hs.putStream
  · exact sound_some hs.putStream
  · exact sound_some hs.putStream

theorem State.Sound.regPlain {s : State} (hs : s.Sound) {o v : Nat} : ∀ u ∈ s.regPlain o v, u.Sound := by
  have hset : ∀ r : Regs, ∀ u ∈ some { s with regs := r }, u.Sound := fun r => sound_some hs.upd
  unfold State.regPlain
  exact sound_ite sound_none <| sound_ite (hset _) <| sound_ite (hset _) <| sound_ite (hset _) <| sound_ite (hset _) <|
    sound_ite (hset _) <| sound_ite (hset _) <| sound_ite (sound_ite sound_none (sound_some (hs.modSlot _ _))) <|
    sound_ite (hset _) <| sound_ite (hset _) <| sound_ite sound_none <| sound_ite (hset _) <|
    sound_ite (sound_ite sound_none (hset _)) <| sound_map fun _ => hs

theorem State.Sound.stopEngines {s : State} (hs : s.Sound) {slot ctx : Nat} : (s.stopEngines slot ctx).Sound :=
  ((hs.foldl (fun _ _ h1 => h1.ite h1.engPartial) _).foldl (fun _ _ h1 => h1.refSeals) _).upd

theorem State.Sound.orphanSeals {s : State} (hs : s.Sound) {ctx : Nat} : (s.orphanSeals ctx).Sound :=
  (hs.foldl (fun _ _ h1 => h1.dropSeal) _).upd

theorem State.Sound.endSaving {s : State} (hs : s.Sound) {ctx : Nat} : (s.endSaving ctx).Sound := hs.upd

theorem State.Sound.settleSavings {s : State} (hs : s.Sound) : s.settleSavings.Sound :=
  hs.upd.foldl (fun _ _ h1 => h1.settleSaving.ite h1.upd) _

theorem State.Sound.finishCtx {s : State} (hs : s.Sound) {slot ctx status : Nat} : (s.finishCtx slot ctx status).Sound :=
  ((hs.stopEngines.endSaving.upd.settleSavings.foldl (fun _ _ h1 => h1.gridOver) _).orphanSeals.modSlot _ _).clearMap

theorem State.Sound.execContextEnd {s : State} (hs : s.Sound) {slot : Nat} : Out.Sound (execContextEnd slot s) := by
  unfold Machine.execContextEnd
  dsimp only
  split
  · exact hs
  · exact hs.finishCtx.ite hs

/-! ### Health -/

theorem State.Sound.sbEvent {s : State} (hs : s.Sound) {e : SbEvent} : (s.sbEvent e).Sound := hs.upd

theorem State.Sound.clearCore {s : State} (hs : s.Sound) {core : Nat} : (s.clearCore core).Sound :=
  hs.foldl (fun _ _ h1 => h1.stepSaving) _

theorem State.Sound.removeBundle {s : State} (hs : s.Sound) {core vp reason : Nat} : (s.removeBundle core vp reason).Sound :=
  hs.modCore.sbEvent.maybe (·.clearCore.sbEvent)

theorem State.Sound.execVpUncorrectableError {s : State} (hs : s.Sound) {core vp tid : Nat} :
    Out.Sound (execVpUncorrectableError core vp tid s) := by
  unfold Machine.execVpUncorrectableError
  refine hs.ite ?_
  refine hs.removeBundle.ite ?_
  refine State.Sound.removeBundle ?_
  split
  · exact hs.endCtx.ite hs
  · exact hs

theorem State.Sound.leakFall {s : State} (hs : s.Sound) : s.leakFall.Sound := hs.upd

theorem State.Sound.fenceTower {s : State} (hs : s.Sound) {t : Nat} : (s.fenceTower t).Sound :=
  hs.upd.foldl (fun _ _ h1 => h1.modCore) _

theorem State.Sound.dropTower {s : State} (hs : s.Sound) {t : Nat} : (s.dropTower t).Sound := hs.upd

theorem State.Sound.countSoft {s : State} (hs : s.Sound) {tw o : Nat} : (s.countSoft tw o).Sound := hs.upd

theorem State.Sound.execSoftErrorUncorrectable {s : State} (hs : s.Sound) {tw st : Nat} {w : SoftErr} :
    Out.Sound (execSoftErrorUncorrectable tw st w s) := by
  unfold Machine.execSoftErrorUncorrectable
  refine hs.ite ?_
  split
  · exact hs.countSoft
  · exact hs.countSoft.endCtx
  · exact hs.countSoft.countSoft.unless (·.upd)

theorem State.Sound.epochEnd {s : State} (hs : s.Sound) : s.epochEnd.Sound := hs.upd

theorem State.Sound.dueTimes {s : State} (hs : s.Sound) : s.dueTimes.Sound := hs.upd

/-! ### Sideboard -/

theorem State.Sound.deviceReset {s : State} (_ : s.Sound) {b : BringUp} : (s.deviceReset b).Sound := ⟨rfl, rfl⟩

theorem State.Sound.sbReply {s : State} (hs : s.Sound) {bs : List Byte} : (s.sbReply bs).Sound := hs.upd

theorem State.Sound.powerDown {s : State} (_ : s.Sound) : s.powerDown.Sound := ⟨rfl, rfl⟩

theorem State.Sound.bundleFails {s : State} (hs : s.Sound) {p : Nat × Nat} : (s.bundleFails p).Sound :=
  hs.ite (hs.modCore.sbEvent.maybe (·.sbEvent))

theorem State.Sound.bringStep {s : State} (hs : s.Sound) {n : Nat} : (s.bringStep n).Sound := by
  unfold State.bringStep
  dsimp only
  split
  · exact hs.upd.ite hs
  · exact hs.upd
  · exact hs.foldl (fun _ _ hu => hu.fenceTower.sbEvent) _
  · exact hs.foldl (fun _ _ hu => hu.bundleFails) _
  · exact ⟨rfl, hs.slots⟩
  · exact hs.upd

theorem State.Sound.bringNext {s : State} (hs : s.Sound) : s.bringNext.Sound := hs.bringStep.upd.ite hs

theorem State.Sound.sbRead {s : State} (hs : s.Sound) {off n : Nat} : (s.sbRead off n).Sound := hs.ite hs.upd

theorem State.Sound.sbSelect {s : State} (hs : s.Sound) {tower v : Nat} : (s.sbSelect tower v).Sound := hs.ite hs.upd

theorem State.Sound.coolFor {s : State} (hs : s.Sound) {n : Nat} : (s.coolFor n).Sound := hs.upd

theorem State.Sound.execThermalTrip {s : State} (hs : s.Sound) : Out.Sound (execThermalTrip s) :=
  State.Sound.ite hs (sound_reset.upd.sbEvent)

theorem State.Sound.spdmReply {s : State} (hs : s.Sound) {r : SpdmReq} {neg : Nat} {bs : List Byte} :
    (s.spdmReply r neg bs).Sound :=
  hs.upd.ite hs.upd

theorem State.Sound.spdmAnswer {s : State} (hs : s.Sound) {i : Nat} {r : SpdmReq} {need after : Nat}
    {body : List Byte → List Byte} : (s.spdmAnswer i r need after body).Sound :=
  hs.ite (hs.spdmReply.ite (hs.spdmReply.ite hs.spdmReply))

/-! ### Dispatch -/

/-- Every instruction and every event keeps it. -/
theorem State.Sound.exec {s : State} (hs : s.Sound) {i : Instr} : Out.Sound (exec i s) := by
  match i with
  | .setm _ => exact hs.issue fun _ h1 => h1.setMode
  | .setmk _ _ => exact hs.issue fun _ h1 => h1.setMode
  | .bra _ => exact hs.issue fun _ h1 => h1.branch
  | .brs _ _ _ => exact hs.issue fun _ h1 => h1.branch
  | .brp _ _ => exact hs.issue fun _ h1 => h1.brp
  | .brv _ _ _ => exact hs.issue fun _ h1 => h1.branch
  | .mark _ => exact hs.issue fun _ h1 => h1.raise.ite h1.upd.done
  | .call _ _ => exact hs.issue fun _ h1 => h1.ws.jump
  | .calli _ _ => exact hs.issue fun _ h1 => h1.ws.fetchAfter.jump
  | .ret _ => exact hs.issue fun _ h1 => h1.fetchAfter.jump
  | .jmpi _ => exact hs.issue fun _ h1 => h1.fetchAfter.jump
  | .loop _ _ => exact hs.issue fun _ h1 => h1.fall.ite h1.ws.branch
  | .trap _ => exact hs.issue fun _ h1 => h1.withLine fun _ h2 => h2.decide _
  | .sadd _ _ _ => exact hs.sBin
  | .ssub _ _ _ => exact hs.sBin
  | .smul _ _ _ => exact hs.sBin
  | .smulh _ _ _ => exact hs.sBin
  | .sdiv _ _ _ => exact hs.sBin
  | .srem _ _ _ => exact hs.sBin
  | .sand _ _ _ => exact hs.sBin
  | .sor _ _ _ => exact hs.sBin
  | .sxor _ _ _ => exact hs.sBin
  | .sshl _ _ _ => exact hs.sBin
  | .sshr _ _ _ => exact hs.sBin
  | .ssar _ _ _ => exact hs.sBin
  | .scmp _ _ _ => exact hs.sBin
  | .smin _ _ _ => exact hs.sBin
  | .smax _ _ _ => exact hs.sBin
  | .saddi _ _ _ => exact hs.sUn
  | .sshli _ _ _ => exact hs.sUn
  | .sshri _ _ _ => exact hs.sUn
  | .smovl _ _ _ => exact hs.issue fun _ h1 => h1.ws.done
  | .smov _ _ => exact hs.sUn
  | .sxlate _ _ => exact hs.execSxlate
  | .srd _ _ => exact hs.issue fun _ h1 => h1.ws.done
  | .swr _ _ => exact hs.issue fun _ h1 => h1.setMode.ite h1.upd.done
  | .phase _ => exact hs.execPhase
  | .launch _ _ => exact hs.issue fun _ h1 => h1.begin_ h1.startLaunch
  | .cwait _ _ => exact hs.issue fun _ h1 => h1.ws.done.ite (h1.hold.ite h1.acquired.ws.done)
  | .sneg _ _ => exact hs.sUn
  | .snot _ _ => exact hs.sUn
  | .sabs _ _ => exact hs.sUn
  | .sclz _ _ => exact hs.sUn
  | .sctz _ _ => exact hs.sUn
  | .spopc _ _ => exact hs.sUn
  | .sbrev _ _ => exact hs.sUn
  | .sext32 _ _ => exact hs.sUn
  | .saddr _ _ _ => exact hs.sBin
  | .sgetv _ _ _ => exact hs.issue fun _ h1 => h1.ws.done
  | .vadd _ _ _ => exact hs.vInt2
  | .vsub _ _ _ => exact hs.vInt2
  | .vmul _ _ _ => exact hs.vInt2
  | .vmulh _ _ _ => exact hs.vInt2
  | .vmad _ _ _ => exact hs.issue fun _ h1 => h1.wc.done
  | .vdiv _ _ _ => exact hs.vInt2
  | .vrem _ _ _ => exact hs.vInt2
  | .vmin _ _ _ => exact hs.vInt2
  | .vmax _ _ _ => exact hs.vInt2
  | .vabsd _ _ _ => exact hs.vInt2
  | .vand _ _ _ => exact hs.vRaw2
  | .vor _ _ _ => exact hs.vRaw2
  | .vxor _ _ _ => exact hs.vRaw2
  | .vandn _ _ _ => exact hs.vRaw2
  | .vshl _ _ _ => exact hs.vInt2
  | .vshr _ _ _ => exact hs.vInt2
  | .vsar _ _ _ => exact hs.vInt2
  | .vrotl _ _ _ => exact hs.vInt2
  | .vaddi _ _ _ => exact hs.vInt1
  | .vshli _ _ _ => exact hs.vInt1
  | .vshri _ _ _ => exact hs.vInt1
  | .vsari _ _ _ => exact hs.vInt1
  | .vneg _ _ => exact hs.vInt1
  | .vnot _ _ => exact hs.vRaw1
  | .vabs _ _ => exact hs.vInt1
  | .vclz _ _ => exact hs.vInt1
  | .vctz _ _ => exact hs.vInt1
  | .vcnt _ _ => exact hs.vInt1
  | .vbrev _ _ => exact hs.vInt1
  | .vsgn _ _ => exact hs.vInt1
  | .vcmpeq _ _ _ => exact hs.vCmp
  | .vcmpne _ _ _ => exact hs.vCmp
  | .vcmplt _ _ _ => exact hs.vCmp
  | .vcmple _ _ _ => exact hs.vCmp
  | .vmov _ _ => exact hs.vRaw1
  | .vmovs _ _ => exact hs.issue fun _ h1 => h1.wv.done
  | .vmovl _ _ _ => exact hs.execVmovl
  | .pand _ _ _ => exact hs.pOp
  | .por _ _ _ => exact hs.pOp
  | .pxor _ _ _ => exact hs.pOp
  | .pnot _ _ => exact hs.pOp
  | .vbfe _ _ _ => exact hs.vRaw1
  | .vbfi _ _ _ => exact hs.vRaw2
  | .vdot4 _ _ _ => exact hs.issue fun _ h1 => h1.wv.done
  | .vfadd _ _ _ => exact hs.vFlt
  | .vfsub _ _ _ => exact hs.vFlt
  | .vfmul _ _ _ => exact hs.vFlt
  | .vfma _ _ _ => exact hs.vFlt
  | .vfms _ _ _ => exact hs.vFlt
  | .vfnma _ _ _ => exact hs.vFlt
  | .vfdiv _ _ _ => exact hs.vFlt
  | .vfsqrt _ _ => exact hs.vFlt
  | .vfmin _ _ _ => exact hs.vFlt
  | .vfmax _ _ _ => exact hs.vFlt
  | .vfabs _ _ => exact hs.vFlt
  | .vfneg _ _ => exact hs.vFlt
  | .vfrcp _ _ => exact hs.vFlt
  | .vfrsq _ _ => exact hs.vFlt
  | .vfexp2 _ _ => exact hs.vFlt
  | .vflog2 _ _ => exact hs.vFlt
  | .vfsin _ _ => exact hs.vFlt
  | .vfcos _ _ => exact hs.vFlt
  | .vfcmpeq _ _ _ => exact hs.vfCmp
  | .vfcmpne _ _ _ => exact hs.vfCmp
  | .vfcmplt _ _ _ => exact hs.vfCmp
  | .vfcmple _ _ _ => exact hs.vfCmp
  | .vfcmpun _ _ _ => exact hs.vfCmp
  | .vfclass _ _ => exact hs.issue fun _ h1 => h1.wc.done
  | .vfmull _ _ _ => exact hs.vfLit
  | .vfaddl _ _ _ => exact hs.vfLit
  | .vffmal _ _ _ _ => exact hs.vfLit
  | .vfldexp _ _ _ => exact hs.issue fun _ h1 => h1.srStep.finishF
  | .vfrint _ _ _ => exact hs.issue fun _ h1 => h1.srStep.finishF
  | .vfcopys _ _ _ => exact hs.issue fun _ h1 => h1.finishF
  | .vfdot2 _ _ _ => exact hs.issue fun _ h1 => h1.srStep.finishF
  | .cvt _ _ _ => exact hs.issue fun _ h1 => h1.srStep.finishF
  | .cvtmx _ _ _ => exact hs.issue fun _ h1 => h1.srStep.raiseLanes.ite h1.srStep.wv.wv.done
  | .cvtxm _ _ _ => exact hs.issue fun _ h1 => h1.srStep.finishF
  | .cbdec _ _ _ => exact hs.issue fun _ h1 => h1.srStep.finishF
  | .vpack _ _ _ => exact hs.issue fun _ h1 => h1.wv.done
  | .vunpk _ _ _ => exact hs.issue fun _ h1 => h1.wv.done
  | .shfl _ _ _ => exact hs.issue fun _ h1 => h1.wv.done
  | .shflx _ _ _ => exact hs.issue fun _ h1 => h1.wv.done
  | .permb _ _ _ => exact hs.issue fun _ h1 => h1.wv.done
  | .scan _ _ _ => exact hs.issue fun _ h1 => h1.srStep.finishF
  | .redv _ _ _ => exact hs.issue fun _ h1 => h1.done.ite (h1.srStep.raiseLanes.ite h1.srStep.ws.done)
  | .ballot _ _ _ => exact hs.issue fun _ h1 => h1.done.ite h1.ws.done
  | .popc _ _ => exact hs.issue fun _ h1 => h1.done.ite h1.ws.done
  | .lmv4 _ _ _ => exact hs.lmv
  | .lmv8 _ _ _ => exact hs.lmv
  | .vfirst _ _ => exact hs.issue fun _ h1 => h1.done.ite h1.ws.done
  | .vld _ _ _ => exact hs.vload
  | .vst _ _ _ => exact hs.vstore
  | .vldn _ _ _ _ => exact hs.vload
  | .vlda _ _ _ _ => exact hs.vload
  | .vstr _ _ _ _ => exact hs.vstore
  | .sld _ _ _ => exact hs.issue fun _ h1 => h1.scalarAccess
  | .sst _ _ _ => exact hs.issue fun _ h1 => h1.scalarAccess
  | .vlds _ _ => exact hs.scratchForm
  | .vsts _ _ => exact hs.scratchForm
  | .vldsr _ _ _ => exact hs.scratchForm
  | .vstsr _ _ _ => exact hs.scratchForm
  | .vldc _ _ => exact hs.issue fun _ h1 => h1.raiseLanes.ite h1.wc.attach.done
  | .sldc _ _ => exact hs.issue fun _ h1 => (h1.decide _).ite h1.ws.attach.done
  | .fence _ =>
    exact hs.issue fun _ h1 => h1.hold.ite (h1.hold.ite ((h1.winDrop.ite h1).acquired.ite (h1.winDrop.ite h1)).done)
  | .seal _ _ _ =>
    exact hs.issue fun _ h1 =>
      h1.raise.ite (h1.hold.ite (h1.settle.unless (·.upd.foldl (fun _ _ h2 => h2.writeBack) _)).ws.attach.done)
  | .unseal _ _ _ => exact hs.execUnseal
  | .repl _ _ _ => exact hs.execRepl
  | .vatom _ _ _ _ => exact hs.atomForm
  | .vred _ _ _ _ => exact hs.atomForm
  | .vcas _ _ _ _ => exact hs.atomForm
  | .vatoms _ _ _ => exact hs.scratchAtom
  | .vreds _ _ _ => exact hs.scratchAtom
  | .satom _ _ _ _ => exact hs.issue fun _ h1 => h1.hold.ite h1.access
  | .vpref _ _ => exact hs.execVpref
  | .arrk _ => exact hs.arriveForm
  | .waitk _ => exact hs.waitForm
  | .synck _ => exact hs.syncForm
  | .arrq _ => exact hs.arriveForm
  | .waitq _ => exact hs.waitForm
  | .syncq _ => exact hs.syncForm
  | .arrg _ => exact hs.arriveForm
  | .waitg _ => exact hs.waitForm
  | .syncg _ => exact hs.syncForm
  | .twait _ _ _ => exact hs.execTwait
  | .evwait _ => exact hs.execEvwait
  | .evpop _ => exact hs.execEvpop
  | .cpy _ _ _ _ => exact hs.issue fun _ h1 => h1.begin_ h1.startCpy
  | .cpyt _ _ _ _ => exact hs.issue fun _ h1 => h1.begin_ h1.startCpyt
  | .merge _ _ _ _ => exact hs.issue fun _ h1 => h1.begin_ h1.startMerge
  | .cmpct _ _ => exact hs.issue fun _ h1 => h1.attach.done.ite (h1.raise.ite (h1.setList.attach.done.ite h1.setList.hold))
  | .wltake _ _ =>
    exact hs.issue fun _ h1 =>
      h1.done.ite (h1.raise.ite (h1.acquired.setList.writeItems.done.ite (h1.writeItems.done.ite h1.hold)))
  | .mrsv _ _ =>
    exact hs.issue fun _ h1 =>
      h1.illegal.ite (h1.setPred.done.ite (h1.setPred.done.ite (h1.setPred.done.ite h1.modQuad.setPred.done)))
  | .mcrew _ => exact hs.issue fun _ h1 => h1.illegal.ite (h1.hold.ite h1.upd.done)
  | .mmj _ _ _ _ => exact hs.matrixForm
  | .mms _ _ _ _ => exact hs.matrixForm
  | .mmg _ _ _ _ => exact hs.matrixForm
  | .mmd _ _ _ _ => exact hs.matrixForm
  | .mzero _ => exact hs.issue fun _ h1 => h1.raiseAll.ite h1.tileIssue
  | .mld _ _ => exact hs.execMld
  | .mdrn _ _ _ => exact hs.issue fun _ h1 => h1.raiseAll.ite h1.tileDrain
  | .mdrs _ _ _ => exact hs.issue fun _ h1 => h1.raiseAll.ite h1.tileDrain.modT
  | .mdrm _ _ _ => exact hs.execMdrm
  | .mdrf _ _ _ => exact hs.issue fun _ h1 => h1.raiseAll.ite h1.tileDrain
  | .mbrd _ _ _ => exact hs.issue fun _ h1 => h1.illegal.ite h1.tileIssue
  | .mbwr _ _ => exact hs.issue fun _ h1 => h1.illegal.ite h1.tileIssue
  | .mcvt _ _ _ => exact hs.issue fun _ h1 => h1.raiseAll.ite h1.tileDrain
  | .reservedOpcode _ => exact hs.execReservedOpcode
  | .instructionFetch _ => exact hs.execInstructionFetch
  | .instructionComplete _ _ => exact hs.execInstructionComplete
  | .trapEntry _ => exact hs.execTrapEntry
  | .phaseOverrun _ => exact hs.execPhaseOverrun
  | .twaitTimeout _ => exact hs.execTwaitTimeout
  | .workListQuiet _ => exact hs.execWorkListQuiet
  | .engineOperationComplete _ => exact hs.execEngineOperationComplete
  | .matrixReservationAdmit _ => exact hs.modQuad.ite hs
  | .matrixLatchFire _ _ => exact hs.execMatrixLatchFire
  | .matrixPass _ _ => exact hs.execMatrixPass
  | .matrixOperationComplete _ _ => exact hs.execMatrixOperationComplete
  | .cupboardFill _ _ => exact hs.execCupboardFill
  | .blockPlacement _ => exact hs.execBlockPlacement
  | .gangPlacement _ => exact hs.execGangPlacement
  | .effectiveClassAgeing _ => exact hs.modGrid
  | .gangPressing _ => exact hs.press
  | .gridCompletion _ => exact hs.execGridCompletion
  | .childWaitEviction _ => exact hs.execChildWaitEviction
  | .unitRestore _ => exact hs.execUnitRestore
  | .contextEnd _ => exact hs.execContextEnd
  | .peerPortUp _ => exact hs.modPctl.ite hs
  | .reductionRowArrival _ _ _ _ _ => exact hs.dropRow.ite (hs.ite hs.rowArrive)
  | .getVersion _ => exact hs.spdmAnswer
  | .getCapabilities _ => exact hs.spdmAnswer
  | .negotiateAlgorithms _ => exact hs.spdmAnswer
  | .getDigests _ => exact hs.spdmAnswer
  | .getCertificate _ => exact hs.spdmAnswer
  | .challenge _ => exact hs.spdmAnswer
  | .getMeasurements _ => exact hs.spdmAnswer
  | .spdmUnsupportedRequest _ => exact hs.ite hs.spdmReply
  | .pldmSensorRead _ => exact hs.ite (hs.sbReply.ite hs.sbReply)
  | .pldmSetPowerCap _ => exact hs.upd.sbReply.ite hs
  | .pldmDeviceReset _ => exact hs.ite (hs.deviceReset.sbReply.ite hs.sbReply)
  | .pldmFirmwareStage _ _ => exact hs.ite (hs.sbReply.ite hs.upd.sbReply)
  | .pwrokRise _ => exact hs.ite hs.powerDown.deviceReset.upd
  | .deviceReset _ => exact hs.deviceReset.ite hs
  | .bridgeTimeout _ => exact hs.ite (hs.fenceTower.dropTower.foldl (fun _ _ h1 => h1.endCtx) _).sbEvent
  | .vpCorrectedError _ _ => exact hs.ite (hs.modCore.maybe (·.removeBundle))
  | .vpUncorrectableError _ _ _ => exact hs.execVpUncorrectableError
  | .softErrorCorrected _ _ => exact hs.ite hs.countSoft
  | .softErrorUncorrectable _ _ _ => exact hs.execSoftErrorUncorrectable
  | .engineOperationStopped _ => exact hs.execEngineOperationStopped
  | .endpointIdAssignment _ => exact hs.upd.ite hs
  | .nop => exact hs.issue fun _ h1 => h1.done
  | .join => exact hs.execJoin
  | .exit => exact hs.issue fun _ h1 => h1.exitTeam.ite h1.hold
  | .eret => exact hs.issue fun _ h1 => h1.returnFromTrap
  | .mrel => exact hs.issue fun _ h1 => h1.modQuad.done
  | .replicationEpoch => exact hs.ite hs.epochEnd
  | .launchMsg => exact hs.takeMsg fun _ _ h1 => h1.takeLaunch
  | .mwr => exact hs.takeMsg fun _ _ h1 => h1.takeMwr
  | .mrd => exact hs.takeMsg fun _ _ h1 => h1.takeMrd
  | .hostWrack => exact hs.takeMsg fun _ _ h1 => h1.takeWrack
  | .hostMrdresp => exact hs.takeMsg fun _ _ h1 => h1.takeMrdresp
  | .matomresp => exact hs.takeMsg fun _ _ h1 => h1.takeMatomresp
  | .featureSelect => exact hs.takeMsg fun _ _ h1 => h1.takeFeature
  | .faultreply => exact hs.takeMsg fun _ _ h1 => h1.takeFaultreply
  | .preemptMakeRoom => exact hs.takeMsg fun _ _ h1 => h1.takePreempt fun _ _ h2 => h2.preemptRoom
  | .preemptSuspend =>
    exact hs.takeMsg fun _ _ h1 => h1.takePreempt fun _ _ h2 =>
      (h2.modSlot _ _).sendSaved.ite (h2.sendSaved.ite (h2.modSlot _ _).stepSaving)
  | .preemptResume => exact hs.takeMsg fun _ _ h1 => h1.takePreempt fun _ _ h2 => (h2.modSlot _ _).sendSaved
  | .ctxctlActivate => exact hs.regWrite fun _ _ _ h1 => h1.ctxctl
  | .ctxctlEnd => exact hs.regWrite fun _ _ _ h1 => sound_some (h1.endCtx.ite h1)
  | .invalidateRange => exact hs.invCmd fun _ _ h1 => h1.invalidate
  | .invalidateAll => exact hs.invCmd fun _ _ h1 => h1.invalidate
  | .invalidateRegion => exact hs.invCmd fun _ _ h1 => h1.invalidate
  | .invalidateCode => exact hs.invCmd fun _ _ h1 => h1.invalidate.dropFetched
  | .reductionStreamWrite => exact hs.regWrite fun _ _ _ h1 => sound_ite sound_none h1.streamWrite
  | .peerPortEnable => exact hs.regWrite fun _ _ _ h1 => sound_some h1.modPctl
  | .peerPortDisable => exact hs.regWrite fun _ _ _ h1 => sound_some (h1.modPctl.foldl (fun _ _ h2 => h2.putStream.ite h2) _)
  | .registerWrite => exact hs.regWrite fun _ _ _ h1 => h1.regPlain
  | .spdmMailboxGo => exact hs.regWrite fun _ _ _ h1 => sound_ite (sound_some h1) (sound_ite sound_none (sound_some h1.upd))
  | .pldmDiscovery => exact hs.sbReply.ite hs
  | .pldmLinkRetrain => exact hs.upd.sbReply.ite hs
  | .pwrokFall => exact hs.powerDown
  | .sbReset => exact hs.ite hs.upd.upd
  | .linkStart => exact hs.ite ((hs.foldl (fun _ _ h1 => h1.bringNext) _).upd.unless (·.send))
  | .throttle => exact hs.upd.sbEvent.ite hs
  | .clockRecovery => exact hs.upd.ite hs
  | .thermalTrip => exact hs.execThermalTrip
  | .leakDecay => exact hs.ite hs.leakFall
  | .unknownType => exact hs.takeMsg fun _ _ h1 => h1

/-! ### Peer -/

theorem State.Sound.peerReply {s : State} (hs : s.Sound) {port tag typ status : Nat} {data : List Byte} :
    (s.peerReply port tag typ status data).Sound :=
  hs.send

theorem sound_peerSector {acc : State × Nat} (hs : acc.1.Sound) {bs : List (Nat × Byte)} {sec : Nat} :
    (peerSector bs acc sec).1.Sound := by
  unfold peerSector
  dsimp only
  split
  · exact hs
  · split
    · exact hs.noteSealed
    · exact (hs.noteWrite.foldl (fun _ _ hu => hu.putBytes _ _) _).clearPoisonBytes

theorem State.Sound.peerWrite {s : State} (hs : s.Sound) {port : Nat} {m : HostMsg} : (s.peerWrite port m).Sound := by
  unfold State.peerWrite
  dsimp only
  split
  · exact hs.peerReply
  · split
    · trivial
    · exact State.Sound.peerReply (State.Sound.foldl_fst hs (fun _ _ hq => sound_peerSector hq) _)

theorem State.Sound.peerRead {s : State} (hs : s.Sound) {port : Nat} {m : HostMsg} : (s.peerRead port m).Sound :=
  Took.Sound.ite hs.peerReply (Took.Sound.ite trivial hs.noteReads.peerReply)

theorem State.Sound.peerAtom {s : State} (hs : s.Sound) {port : Nat} {m : HostMsg} : (s.peerAtom port m).Sound :=
  Took.Sound.ite hs.peerReply (Took.Sound.ite trivial (Took.Sound.ite hs.noteSealed.peerReply hs.noteWrite.putNat.peerReply))

theorem State.Sound.peerTake {s : State} (hs : s.Sound) {port : Nat} {m : HostMsg} : (s.peerTake port m).Sound := by
  unfold State.peerTake
  split
  · exact hs.peerWrite
  · exact hs.peerRead
  · exact hs.peerAtom
  · exact hs.readReply
  · exact hs.writeReply
  · exact sound_getD hs.atomReply hs
  · exact hs

theorem State.Sound.peerMsg {s : State} (hs : s.Sound) {port : Nat} {m : HostMsg} : ∀ u ∈ s.peerMsg port m, u.Sound := by
  unfold State.peerMsg
  refine sound_ite (sound_some hs) ?_
  split
  · exact sound_some hs
  · exact sound_none
  · next e => exact sound_some (hs.peerTake.ok e)

/-! ### Run -/

theorem State.Sound.sweepSeals {s : State} (hs : s.Sound) : s.sweepSeals.Sound := hs.foldl (fun _ _ h1 => h1.dropSeal) _

theorem State.Sound.pass {s : State} (hs : s.Sound) {n : Nat} : (s.pass n).Sound :=
  (hs.upd.upd.coolFor.foldl (fun _ _ h1 => h1.tickQuad) _).ageGrids.dueTimes.sweepSeals.trackHead

theorem State.Sound.tryIssue {s : State} (hs : s.Sound) {t : Team} : ∀ u ∈ s.tryIssue t, u.Sound := by
  have hrun : State.Sound (match (s.select t.tid).front with
      | .stay s1 => s1
      | .go i s1 => match Machine.exec i s1 with
        | .next s2 => s2
        | _ => s1) := by
    split
    · next e => exact hs.select.front.stay e
    · next e =>
      split
      · next e' => exact (hs.select.front.go e).exec.next e'
      · exact hs.select.front.go e
  unfold State.tryIssue
  dsimp only
  split
  · split
    · exact sound_some hrun
    · exact sound_none
  · exact sound_none

theorem State.Sound.refresh {s : State} (hs : s.Sound) : s.refresh.Sound := hs.upd

theorem State.Sound.tick {s : State} (hs : s.Sound) : s.tick.Sound := hs.upd.maybe (·.refresh.pass)

theorem State.Sound.issueTurn {s : State} (hs : s.Sound) {tid : Nat} : (s.issueTurn tid).Sound := by
  unfold State.issueTurn
  split
  · next e => exact hs.select.front.stay e
  · next e => exact hs.select.front.go e

theorem State.Sound.readyTeams {s : State} (hs : s.Sound) {l : List Team} : (s.readyTeams l).1.Sound := by
  unfold State.readyTeams
  refine State.Sound.foldl_fst hs (fun q x hq => ?_) _
  split
  · next e => exact hq.tryIssue _ e
  · exact hq

theorem State.Sound.slotTurn {s : State} (hs : s.Sound) {core n : Nat} : (s.slotTurn core n).Sound := by
  unfold State.slotTurn
  dsimp only
  split
  · exact hs.readyTeams
  · exact hs.readyTeams.issueTurn

theorem State.Sound.takeTurn {s : State} (hs : s.Sound) {turn : Turn} : (s.takeTurn turn).Sound := by
  unfold State.takeTurn
  split
  · exact hs.slotTurn
  · exact hs
  · exact hs.portTurn
  · exact hs.bringNext
  · exact hs.saveTurn
  · exact hs

theorem State.Sound.pickTurn {s : State} (hs : s.Sound) : s.pickTurn.Sound := by
  unfold State.pickTurn
  split
  · exact hs
  · exact hs.takeTurn

theorem State.Sound.pick_ {s : State} (hs : s.Sound) : s.pick_.Sound := by
  unfold State.pick_
  split
  · exact Pick.Sound.ite hs.upd (Pick.Sound.ite hs.pickTurn hs.upd)
  · exact Pick.Sound.ite hs.upd (Pick.Sound.ite hs.pickTurn hs.upd)
  · refine Pick.Sound.ite hs.upd ?_
    split
    · next e => exact hs.upd.peerMsg _ e
    · exact hs.pickTurn
  · exact hs.upd.sbRead
  · exact hs.upd
  · exact hs.upd.sbSelect
  · exact Pick.Sound.ite hs.upd.issueTurn hs.upd
  · exact Pick.Sound.ite hs.pickTurn (Pick.Sound.ite trivial hs)

/-! ### Step -/

/-- One step of the machine keeps it. -/
theorem State.Sound.step {s : State} (hs : s.Sound) : Out.Sound (step s) := by
  unfold Machine.step
  split
  · next e => exact (hs.tick.pick_.run e).exec
  · next e => exact hs.tick.pick_.idle e
  · exact trivial

end Sys2Proof.Machine

open Sys2Proof Sys2Proof.Machine

/-- Settles O5: every act, event and instruction is made of writes to local memory and to the context slots that keep
both, and of updates of other parts. -/
theorem stepKeepsSound : Obligations.StepKeepsSound := by
  unfold Obligations.StepKeepsSound
  intro s u hs e
  exact hs.step.next e

end

section
/-! ## Writes of register space, activation and end of a context, and the mailbox

Every row of register space goes through `regWrite`, whose two outcomes are said first. Each row's effect at an offset is
said next, and last what activation leaves in memory: with no store waiting for its source (`settled`) and no tower lost,
a write by the host moves the caches alone, so the bitmap's bytes are those that `writeRun` puts down. -/

namespace Sys2Proof.Machine
open Sys2Proof Sys2Proof.Claims

/-! ### Taking a write of register space (R376, R380) -/

/-- A message that arrives is counted, and its row has its effect (R374, R375). -/
theorem takeMsg_ok {s u : State} {i : Instr} {body : HostMsg → State → Took} (h : Arrives s i) (hi : i ≠ .unknownType)
    (e : body s.link.rx (heard s) = .ok u) : takeMsg i body s = fresh u := by
  unfold takeMsg
  rw [if_neg (by simp [h.up, h.row]), if_neg (by simp [h.seq]), if_neg (by simp [hi]), if_neg (by simp [h.form]),
    if_neg (by simp [h.locked])]
  change (match body s.link.rx (heard s) with | .err _ => _ | .hold => _ | .ok _ => _) = _
  rw [e]
  rfl

/-- A write of register space that arrives has its row's effect at its offset and value. -/
theorem regWrite_eq {s u : State} {i : Instr} {off v : Nat} (h : Writes s i off v) (hi : i ≠ .unknownType)
    {f : Nat → Nat → State → Option State} (e : (heard s).regDone (f off v (heard s)) = .ok u) :
    regWrite i f s = fresh u := by
  have hoff : regOff s.link.rx = off := by unfold regOff; rw [h.addr]; have := h.low; omega
  have hval : regVal s.link.rx = v := h.data
  have hzero : bits (s.link.rx.field 0 8) 62 44 = 0 := by unfold bits; rw [h.addr]; have := h.low; omega
  refine takeMsg_ok h.arrives hi ?_
  rw [hzero, hoff, hval]
  exact e

theorem regWrite_accepted {s u : State} {i : Instr} {off v : Nat} (h : Writes s i off v) (hi : i ≠ .unknownType)
    {f : Nat → Nat → State → Option State} (e : f off v (heard s) = some u) :
    regWrite i f s = answers (fresh u) 0x0B 0 (statusBytes 0) :=
  regWrite_eq h hi (congrArg (heard s).regDone e)

theorem regWrite_refused {s : State} {i : Instr} {off v : Nat} (h : Writes s i off v) (hi : i ≠ .unknownType)
    {f : Nat → Nat → State → Option State} (e : f off v (heard s) = none) :
    regWrite i f s = answers (taken s) 0x0B 0 (statusBytes 2) :=
  regWrite_eq h hi (congrArg (heard s).regDone e)

theorem val_lt_of_writes {s : State} {i : Instr} {off v : Nat} (h : Writes s i off v) : v < 2 ^ 64 := by
  rw [← h.data]
  refine Nat.lt_of_lt_of_le (leNat_lt _) (Nat.pow_le_pow_right (by decide) ?_)
  have := List.length_take_le 8 (s.link.rx.payload.drop 8)
  omega

/-! ### Registers by offset (R5, R396, R430) -/

theorem regPlain_capw (s : State) (v : Nat) :
    s.regPlain 0x518400 v = some { s with regs := { s.regs with capw := capOf v } } := rfl

theorem regPlain_age0 (s : State) (v : Nat) :
    s.regPlain 0 v = some { s with regs := { s.regs with age0 := v % 2 ^ 32, ageAt := s.fab } } := rfl

/-- TOWERLOST is read-only. -/
theorem regPlain_towerlost (s : State) (v : Nat) : s.regPlain 0x510100 v = some s := rfl

theorem regPlain_misaligned (s : State) {off : Nat} (v : Nat) (h : off % 8 ≠ 0) : s.regPlain off v = none := if_pos h

theorem slotNo_eq (n : Nat) : slotNo (0x500000 + 256 * n) = n := by
  unfold slotNo; omega

/-- Register k of slot n, other than CTXCTL, is refused to an active slot (log 54). -/
theorem regPlain_slot (s : State) {n k : Nat} (v : Nat) (hn : n < 16) (hk : k < 16) :
    s.regPlain (0x500000 + 256 * n + 8 * k) v =
      if (s.slot n).act then none else some (s.modSlot n fun c => c.setReg (8 * k) (BitVec.ofNat 64 v)) := by
  have hslot : slotNo (0x500000 + 256 * n + 8 * k) = n := by unfold slotNo; omega
  have hreg : (0x500000 + 256 * n + 8 * k) % 0x100 = 8 * k := by omega
  unfold State.regPlain
  simp only [hslot, hreg]
  rw [if_neg (by omega), if_neg (by omega), if_neg (by omega), if_neg (by omega), if_neg (by omega), if_neg (by omega),
    if_neg (by omega), if_pos (by omega)]

/-- A slot's register takes what is written to it, where one stands at that number; the others stay. -/
theorem CtxSlot.reg_setReg (c : CtxSlot) (x : DWord) {k j : Nat} (h0 : 0 < k) (hk : k < 16) (hj : j < 16) :
    (c.setReg (8 * k) x).reg (8 * j) = if j = k ∧ k < 14 then x.toNat else c.reg (8 * j) := by
  interval_cases k <;> interval_cases j <;> rfl

/-! ### What a write to memory leaves when no store waits for its source (R84, R170) -/

/-- An update of the teams that satisfy p does nothing where none does. -/
theorem modTeams_eq_self {s : State} {p : Team → Bool} {f : Team → Team} (h : ∀ t ∈ s.t :: s.others, p t = false) :
    s.modTeams p f = s := by
  have hothers : s.others.map (fun t => if p t then f t else t) = s.others :=
    (List.map_congr_left fun t ht => by simp [h t (List.mem_cons_of_mem _ ht)]).trans (List.map_id _)
  unfold State.modTeams
  rw [hothers, h s.t List.mem_cons_self]
  rfl

theorem settle_eq_self {s : State} (h : settled s) (p : LateSrc → Bool) : s.settle p = s := by
  refine modTeams_eq_self fun t ht => List.any_eq_false.2 fun f hf => ?_
  simp [h t ht f hf]

/-- A write by the host then touches the caches alone. -/
theorem exists_noteWrite {s : State} (h : settled s) (line : Nat) : ∃ c, s.noteWrite .host line = { s with caches := c } := by
  have hsettle : s.settleLine line = s := settle_eq_self h _
  unfold State.noteWrite
  simp only [hsettle]
  exact ⟨_, rfl⟩

theorem exists_noteWrites {s : State} (h : settled s) (lines : List Nat) :
    ∃ c, s.noteWrites .host lines = { s with caches := c } := by
  unfold State.noteWrites
  generalize lines.dedup = l
  induction l generalizing s with
  | nil => exact ⟨_, rfl⟩
  | cons x r ih =>
    obtain ⟨c, hc⟩ := exists_noteWrite h x
    obtain ⟨d, hd⟩ := ih (s := { s with caches := c }) h
    exact ⟨d, by rw [List.foldl_cons, hc, hd]⟩

/-! ### Bytes of local memory -/

/-- In canonical form, entries taken out by key read as z, and the others as before. -/
theorem sget_filter_key {α : Type} [DecidableEq α] (z : α) (p : Nat → Bool) {lo : Nat} {m : SMap α} (h : swf z lo m = true)
    (k : Nat) : sget z k (m.filter fun e => p e.1) = if p k then sget z k m else z := by
  induction m generalizing lo with
  | nil => simp [sget]
  | cons e r ih =>
    obtain ⟨j, x⟩ := e
    simp only [swf, Bool.and_eq_true, decide_eq_true_eq] at h
    have hr := ih h.2
    have hlow : k ≤ j → sget z k r = z := fun hk =>
      sdrop_of_swf z (swf_mono z h.2 (Nat.succ_le_succ hk)) ▸ sget_sdrop_self z k r
    rw [List.filter_cons]
    by_cases hp : p j
    · simp only [hp, if_true, sget, hr]
      split
      · next e => rw [e, hp, if_pos rfl]
      · split <;> simp
    · simp only [hp, if_false, sget, hr, Bool.false_eq_true]
      split
      · next hk =>
        have hkj : k ≠ j := fun e => hp (e ▸ hk)
        rw [if_neg hkj]
        split
        · next hlt => exact hlow (Nat.le_of_lt hlt)
        · rfl
      · rfl

theorem byte_zeroBytes {s : State} (h : s.MemOk) (a n x : Nat) :
    (s.zeroBytes a n).byte x = if a ≤ x ∧ x < a + n then 0 else s.byte x := by
  have hget := sget_filter_key 0 (fun k => !(Decidable.decide (a ≤ k) && Decidable.decide (k < a + n))) h x
  unfold State.zeroBytes State.byte sclear
  rw [hget]
  by_cases hx : a ≤ x ∧ x < a + n <;> simp [hx]

theorem byte_putBytes_one (s : State) (a x : Nat) (b : Byte) :
    (s.putBytes a [b]).byte x = if x = a then b else s.byte x := by
  split
  · next e => rw [e]; exact List.singleton_injective (bytes_putBytes s a [b])
  · exact byte_putBytes_out s [b] (by simp; omega)

/-! ### The bits of a number put together from them -/

theorem ofBits_succ (w : Nat) (f : Nat → Bool) :
    ofBits (w + 1) f = if f w then ofBits w f + 2 ^ w else ofBits w f := by
  simp [ofBits, List.range_succ]

theorem ofBits_lt (w : Nat) (f : Nat → Bool) : ofBits w f < 2 ^ w := by
  induction w with
  | zero => exact Nat.one_pos
  | succ w ih => rw [ofBits_succ]; split <;> omega

theorem testBit_ofBits {w b : Nat} (f : Nat → Bool) (h : b < w) : (ofBits w f).testBit b = f b := by
  induction w with
  | zero => omega
  | succ w ih =>
    have hlt := ofBits_lt w f
    rw [ofBits_succ, Nat.add_comm]
    rcases Nat.lt_succ_iff_lt_or_eq.1 h with hb | rfl
    · split
      · rw [Nat.testBit_two_pow_add_gt hb, ih hb]
      · exact ih hb
    · have htop := Nat.testBit_lt_two_pow hlt
      split
      · next hf => rw [Nat.testBit_two_pow_add_eq, htop, hf]; rfl
      · next hf => simpa [htop] using hf

/-! ### The bitmap of a save area without records (R414) -/

/-- Byte k of the bitmap of a slot's save area. -/
def CtxSlot.mapByte (c : CtxSlot) (k : Nat) : Byte := BitVec.ofNat 8 (ofBits 8 fun j => c.unitUsed (8 * k + j))

theorem CtxSlot.getLsbD_mapByte (c : CtxSlot) (k : Nat) {b : Nat} (h : b < 8) :
    (c.mapByte k).getLsbD b = c.unitUsed (8 * k + b) := by
  unfold CtxSlot.mapByte
  rw [BitVec.getLsbD_ofNat, testBit_ofBits _ h]
  simp [h]

/-- The host writes byte g i at base + i, for each i below n. -/
def State.writeRun (s : State) (base n : Nat) (g : Nat → Byte) : State :=
  (List.range n).foldl (fun s i => (s.noteWrite .host (lineOf (base + i))).putBytes (base + i) [g i]) s

theorem writeRun_succ (s : State) (base n : Nat) (g : Nat → Byte) :
    s.writeRun base (n + 1) g =
      ((s.writeRun base n g).noteWrite .host (lineOf (base + n))).putBytes (base + n) [g n] := by
  simp only [State.writeRun, List.range_succ, List.foldl_append, List.foldl_cons, List.foldl_nil]

theorem exists_writeRun {s : State} (h : settled s) (base n : Nat) (g : Nat → Byte) :
    ∃ c m, s.writeRun base n g = { s with caches := c, mem := m } := by
  induction n with
  | zero => exact ⟨_, _, rfl⟩
  | succ n ih =>
    obtain ⟨c, m, e⟩ := ih
    obtain ⟨d, hd⟩ := exists_noteWrite (s := { s with caches := c, mem := m }) h (lineOf (base + n))
    exact ⟨d, sputRun 0 (base + n) [g n] m, by rw [writeRun_succ, e, hd]; rfl⟩

theorem byte_writeRun {s : State} (h : settled s) (base n : Nat) (g : Nat → Byte) (x : Nat) :
    (s.writeRun base n g).byte x = if base ≤ x ∧ x < base + n then g (x - base) else s.byte x := by
  induction n with
  | zero => rw [if_neg (by omega)]; rfl
  | succ n ih =>
    obtain ⟨c, m, e⟩ := exists_writeRun h base n g
    obtain ⟨d, hd⟩ := exists_noteWrite (s := s.writeRun base n g) (by rw [e]; exact h) (lineOf (base + n))
    have hnote : ((s.writeRun base n g).noteWrite .host (lineOf (base + n))).byte x = (s.writeRun base n g).byte x := by
      rw [hd]; rfl
    rw [writeRun_succ, byte_putBytes_one, hnote, ih]
    rcases Nat.lt_trichotomy x (base + n) with hx | rfl | hx
    · rw [if_neg (by omega)]
      exact if_congr (by omega) rfl rfl
    · rw [if_pos rfl, if_pos (by omega), Nat.add_sub_cancel_left]
    · rw [if_neg (by omega), if_neg (by omega), if_neg (by omega)]

/-- With every tower in place the bitmap is written from its first byte on. -/
theorem writeMap_eq_writeRun {s : State} (ht : s.regs.towerlost = 0) (slot n : Nat) :
    s.writeMap slot 0 n = s.writeRun (s.slot slot).savebase.toNat ((n + 7) / 8) (s.slot slot).mapByte := by
  unfold State.writeMap
  rw [if_neg (by simp [State.spanLost, ht])]
  simp only [Nat.zero_div, Nat.zero_add, Nat.sub_zero]
  rfl

/-- The area of the bitmap cleared, as it is before the bits are written. -/
def State.mapZeroed (s : State) (base n : Nat) : State :=
  ((s.noteWrites .host (linesOf base n)).zeroBytes base n).clearPoison base n

theorem exists_mapZeroed {s : State} (h : settled s) (base n : Nat) :
    ∃ c, s.mapZeroed base n = { s with
      caches := c, mem := (s.zeroBytes base n).mem, poison := (s.clearPoison base n).poison } := by
  obtain ⟨c, hc⟩ := exists_noteWrites h (linesOf base n)
  exact ⟨c, by unfold State.mapZeroed; rw [hc]; rfl⟩

/-- Clearing the map changes the caches, the bytes of the map's own units and the poison of their sectors. -/
theorem exists_clearMap {s : State} (h : settled s) (hm : s.MemOk) (ht : s.regs.towerlost = 0) (n : Nat) :
    let base := (s.slot n).savebase.toNat
    let units := (s.slot n).mapUnits
    ∃ c m p, s.clearMap n = { s with caches := c, mem := m, poison := p } ∧ (∀ q ∈ p, q ∈ s.poison) ∧
      ∀ x, (s.clearMap n).byte x =
        if base ≤ x ∧ x < base + (units + 7) / 8 then (s.slot n).mapByte (x - base)
        else if base ≤ x ∧ x < base + 4096 * units then 0 else s.byte x := by
  intro base units
  obtain ⟨c, hc⟩ := exists_mapZeroed h base (4096 * units)
  have hclear : s.clearMap n = (s.mapZeroed base (4096 * units)).writeRun base ((units + 7) / 8) (s.slot n).mapByte := by
    change (s.mapZeroed base (4096 * units)).writeMap n 0 units = _
    rw [hc]
    exact writeMap_eq_writeRun (by exact ht) n units
  have hset : settled (s.mapZeroed base (4096 * units)) := by rw [hc]; exact h
  obtain ⟨d, m, hd⟩ := exists_writeRun hset base ((units + 7) / 8) (s.slot n).mapByte
  refine ⟨d, m, (s.clearPoison base (4096 * units)).poison, by rw [hclear, hd, hc], fun q hq => List.mem_of_mem_filter hq,
    fun x => ?_⟩
  have hzero : (s.mapZeroed base (4096 * units)).byte x = (s.zeroBytes base (4096 * units)).byte x := by rw [hc]; rfl
  rw [hclear, byte_writeRun hset, hzero, byte_zeroBytes hm]

/-! ### Activation and end of a context (R397, R407, R408) -/

/-- Activation leaves the registers of the slot but CTXCTL. -/
theorem CtxSlot.reg_activated (c : CtxSlot) (id : Nat) {j : Nat} (h : 0 < j) :
    (c.activated id).reg (8 * j) = c.reg (8 * j) := by
  unfold CtxSlot.reg
  rw [Nat.mul_div_cancel_left j (by decide)]
  split
  · omega
  all_goals rfl

/-- A bit of the map of an active context without records: its own units are in use. -/
theorem CtxSlot.unitUsed_activated (c : CtxSlot) (id n : Nat) :
    (c.activated id).unitUsed n = Decidable.decide (n < c.mapUnits) :=
  Bool.or_false _

/-- A context id that no active slot holds belongs to the slot that is activated with it. -/
theorem slotOf_eq_of_free {s u : State} {id n : Nat} (hn : n < 16) (hfree : s.slotOf id = none)
    (hact : (u.slot n).act = true) (hid : (u.slot n).ctxid = id) (hne : ∀ j, j ≠ n → u.slot j = s.slot j) :
    u.slotOf id = some n := by
  unfold State.slotOf at hfree ⊢
  rw [List.find?_range_eq_some]
  refine ⟨by simp [hact, hid], List.mem_range.2 hn, fun j hj => ?_⟩
  have hnone := List.find?_eq_none.1 hfree j (List.mem_range.2 (by omega))
  rw [hne j (by omega)]
  simpa only [Bool.not_eq_true', Bool.not_eq_true] using hnone

theorem act_of_slotOf {s : State} {id n : Nat} (h : s.slotOf id = some n) : (s.slot n).act = true ∧ n < 16 := by
  have hp := List.find?_some h
  have hmem := List.mem_of_find?_eq_some h
  rw [Bool.and_eq_true] at hp
  exact ⟨hp.1, List.mem_range.1 hmem⟩

/-- An event that ends the context of slot n gives it the status of R408. -/
theorem endCtx_of_slotOf {s : State} {id n st : Nat} (hs : s.Sound) (h : s.slotOf id = some n) :
    ((s.endCtx id st).slot n).ending = some (endsWith s n st) ∧ ∀ j, j ≠ n → (s.endCtx id st).slot j = s.slot j := by
  have hn : n < s.ctxs.length := hs.slots ▸ (act_of_slotOf h).2
  unfold State.endCtx State.modCtx
  rw [h]
  refine ⟨?_, fun j hj => slot_modSlot_ne s _ hj⟩
  simp only [slot_modSlot_self s _ hn]
  unfold endsWith
  cases he : (s.slot n).ending with
  | none => rfl
  | some old =>
    dsimp only
    by_cases hat : (s.slot n).endAt = s.fab
    · by_cases hlt : st < old
      · simp [hat, hlt, Nat.le_of_lt hlt]
      · simp [hat, hlt, he]; omega
    · simp [hat, he]

/-- What u is of s once context id is active in slot n: the slot activated, the bits of the map's own units set in its save
area, and the rest of the map zero. -/
structure Activates (s u : State) (n id : Nat) : Prop where
  frame : u = { s with ctxs := u.ctxs, mem := u.mem, caches := u.caches, poison := u.poison }
  poison : ∀ q ∈ u.poison, q ∈ s.poison
  slot : u.slot n = (s.slot n).activated id
  others : ∀ j, j ≠ n → u.slot j = s.slot j
  byte : ∀ x, u.byte x =
    if (s.slot n).savebase.toNat ≤ x ∧ x < (s.slot n).savebase.toNat + ((s.slot n).mapUnits + 7) / 8 then
      ((s.slot n).activated id).mapByte (x - (s.slot n).savebase.toNat)
    else if (s.slot n).savebase.toNat ≤ x ∧ x < (s.slot n).savebase.toNat + 4096 * (s.slot n).mapUnits then 0 else s.byte x

theorem ctxctl_activates {s : State} {n v : Nat} (hs : s.Sound) (hset : settled s) (hn : n < 16)
    (hact : (s.slot n).act = false) (hv : v % 2 = 1) (hfree : s.slotOf (v / 256 % 256) = none)
    (hregs : (s.slot n).regsOk = true) (ht : s.regs.towerlost = 0) :
    ∃ u, s.ctxctl n v = some u ∧ Activates s u n (v / 256 % 256) := by
  have hlen : n < s.ctxs.length := hs.slots ▸ hn
  have hid : bits v 15 8 = v / 256 % 256 := rfl
  generalize hw : (s.modSlot n fun c => c.activated (v / 256 % 256)) = w
  have hslot : w.slot n = (s.slot n).activated (v / 256 % 256) := hw ▸ slot_modSlot_self s _ hlen
  have hsettled : settled w := by rw [← hw]; exact hset
  have hlost : w.regs.towerlost = 0 := by rw [← hw]; exact ht
  have hmem : w.MemOk := by rw [← hw]; exact hs.mem
  obtain ⟨c, m, p, he, hp, hbyte⟩ := exists_clearMap hsettled hmem hlost n
  refine ⟨w.clearMap n, ?_, ?_, ?_, ?_, fun j hj => ?_, fun x => ?_⟩
  · unfold State.ctxctl
    simp only [hact, hv, hid, hfree, hregs, ht, hw]
    rfl
  · rw [he, ← hw]; rfl
  · rw [he]; exact fun q hq => by have := hp q hq; rw [← hw] at this; exact this
  · rw [he]; exact hslot
  · rw [he]; exact (congrArg (State.slot · j) hw).symm.trans (slot_modSlot_ne s _ hj)
  · rw [hbyte x, hslot, ← hw]; rfl

theorem ctxctl_refused_inactive {s : State} {n v : Nat} (hact : (s.slot n).act = false) (hv : v % 2 = 1)
    (h : (s.slotOf (v / 256 % 256)).isSome ∨ (s.slot n).regsOk = false ∨ s.regs.towerlost ≠ 0) :
    s.ctxctl n v = none := by
  have hid : bits v 15 8 = v / 256 % 256 := rfl
  unfold State.ctxctl
  simp only [hid]
  rw [if_neg (by simp [hact]), if_neg (by omega), if_pos]
  simpa [or_assoc] using h

theorem ctxctl_refused_active {s : State} {n v : Nat} (hact : (s.slot n).act = true)
    (h : v % 2 = 0 ∨ v / 256 % 256 ≠ (s.slot n).ctxid) : s.ctxctl n v = none := by
  have hid : bits v 15 8 = v / 256 % 256 := rfl
  unfold State.ctxctl
  simp only [hid]
  rw [if_pos hact, if_neg (by omega)]

theorem byte_bitmap_of_activates {s u : State} {n id k b : Nat} (h : Activates s u n id)
    (hk : k < 4096 * (s.slot n).mapUnits) (hb : b < 8) :
    (u.byte ((s.slot n).savebase.toNat + k)).getLsbD b = Decidable.decide (8 * k + b < (s.slot n).mapUnits) := by
  rw [h.byte, Nat.add_sub_cancel_left]
  split
  · rw [CtxSlot.getLsbD_mapByte _ _ hb, CtxSlot.unitUsed_activated]
  · rw [if_pos (by omega), decide_eq_false (by omega : ¬8 * k + b < (s.slot n).mapUnits)]
    exact BitVec.getLsbD_zero

theorem keepsBytes_of_activates {s u : State} {n id : Nat} (h : Activates s u n id) :
    s.KeepsBytes u [((s.slot n).savebase.toNat, 4096 * (s.slot n).mapUnits)] := by
  intro x hx
  have hout := hx _ List.mem_cons_self
  dsimp only at hout
  rw [h.byte, if_neg (by omega), if_neg (by omega)]

/-! ### The mailbox (R432) -/

theorem execSpdmMailboxGo_accepted {s : State} {off v : Nat} (h : Writes s .spdmMailboxGo off v)
    (hb : s.regs.mbxBusy = false) (hlo : 2 ^ 31 < v) (hhi : v ≤ 2 ^ 31 + 4096) :
    exec .spdmMailboxGo s = .next (answers { taken s with
      regs := { s.regs with mbxDone := false, mbxBusy := true, mbxReq := v - 2 ^ 31 } } 0x0B 0 (statusBytes 0)) := by
  refine congrArg Host.Outcome.next (regWrite_accepted (u := { heard s with
    regs := { s.regs with mbxDone := false, mbxBusy := true, mbxReq := v - 2 ^ 31 } }) h nofun ?_)
  have hn : v % 2 ^ 13 = v - 2 ^ 31 := by omega
  have hz : bits v 30 13 = 0 := by unfold bits; omega
  dsimp only
  rw [hn, hz, if_neg (by omega), if_neg (by simp [heard, hb]; omega)]
  rfl

theorem execSpdmMailboxGo_refused {s : State} {off v : Nat} (h : Writes s .spdmMailboxGo off v)
    (hv : v = 2 ^ 31 ∨ (s.regs.mbxBusy = true ∧ v / 2 ^ 31 % 2 = 1)) :
    exec .spdmMailboxGo s = .next (answers (taken s) 0x0B 0 (statusBytes 2)) := by
  refine congrArg Host.Outcome.next (regWrite_refused h nofun ?_)
  dsimp only
  rw [if_neg (by omega), if_pos]
  rcases hv with rfl | ⟨hb, -⟩
  · simp
  · simp [heard, hb]

/-! ### The four rows -/

theorem execRegisterWrite_accepted {s u : State} {off v : Nat} (h : Writes s .registerWrite off v)
    (e : (heard s).regPlain off v = some u) :
    exec .registerWrite s = .next (answers (fresh u) 0x0B 0 (statusBytes 0)) :=
  congrArg Host.Outcome.next (regWrite_accepted h nofun e)

theorem execRegisterWrite_refused {s : State} {off v : Nat} (h : Writes s .registerWrite off v)
    (e : (heard s).regPlain off v = none) :
    exec .registerWrite s = .next (answers (taken s) 0x0B 0 (statusBytes 2)) :=
  congrArg Host.Outcome.next (regWrite_refused h nofun e)

theorem execRegisterWrite_slot_active {s : State} {v n k : Nat}
    (h : Writes s .registerWrite (0x500000 + 256 * n + 8 * k) v) (hn : n < 16) (hk : k < 16)
    (hact : (s.slot n).act = true) :
    exec .registerWrite s = .next (answers (taken s) 0x0B 0 (statusBytes 2)) :=
  execRegisterWrite_refused h ((regPlain_slot (heard s) v hn hk).trans (if_pos hact))

theorem execRegisterWrite_slot_inactive {s : State} {v n k : Nat} (hs : s.Sound)
    (h : Writes s .registerWrite (0x500000 + 256 * n + 8 * k) v) (hn : n < 16) (h0 : 0 < k) (hk : k < 16)
    (hact : (s.slot n).act = false) :
    ∃ u, exec .registerWrite s = .next (answers u 0x0B 0 (statusBytes 0)) ∧ u = { taken s with ctxs := u.ctxs } ∧
      (∀ j, j ≠ n → u.slot j = s.slot j) ∧
      ∀ j, j < 16 → (u.slot n).reg (8 * j) = if j = k ∧ k < 14 then v else (s.slot n).reg (8 * j) := by
  have hlen : n < s.ctxs.length := hs.slots ▸ hn
  have hplain := (regPlain_slot (heard s) v hn hk).trans (if_neg (Bool.eq_false_iff.1 hact))
  refine ⟨_, execRegisterWrite_accepted h hplain, rfl, fun j hj => slot_modSlot_ne s _ hj, fun j hj => ?_⟩
  have hslot := slot_modSlot_self s (fun c => c.setReg (8 * k) (BitVec.ofNat 64 v)) hlen
  refine (congrArg (CtxSlot.reg · (8 * j)) hslot).trans ?_
  rw [CtxSlot.reg_setReg _ _ h0 hk hj, BitVec.toNat_ofNat, Nat.mod_eq_of_lt (val_lt_of_writes h)]

theorem execCtxctlActivate_accepted {s u : State} {v n : Nat} (h : Writes s .ctxctlActivate (0x500000 + 256 * n) v)
    (e : (heard s).ctxctl n v = some u) :
    exec .ctxctlActivate s = .next (answers (fresh u) 0x0B 0 (statusBytes 0)) := by
  refine congrArg Host.Outcome.next (regWrite_accepted h nofun ?_)
  rw [slotNo_eq, e]

theorem execCtxctlActivate_refused {s : State} {v n : Nat} (h : Writes s .ctxctlActivate (0x500000 + 256 * n) v)
    (e : (heard s).ctxctl n v = none) :
    exec .ctxctlActivate s = .next (answers (taken s) 0x0B 0 (statusBytes 2)) := by
  refine congrArg Host.Outcome.next (regWrite_refused h nofun ?_)
  rw [slotNo_eq, e]

theorem execCtxctlEnd_accepted {s : State} {v n : Nat} (h : Writes s .ctxctlEnd (0x500000 + 256 * n) v) :
    exec .ctxctlEnd s = .next (answers
      (fresh (if (s.slot n).act then (heard s).endCtx (s.slot n).ctxid 0x42 else heard s)) 0x0B 0 (statusBytes 0)) := by
  refine congrArg Host.Outcome.next (regWrite_accepted h nofun ?_)
  rw [slotNo_eq]
  rfl

end Sys2Proof.Machine

open Sys2Proof Sys2Proof.Machine Sys2Proof.Claims

/-- Settles O51: each write arrives (`regWrite_accepted`, `regWrite_refused`); then what its row makes of the registers,
of the slot and, on activation, of the bitmap in its save area. -/
theorem registerWrites : Obligations.RegisterWrites := by
  unfold Obligations.RegisterWrites
  intro s off v n hs ok no
  have hheard : (heard s).Sound := hs.of_eq rfl rfl
  refine ⟨fun h => ⟨?_, ?_, ?_, ?_, ?_⟩, fun h hn hoff => ⟨?_, ?_, ?_⟩, fun h hn hoff => ⟨?_, ?_⟩, fun h => ⟨?_, ?_⟩⟩
  · rintro rfl
    exact execRegisterWrite_accepted h (regPlain_capw _ v)
  · rintro rfl
    exact execRegisterWrite_accepted h (regPlain_age0 _ v)
  · rintro rfl
    exact execRegisterWrite_accepted h (regPlain_towerlost _ v)
  · exact fun hoff => execRegisterWrite_refused h (regPlain_misaligned _ v hoff)
  · rintro k hn h0 hk rfl
    exact ⟨execRegisterWrite_slot_active h hn hk, execRegisterWrite_slot_inactive hs h hn h0 hk⟩
  · subst hoff
    intro hact hv hfree hregs ht hset base units
    obtain ⟨u, he, ha⟩ := ctxctl_activates hheard hset hn hact hv hfree hregs ht
    have hslot : (fresh u).slot n = (s.slot n).activated (v / 256 % 256) := ha.slot
    have hkeeps := keepsBytes_of_activates ha
    have hbits {k b : Nat} := byte_bitmap_of_activates (k := k) (b := b) ha
    refine ⟨fresh u, execCtxctlActivate_accepted h he, congrArg fresh ha.frame, ha.poison, ha.others,
      slotOf_eq_of_free (u := fresh u) hn hfree (by rw [hslot]; rfl) (by rw [hslot]; rfl) ha.others, ?_, ?_, ?_, ?_,
      fun j hj => ?_, hkeeps, fun k hk b hb => hbits hk hb⟩
    · rw [hslot]; rfl
    · rw [hslot]; rfl
    · rw [hslot]; rfl
    · rw [hslot]; rfl
    · rw [hslot, CtxSlot.reg_activated _ _ hj]
  · subst hoff
    exact fun hact hv hno => execCtxctlActivate_refused h (ctxctl_refused_inactive hact hv hno)
  · subst hoff
    exact fun hact hno => execCtxctlActivate_refused h (ctxctl_refused_active hact hno)
  · subst hoff
    intro hact
    rw [execCtxctlEnd_accepted h, hact]
    rfl
  · subst hoff
    intro hof
    have hend := endCtx_of_slotOf (st := 0x42) hheard hof
    refine ⟨fresh ((heard s).endCtx (s.slot n).ctxid 0x42), ?_, ?_, hend.1, hend.2⟩
    · rw [execCtxctlEnd_accepted h, (act_of_slotOf hof).1]
      rfl
    · rw [endCtx_frame]; rfl
  · exact execSpdmMailboxGo_accepted h
  · exact execSpdmMailboxGo_refused h

end

section
/-! ## A restore starts only the blocks of the unit's own grid

A unit under restore starts through `startBlocks` of its grid, which passes over every block of another grid. No premise of
the restore's clause in `Distribution` says that the block of the unit is one of its grid, so the clause fails at a unit
whose block names another: it becomes resident, but it does not start (R421). -/

namespace Sys2Proof.Machine
open Sys2Proof Sys2Proof.Claims

/-- Where no team exists, every core has as few resident teams as any other. -/
theorem nTeams_eq_zero {s : State} (h : s.teams = []) (cores : List Nat) : s.nTeams cores = 0 := by
  simp [State.nTeams, h]

/-- Without teams the core with the fewest of them is the lowest that may be chosen (R389). -/
theorem leastCore_of_no_teams {s : State} {p : Nat → Prop} {c : Nat} (h : s.teams = []) (hc : p c)
    (hlow : ∀ x, p x → c ≤ x) : leastCore s p c :=
  ⟨hc, fun x hx => .inr ⟨by rw [nTeams_eq_zero h, nTeams_eq_zero h], hlow x hx⟩⟩

/-! ### A unit whose block is of another grid -/

namespace ForeignUnit

/-- A Running grid of one block, which has been placed. -/
def grid : Grid := { Grid.none with gid := 1, ctx := 5, st := .running, next := 1 }

/-- An evicted block that names another grid. -/
def block : Block :=
  { bid := 2, gid := 9, x := 0, y := 0, z := 0, rank := 0, core := 0, life := .evicted, scratchSize := 0, scratch := [],
    bars := [], started := true, order := 2, save := none }

/-- What it had on its quad, and the unit of the grid that it makes up. -/
def quad : SavedQuad :=
  { gid := 1, blocks := [2], qgrants := [], ntile := 0, tiles := [], bounds := [], bstat := [], resv := [], mops := [],
    wide := none }
def unit : SavedUnit := { u := 3, gid := 1, blocks := [2], quads := [quad] }

/-- The package after reset, with the grid in an active context and its unit evicted. -/
def state : State :=
  { ctxs := { ctxid := 5, act := true } :: List.replicate 15 {}
    grids := [grid], blocks := [block], saved := [unit], uid := 4 }

/-- Core 0 is the one that the restore takes. -/
theorem leastCore_zero : leastCore state (fun c => c < 640 ∧ state.distNow.towers.contains (towerOf c) = false ∧
    state.claimed grid c = false ∧ state.eligible c grid.gid grid.lrec block.rank
      (state.teams.countP fun t => t.bid == block.bid && t.life == Life.evicted) = true) 0 :=
  leastCore_of_no_teams rfl (by decide +kernel) fun x _ => Nat.zero_le x

/-- The answer is a state in which no block has started. -/
def noneStarted : Host.Outcome State Fault Refusal → Bool
  | .next u => u.blocks.all fun b => !b.started
  | _ => false

/-- The restore, evaluated: the block is resident again, but not started. -/
theorem noneStarted_unitRestore : noneStarted (exec (.unitRestore unit.u) state) = true := by decide +kernel

end ForeignUnit

end Sys2Proof.Machine

open Sys2Proof Sys2Proof.Machine

/-- Refutes O57: its restore clause does not say that the unit's block is of the unit's grid. In `ForeignUnit.state` the unit
of grid 1 has the block 2 of grid 9; the restore puts the block on core 0, and it stays not started, where the clause
claims that its teams go on (R421). -/
theorem not_distribution : ¬ Obligations.Distribution := by
  unfold Obligations.Distribution
  rintro ⟨-, -, hrestore, -⟩
  obtain ⟨u, hexec, -, -, -, ⟨c, hc, -, -, -, hstarted, -⟩, -⟩ :=
    hrestore ForeignUnit.unit ForeignUnit.grid ForeignUnit.block ForeignUnit.quad 0 0 ForeignUnit.state
      (by decide +kernel) rfl rfl rfl rfl rfl rfl rfl rfl rfl rfl (by decide +kernel) rfl rfl rfl rfl rfl
      ForeignUnit.leastCore_zero
  have hnone := ForeignUnit.noneStarted_unitRestore
  rw [hexec] at hnone
  simpa [hstarted] using List.all_eq_true.mp hnone c hc

end

section
/-! ## What an issue that completes leaves

Every meaning runs through `issue`, which after the effect records the issue: counts of cycles, results that are not
available yet, what values came from. For a team that nothing holds back these marks change no register, and of an
outstanding instruction neither its flag nor what it waits for. It is said here once, for an effect that ends in `done`. -/

namespace Sys2Proof.Machine
open Sys2Proof Sys2Proof.Claims

/-- The outstanding instructions in u are those in w, each with its handle, its flag and what it waits for. -/
def Team.SameInfl (w u : Team) : Prop :=
  ∃ g : Infl → Infl, (∀ f, (g f).u = f.u ∧ (g f).flag = f.flag ∧ (g f).on = f.on) ∧ u.infl = w.infl.map g

theorem Team.SameInfl.of_eq {w u : Team} (h : u.infl = w.infl) : w.SameInfl u :=
  ⟨id, fun _ => ⟨rfl, rfl, rfl⟩, by rw [h, List.map_id]⟩

theorem Team.SameInfl.trans {w u t : Team} (h : w.SameInfl u) (k : u.SameInfl t) : w.SameInfl t := by
  obtain ⟨g, hg, e⟩ := h
  obtain ⟨g', hg', e'⟩ := k
  refine ⟨g' ∘ g, fun f => ?_, by rw [e', e, List.map_map]⟩
  obtain ⟨hu, hf, ho⟩ := hg f
  obtain ⟨hu', hf', ho'⟩ := hg' (g f)
  exact ⟨hu'.trans hu, hf'.trans hf, ho'.trans ho⟩

theorem Team.SameInfl.nil {w u : Team} (h : w.SameInfl u) (e : w.infl = []) : u.infl = [] := by
  obtain ⟨g, -, k⟩ := h
  rw [k, e, List.map_nil]

theorem Team.SameInfl.one {w u : Team} {x : Infl} (h : w.SameInfl u) (e : w.infl = [x]) :
    ∃ f, u.infl = [f] ∧ f.u = x.u ∧ f.flag = x.flag ∧ f.on = x.on := by
  obtain ⟨g, hg, k⟩ := h
  exact ⟨g x, by rw [k, e]; rfl, hg x⟩

/-- u is the team w but for what an issue marks in it. -/
def Team.marked (w u : Team) : Team :=
  { w with
    infl := u.infl, cyc := u.cyc, recent := u.recent, taint := u.taint, readyAt := u.readyAt, busy := u.busy
    since := u.since }

/-- An attaching instruction's record as its issue leaves it: with the earlier values of what it writes (R170). -/
def Infl.saving (f : Infl) (uid : Nat) (saves : List RegSave) (tiles : List Nat) : Infl :=
  if uid ≤ f.u && f.saves.isEmpty then { f with saves := saves, tiles := tiles } else f

theorem Infl.saving_same (f : Infl) (uid : Nat) (saves : List RegSave) (tiles : List Nat) :
    (f.saving uid saves tiles).u = f.u ∧ (f.saving uid saves tiles).flag = f.flag ∧
      (f.saving uid saves tiles).on = f.on := by
  unfold Infl.saving
  split <;> exact ⟨rfl, rfl, rfl⟩

/-- Nothing of a team that nothing holds back is overtaken (R170). -/
theorem State.Clear.overtaken {s : State} (h : s.Clear) (n : Nat) : s.t.overtaken n = [] := by
  simp [Team.overtaken, h.infl, h.recent]

theorem foldl_overtake_nil (s : State) (lanes : Lanes) (l : List RegRef) (t : Team) : l.foldl (s.overtake [] lanes) t = t := by
  induction l generalizing t with
  | nil => rfl
  | cons x r ih =>
    rw [List.foldl_cons, ih]
    simp [State.overtake, State.standing]

theorem State.Clear.record_sameInfl {s : State} (h : s.Clear) (i : Instr) (w : State) : w.t.SameInfl (record i s w).t := by
  unfold record
  split
  · exact .of_eq rfl
  · split
    · exact .of_eq rfl
    · dsimp only
      simp only [h.infl, h.overtaken, foldl_overtake_nil]
      by_cases ha : i.attaches = true
      · simp only [ha, if_true]
        exact ⟨fun f => f.saving s.uid _ (s.tilesOf i), fun f => f.saving_same _ _ _, rfl⟩
      · simp only [ha]
        exact .of_eq rfl

/-- Recording an issue of a team that nothing holds back leaves its effect, but for the marks. -/
theorem State.Clear.record_marked {s : State} (h : s.Clear) (i : Instr) (w : State) :
    record i s w = { w with t := w.t.marked (record i s w).t } := by
  have e := h.record_eq i w
  generalize record i s w = r at e ⊢
  rw [e]
  rfl

theorem State.issued_marked (s : State) (i : Instr) {w : State} (htid : w.t.tid = s.t.tid) :
    s.issued i w = { w with t := w.t.marked (s.issued i w).t } ∧ w.t.SameInfl (s.issued i w).t := by
  unfold State.issued
  split
  · exact ⟨rfl, .of_eq rfl⟩
  · have e : w.modTeam s.t.tid (s.t.issued i s.pkg.clk.toNat (s.busyTo i)) =
        { w with t := s.t.issued i s.pkg.clk.toNat (s.busyTo i) w.t } := if_pos htid
    rw [e]
    refine ⟨rfl, ?_⟩
    unfold Team.issued
    by_cases hr : isRelease i s.t.cl.arr = true
    · exact ⟨fun f => { f with late := [] }, fun _ => ⟨rfl, rfl, rfl⟩, if_pos hr⟩
    · exact .of_eq (if_neg hr)

/-- What issuing an instruction leaves, of a team that nothing holds back and whose checks it passes: its effect, but for the
marks. -/
theorem State.Clear.issue_marked {s : State} (h : s.Clear) {i : Instr} (hc : s.checks i = none) {body : State → State}
    (htid : (body s).t.tid = s.t.tid) :
    Machine.issue i s body = { body s with t := (body s).t.marked (Machine.issue i s body).t } ∧
      (body s).t.SameInfl (Machine.issue i s body).t := by
  rw [h.issue hc]
  have hrec := h.record_marked i (body s)
  have hsame := h.record_sameInfl i (body s)
  generalize record i s (body s) = r at hrec hsame
  have hr : r.t.tid = s.t.tid := by rw [hrec]; exact htid
  obtain ⟨he, hi⟩ := s.issued_marked i hr
  refine ⟨?_, hsame.trans hi⟩
  generalize s.issued i r = u at he
  rw [he, hrec]
  rfl

/-- What s becomes by an instruction of n words whose effect leaves w and goes on. -/
structure Goes (n : Nat) (s w u : State) : Prop where
  past : s.Past u n
  frame : u = { w with t := { w.t.placeOf u.t with infl := u.t.infl } }
  infl : w.t.SameInfl u.t

/-- The effect has left the team at the instruction: its place in the clause, and its count of issues, are as they were. -/
structure State.Stays (s w : State) : Prop where
  tid : w.t.tid = s.t.tid
  pc : w.t.pc = s.t.pc
  hdr : w.t.cl.hdr = s.t.cl.hdr
  idx : w.t.cl.idx = s.t.cl.idx
  ord : w.t.ord = s.t.ord

/-- An issue whose effect leaves w and goes on. -/
theorem State.Clear.issue_goes {s w : State} {n : Nat} (h : s.Clear) {i : Instr} (hc : s.checks i = none) {body : State → State}
    (hb : body s = w.adv n) (hw : s.Stays w) : Goes n s w (Machine.issue i s body) := by
  obtain ⟨he, hi⟩ := h.issue_marked hc (body := body) (by rw [hb, State.adv_t_tid, hw.tid])
  rw [hb] at he hi
  have hp : w.Past (w.adv n) n := past_adv w n
  have ho : w.OnlyPlace (w.adv n) := onlyPlace_adv w n
  have hin : (w.adv n).t.infl = w.t.infl := State.adv_t_infl w n
  generalize w.adv n = v at he hi hp ho hin
  generalize Machine.issue i s body = u at he hi
  obtain ⟨hpc, hidx, hord⟩ := hp
  refine ⟨⟨?_, ?_, ?_⟩, ?_, ?_⟩
  · rw [he, ← hw.pc]; exact hpc
  · rw [he, ← hw.hdr, ← hw.idx]; exact hidx
  · rw [he, ← hw.ord]; exact hord
  · rw [he, ho]; rfl
  · exact (Team.SameInfl.of_eq hin).trans hi

/-- The same of what the instruction's meaning answers. -/
theorem State.Clear.exec_goes {s w : State} {n : Nat} (h : s.Clear) {i : Instr} (hc : s.checks i = none)
    {body : State → State} (ho : exec i s = .next (Machine.issue i s body)) (hb : body s = w.adv n) (hw : s.Stays w) :
    ∃ u, exec i s = .next u ∧ Goes n s w u :=
  ⟨_, ho, h.issue_goes hc hb hw⟩

/-- The one outstanding instruction of an effect that ends in `attach`. -/
theorem Goes.one {n : Nat} {s v u : State} {on : Until} {srcV srcS : List Nat} {late : List LateSrc}
    (g : Goes n s (v.attach on srcV srcS late) u) (hv : v.t.infl = []) :
    ∃ f, u.t.infl = [f] ∧ f.u = v.uid ∧ f.flag = v.t.nextFlag ∧ f.on = on :=
  g.infl.one (by change v.t.infl ++ _ = _; rw [hv]; rfl)

theorem Goes.oneReady {n : Nat} {s v u : State} {srcV srcS : List Nat} {late : List LateSrc}
    (g : Goes n s (v.attach .ready srcV srcS late) u) (hv : v.t.infl = []) (hcl : v.t.cl = s.t.cl) : Claims.oneReady s u := by
  obtain ⟨f, hi, -, hf, ho⟩ := g.one hv
  exact ⟨f, hi, by rw [hf, Team.nextFlag, Team.nextFlag, hcl], ho⟩

/-! ### An effect that leaves the team where it is -/

/-- A trap, entered or put off, is no issue of the instruction. -/
theorem takeTrap_ord (s : State) : s.takeTrap.t.ord = s.t.ord := by
  rcases takeTrap_cases s with ⟨-, e⟩ | ⟨w, -, ⟨-, -, e⟩ | ⟨-, -, e⟩ | ⟨-, -, a, -, e⟩⟩
  · rw [e]
  · rw [e]; change (State.endCtx _ _ _).t.ord = _; rw [State.endCtx_t]
  · rw [e]; change (State.endCtx _ _ _).t.ord = _; rw [State.endCtx_t]
  · rw [e]

theorem raise_ord (s : State) (c : Nat) (x : DWord) : (s.raise c x).t.ord = s.t.ord := by
  simp only [State.raise, State.decide, State.tryTrap]
  split
  · exact takeTrap_ord _
  · rfl

/-- What the meaning answers of an instruction whose effect leaves the team at it: that effect, and nothing is recorded. -/
theorem State.Clear.exec_stays {s u : State} (h : s.Clear) {i : Instr} (hc : s.checks i = none) {body : State → State}
    (ho : exec i s = .next (Machine.issue i s body)) (hb : body s = u) (hord : u.t.ord = s.t.ord) :
    exec i s = .next u := by
  rw [ho, h.issue hc, hb, record_same i s u hord, s.issued_same i u hord]

end Sys2Proof.Machine
end

section
/-! ## What reading through the page tables leaves

A fetch, a record read and SXLATE walk the page tables: the walks and the reads move the caches, and the device then holds
page-table words, region entries and code items (R349, R401). A store of another team that has met the read cannot be
taken to read its source any later (R170). Nothing else changes. `Touches` says so once, for every such operation. -/

namespace Sys2Proof.Machine
open Sys2Proof Sys2Proof.Claims

/-- u is s after reads through the page tables. -/
structure Touches (s u : State) : Prop where
  frame : u = { s with
    t := { s.t with infl := u.t.infl }, others := u.others, ctxs := u.ctxs, caches := u.caches }
  slots : s.SlotsKept u
  infl : s.t.SameInfl u.t
  settled : settled s → u.t.infl = s.t.infl ∧ u.others = s.others

theorem State.SlotsKept.refl (s : State) : s.SlotsKept s := ⟨rfl, fun _ => rfl⟩

theorem State.SlotsKept.trans {s u w : State} (h : s.SlotsKept u) (k : u.SlotsKept w) : s.SlotsKept w := by
  obtain ⟨hl, hs⟩ := h
  obtain ⟨kl, ks⟩ := k
  exact ⟨kl.trans hl, fun n => by rw [ks n, hs n]⟩

/-- Slots are the same where the list of slots is. -/
theorem State.SlotsKept.of_eq {s u : State} (h : u.ctxs = s.ctxs) : s.SlotsKept u :=
  ⟨congrArg _ h, fun n => by simp only [State.slot, h]⟩

theorem Touches.refl (s : State) : Touches s s := ⟨rfl, State.SlotsKept.refl s, .of_eq rfl, fun _ => ⟨rfl, rfl⟩⟩

theorem Touches.t_eq {s u : State} (h : Touches s u) : u.t = { s.t with infl := u.t.infl } := congrArg State.t h.frame

theorem Touches.settled_of {s u : State} (h : Touches s u) (hs : Claims.settled s) : Claims.settled u := by
  obtain ⟨ht, ho⟩ := h.settled hs
  intro t hmem
  rw [ho] at hmem
  rcases List.mem_cons.1 hmem with rfl | hmem
  · rw [ht]; exact hs s.t List.mem_cons_self
  · exact hs t (List.mem_cons_of_mem _ hmem)

theorem Touches.trans {s u w : State} (h : Touches s u) (k : Touches u w) : Touches s w where
  frame := by
    have hf := h.frame
    have kf := k.frame
    generalize ht : u.t.infl = x at hf
    rw [hf] at kf
    exact kf
  slots := h.slots.trans k.slots
  infl := h.infl.trans k.infl
  settled hs := by
    obtain ⟨ht, ho⟩ := h.settled hs
    obtain ⟨kt, ko⟩ := k.settled (h.settled_of hs)
    exact ⟨kt.trans ht, ko.trans ho⟩

/-- Of a settled machine only the slots and the caches move. -/
theorem Touches.frame_of_settled {s u : State} (h : Touches s u) (hs : Claims.settled s) :
    u = { s with ctxs := u.ctxs, caches := u.caches } := by
  obtain ⟨ht, ho⟩ := h.settled hs
  have hf := h.frame
  rw [ht, ho] at hf
  exact hf

theorem Touches.mem_eq {s u : State} (h : Touches s u) : u.mem = s.mem := by
  have e := h.frame
  generalize u.t.infl = x at e
  exact e ▸ rfl

/-- The team itself, where it has no instruction outstanding. -/
theorem Touches.t_of_nil {s u : State} (h : Touches s u) (hi : s.t.infl = []) : u.t = s.t := by
  rw [h.t_eq, h.infl.nil hi, ← hi]

theorem touches_caches (s : State) (c : Caches) : Touches s { s with caches := c } :=
  ⟨rfl, .of_eq rfl, .of_eq rfl, fun _ => ⟨rfl, rfl⟩⟩

theorem touches_settle (s : State) (p : LateSrc → Bool) : Touches s (s.settle p) where
  frame := by
    unfold State.settle State.modTeams
    dsimp only
    split <;> rfl
  slots := .of_eq (State.settle_ctxs s p)
  infl := by
    unfold State.settle State.modTeams
    dsimp only
    split
    · exact ⟨fun f => { f with late := f.late.filter fun e => !p e }, fun _ => ⟨rfl, rfl, rfl⟩, rfl⟩
    · exact .of_eq rfl
  settled hs := by rw [settle_eq_self hs]; exact ⟨rfl, rfl⟩

/-- A slot may come to hold other page-table words, region entries and code items. -/
theorem touches_modSlot (s : State) (n : Nat) {f : CtxSlot → CtxSlot}
    (hf : ∀ c, f c = { c with tlb := (f c).tlb, rcache := (f c).rcache, code := (f c).code }) : Touches s (s.modSlot n f) where
  frame := rfl
  slots := by
    refine ⟨length_modSlot s n f, fun k => ?_⟩
    by_cases hk : k = n
    · subst hk
      by_cases hlen : k < s.ctxs.length
      · rw [slot_modSlot_self s f hlen]; exact hf _
      · have hnone : ∀ l : List CtxSlot, l.length = s.ctxs.length → l.getD k {} = {} := fun l hl => by
          rw [List.getD_eq_default]; omega
        have e : (s.modSlot k f).slot k = s.slot k :=
          (hnone _ (by rw [State.modSlot_ctxs, List.length_modify])).trans (hnone _ rfl).symm
        rw [e]
    · rw [slot_modSlot_ne s f hk]
  infl := .of_eq rfl
  settled _ := ⟨rfl, rfl⟩

theorem touches_foldl {α : Type} {f : State → α → State} (hf : ∀ s x, Touches s (f s x)) (l : List α) (s : State) :
    Touches s (l.foldl f s) := by
  induction l generalizing s with
  | nil => exact .refl s
  | cons x r ih => exact (hf s x).trans (ih _)

/-! ### Walks, reads and held items (R348, R349, R401) -/

theorem touches_noteWalk (s : State) (t key : Nat) (r : Nat × Bool) : Touches s (s.noteWalk t key r) :=
  (touches_settle s _).trans (touches_caches _ _)

theorem touches_keepXl (s : State) (slot ptr : Nat) : Touches s (s.keepXl slot ptr) :=
  touches_modSlot s slot fun _ => rfl

theorem touches_noteXls (s : State) (t slot : Nat) (ptrs : List Nat) : Touches s (s.noteXls t slot ptrs) :=
  touches_foldl (fun s p => (touches_foldl (fun s (r : Nat × Nat × Bool) => touches_noteWalk s t (8 * p + r.1) r.2) _ s).trans
    (touches_keepXl _ _ _)) _ s

/-- A fetch unit's read of a line is no read of R71: it moves the caches alone. -/
theorem touches_noteRead_fetch (s : State) (c cnt line secs : Nat) (rd : Bool) :
    Touches s (s.noteRead (.fetch c) cnt line secs rd) := touches_caches _ _

theorem touches_noteRuns_fetch (s : State) (c cnt : Nat) (runs : List (Nat × Nat)) :
    Touches s (s.noteRuns (.fetch c) cnt runs) :=
  touches_foldl (fun s _ => touches_noteRead_fetch s c cnt _ _ _) _ s

theorem touches_noteVirt_fetch (s : State) (c slot : Nat) (runs : List (Nat × Nat)) :
    Touches s (s.noteVirt (.fetch c) slot runs) :=
  ((touches_noteXls s _ slot _).trans (touches_noteRuns_fetch _ c 0 _)).trans (touches_settle _ _)

theorem touches_keep (s : State) (slot : Nat) (i : CodeItem) : Touches s (s.modSlot slot fun c => c.keep i) :=
  touches_modSlot s slot fun _ => rfl

theorem touches_keepRead (s : State) (slot kind idx ptr n : Nat) : Touches s (s.keepRead slot kind idx ptr n) := by
  unfold State.keepRead
  split
  · split
    · exact .refl s
    · dsimp only
      split
      · exact touches_keep _ _ _
      · exact (touches_noteVirt_fetch s _ _ _).trans (touches_keep _ _ _)
  · exact .refl s

theorem touches_keepLine (s : State) (slot x : Nat) (words : List Word) (intlk : Bool) (ptab k : Nat) :
    Touches s (s.keepLine slot x words intlk ptab k) := by
  unfold State.keepLine
  dsimp only
  split
  · exact touches_keep _ _ _
  · refine Touches.trans ?_ (touches_keep _ _ _)
    split
    · have hread (runs : List (Nat × Nat)) := (touches_keepRead s slot 0 (s.lineNo slot x) (s.lattPtr slot x) 8).trans
        (touches_noteVirt_fetch _ s.t.core slot runs)
      split
      · exact hread _
      · exact (hread _).trans (touches_keepRead _ _ _ _ _ _)
    · exact .refl s

/-! ### FAULT messages and faults of a fetch (R191, R403, R406) -/

theorem send_frame (s : State) (port typ ctx tag : Nat) (payload : List Byte) :
    s.send port typ ctx tag payload = { s with link := (s.send port typ ctx tag payload).link } := by
  unfold State.send
  split <;> rfl

theorem foldl_send_frame {α : Type} (l : List α) (port typ ctx tag : Nat) (f : α → List Byte) (s : State) :
    l.foldl (fun s x => s.send port typ ctx tag (f x)) s =
      { s with link := (l.foldl (fun s x => s.send port typ ctx tag (f x)) s).link } := by
  induction l generalizing s with
  | nil => rfl
  | cons x r ih =>
    rw [List.foldl_cons, ih, send_frame]

/-- Sending FAULT messages changes the link, and in the slot which faults have been sent. -/
theorem flushFaults_frame (s : State) (slot : Nat) :
    s.flushFaults slot = { s with link := (s.flushFaults slot).link, ctxs := (s.flushFaults slot).ctxs } := by
  unfold State.flushFaults
  dsimp only
  split
  · rfl
  · rw [foldl_send_frame]; rfl

theorem sendFault_frame (s : State) (slot src core team unit owner quad : Nat) (pages : List Nat) :
    (s.sendFault slot src core team unit owner quad pages).1 =
      { s with link := (s.sendFault slot src core team unit owner quad pages).1.link,
               ctxs := (s.sendFault slot src core team unit owner quad pages).1.ctxs } :=
  flushFaults_frame _ slot

theorem decide_ord (s : State) (l : List Dec) : (s.decide l).t.ord = s.t.ord := by
  unfold State.decide State.tryTrap
  split
  · rfl
  · split
    · exact takeTrap_ord _
    · rfl

/-- A fault of a fetch is no issue of an instruction: it is sent, and the team waits, or it is a cause. -/
theorem fetchFault_ord (s : State) (slot x c p idx : Nat) : (s.fetchFault slot x c p idx).t.ord = s.t.ord := by
  have hwalk : (if c = 5 then s else s.noteXls (towerOf s.t.core) slot [p]).t.ord = s.t.ord := by
    split
    · rfl
    · rw [(touches_noteXls s _ slot [p]).t_eq]
  unfold State.fetchFault
  dsimp only
  split
  · rw [sendFault_frame]
    exact hwalk
  · rw [decide_ord]
    exact hwalk

end Sys2Proof.Machine
end

section
/-! ## The system registers, PHASE and SXLATE -/

namespace Sys2Proof.Machine
open Sys2Proof Sys2Proof.Claims

/-- An instruction that its checks pass is well formed. -/
theorem wf_of_checks {s : State} {i : Instr} (h : s.checks i = none) : i.wf = true := by
  cases hw : i.wf with
  | true => rfl
  | false => simp [State.checks, hw] at h

/-- An instruction without flag whose effect leaves no new one outstanding. -/
theorem Goes.infl_nil {n : Nat} {s w u : State} (g : Goes n s w u) (h : w.t.infl = []) : u.t.infl = [] := g.infl.nil h

/-! ### SRD (R201, R183) -/

theorem toNat_setWidth_64 (w : Word) : (w.setWidth 64).toNat = w.toNat :=
  BitVec.toNat_setWidth_of_le (by decide)

theorem sysRead_eq (s : State) {b : Nat} (hb : b < 17) :
    (s.sysRead b).toNat = [s.capDp.toNat, (s.capCore s.t.core).toNat, s.t.mode.toNat, s.t.bthr.toNat,
         s.t.phmargin.toNat, s.t.srng.toNat, s.t.depth % 2 ^ 64, s.pkg.clk.toNat, s.t.tvec.toNat, s.t.tcause.toNat,
         s.t.tepc.toNat, s.t.tlane.toNat, s.t.tsecond.toNat, s.t.frec.toNat, s.t.tmode.toNat, s.t.tclause.toNat,
         s.t.crew.toNat].getD b 0 := by
  interval_cases b <;>
    simp only [State.sysRead, toNat_setWidth_64, BitVec.toNat_ofNat, List.getD_cons_succ, List.getD_cons_zero]

theorem Goes.srd {s u : State} {d b : Nat} (h : s.Clear) (g : Goes 1 s (s.ws d (s.sysRead b)) u) :
    s.KeepsS u [d] ∧ s.OnlyS u ∧ u.sReg d = s.sysRead b := by
  have hi := g.infl_nil h.infl
  have hf := g.frame
  refine ⟨fun n hn => ?_, ?_, ?_⟩
  · rw [hf]
    exact sget_sput_ne 0 (by simpa using hn) _ _
  · unfold State.OnlyS
    rw [hi] at hf
    rw [hf, ← h.infl]
    rfl
  · rw [hf]
    exact sget_sput_self 0 d _ _

/-! ### SWR (R201, R177) -/

/-- What SWR to each register writes, field by field. -/
theorem Team.sysWrite_eq (t : Team) (n : Nat) (x : DWord) :
    t.sysWrite n x = { t with
      bthr := if n = 3 then x.setWidth 32 &&& 0x1FF else t.bthr
      phmargin := if n = 4 then x.setWidth 32 &&& 0xF else t.phmargin
      srng := if n = 5 then if x.setWidth 32 = 0#32 then 0x5EED0001 else x.setWidth 32 else t.srng
      tvec := if n = 8 then x &&& ~~~(0x7E#64) else t.tvec
      tcause := if n = 9 then x.setWidth 32 &&& 0x8000000F else t.tcause
      tepc := if n = 10 then x &&& ~~~(3#64) else t.tepc
      tlane := if n = 11 then x.setWidth 32 &&& 0xC0003FFF else t.tlane
      tsecond := if n = 12 then x.setWidth 32 &&& 0xFFFE else t.tsecond
      frec := if n = 13 then x else t.frec
      tmode := if n = 14 then x.setWidth 32 else t.tmode
      tclause := if n = 15 then x &&& 0x3FFFFFFFFF else t.tclause } := by
  by_cases hn : n < 16
  · interval_cases n <;> rfl
  · have hne : ∀ k, k < 16 → n ≠ k := fun k hk => by omega
    obtain ⟨m, rfl⟩ : ∃ m, n = m + 16 := ⟨n - 16, by omega⟩
    rfl

/-- The check of MODE is R177's. -/
theorem modeOk_iff (m : Word) : modeOk m = true ↔ modeWords m := by
  have hlt : m.toNat < 2 ^ 32 := m.isLt
  simp only [modeOk, Bool.and_eq_true, beq_iff_eq, decide_eq_true_eq, and_assoc]
  simp only [modeWords, bits, mRND, mET, mSF, mACC]
  omega

/-! ### PHASE (R41, R203) -/

/-- The phase of number n with expected count e, its timer off for 0 (R41). -/
def phaseTimer (n e : Nat) : PhaseTimer := if e = 0 then ⟨false, n, 0, 0⟩ else ⟨true, n, e, 0⟩

theorem startPhase_eq (t : Team) (n e : Nat) : t.startPhase n e = { t with ph := phaseTimer n e } := rfl

/-- What PHASE leaves once the entry is known: the phase timer, and what the fetch unit holds now. -/
theorem Goes.phase {s v u : State} {b e : Nat} (h : s.Clear) (hv : Touches s v)
    (g : Goes 1 s { v with t := v.t.startPhase b e } u) :
    u.t = { s.t.placeOf u.t with ph := phaseTimer b e } ∧ s.SlotsKept u ∧ u.mem = s.mem ∧
      (Claims.settled s → u = { s with t := u.t, ctxs := u.ctxs, caches := u.caches }) := by
  have ht := hv.t_of_nil h.infl
  have hf := g.frame
  have hi : u.t.infl = s.t.infl := (g.infl_nil ((congrArg Team.infl ht).trans h.infl)).trans h.infl.symm
  rw [hi, startPhase_eq, ht] at hf
  refine ⟨?_, ?_, ?_, fun hs => ?_⟩
  · rw [hf]; rfl
  · rw [hf]; exact hv.slots
  · rw [hf]; exact hv.mem_eq
  · have hvs := hv.frame_of_settled hs
    generalize v.ctxs = x at hvs
    generalize v.caches = y at hvs
    rw [hf, hvs]

theorem stays_startPhase {s v : State} (h : s.Clear) (hv : Touches s v) (b e : Nat) :
    s.Stays { v with t := v.t.startPhase b e } := by
  rw [startPhase_eq, hv.t_of_nil h.infl]
  exact ⟨rfl, rfl, rfl, rfl, rfl⟩

/-! ### SXLATE (R52, R200) -/

/-- What SXLATE leaves once the register is found: it, and what the walks have brought into the device. -/
theorem Goes.sxlate {s v u : State} {d a : Nat} {x : XReg} (h : s.Clear) (hv : Touches s v)
    (g : Goes 1 s ((v.wm d x).attach .ready [] [a] []) u) :
    Claims.oneReady s u ∧ u.mReg d = x ∧ (∀ n, n ≠ d → u.mReg n = s.mReg n) ∧ s.SlotsKept u ∧ u.mem = s.mem ∧
      (Claims.settled s → u = { s with
        t := { s.t.placeOf u.t with m := u.t.m, infl := u.t.infl }, ctxs := u.ctxs, caches := u.caches, uid := u.uid }) := by
  have ht := hv.t_of_nil h.infl
  have hf := g.frame
  have hm : u.t.m = sput {} d x s.t.m := by rw [hf, ← ht]; rfl
  refine ⟨g.oneReady ((congrArg Team.infl ht).trans h.infl) (congrArg Team.cl ht :), ?_, fun n hn => ?_, ?_, ?_, fun hs => ?_⟩
  · exact (congrArg (sget {} d) hm).trans (sget_sput_self _ _ _ _)
  · exact (congrArg (sget {} n) hm).trans (sget_sput_ne _ hn _ _)
  · rw [hf]; exact hv.slots
  · rw [hf]; exact hv.mem_eq
  · have hvs := hv.frame_of_settled hs
    generalize v.ctxs = x at hvs
    generalize v.caches = y at hvs
    rw [hf, hvs]
    rfl

theorem stays_sxlate {s v : State} (h : s.Clear) (hv : Touches s v) (d a : Nat) (x : XReg) :
    s.Stays ((v.wm d x).attach .ready [] [a] []) := by
  have ht := hv.t_of_nil h.infl
  exact ⟨(congrArg Team.tid ht :), (congrArg Team.pc ht :), (congrArg (·.cl.hdr) ht :), (congrArg (·.cl.idx) ht :),
    (congrArg Team.ord ht :)⟩

/-- SXLATE completes with the register it finds. -/
theorem execSxlate_ok {s : State} {d a slot : Nat} {x : XReg} {vs : List Nat} (h : s.Clear)
    (hc : s.checks (.sxlate d a) = none) (hslot : s.slotOf s.t.ctx = some slot)
    (hx : s.sxlate slot (s.sReg a).toNat = .ok x vs) :
    ∃ u v, exec (.sxlate d a) s = .next u ∧ Touches s v ∧ Goes 1 s ((v.wm d x).attach .ready [] [a] []) u := by
  have hv := touches_noteXls s (towerOf s.t.core) slot
    ((vs.filter fun va => va < 2 ^ 56).map fun va => (s.sReg a).toNat / 2 ^ 56 * 2 ^ 56 + va)
  obtain ⟨u, he, g⟩ := h.exec_goes hc rfl
    (by dsimp only; rw [hslot, h.rs]; dsimp only [Option.getD]; rw [hx]; rfl) (stays_sxlate h hv d a x)
  exact ⟨u, _, he, hv, g⟩

theorem execSxlate_violation {s : State} {d a slot : Nat} (h : s.Clear) (hc : s.checks (.sxlate d a) = none)
    (hslot : s.slotOf s.t.ctx = some slot) (hx : s.sxlate slot (s.sReg a).toNat = .violation) :
    exec (.sxlate d a) s = .next (s.raise 5 (s.sReg a)) :=
  h.exec_stays hc rfl (by dsimp only; rw [hslot, h.rs]; dsimp only [Option.getD]; rw [hx]) (raise_ord _ _ _)

/-- A pointer outside its region, or in none. -/
theorem sxlate_violation {s : State} {slot p va : Nat} (hva : va = p % 2 ^ 56)
    (hr : s.region? slot (p / 2 ^ 56) va = .none ∨
      ∃ e, s.region? slot (p / 2 ^ 56) va = .entry e ∧ (va < e.lower ∨ e.upper ≤ va)) :
    s.sxlate slot p = .violation := by
  subst hva
  unfold State.sxlate
  rcases hr with hn | ⟨e, he, hout⟩
  · simp only [hn]
  · simp only [he, if_pos hout]

/-- A pointer in its region whose page is absent. -/
theorem sxlate_absent {s : State} {slot p va : Nat} {e : RegionEnt} {q : List TlbEntry} (hva : va = p % 2 ^ 56)
    (hr : s.region? slot (p / 2 ^ 56) va = .entry e) (hin : ¬(va < e.lower ∨ e.upper ≤ va))
    (hp : s.pageOf slot va = .absent q) :
    s.sxlate slot p = .ok { region := BitVec.ofNat 8 (p / 2 ^ 56), vbase := BitVec.ofNat 56 va, v := true } [va] := by
  subst hva
  unfold State.sxlate
  simp only [hr, if_neg hin, hp]

/-- A pointer in its region whose page is present. -/
theorem sxlate_page {s : State} {slot p va : Nat} {e : RegionEnt} {l : Leaf} {q : List TlbEntry} {run : Nat} {vs : List Nat}
    (hva : va = p % 2 ^ 56) (hr : s.region? slot (p / 2 ^ 56) va = .entry e) (hin : ¬(va < e.lower ∨ e.upper ≤ va))
    (hp : s.pageOf slot va = .page l q)
    (hrun : s.runFrom slot l 34 (va + (l.size - va % l.size)) (l.size - va % l.size) = .inl (run, vs)) :
    s.sxlate slot p = .ok
      { region := BitVec.ofNat 8 (p / 2 ^ 56), vbase := BitVec.ofNat 56 va, v := true
        framepg := BitVec.ofNat 28 ((l.frame + va % l.size) / 2 ^ 16)
        limit := BitVec.ofNat 22 (min run (min 0x200000 (e.upper - va)))
        rd := l.rd && e.rd, w := l.w && e.w } (va :: vs) := by
  subst hva
  unfold State.sxlate
  simp only [hr, if_neg hin, hp, hrun]

end Sys2Proof.Machine

open Sys2Proof Sys2Proof.Machine Sys2Proof.Claims

/-- Settles O16: SRD and SWR complete (`State.Clear.exec_goes`); what a read gives is `sysRead_eq`, what a write leaves
`Team.sysWrite_eq`, and the check of MODE is R177's (`modeOk_iff`). -/
theorem systemRegisters : Obligations.SystemRegisters := by
  unfold Obligations.SystemRegisters
  refine ⟨fun d b s h hc => ?_, fun a b s h hc hb => ?_, fun a new s h hc hnew => ?_⟩
  · have hb : b < 17 := by
      have := wf_of_checks hc
      simp [Instr.wf, FieldClass.ok] at this
      omega
    obtain ⟨u, he, g⟩ := h.exec_goes (w := s.ws d (s.sysRead b)) hc rfl rfl ⟨rfl, rfl, rfl, rfl, rfl⟩
    obtain ⟨hkeeps, honly, hval⟩ := g.srd h
    exact ⟨u, he, hkeeps, g.past, honly, hval ▸ sysRead_eq s hb⟩
  · have hw : s.t.sysWrite b (s.rs a) = _ := Team.sysWrite_eq _ _ _
    obtain ⟨u, he, g⟩ := h.exec_goes (w := { s with t := s.t.sysWrite b (s.rs a) }) hc rfl (if_neg hb)
      (by rw [hw]; exact ⟨rfl, rfl, rfl, rfl, rfl⟩)
    have hi := g.infl_nil (by rw [hw]; exact h.infl)
    have hf := g.frame
    rw [hi, ← h.infl, hw, h.rs] at hf
    refine ⟨u, he, g.past, ?_, ?_, ?_, ?_, ?_, ?_, ?_, ?_, ?_, ?_, ?_, ?_⟩ <;> rw [hf] <;> rfl
  · subst hnew
    refine ⟨fun hm => ?_, fun hm => ?_⟩
    · have hok : modeOk ((s.rs a).setWidth 32) = true := (modeOk_iff _).2 (h.rs a ▸ hm)
      obtain ⟨u, he, g⟩ := h.exec_goes (w := { s with t := { s.t with mode := (s.rs a).setWidth 32 } }) hc rfl
        ((if_pos rfl).trans (if_pos hok)) ⟨rfl, rfl, rfl, rfl, rfl⟩
      have hi := g.infl_nil h.infl
      have hf := g.frame
      rw [hi, ← h.infl, h.rs] at hf
      refine ⟨u, he, ?_, g.past, ?_⟩ <;> rw [hf] <;> rfl
    · have hok : ¬modeOk ((s.rs a).setWidth 32) = true := fun k => hm (h.rs a ▸ (modeOk_iff _).1 k)
      rw [← h.rs a]
      exact h.exec_stays hc rfl ((if_pos rfl).trans (if_neg hok)) (raise_ord _ _ _)
/-- Settles O17: PHASE by what its line's phase table gives (`Goes.phase`), SXLATE by what the region check and the walk
meet (`sxlate_page`, `sxlate_absent`, `sxlate_violation`). -/
theorem phaseAndSxlate : Obligations.PhaseAndSxlate := by
  unfold Obligations.PhaseAndSxlate
  refine ⟨fun b s h hc => ⟨fun hp => ?_, fun slot p hp hslot hptr => ⟨fun bs hread => ?_, fun c x hread => ?_⟩⟩, ?_⟩
  · obtain ⟨u, he, g⟩ := h.exec_goes (w := { s with t := s.t.startPhase b 0 }) hc rfl (if_pos hp)
      (stays_startPhase h (.refl s) b 0)
    obtain ⟨ht, -⟩ := g.phase h (.refl s)
    have hf := g.frame
    rw [g.infl_nil h.infl, ← h.infl] at hf
    exact ⟨u, he, g.past, by rw [ht]; rfl, by rw [hf]; rfl⟩
  · have hv := touches_keepRead s slot 2 s.t.cl.ptab (ptrAdd (s.slot slot).ptabbase.toNat (1024 * s.t.cl.ptab)) 1024
    obtain ⟨u, he, g⟩ := h.exec_goes hc rfl
      (by dsimp only; rw [if_neg hp, hslot]; dsimp only [Option.getD]; rw [← hptr, hread]; rfl)
      (stays_startPhase h hv b (leNat bs))
    obtain ⟨ht, hslots, hmem, hset⟩ := g.phase h hv
    exact ⟨u, he, g.past, hslots, hmem, hset, ht⟩
  · refine h.exec_stays hc rfl ?_ (fetchFault_ord s slot _ c x _)
    dsimp only; rw [if_neg hp, hslot]; dsimp only [Option.getD]; rw [← hptr, hread]
  intro d a slot va s h hc hslot hva
  have hp := (s.sReg a).isLt
  have hregion : (BitVec.ofNat 8 ((s.sReg a).toNat / 2 ^ 56)).toNat = (s.sReg a).toNat / 2 ^ 56 := by
    rw [BitVec.toNat_ofNat]; omega
  have hvbase : (BitVec.ofNat 56 va).toNat = va := by
    rw [BitVec.toNat_ofNat]; omega
  refine ⟨fun e hr hlo hhi hbad hruns => ?_, fun hr => execSxlate_violation h hc hslot (sxlate_violation hva hr)⟩
  have hin : ¬(va < e.lower ∨ e.upper ≤ va) := by omega
  cases hpage : s.pageOf slot va with
  | bad st => exact absurd hpage (hbad st)
  | absent q =>
    obtain ⟨u, v, he, hv, g⟩ := execSxlate_ok h hc hslot (sxlate_absent hva hr hin hpage)
    obtain ⟨hone, hd, hne, hslots, hmem, hset⟩ := g.sxlate h hv
    refine ⟨u, he, g.past, hone, ?_, ?_, ?_, nofun, fun _ _ => ?_, hne, hslots, hmem, hset⟩ <;> rw [hd]
    · exact hregion
    · exact hvbase
  | page l q =>
    cases hrun : s.runFrom slot l 34 (va + (l.size - va % l.size)) (l.size - va % l.size) with
    | inr st => exact absurd hrun (hruns l q st hpage)
    | inl r =>
      obtain ⟨u, v, he, hv, g⟩ := execSxlate_ok h hc hslot (sxlate_page hva hr hin hpage hrun)
      obtain ⟨hone, hd, hne, hslots, hmem, hset⟩ := g.sxlate h hv
      refine ⟨u, he, g.past, hone, ?_, ?_, ?_, fun l' q' run vs hl hr' => ?_, nofun, hne, hslots, hmem, hset⟩ <;> rw [hd]
      · exact hregion
      · exact hvbase
      · obtain ⟨rfl, rfl⟩ := Walk.page.inj hl
        rw [hrun] at hr'
        cases hr'
        exact ⟨rfl, rfl, rfl, rfl⟩

end

section
/-! ## Holds come first, then checks, then the effect (R31, R38, R46, R171, R181) -/

namespace Sys2Proof.Machine
open Sys2Proof Sys2Proof.Claims

/-- Every instruction word goes through `issue`. -/
theorem exec_eq_issue {i : Instr} (h : i.raw.isSome) (s : State) : ∃ body, exec i s = .next (Machine.issue i s body) := by
  cases i <;> cases h <;> exact ⟨_, rfl⟩

/-- An instruction that is held back leaves its team where it is. -/
theorem exec_blocked {i : Instr} {s : State} {w : Wait} (h : i.raw.isSome) (hb : s.blocked i = some w) :
    exec i s = .next (s.hold (if s.t.appending then s.t.wait else w)) := by
  obtain ⟨body, e⟩ := exec_eq_issue h s
  rcases issue_cases i s body with ⟨x, hx, k⟩ | ⟨hn, -⟩ | ⟨hn, -⟩
  · obtain rfl : w = x := Option.some.inj (hb.symm.trans hx)
    rw [e, k]
  · simp [hn] at hb
  · simp [hn] at hb

/-- One that fails a check takes its trap and does nothing else. -/
theorem exec_fails_check {i : Instr} {s : State} {c : Chk} (h : i.raw.isSome) (hb : s.blocked i = none)
    (hc : s.checks i = some c) : exec i s = .next (s.chkRaise i c) := by
  obtain ⟨body, e⟩ := exec_eq_issue h s
  rcases issue_cases i s body with ⟨x, hx, -⟩ | ⟨-, x, hx, k⟩ | ⟨-, hn, -⟩
  · simp [hb] at hx
  · obtain rfl : c = x := Option.some.inj (hc.symm.trans hx)
    rw [e, k]
  · simp [hn] at hc

/-- The conditions that make a team wait, R38's apart. -/
def State.waits (s : State) (i : Instr) : Prop :=
  s.t.dec ≠ [] ∨ (isMemory i = true ∧ (s.acquiring = true ∨ s.destUnknown = true)) ∨ s.interlocked i = true ∨
    (i.attaches = true ∧ ∃ f, s.t.nextFlag = some f ∧ 63 ≤ s.t.flagCount f)

/-- What keeps an instruction of a team back whose context goes on and that is in no CMPCT: a condition of R31, else R38. -/
theorem blocked_cases (s : State) (i : Instr) (hctx : s.ctxEnding s.t.ctx = false) (happ : s.t.appending = false) :
    (s.waits i ∧ s.blocked i = some .other) ∨
      (¬s.waits i ∧ s.blocked i = if s.stopped i then some .held else none) := by
  unfold State.blocked
  rw [if_neg (by simp [hctx]), if_neg (by simp [happ])]
  by_cases hd : s.t.dec = []
  · rw [if_neg (by simp [hd])]
    by_cases hw : s.waits i
    · refine .inl ⟨hw, if_pos ?_⟩
      cases hf : s.t.nextFlag <;> simpa [State.waits, hd, hf, or_assoc] using hw
    · refine .inr ⟨hw, if_neg ?_⟩
      cases hf : s.t.nextFlag <;> simpa [State.waits, hd, hf, and_assoc] using hw
  · rw [if_pos (by simp [hd])]
    exact .inl ⟨.inl hd, rfl⟩

theorem blocked_ending {s : State} (i : Instr) (h : s.ctxEnding s.t.ctx = true) : s.blocked i = some .other := if_pos h

/-- A CMPCT that has appended some of its items only goes on. -/
theorem blocked_appending {s : State} (i : Instr) (hctx : s.ctxEnding s.t.ctx = false) (h : s.t.appending = true) :
    s.blocked i = none := by
  unfold State.blocked
  rw [if_neg (by simp [hctx]), if_pos h]

/-- A team is held back by no other conditions: it waits, or R38 alone holds it. -/
theorem blocked_kinds (s : State) (i : Instr) :
    s.blocked i = none ∨ s.blocked i = some .held ∨ s.blocked i = some .other := by
  cases hctx : s.ctxEnding s.t.ctx with
  | true => exact .inr (.inr (blocked_ending i hctx))
  | false =>
    cases happ : s.t.appending with
    | true => exact .inl (blocked_appending i hctx happ)
    | false =>
      rcases blocked_cases s i hctx happ with ⟨-, h⟩ | ⟨-, h⟩
      · exact .inr (.inr h)
      · cases hs : s.stopped i <;> simp [h, hs]

/-- What R38 stops does not issue. -/
theorem blocked_of_stopped {s : State} {i : Instr} (h : s.stopped i = true) (happ : s.t.appending = false) :
    s.blocked i ≠ none := by
  cases hctx : s.ctxEnding s.t.ctx with
  | true => simp [blocked_ending i hctx]
  | false =>
    rcases blocked_cases s i hctx happ with ⟨-, k⟩ | ⟨-, k⟩
    · simp [k]
    · simp [k, h]

/-- Where R38 alone stops a team, it is held. -/
theorem held_of_stopped {s : State} {i : Instr} (h : s.stopped i = true) (happ : s.t.appending = false)
    (hctx : s.ctxEnding s.t.ctx = false) (hw : ¬s.waits i) : s.blocked i = some .held := by
  rcases blocked_cases s i hctx happ with ⟨k, -⟩ | ⟨-, k⟩
  · exact absurd k hw
  · rw [k, h]; rfl

/-- A field outside its class is found by the check, whatever the machine holds. -/
theorem checks_ill_formed (s : State) {i : Instr} (h : i.wf = false) : s.checks i = some .ill := by
  unfold State.checks
  rw [if_pos (by simp [h])]

end Sys2Proof.Machine

open Sys2Proof Sys2Proof.Machine Sys2Proof.Claims

/-- Settles O8: every instruction goes through `issue` (`exec_eq_issue`), which holds it back (`exec_blocked`), or lets a check
trap it (`exec_fails_check`), before it acts. -/
theorem issueOrder : Obligations.IssueOrder := by
  unfold Obligations.IssueOrder
  refine ⟨fun i s w h hb => exec_blocked h hb, fun i s => ⟨blocked_kinds s i, fun h happ => ⟨blocked_of_stopped h happ, ?_⟩⟩,
    fun i s c h hb hc => exec_fails_check h hb hc, fun i s h => checks_ill_formed s h, fun s n => s.pick_mem _ _ _⟩
  intro hdec hctx hmem hlock hflag
  refine held_of_stopped h happ hctx ?_
  rintro (hd | ⟨hm, ha | hu⟩ | hl | ⟨ha, f, hf, hlt⟩)
  · exact hd hdec
  · simp [(hmem hm).1] at ha
  · simp [(hmem hm).2] at hu
  · simp [hlock] at hl
  · exact absurd (hflag f ha hf) (by omega)

end

section
/-! ## A fetch while an acquire of the team is not done (R350) -/

namespace Sys2Proof.Machine
open Sys2Proof Sys2Proof.Claims

namespace AcquiringFetch

/-- An UNSEAL of the team that is not done. -/
def pending : Infl := { u := 77, flag := none, saves := [], srcV := [], srcS := [], on := .unseal 0x10000 0x10000 9 }

/-- A team at the start of the code heap, between clauses, whose last instruction lies in no line of the heap. -/
def state : State := (State.reset.place [0]).modT fun t => { t with infl := [pending] }

/-- The line of the heap's first address can be read. -/
def readable : Bool := match state.fetchLine 15 0x200000 with | .line .. => true | _ => false

/-- A fetch of that address leaves the fetch unit without a line. -/
def keepsNone : Bool :=
  match exec (.instructionFetch 0x200000) state with
  | .next u => (u.slot 15).code.isEmpty
  | _ => false

theorem readable_state : readable = true := by decide +kernel

theorem exists_line : ∃ ws il pt k, state.fetchLine 15 0x200000 = .line ws il pt k := by
  have h := readable_state
  unfold readable at h
  split at h
  · next e => exact ⟨_, _, _, _, e⟩
  · cases h

theorem keepsNone_state : keepsNone = true := by decide +kernel

theorem settled_state : settled state := by
  have ht : state.t.infl = [pending] := rfl
  have ho : state.others = [] := by decide +kernel
  intro t hmem f hf
  rw [ho, List.mem_singleton] at hmem
  subst hmem
  rw [ht, List.mem_singleton] at hf
  subst hf
  rfl

end AcquiringFetch

end Sys2Proof.Machine

open Sys2Proof Sys2Proof.Machine

/-- Refutes O56: its first clause does not say that no acquire of the team is outstanding. In `AcquiringFetch.state` an UNSEAL
is not done, and the fetch of another line follows it (R350): the line can be read, but the fetch unit does not come to
hold it. -/
theorem not_teamEvents : ¬ Obligations.TeamEvents := by
  unfold Obligations.TeamEvents
  rintro ⟨hfetch, -⟩
  obtain ⟨ws, il, pt, k, hline⟩ := AcquiringFetch.exists_line
  obtain ⟨u, i, hexec, -, -, hmem, -⟩ :=
    (hfetch 0x200000 15 AcquiringFetch.state (by decide +kernel) rfl (by decide +kernel) rfl).1 ws il pt k hline
      AcquiringFetch.settled_state
  have hnone := AcquiringFetch.keepsNone_state
  simp only [AcquiringFetch.keepsNone, hexec, List.isEmpty_iff] at hnone
  simp [hnone] at hmem

end

section
/-! ## A step runs what the words at pc decode to (R31, R32, R166, R181, R191, R350) -/

namespace Sys2Proof.Machine
open Sys2Proof Sys2Proof.Claims

/-- Every row has an outcome that goes on. -/
theorem exec_next (i : Instr) (s : State) : ∃ u, exec i s = .next u := by
  cases i <;> exact ⟨_, rfl⟩

/-! ### What the passage of time leaves -/

/-- u has the power, the trip and the acts of s. -/
def State.SameRun (s u : State) : Prop := u.acts = s.acts ∧ u.pkg.pwrok = s.pkg.pwrok ∧ u.pkg.tripped = s.pkg.tripped

theorem State.SameRun.trans {s u w : State} (h : s.SameRun u) (k : u.SameRun w) : s.SameRun w := by
  obtain ⟨ha, hp, ht⟩ := h
  obtain ⟨ka, kp, kt⟩ := k
  exact ⟨ka.trans ha, kp.trans hp, kt.trans ht⟩

theorem State.SameRun.clocked {s u : State} (h : s.SameRun u) : u.clocked = s.clocked := by
  obtain ⟨-, hp, ht⟩ := h
  rw [State.clocked, State.clocked, hp, ht]

theorem sameRun_foldl {α : Type} {f : State → α → State} (hf : ∀ (s : State) (x : α), s.SameRun (f s x)) (l : List α)
    (s : State) : s.SameRun (l.foldl f s) := by
  induction l generalizing s with
  | nil => exact ⟨rfl, rfl, rfl⟩
  | cons x r ih => exact (hf s x).trans (ih _)

theorem sameRun_press (s : State) (gid : Nat) : s.SameRun (s.press gid) := by
  unfold State.press
  split
  · exact ⟨rfl, rfl, rfl⟩
  · split <;> exact ⟨rfl, rfl, rfl⟩

theorem sameRun_ageGrids (s : State) : s.SameRun s.ageGrids :=
  State.SameRun.trans (u := { s with grids := _ }) ⟨rfl, rfl, rfl⟩
    (sameRun_foldl (fun s (g : Grid) => sameRun_press s g.gid) _ _)

theorem sameRun_coolFor (s : State) (n : Nat) : s.SameRun (s.coolFor n) := ⟨rfl, rfl, rfl⟩

theorem sameRun_modQuad (s : State) (q : Nat) (f : Quad → Quad) : s.SameRun (s.modQuad q f) := by
  unfold State.modQuad
  split <;> exact ⟨rfl, rfl, rfl⟩

theorem sameRun_tickQuads (s : State) (l : List Nat) : s.SameRun (l.foldl (fun s q => s.tickQuad q) s) :=
  sameRun_foldl (fun s q => sameRun_modQuad s q _) l s

theorem sameRun_dueTimes (s : State) : s.SameRun s.dueTimes := ⟨rfl, rfl, rfl⟩

theorem sameRun_sweepSeals (s : State) : s.SameRun s.sweepSeals :=
  sameRun_foldl (f := fun s (e : Seal) => s.dropSeal e.base e.len e.ctx) (fun _ _ => ⟨rfl, rfl, rfl⟩) _ s

theorem sameRun_trackHead (s : State) : s.SameRun s.trackHead := by
  unfold State.trackHead
  split <;> split <;> exact ⟨rfl, rfl, rfl⟩

theorem sameRun_pass (s : State) (n : Nat) : s.SameRun (s.pass n) := by
  unfold State.pass
  dsimp only
  refine .trans ?_ (sameRun_trackHead _)
  refine .trans ?_ (sameRun_sweepSeals _)
  refine .trans ?_ (sameRun_dueTimes _)
  refine .trans ?_ (sameRun_ageGrids _)
  refine .trans ?_ (sameRun_tickQuads _ _)
  refine .trans ?_ (sameRun_coolFor _ _)
  exact ⟨rfl, rfl, rfl⟩

/-- Before a step acts, nothing is taken of what comes from outside, and no clock stops. -/
theorem sameRun_tick (s : State) : s.SameRun s.tick := by
  have hrise : s.SameRun { s with free := s.free + 1 } := ⟨rfl, rfl, rfl⟩
  have hready (w : State) : w.SameRun w.refresh := ⟨rfl, rfl, rfl⟩
  unfold State.tick
  dsimp only
  split
  · exact (hrise.trans (hready _)).trans (sameRun_pass _ _)
  · exact hrise

/-! ### Turns -/

theorem step_of_run {s u : State} {i : Instr} (h : s.tick.pick_ = .run i u) : step s = exec i u := by
  rw [step, h]

theorem step_of_idle {s u : State} (h : s.tick.pick_ = .idle u) : step s = .next u := by
  rw [step, h]

/-- A team's turn, while the clocks run. -/
theorem pick_issue {s : State} {tid : Nat} {rest : List Act} (hc : s.clocked = true) (ha : s.acts = .issue tid :: rest) :
    s.tick.pick_ =
      if s.tick.selectable tid then ({ s.tick with acts := rest }).issueTurn tid else .idle { s.tick with acts := rest } := by
  have h := sameRun_tick s
  rw [State.pick_, h.1, ha]
  dsimp only
  rw [h.clocked, hc, Bool.true_and]

theorem issueTurn_ne_stopped (s : State) (tid : Nat) : s.issueTurn tid ≠ .stopped := by
  unfold State.issueTurn
  split <;> exact nofun

theorem slotTurn_ne_stopped (s : State) (core n : Nat) : s.slotTurn core n ≠ .stopped := by
  unfold State.slotTurn
  dsimp only
  split
  · exact nofun
  · exact issueTurn_ne_stopped _ _

theorem pickTurn_ne_stopped (s : State) : s.pickTurn ≠ .stopped := by
  unfold State.pickTurn
  split
  · exact nofun
  · unfold State.takeTurn
    split
    · exact slotTurn_ne_stopped _ _ _
    all_goals exact nofun

theorem ite_ne_stopped {c : Prop} [Decidable c] {p q : Pick} (hp : p ≠ .stopped) (hq : q ≠ .stopped) :
    (if c then p else q) ≠ .stopped := by
  split <;> assumption

/-- Nothing is left to happen only after a thermal trip, when nothing outside is waiting (R433). -/
theorem of_pick_stopped {s : State} (h : s.pick_ = .stopped) : s.acts = [] ∧ s.pkg.tripped = true := by
  have hturn : s.pickTurn ≠ .stopped := pickTurn_ne_stopped s
  unfold State.pick_ at h
  split at h
  case h_1 => exact absurd h (ite_ne_stopped nofun (ite_ne_stopped hturn nofun))
  case h_2 => exact absurd h (ite_ne_stopped nofun (ite_ne_stopped hturn nofun))
  case h_3 =>
    refine absurd h (ite_ne_stopped nofun ?_)
    split
    · exact nofun
    · exact hturn
  case h_4 => cases h
  case h_5 => cases h
  case h_6 => cases h
  case h_7 => exact absurd h (ite_ne_stopped (issueTurn_ne_stopped _ _) nofun)
  case h_8 e =>
    by_cases hc : s.clocked = true
    · exact absurd (by rwa [if_pos hc] at h) hturn
    · rw [if_neg hc] at h
      by_cases ht : s.pkg.tripped = true
      · exact ⟨e, ht⟩
      · rw [if_neg ht] at h
        cases h

/-! ### The front of an issue -/

/-- Nothing comes before the words at the team's pc: no wait, no cause and no CMPCT under way (R31, R40, R206). -/
structure State.Fetches (s : State) (slot : Nat) : Prop where
  slotOf : s.slotOf s.t.ctx = some slot
  runs : s.runs s.t = true
  inTime : s.phaseOver s.t = false
  wait : s.t.wait = .none
  dec : s.t.dec = []
  pend : s.t.pendB = []

theorem State.Fetches.front {s : State} {slot : Nat} (h : s.Fetches slot) :
    s.front = if s.t.cl.idx = 0 then s.frontHeader slot else s.frontWord slot := by
  have happ : s.t.appending = false := by simp [Team.appending, Team.appended, h.wait]
  unfold State.front
  simp [h.slotOf, h.runs, h.inTime, h.wait, h.dec, h.pend, happ]

theorem State.Fetches.front_header {s : State} {slot : Nat} (h : s.Fetches slot) (hidx : s.t.cl.idx = 0) :
    s.front = s.frontHeader slot := by rw [h.front, if_pos hidx]

theorem State.Fetches.front_word {s : State} {slot : Nat} (h : s.Fetches slot) (hidx : s.t.cl.idx ≠ 0) :
    s.front = s.frontWord slot := by rw [h.front, if_neg hidx]

/-- A line that can be read gives the word, where no acquire holds the fetch back. -/
theorem wordAt_line {s : State} {slot x idx pt k : Nat} {ws : List Word} {il : Bool} (hw : s.fetchWaits x idx = false)
    (hl : s.fetchLine slot x = .line ws il pt k) :
    s.wordAt slot x idx = .ok (ws.getD (x / 4 % 32) 0) il pt (s.keepLine slot x ws il pt k) := by
  rw [State.wordAt, hw, hl]
  rfl

/-- A word that has been fetched leaves what keeping its line leaves. -/
theorem touches_wordAt {s u : State} {slot x idx pt : Nat} {w : Word} {il : Bool} (h : s.wordAt slot x idx = .ok w il pt u) :
    Touches s u := by
  unfold State.wordAt at h
  split at h
  · cases h
  · split at h
    case h_1 =>
      cases h
      exact touches_keepLine _ _ _ _ _ _ _
    all_goals cases h

theorem touches_litsAt {s u : State} {slot n x idx : Nat} {acc ls : List Word} (h : s.litsAt slot n x idx acc = .inl (ls, u)) :
    Touches s u := by
  induction n generalizing s x idx acc with
  | zero =>
    cases h
    exact .refl _
  | succ n ih =>
    unfold State.litsAt at h
    split at h
    · next e => exact (touches_wordAt e).trans (ih h)
    · cases h

/-- The team's line has this phase table. -/
def State.inLine (s : State) (pt : Nat) : State := { s with t := { s.t with cl := { s.t.cl with ptab := pt } } }

/-- A word of a clause in its place there decodes with its literals (R166, R168, R181). -/
theorem frontWord_go {s s1 s3 : State} {slot pt n : Nat} {w : Word} {ls : List Word} {il : Bool} {i : Instr} {f : Form}
    (hA : hSETA s.t.cl.hdr ∉ [12, 13, 14]) (hB : hSETB s.t.cl.hdr ∉ [12, 13, 14])
    (hw : s.wordAt slot s.t.pc.toNat s.t.cl.idx = .ok w il pt s1) (hf : formOf (opOf w) = some f)
    (hin : s.t.cl.idx + f.nLits (bOf w) ≤ hLEN s.t.cl.hdr)
    (hctl : f.ctl = true → s.t.cl.idx + f.nLits (bOf w) = hLEN s.t.cl.hdr)
    (hl : (s1.inLine pt).litsAt slot (f.nLits (bOf w)) (s.t.pc.toNat + 4) (s.t.cl.idx + 1) [] = .inl (ls, s3))
    (hd : decodeWords w ls = .ok (i, n)) : s.frontWord slot = .go i s3 := by
  simp only [List.mem_cons, List.not_mem_nil, or_false, not_or] at hA hB
  unfold State.frontWord
  dsimp only
  simp only [hw, hf]
  rw [if_neg ?_]
  · change (match (s1.inLine pt).litsAt slot _ _ _ _ with | .inr s3 => _ | .inl (ls, s3) => _) = _
    rw [hl]
    dsimp only
    rw [hd]
  · cases hc : f.ctl
    · simp [hA, hB]; omega
    · have := hctl hc
      simp [hA, hB]; omega

/-- What fetching a word and its literals leaves of a settled machine. -/
theorem fetched_frame {s s1 s3 : State} {pt : Nat} (h : Touches s s1) (k : Touches (s1.inLine pt) s3) (hs : settled s) :
    s.SlotsKept s3 ∧
      s3 = { s with t := { s.t with cl := { s.t.cl with ptab := pt } }, ctxs := s3.ctxs, caches := s3.caches } := by
  have e1 := h.frame_of_settled hs
  have hs1 : settled (s1.inLine pt) := by
    intro t hm f hf
    rcases List.mem_cons.1 hm with rfl | hm
    · exact h.settled_of hs s1.t List.mem_cons_self f hf
    · exact h.settled_of hs t (List.mem_cons_of_mem _ hm) f hf
  refine ⟨h.slots.trans k.slots, ?_⟩
  have e3 := k.frame_of_settled hs1
  rw [e1] at e3
  exact e3

/-- Landing on a header whose flags are clear, where the mode stays, goes on to the clause's first word (R167, R170). -/
theorem frontHeader_word {s s1 : State} {slot pt : Nat} {h : Word} {il : Bool} {t2 : Team} (hpc : s.t.pc.toNat % 4 = 0)
    (hw : s.wordAt slot s.t.pc.toNat 0 = .ok h il pt s1) (hh : headerOk h = true) (hil : il = s.t.cl.intlk)
    (ht : t2 = { s1.t with
      cl := { hdr := h, idx := 1, aused := false, arr := false, intlk := il, ptab := pt }
      pc := s1.t.pc + 4, clno := s1.t.clmax + 1, clmax := s1.t.clmax + 1, landing := 0
      cyc := s.t.cyc, recent := s.t.recent })
    (hclear : il = true ∨ t2.waitClear = true) : s.frontHeader slot = ({ s1 with t := t2 }).frontWord slot := by
  subst ht
  have hturn : (il != s.t.cl.intlk) = false := by simp [hil]
  unfold State.frontHeader
  dsimp only
  rw [if_neg (by simp [hpc]), hw]
  dsimp only
  simp only [hh, hturn, Bool.not_true, Bool.false_eq_true, if_false, Bool.false_and]
  rw [if_neg]
  intro hno
  obtain ⟨hno1, hno2⟩ := Bool.and_eq_true_iff.1 hno
  rw [Bool.not_eq_true'] at hno1 hno2
  rcases hclear with hc | hc
  · exact Bool.false_ne_true (hno1.symm.trans hc)
  · exact Bool.false_ne_true (hno2.symm.trans hc)

/-- The first word of the next line is not fetched before an acquire is done (R350). -/
theorem wordAt_acquiring {s : State} {slot x idx : Nat} (hidx : idx ≠ 0) (hx : x % 128 = 0) (ha : s.acquiring = true) :
    s.wordAt slot x idx = .stop (s.hold .other) := by
  rw [State.wordAt, if_pos]
  simp [State.fetchWaits, ha, hidx, hx]

end Sys2Proof.Machine

open Sys2Proof Sys2Proof.Machine Sys2Proof.Claims

/-- Settles O6: the front of an issue is followed branch by branch, and the passage of time takes nothing of what comes from
outside. -/
theorem stepRunsDecoded : Obligations.StepRunsDecoded := by
  unfold Obligations.StepRunsDecoded
  refine ⟨?_, ?_, ?_, ?_, ?_, ?_⟩
  · intro s s1 i tid rest hc ha
    have hp := pick_issue hc ha
    refine ⟨fun hsel hfront => step_of_run ?_, fun hsel => step_of_idle ?_⟩
    · rw [hp, if_pos hsel, State.issueTurn, hfront]
    · rw [hp, hsel]
      rfl
  · intro s slot w ls il pt k i f n hs hslot hruns hover hwait hdec hpend hidx hA hB hacq hline hw hf hn hin hctl hd
    have hfetch : s.Fetches slot := ⟨hslot, hruns, hover, hwait, hdec, hpend⟩
    have hfree : s.fetchWaits s.t.pc.toNat s.t.cl.idx = false := by
      rcases hacq with h | h <;> simp [State.fetchWaits, h, hidx]
    have hword := wordAt_line hfree hline
    rw [← hw] at hword
    refine ⟨(s.keepLine slot s.t.pc.toNat ls il pt k).inLine pt, ?_,
      fetched_frame (touches_wordAt hword) (.refl _) hs⟩
    rw [hfetch.front_word hidx]
    exact frontWord_go hA hB hword hf (by rw [hn]; exact hin) (by rw [hn]; exact hctl) (by rw [hn]; rfl) hd
  · intro s s1 s3 slot w ls il pt i f n hslot hruns hover hwait hdec hpend hidx hA hB hword hf hin hctl hlits hd
    have hfetch : s.Fetches slot := ⟨hslot, hruns, hover, hwait, hdec, hpend⟩
    refine ⟨?_, fetched_frame (touches_wordAt hword) (touches_litsAt hlits)⟩
    rw [hfetch.front_word hidx]
    exact frontWord_go hA hB hword hf hin hctl hlits hd
  · intro s s1 slot h il pt hslot hruns hover hwait hdec hpend hidx hpc hword hh hil
    have hfetch : s.Fetches slot := ⟨hslot, hruns, hover, hwait, hdec, hpend⟩
    refine ⟨fun hclear => ?_, fun hs => ⟨(touches_wordAt hword).slots, (touches_wordAt hword).frame_of_settled hs⟩⟩
    rw [hfetch.front_header hidx]
    exact frontHeader_word hpc hword hh hil rfl hclear
  · intro s slot hslot hruns hover hwait hdec hpend hidx hpc hacq
    have hfetch : s.Fetches slot := ⟨hslot, hruns, hover, hwait, hdec, hpend⟩
    rw [hfetch.front_word hidx, State.frontWord]
    dsimp only
    rw [wordAt_acquiring hidx hpc hacq]
  · intro s
    have hrun := sameRun_tick s
    cases hp : s.tick.pick_ with
    | run i u =>
      obtain ⟨v, hv⟩ := exec_next i u
      rw [step_of_run hp, hv]
      exact ⟨nofun, nofun⟩
    | idle u =>
      rw [step_of_idle hp]
      exact ⟨nofun, nofun⟩
    | stopped =>
      obtain ⟨hacts, htrip⟩ := of_pick_stopped hp
      rw [step, hp]
      refine ⟨nofun, fun f hf => ?_⟩
      cases hf
      exact ⟨rfl, hrun.2.2 ▸ htrip, hrun.1 ▸ hacts⟩

end

section
/-! ## Work lists (R44, R45, R276, R277) -/

namespace Sys2Proof.Machine
open Sys2Proof Sys2Proof.Claims

/-! ### Lanes and their vector registers -/

theorem laneOn_lt {s : State} {l : Nat} (h : s.laneOn l = true) : l < 1024 := by
  simp only [State.laneOn, Bool.and_eq_true] at h
  obtain ⟨⟨-, hm⟩, -⟩ := h
  exact BitVec.lt_of_getLsbD hm

theorem onLanes_lt {s : State} {l : Nat} (h : l ∈ onLanes s) : l < 1024 := laneOn_lt (List.mem_filter.1 h).2

theorem onLanes_nodup (s : State) : (onLanes s).Nodup := List.nodup_range.filter _

/-- The active lanes of a team that nothing holds back (R20). -/
theorem State.Clear.actLanes {s : State} (h : s.Clear) : s.actLanes = onLanes s := by
  refine List.filter_congr fun l _ => ?_
  by_cases hl : l < 1024
  · exact h.getLsbD_active hl
  · rw [BitVec.getLsbD_of_ge _ _ (by omega)]
    exact (Bool.eq_false_iff.2 fun k => hl (laneOn_lt k)).symm

/-- A key that no pair names keeps its cell. -/
theorem sget_sputs_of_notMem {α : Type} [DecidableEq α] (z : α) {k : Nat} (l : List (Nat × α)) (m : SMap α)
    (h : ∀ p ∈ l, p.1 ≠ k) : sget z k (sputs z l m) = sget z k m := by
  induction l generalizing m with
  | nil => rfl
  | cons p r ih =>
    refine (ih _ fun q hq => h q (List.mem_cons_of_mem _ hq)).trans ?_
    exact sget_sput_ne z (h p List.mem_cons_self).symm _ _

/-- A key that one pair names holds its value. -/
theorem sget_sputs_of_mem {α : Type} [DecidableEq α] (z : α) {k : Nat} {x : α} {l : List (Nat × α)} (m : SMap α)
    (hn : (l.map (·.1)).Nodup) (h : (k, x) ∈ l) : sget z k (sputs z l m) = x := by
  induction l generalizing m with
  | nil => cases h
  | cons p r ih =>
    rw [List.map_cons, List.nodup_cons] at hn
    obtain ⟨hp, hr⟩ := hn
    rcases List.mem_cons.1 h with rfl | h
    · refine (sget_sputs_of_notMem z r _ fun q hq e => hp (List.mem_map.2 ⟨q, hq, e⟩)).trans ?_
      exact sget_sput_self z k x m
    · exact ih _ hr h

/-- Writing v_n leaves every other vector register. -/
theorem vReg_wv_ne {s : State} {n k lane : Nat} {l : List (Nat × Word)} (hl : ∀ p ∈ l, p.1 < 1024) (hk : k ≠ n)
    (hlane : lane < 1024) : (s.wv n l).vReg k lane = s.vReg k lane := by
  refine sget_sputs_of_notMem 0 _ _ fun p hp e => ?_
  obtain ⟨q, hq, rfl⟩ := List.mem_map.1 hp
  have := hl q hq
  dsimp only at e
  omega

/-- A lane that is written holds what was written. -/
theorem vReg_wv_self {s : State} {n lane : Nat} {x : Word} {l : List (Nat × Word)} (hn : (l.map (·.1)).Nodup)
    (h : (lane, x) ∈ l) : (s.wv n l).vReg n lane = x := by
  refine sget_sputs_of_mem 0 _ ?_ (List.mem_map.2 ⟨_, h, rfl⟩)
  have e : (l.map fun p => (1024 * n + p.1, p.2)).map (·.1) = (l.map (·.1)).map (1024 * n + ·) := by
    simp only [List.map_map]
    rfl
  rw [e]
  exact hn.map fun a b hab => Nat.add_left_cancel hab

/-! ### Items -/

/-- An item written to lanes is what the two registers of each hold (R277). -/
theorem writeItems_item {s : State} {d lane : Nat} {x : DWord} {l : List (Nat × DWord)} (hl : ∀ p ∈ l, p.1 < 1024)
    (hn : (l.map (·.1)).Nodup) (h : (lane, x) ∈ l) :
    (s.writeItems d l).vReg (d + 1) lane ++ (s.writeItems d l).vReg d lane = x := by
  have keys (f : DWord → Word) : (l.map fun p => (p.1, f p.2)).map (·.1) = l.map (·.1) := by
    simp only [List.map_map]
    rfl
  have hhi : (s.writeItems d l).vReg (d + 1) lane = (x.ushiftRight 32).setWidth 32 :=
    vReg_wv_self ((keys fun x => (x.ushiftRight 32).setWidth 32).symm ▸ hn) (List.mem_map.2 ⟨_, h, rfl⟩)
  have hlo : (s.writeItems d l).vReg d lane = x.setWidth 32 := by
    refine (vReg_wv_ne (fun p hp => ?_) (Nat.succ_ne_self d).symm (hl _ h)).trans
      (vReg_wv_self ((keys fun x => x.setWidth 32).symm ▸ hn) (List.mem_map.2 ⟨_, h, rfl⟩))
    obtain ⟨q, hq, rfl⟩ := List.mem_map.1 hp
    exact hl q hq
  rw [hhi, hlo]
  apply BitVec.eq_of_toNat_eq
  simp only [BitVec.toNat_append, BitVec.toNat_setWidth, BitVec.ushiftRight_eq, BitVec.toNat_ushiftRight,
    Nat.shiftRight_eq_div_pow]
  have := x.isLt
  rw [← Nat.shiftLeft_add_eq_or_of_lt (by omega), Nat.shiftLeft_eq]
  omega

theorem keepsV_writeItems {s : State} (d : Nat) {l : List (Nat × DWord)} (hl : ∀ p ∈ l, p.1 < 1024) :
    s.KeepsV (s.writeItems d l) [d, d + 1] := by
  have hlanes (f : DWord → Word) : ∀ p ∈ l.map fun p => (p.1, f p.2), p.1 < 1024 := fun p hp => by
    obtain ⟨q, hq, rfl⟩ := List.mem_map.1 hp
    exact hl q hq
  intro n lane hlane hn
  simp only [List.mem_cons, List.not_mem_nil, or_false, not_or] at hn
  exact (vReg_wv_ne (hlanes fun x => (x.ushiftRight 32).setWidth 32) hn.2 hlane).trans
    (vReg_wv_ne (hlanes fun x => x.setWidth 32) hn.1 hlane)

/-- The free order of R44 is an order of the items. -/
theorem shuffle_perm {α : Type} (s : State) (key n : Nat) (l : List α) : (s.shuffle key n l).Perm l := by
  induction n generalizing l with
  | zero => exact .refl l
  | succ n ih =>
    cases l with
    | nil => exact .refl []
    | cons x r =>
      have hk : s.freeNat (fk key n) % (r.length + 1) < (x :: r).length := Nat.mod_lt _ (Nat.succ_pos _)
      unfold State.shuffle
      dsimp only
      rw [List.getD_eq_getElem _ _ hk]
      exact ((ih _).cons _).trans (List.getElem_cons_eraseIdx_perm hk)

/-! ### The lists of a grid -/

theorem find?_updFirst {α : Type} {p : α → Bool} {f : α → α} {l : List α} {x : α} (h : l.find? p = some x)
    (hf : p (f x) = true) : (updFirst p f l).find? p = some (f x) := by
  induction l with
  | nil => cases h
  | cons a r ih =>
    by_cases ha : p a = true
    · rw [List.find?_cons_of_pos ha] at h
      cases h
      rw [updFirst, if_pos ha, List.find?_cons_of_pos hf]
    · rw [List.find?_cons_of_neg ha] at h
      rw [updFirst, if_neg ha, List.find?_cons_of_neg ha, ih h]

/-- An update of a grid that keeps its handle is what the grid then is. -/
theorem grid?_modGrid {s : State} {gid : Nat} {g : Grid} {f : Grid → Grid} (h : s.grid? gid = some g) (hf : (f g).gid = gid) :
    (s.modGrid gid f).grid? gid = some (f g) :=
  find?_updFirst h (by rw [hf]; exact beq_self_eq_true gid)

theorem grid?_gid {s : State} {gid : Nat} {g : Grid} (h : s.grid? gid = some g) : g.gid = gid :=
  beq_iff_eq.1 (List.find?_some (p := fun g : Grid => g.gid == gid) h)

/-- A grid whose list n holds l. -/
def Grid.withList (g : Grid) (n : Nat) (l : List DWord) : Grid :=
  { g with lists := (List.range (max (n + 1) g.lists.length)).map fun k => if k = n then l else g.lists.getD k [] }

theorem Grid.getD_withList (g : Grid) (n : Nat) (l : List DWord) (k : Nat) :
    (g.withList n l).lists.getD k [] = if k = n then l else g.lists.getD k [] := by
  unfold Grid.withList
  by_cases hk : k < max (n + 1) g.lists.length
  · simp [List.getD_eq_getElem?_getD, hk]
  · have hn : k ≠ n := by omega
    have hlen : g.lists.length ≤ k := by omega
    simp [List.getD_eq_getElem?_getD, hk, hn, hlen]

/-- List n of the team's grid then holds l, and every other list is as before. -/
theorem listOf_setList {s : State} (h : (s.grid? s.t.gid).isSome = true) (n : Nat) (l : List DWord) (k : Nat) :
    (s.setList n l).listOf k = if k = n then l else s.listOf k := by
  obtain ⟨g, hg⟩ := Option.isSome_iff_exists.1 h
  have hgid : g.gid = s.t.gid := grid?_gid hg
  have hset : (s.setList n l).grid? s.t.gid = some (g.withList n l) :=
    grid?_modGrid (f := fun g => g.withList n l) hg hgid
  have hmine : (s.setList n l).myGrid = g.withList n l := by
    rw [State.myGrid]
    exact congrArg (·.getD Grid.none) hset
  rw [State.listOf, hmine, g.getD_withList, State.listOf, State.myGrid, hg]
  rfl

/-- The lists are the grid's: what leaves the grids and the team's own grid leaves them. -/
theorem listOf_congr {s u : State} (hg : u.grids = s.grids) (ht : u.t.gid = s.t.gid) (k : Nat) : u.listOf k = s.listOf k := by
  simp only [State.listOf, State.myGrid, State.grid?, hg, ht]

/-! ### What CMPCT and WLTAKE leave -/

/-- Lane by lane, the item of its two registers (R276). -/
def State.laneItems (s : State) (a : Nat) : List DWord := (onLanes s).map fun l => s.vReg (a + 1) l ++ s.vReg a l

/-- A CMPCT with room for every item appends them and completes. -/
theorem execCmpct_room {s : State} {a b n : Nat} (h : s.Clear) (hc : s.checks (.cmpct a b) = none) (hp : s.t.passes ≠ [])
    (hw : s.t.wait = .none) (hn : n = (s.sReg b).toNat) (hok : s.listOk n = true)
    (hroom : (s.listOf n).length + (onLanes s).length ≤ s.myRec.wlcap) :
    ∃ u, exec (.cmpct a b) s = .next u ∧
      Goes 1 s ((s.setList n (s.listOf n ++ s.laneItems a)).attach .ready [] [] []) u := by
  have hitems : s.actLanes.map (fun l => s.rv (a + 1) l ++ s.rv a l) = s.laneItems a := by
    simp only [h.actLanes, h.rv]
    rfl
  have hlen : (s.laneItems a).length ≤ s.myRec.wlcap - (s.listOf n).length := by
    rw [State.laneItems, List.length_map]
    omega
  refine h.exec_goes hc rfl ?_ ⟨rfl, rfl, rfl, rfl, rfl⟩
  dsimp only
  rw [h.rs, ← hn, if_neg (by simpa using hp), if_neg (by simp [hok]), hw]
  dsimp only
  rw [List.drop_zero, hitems, if_pos hlen, List.take_of_length_le hlen]
  rfl

/-- The items that WLTAKE takes from, in the order in which it takes them. -/
def State.taking (s : State) (n : Nat) : List DWord := s.shuffle 45 (s.listOf n).length (s.listOf n)

/-- What the active lanes get when there are items: those, and then the word that says none. -/
def State.takes (s : State) (n : Nat) : List (Nat × DWord) :=
  List.zip (onLanes s) ((s.taking n).take (min (onLanes s).length (s.taking n).length) ++
    List.replicate ((onLanes s).length - min (onLanes s).length (s.taking n).length) 0xFFFFFFFF00000000)

theorem stays_writeItems {s w : State} (h : s.Stays w) (d : Nat) (l : List (Nat × DWord)) : s.Stays (w.writeItems d l) :=
  ⟨h.tid, h.pc, h.hdr, h.idx, h.ord⟩

/-- A WLTAKE of a list with items, with an active lane. -/
theorem execWltake_items {s : State} {d a n : Nat} (h : s.Clear) (hc : s.checks (.wltake d a) = none) (hp : s.t.passes ≠ [])
    (hn : n = (s.sReg a).toNat) (hok : s.listOk n = true) (hk : min (onLanes s).length (s.taking n).length ≠ 0) :
    ∃ u, exec (.wltake d a) s = .next u ∧
      Goes 1 s ((s.acquired.setList n ((s.taking n).drop (min (onLanes s).length (s.taking n).length))).writeItems d
        (s.takes n)) u := by
  refine h.exec_goes hc rfl ?_ (stays_writeItems (s := s) (w := s.acquired.setList n _) ⟨rfl, rfl, rfl, rfl, rfl⟩ d _)
  dsimp only
  rw [h.rs, ← hn, if_neg (by simpa using hp), if_neg (by simp [hok]), h.actLanes]
  exact if_pos hk

/-- A WLTAKE that finds nothing to take in a quiet grid. -/
theorem execWltake_quiet {s : State} {d a n : Nat} (h : s.Clear) (hc : s.checks (.wltake d a) = none) (hp : s.t.passes ≠ [])
    (hn : n = (s.sReg a).toNat) (hok : s.listOk n = true) (hk : min (onLanes s).length (s.taking n).length = 0)
    (hq : s.myGrid.quiet = true) :
    ∃ u, exec (.wltake d a) s = .next u ∧
      Goes 1 s (s.writeItems d ((onLanes s).map fun l => (l, 0xFFFFFFFF00000001))) u := by
  refine h.exec_goes hc rfl ?_ (stays_writeItems ⟨rfl, rfl, rfl, rfl, rfl⟩ _ _)
  dsimp only
  rw [h.rs, ← hn, if_neg (by simpa using hp), if_neg (by simp [hok]), h.actLanes]
  exact (if_neg fun hne => hne hk).trans (if_pos hq)

/-- What completing leaves of the grids, memory and the team's registers. -/
theorem Goes.kept {m : Nat} {s w u : State} (g : Goes m s w u) :
    u.grids = w.grids ∧ u.mem = w.mem ∧ u.t.gid = w.t.gid ∧ u.t.s = w.t.s ∧
      u.t.v = w.t.v ∧ u.t.log = w.t.log := by
  have hf := g.frame
  generalize hp : { w.t.placeOf u.t with infl := u.t.infl } = p at hf
  subst hf
  exact ⟨rfl, rfl, (congrArg Team.gid hp).symm, (congrArg Team.s hp).symm, (congrArg Team.v hp).symm,
    (congrArg Team.log hp).symm⟩

/-- What the lanes hold after their items are written, and that every other vector register is as before. -/
theorem Goes.items {m d : Nat} {s w u : State} {l : List (Nat × DWord)} (g : Goes m s (w.writeItems d l) u) (hv : w.t.v = s.t.v)
    (hl : ∀ p ∈ l, p.1 < 1024) (hn : (l.map (·.1)).Nodup) :
    s.KeepsV u [d, d + 1] ∧ ∀ lane x, (lane, x) ∈ l → u.vReg (d + 1) lane ++ u.vReg d lane = x := by
  have hreg (r lane : Nat) : u.vReg r lane = (w.writeItems d l).vReg r lane := by
    obtain ⟨-, -, -, -, hv, -⟩ := g.kept
    exact congrArg (sget 0 (1024 * r + lane)) hv
  refine ⟨fun r lane hlane hr => ?_, fun lane x hx => ?_⟩
  · rw [hreg, keepsV_writeItems d hl r lane hlane hr, State.vReg, hv]
    rfl
  · rw [hreg, hreg]
    exact writeItems_item hl hn hx

/-- Each active lane takes the item at its place in the order, and past the last the word that says none. -/
theorem takes_getD {s : State} {n k l : Nat} (hl : (onLanes s)[k]? = some l) :
    (l, (s.taking n).getD k 0xFFFFFFFF00000000) ∈ s.takes n := by
  obtain ⟨hk, hget⟩ := List.getElem?_eq_some_iff.1 hl
  have hx : ((s.taking n).take (min (onLanes s).length (s.taking n).length) ++
      List.replicate ((onLanes s).length - min (onLanes s).length (s.taking n).length) 0xFFFFFFFF00000000)[k]? =
        some ((s.taking n).getD k 0xFFFFFFFF00000000) := by
    generalize s.taking n = order
    by_cases ho : k < order.length
    · rw [List.getElem?_append_left (by simp; omega)]
      simp [hk, ho]
    · rw [List.getElem?_append_right (by simp; omega)]
      simp [List.getElem?_replicate, ho]
      omega
  refine List.mem_of_getElem? (i := k) ?_
  rw [State.takes, List.getElem?_zip_eq_some]
  exact ⟨hl, hx⟩

theorem keys_takes (s : State) (n : Nat) : (s.takes n).map (·.1) = onLanes s := by
  refine List.map_fst_zip ?_
  simp

end Sys2Proof.Machine

open Sys2Proof Sys2Proof.Machine Sys2Proof.Claims

/-- Settles O40: CMPCT and WLTAKE by what their effect leaves (`execCmpct_room`, `execWltake_items`, `execWltake_quiet`), the
lists by `listOf_setList` and the lanes by `writeItems_item`. -/
theorem workLists : Obligations.WorkLists := by
  unfold Obligations.WorkLists
  refine ⟨fun a b n s h hc hp hw hg hn hok hroom => ?_, fun d a n s h hc hp hg hn hok hgo => ?_,
    fun g s hg hrun hq hlists hnext hidle => ?_⟩
  · obtain ⟨u, he, g⟩ := execCmpct_room h hc hp hw hn hok hroom
    obtain ⟨hgrids, -, hgid, -, -⟩ := g.kept
    have hlist (k : Nat) : u.listOf k = (s.setList n (s.listOf n ++ s.laneItems a)).listOf k :=
      listOf_congr hgrids hgid k
    refine ⟨u, he, g.past, g.oneReady h.infl rfl, ?_, fun k hk => ?_, ?_⟩
    · rw [hlist, listOf_setList hg, if_pos rfl]
      rfl
    · rw [hlist, listOf_setList hg, if_neg hk]
    · have hf := g.frame
      rw [hf]
      rfl
  · have horder : (s.taking n).Perm (s.listOf n) := shuffle_perm _ _ _ _
    by_cases hk : min (onLanes s).length (s.taking n).length = 0
    · have hq : s.myGrid.quiet = true := by
        refine hgo.resolve_left fun ⟨hlist, hlanes⟩ => ?_
        rw [horder.length_eq] at hk
        have h1 := List.length_pos_iff.2 hlist
        have h2 := List.length_pos_iff.2 hlanes
        omega
      obtain ⟨u, he, g⟩ := execWltake_quiet h hc hp hn hok hk hq
      obtain ⟨hgrids, hmem, hgid, hsr, -⟩ := g.kept
      have hkeys : ((onLanes s).map fun l => (l, 0xFFFFFFFF00000001#64)).map (·.1) = onLanes s := by
        rw [List.map_map]
        exact List.map_id _
      obtain ⟨hkeep, hitem⟩ := g.items rfl (fun p hp => onLanes_lt (hkeys ▸ List.mem_map_of_mem hp))
        (hkeys.symm ▸ onLanes_nodup s)
      refine ⟨u, s.listOf n, he, g.past, hkeep, hsr, hmem, .refl _, ?_, fun k hlt l hl => ?_⟩
      · rw [← horder.length_eq, hk, List.drop_zero]
        exact listOf_congr hgrids hgid n
      · have hnil : s.listOf n = [] := List.length_eq_zero_iff.1 (by rw [← horder.length_eq]; omega)
        rw [hnil, if_pos rfl]
        exact hitem l _ (List.mem_map_of_mem (List.mem_of_getElem? hl))
    · obtain ⟨u, he, g⟩ := execWltake_items h hc hp hn hok hk
      obtain ⟨hgrids, hmem, hgid, hsr, -⟩ := g.kept
      have hne : s.taking n ≠ [] := fun e => hk (by rw [e]; exact Nat.min_zero _)
      obtain ⟨hkeep, hitem⟩ := g.items rfl (fun p hp => onLanes_lt (keys_takes s n ▸ List.mem_map_of_mem hp))
        ((keys_takes s n).symm ▸ onLanes_nodup s)
      refine ⟨u, s.taking n, he, g.past, hkeep, hsr, hmem, horder, ?_, fun k _ l hl => ?_⟩
      · refine (listOf_congr (s := s.acquired.setList n _) hgrids hgid n).trans ?_
        exact (listOf_setList hg n _ n).trans (if_pos rfl)
      · rw [if_neg hne]
        exact hitem l _ (takes_getD hl)
  · have hquiet : s.quietNow g = true := by
      simp only [State.quietNow, Bool.and_eq_true, List.all_eq_true, List.isEmpty_iff, beq_iff_eq, Bool.or_eq_true, bne_iff_ne]
      refine ⟨⟨hlists, hnext⟩, fun t ht => ?_⟩
      by_cases hgid : t.gid = g.gid
      · rcases hidle t ht hgid with e | e <;> simp [Team.idle, e]
      · exact .inl hgid
    refine ⟨s.modGrid g.gid fun g => { g with quiet := true }, ?_, grid?_modGrid hg rfl, rfl⟩
    change execWorkListQuiet g.gid s = _
    unfold execWorkListQuiet
    rw [hg]
    dsimp only
    rw [if_pos (by simp [hrun, hquiet, hq])]

end

section
/-! ## Accesses through translation registers, and lanes that park (R25, R37, R38, R53, R205, R246, R403) -/

namespace Sys2Proof.Machine
open Sys2Proof Sys2Proof.Claims

/-! ### One lane -/

/-- Every lane through an empty translation register is Region-Violation. -/
theorem resolve_empty {s : State} {slot : Nat} {op : MemOp} {x : LaneAcc} (h : x.m.v = false) :
    s.resolve slot op x = .issue 5 := by
  simp [State.resolve, h]

/-- One that is misaligned as well raises both causes. -/
theorem issueCauses_empty {op : MemOp} {x : LaneAcc} (h : x.m.v = false) :
    (op.issueCauses (x, .issue 5)).map (·.cause) = if misaligned op.kind.atomic x.va op.size then [5, 6] else [5] := by
  simp only [MemOp.issueCauses, h, Bool.not_false, Bool.true_and]
  split <;> rfl

theorem resolve_misaligned {s : State} {slot : Nat} {op : MemOp} {x : LaneAcc}
    (hm : misaligned op.kind.atomic x.va op.size = true) (h : x.m.v = true) : s.resolve slot op x = .issue 6 := by
  simp [State.resolve, h, hm]

section
variable {s : State} {slot : Nat} {op : MemOp} {x : LaneAcc} (hm : misaligned op.kind.atomic x.va op.size = false)
  (hv : x.m.v = true) (hin : x.off + op.size ≤ x.m.limit.toNat)
include hm hv hin

/-- Within LIMIT an access without permission is Permission. -/
theorem resolve_denied (hno : (op.kind.reads = true ∧ x.m.rd = false) ∨ (op.kind.writes = true ∧ x.m.w = false)) :
    s.resolve slot op x = .issue 7 := by
  have hbad : (!s.paOk (x.m.phys + x.off) || (op.kind.reads && !x.m.rd) || (op.kind.writes && !x.m.w)) = true := by
    rcases hno with ⟨hk, hp⟩ | ⟨hk, hp⟩ <;> simp [hk, hp]
  simp only [State.resolve, hv, hm, Bool.not_true, Bool.false_eq_true, if_false, if_pos hin, hbad, if_true]

/-- Within LIMIT a permitted access to intact local memory reaches the register's physical address plus its offset. -/
theorem resolve_ok (hr : op.kind.reads = true → x.m.rd = true) (hw : op.kind.writes = true → x.m.w = true)
    (hl : isLocal (x.m.phys + x.off) = true) (ht : s.regs.towerlost = 0) (hp : s.poison = []) :
    s.resolve slot op x = .ok (x.m.phys + x.off) := by
  have hgood : (!s.paOk (x.m.phys + x.off) || (op.kind.reads && !x.m.rd) || (op.kind.writes && !x.m.w)) = false := by
    have hrd : (op.kind.reads && !x.m.rd) = false := by
      cases hk : op.kind.reads <;> simp [hr, hk]
    have hwr : (op.kind.writes && !x.m.w) = false := by
      cases hk : op.kind.writes <;> simp [hw, hk]
    simp [State.paOk, hl, hrd, hwr]
  have hlost : s.lineLost (x.m.phys + x.off) = false := by simp [State.lineLost, ht]
  have hpois : s.poisoned (x.m.phys + x.off) op.size = false := by simp [State.poisoned, hp]
  simp only [State.resolve, hv, hm, Bool.not_true, Bool.false_eq_true, if_false, if_pos hin, hgood, hlost, hpois,
    Bool.and_false]

end

/-! ### Lanes that all park -/

/-- A load with no lane to be performed reads nothing. -/
theorem performLocal_nil {s : State} {core : Nat} {op : MemOp} (hk : op.kind = .load) :
    Touches s (s.performLocal core op []).s ∧ (s.performLocal core op []).vals = [] ∧
      (s.performLocal core op []).refused = [] := by
  unfold State.performLocal
  simp only [hk]
  exact ⟨touches_settle s _, rfl, rfl⟩

theorem deliver_nil (s : State) (op : MemOp) : s.deliver op [] = s := by
  unfold State.deliver
  split
  · rfl
  · unfold State.wc
    split <;> rfl
  · rfl

/-- A lane that meets an absent page is parked, and does nothing else. -/
structure Absent (s : State) (slot : Nat) (op : MemOp) (accs : List LaneAcc) : Prop where
  some : accs ≠ []
  all : ∀ x ∈ accs, s.resolve slot op x = .park 8

section
variable {s : State} {slot : Nat} {op : MemOp} {accs : List LaneAcc} (h : Absent s slot op accs)
include h

/-- What resolving the lanes gives. -/
theorem Absent.resolved : accs.map (fun a => (a, s.resolve slot op a)) = accs.map fun a => (a, .park 8) :=
  List.map_congr_left fun x hx => by rw [h.all x hx]

end

theorem issueCauses_parked (op : MemOp) (accs : List LaneAcc) :
    (accs.map fun a => (a, LaneRes.park 8)).flatMap op.issueCauses = [] := by
  simp [List.flatMap_eq_nil_iff, MemOp.issueCauses]

theorem lowestEnd_parked (accs : List LaneAcc) : lowestEnd (accs.map fun a => (a, LaneRes.park 8)) = none := by
  unfold lowestEnd
  induction accs with
  | nil => rfl
  | cons x r ih => exact ih

theorem pickPa_parked (p : Nat → Bool) (accs : List LaneAcc) : pickPa p (accs.map fun a => (a, LaneRes.park 8)) = [] := by
  simp [pickPa]

theorem winAccesses_nil {s : State} {core : Nat} {op : MemOp} (hk : op.kind = .load) : s.winAccesses core op [] = (s, []) := by
  unfold State.winAccesses
  rw [hk]
  rfl

/-- Reads send no request. -/
theorem Touches.awaits {s u : State} (h : Touches s u) (hc : s.Clear) (k : Nat) : u.awaits k = false := by
  have e : u.link = s.link := by
    have hf := h.frame
    generalize u.t.infl = x at hf
    exact hf ▸ rfl
  rw [State.awaits, e, hc.reqs]
  rfl

/-- The operand-log entry of a load of t with these lanes, all of them parked on absent pages: h its handle, fs the FAULT's
number, reads what the load has read (R37, R403). -/
def parkedEntry (t : Team) (i : Instr) (op : MemOp) (accs : List LaneAcc) (h fs : Nat) (reads : Reads) : LogEntry :=
  let parked := accs.map fun x => (x, 8)
  { u := t.freeEntry, h := h, instr := i, pc := t.pc, cl := t.cl, ord := t.ord, mode := t.mode
    xreg := (parked.head?.map fun x => x.1.m).getD {}, fseq := fs
    kind := .lanes op (parked.map fun x => x.1), grps := (parked.map fun x => x.1.lane / 32).dedup
    done := laneSet t.lanes fun l => accs.any fun a => a.lane == l && !(parked.any fun x => x.1.lane == l)
    pages := (sortPages (parked.map fun x => op.page x.1.ptr x.2)).map (BitVec.ofNat 64), causes := [], reads := reads }

/-- A team's operand log with one more entry (R37). -/
def State.logged (s : State) (e : LogEntry) : State := { s with t := { s.t with log := s.t.log ++ [e] } }

/-- A load whose every lane meets an absent page leaves an entry of the operand log with all of them, and completes
(R37, R38, R403). -/
theorem access_parked {s : State} {i : Instr} {op : MemOp} {accs : List LaneAcc} {srcV srcS : List Nat}
    {late : LaneAcc → Nat → List LateSrc} (h : s.Clear) (hk : op.kind = .load) (hacq : op.acq = false)
    (hp : Absent s (mySlot s) op accs) :
    ∃ w e, s.access i op false accs srcV srcS late = w.done i ∧ s.Stays w ∧ w.mem = s.mem ∧ w.t.s = s.t.s ∧
      w.t.v = s.t.v ∧ w.t.log = [e] ∧ e.u = 0 ∧ e.pc = s.t.pc ∧ e.mode = s.t.mode ∧ e.todoLanes = accs.map (·.lane) ∧
      w.t.infl.length = 1 := by
  have hsys : op.sysAcq = false := by simp [MemOp.sysAcq, hacq]
  have hne : accs.isEmpty = false := by simpa using hp.some
  have hrs : accs.map (fun a => (a, s.resolve ((s.slotOf s.t.ctx).getD 0) op a)) = accs.map fun a => (a, .park 8) :=
    hp.resolved
  unfold State.access
  dsimp only
  rw [hrs]
  simp only [issueCauses_parked, lowestEnd_parked, pickPa_parked, State.sectorHeld, h.log, hsys, List.filterMap_map,
    Function.comp_def, List.filterMap_eq_map', List.isEmpty_nil, List.any_nil, Bool.not_true, Bool.not_false,
    Bool.false_eq_true, if_false,
    List.isEmpty_map, hne, Bool.false_or, Bool.true_and, List.length_nil, List.map_nil]
  obtain ⟨hv, hvals, href⟩ := performLocal_nil (s := s.noteXls (towerOf s.t.core) ((s.slotOf s.t.ctx).getD 0)
    (tlbPtrs op (accs.map fun a => (a, .park 8)))) (core := s.t.core) hk
  replace hv := (touches_noteXls s _ _ _).trans hv
  generalize (s.noteXls (towerOf s.t.core) ((s.slotOf s.t.ctx).getD 0)
    (tlbPtrs op (accs.map fun a => (a, .park 8)))).performLocal s.t.core op [] = p at hv hvals href ⊢
  simp only [winAccesses_nil hk, deliver_nil, hvals, href, Bool.false_and, List.append_nil, Bool.false_eq_true, if_false,
    hv.awaits h]
  have hfault := sendFault_frame p.s ((s.slotOf s.t.ctx).getD 0) 0 s.t.core s.t.place s.t.freeEntry s.t.tid 0
    (sortPages ((accs.map fun x => (x, 8)).map fun x => op.page x.1.ptr x.2))
  generalize p.s.sendFault ((s.slotOf s.t.ctx).getD 0) 0 s.t.core s.t.place s.t.freeEntry s.t.tid 0
    (sortPages ((accs.map fun x => (x, 8)).map fun x => op.page x.1.ptr x.2)) = r at hfault ⊢
  have ht : r.1.t = { s.t with infl := p.s.t.infl } := (congrArg State.t hfault).trans hv.t_eq
  have hmem : r.1.mem = s.mem := (congrArg State.mem hfault).trans hv.mem_eq
  have hfree : s.t.freeEntry = 0 := by rw [Team.freeEntry, h.log]; rfl
  refine ⟨(r.1.attach .ready srcV srcS []).logged _, parkedEntry s.t i op accs r.1.uid r.2 p.reads,
    (if_neg (by decide)).trans rfl, ⟨?_, ?_, ?_, ?_, ?_⟩, hmem, ?_, ?_, ?_, hfree, rfl, rfl, ?_, ?_⟩
  · exact (congrArg Team.tid ht :)
  · exact (congrArg Team.pc ht :)
  · exact (congrArg (·.cl.hdr) ht :)
  · exact (congrArg (·.cl.idx) ht :)
  · exact (congrArg Team.ord ht :)
  · exact (congrArg Team.s ht :)
  · exact (congrArg Team.v ht :)
  · change r.1.t.log ++ _ = _
    rw [ht, h.log]
    rfl
  · change ((accs.map fun x => (x, 8)).map fun x => x.1).map (·.lane) = _
    simp only [List.map_map, Function.comp_def]
  · change (r.1.t.infl ++ _).length = 1
    rw [(congrArg Team.infl ht :), hv.infl.nil h.infl]
    rfl

/-- The active lanes' accesses of a team that nothing holds back. -/
theorem State.Clear.laneAccs {s : State} (h : s.Clear) (a m : Nat) :
    s.laneAccs a m (fun _ => 0) (fun _ => 0) = (onLanes s).map (laneAcc s a m 0 0) := by
  unfold State.laneAccs
  dsimp only
  rw [h.actLanes]
  refine List.map_congr_left fun l hl => ?_
  have hlt : l < s.t.lanes := List.mem_range.1 (List.mem_filter.1 hl).1
  have hgrp : l / 32 < s.t.ngroups := by
    unfold Team.ngroups
    omega
  rw [h.rv, laneAcc]
  simp [List.getD_eq_getElem?_getD, hgrp, h.rm]

end Sys2Proof.Machine

open Sys2Proof Sys2Proof.Machine Sys2Proof.Claims

/-- Settles O30: one lane by `resolve_empty`, `resolve_misaligned`, `resolve_denied` and `resolve_ok`; lanes that all park by
`access_parked`. -/
theorem accessPaths : Obligations.AccessPaths := by
  unfold Obligations.AccessPaths
  refine ⟨fun s slot op x => ⟨fun hv => ?_, resolve_misaligned, fun hm hv hin => ?_⟩, fun d a m s h hpl hc hon hpark => ?_⟩
  · have hres : s.resolve slot op x = .issue 5 := resolve_empty hv
    exact ⟨hres, by rw [hres]; exact issueCauses_empty hv⟩
  · exact ⟨resolve_denied hm hv hin, resolve_ok hm hv hin⟩
  · have habs : Absent s (mySlot s) { s.memOp .load (.v d) with cnt := 0, acq := false, scope := 3 }
        (s.laneAccs a m (fun _ => 0) (fun _ => 0)) := by
      rw [h.laneAccs]
      refine ⟨by simpa using hon, fun x hx => ?_⟩
      obtain ⟨l, hl, rfl⟩ := List.mem_map.1 hx
      exact hpark l hl
    obtain ⟨w, e, hbody, hstays, hmem, hs, hv, hlog, hu, hpc, hmode, htodo, hinfl⟩ :=
      access_parked (i := .vld d a m) (srcV := []) (srcS := []) (late := fun _ _ => []) h rfl rfl habs
    obtain ⟨u, he, g⟩ := h.exec_goes hc rfl hbody hstays
    obtain ⟨-, hmem', -, hs', hv', hlog'⟩ := g.kept
    obtain ⟨k, -, hk⟩ := g.infl
    refine ⟨u, e, he, g.past, hmem'.trans hmem, hs'.trans hs, fun n l _ => ?_, hlog'.trans hlog, hu, hpc, hmode, ?_, ?_⟩
    · rw [State.vReg, hv', hv]
      rfl
    · rw [htodo, h.laneAccs, List.map_map]
      exact List.map_id _
    · rw [hk, List.length_map, hinfl]

end

section
/-! ## What a core's reads leave where no line is counted at home

A line counted by CPY or CPYT gives way at its last read, and the contents it had stand again (R71, R72, R105). Where none is
counted (`State.Plain`) a core's read moves the caches alone. -/

namespace Sys2Proof.Machine
open Sys2Proof Sys2Proof.Claims

/-- Where no line is counted at home, none is in u and memory is as before. -/
def State.Uncounted (s u : State) : Prop := s.caches.counted = [] → u.caches.counted = [] ∧ u.mem = s.mem

theorem State.Uncounted.refl (s : State) : s.Uncounted s := fun h => ⟨h, rfl⟩

theorem State.Uncounted.trans {s u w : State} (h : s.Uncounted u) (k : u.Uncounted w) : s.Uncounted w := fun hc => by
  obtain ⟨hu, hm⟩ := h hc
  obtain ⟨hw, km⟩ := k hu
  exact ⟨hw, km.trans hm⟩

/-- Of the caches only what counts nothing has changed. -/
theorem State.Uncounted.of_caches {s : State} {c : Caches} (h : s.caches.counted = [] → c.counted = []) :
    s.Uncounted { s with caches := c } := fun hc => ⟨h hc, rfl⟩

theorem State.Uncounted.ite {s u w : State} {p : Prop} [Decidable p] (h : s.Uncounted u) (k : s.Uncounted w) :
    s.Uncounted (if p then u else w) := by
  split <;> assumption

theorem counted_allocRepl {c : Caches} (h : c.counted = []) (s : State) (t line : Nat) : (c.allocRepl s t line).counted = [] := by
  have hroom (c : Caches) (h : c.counted = []) : (c.l2Room s t line).counted = [] := by
    unfold Caches.l2Room
    dsimp only
    split
    · exact h
    · split
      · change List.erase c.counted _ = []
        rw [h]
        rfl
      · exact h
  unfold Caches.allocRepl
  refine hroom _ ?_
  split <;> exact h

theorem uncounted_homeRead (s : State) (line : Nat) : s.Uncounted (s.homeRead line) := fun h => by
  have e : s.homeRead line = s := by
    unfold State.homeRead
    rw [h]
    rfl
  rw [e]
  exact ⟨h, rfl⟩

@[simp] theorem counted_count (c : Caches) (t k n : Nat) : (c.count t k n).counted = c.counted := rfl
@[simp] theorem counted_modRegion (c : Caches) (r : Nat) (f : RegionRep → RegionRep) :
    (c.modRegion r f).counted = c.counted := rfl

theorem uncounted_collapse (s : State) (line : Nat) : s.Uncounted (s.collapse line) := by
  refine State.Uncounted.of_caches fun h => ?_
  simp only [apply_ite Caches.counted, counted_count, counted_modRegion, h, List.filter_nil, ite_self]

theorem uncounted_writeBack (s : State) (line : Nat) : s.Uncounted (s.writeBack line) :=
  (uncounted_collapse s line).trans (.of_caches fun h => h)

theorem uncounted_recall (s : State) (h line : Nat) : s.Uncounted (s.recall h line) := by
  unfold State.recall
  split
  · exact uncounted_writeBack s line
  · exact .refl s

theorem uncounted_evictLine (s : State) (e : L1Line) : s.Uncounted (s.evictLine e) := by
  unfold State.evictLine
  split
  · exact uncounted_writeBack s _
  · exact .of_caches fun h => h

theorem uncounted_addLine (s : State) (e : L1Line) : s.Uncounted (s.addLine e) := by
  unfold State.addLine
  refine State.Uncounted.trans ?_ (.of_caches fun h => h)
  split
  · exact .refl s
  · split
    · exact uncounted_evictLine s _
    · exact .refl s

theorem uncounted_l2Read (s : State) (t line : Nat) (rd : Bool) : s.Uncounted (s.l2Read t line rd) := by
  have hhome (s : State) : s.Uncounted (if rd then s.homeRead line else s) := (uncounted_homeRead s line).ite (.refl s)
  unfold State.l2Read
  dsimp only
  generalize hm : s.caches.modRegion (regionOf (128 * line)) _ = c
  have hc : c.counted = s.caches.counted := hm ▸ counted_modRegion _ _ _
  refine (hhome s).ite (.ite ?_ (.ite ?_ (.ite ?_ ?_)))
  · exact State.Uncounted.trans (u := { s with caches := c }) (.of_caches fun h => hc.trans h) (hhome _)
  · exact .of_caches fun h => hc.trans h
  · refine .of_caches fun h => ?_
    rw [counted_count]
    exact counted_allocRepl (by exact hc.trans h) _ _ _
  · exact .of_caches fun h => hc.trans h

theorem uncounted_fill (s : State) (h c line cnt secs : Nat) (rd : Bool) : s.Uncounted (s.fill h c line cnt secs rd) := by
  have hread := ((uncounted_recall s h line).trans (uncounted_l2Read _ (towerOf c) line rd))
  unfold State.fill
  dsimp only
  generalize (s.recall h line).l2Read (towerOf c) line rd = r at hread ⊢
  refine hread.trans (.ite ?_ ?_)
  · exact .of_caches fun h => h
  · exact State.Uncounted.trans
      (u := { r with caches := { r.caches with l1 := r.caches.l1.filter fun e => !e.at_ h line } })
      (.of_caches fun h => h) (uncounted_addLine _ _)

theorem uncounted_readIn_core (s : State) (c cnt line secs : Nat) (rd : Bool) :
    s.Uncounted (s.readIn (.core c) cnt line secs rd) := by
  unfold State.readIn
  dsimp only
  split
  · split
    · exact (uncounted_evictLine s _).trans (uncounted_fill _ _ _ _ _ _ _)
    · split
      · exact .of_caches fun h => h
      · exact uncounted_fill _ _ _ _ _ _ _
  · exact uncounted_fill _ _ _ _ _ _ _

/-! ### Reads through the page tables by a core (R71, R401) -/

/-- Reads that touch a machine in which no line is counted, and count none. -/
def State.ReadsPlain (s u : State) : Prop := s.caches.counted = [] → Touches s u ∧ u.caches.counted = []

theorem State.ReadsPlain.trans {s u w : State} (h : s.ReadsPlain u) (k : u.ReadsPlain w) : s.ReadsPlain w := fun hc => by
  obtain ⟨hu, hcu⟩ := h hc
  obtain ⟨hw, hcw⟩ := k hcu
  exact ⟨hu.trans hw, hcw⟩

theorem readsPlain_foldl {α : Type} {f : State → α → State} (hf : ∀ (s : State) (x : α), s.ReadsPlain (f s x))
    (l : List α) (s : State) : s.ReadsPlain (l.foldl f s) := by
  induction l generalizing s with
  | nil => exact fun h => ⟨.refl s, h⟩
  | cons x r ih => exact (hf s x).trans (ih _)

theorem readsPlain_settle (s : State) (p : LateSrc → Bool) : s.ReadsPlain (s.settle p) := fun h =>
  ⟨touches_settle s p, by rw [State.settle_caches]; exact h⟩

theorem readsPlain_keepXl (s : State) (slot ptr : Nat) : s.ReadsPlain (s.keepXl slot ptr) := fun h =>
  ⟨touches_keepXl s slot ptr, h⟩

theorem readsPlain_noteWalk (s : State) (t key : Nat) (r : Nat × Bool) : s.ReadsPlain (s.noteWalk t key r) := fun h => by
  refine ⟨touches_noteWalk s t key r, ?_⟩
  unfold State.noteWalk
  dsimp only
  have hs (p : LateSrc → Bool) : (s.settle p).caches.counted = [] := (readsPlain_settle s p h).2
  split
  · exact hs _
  · exact (((uncounted_recall _ 9999 (lineOf r.1)).trans (uncounted_l2Read _ t (lineOf r.1) false)) (hs _)).1

theorem readsPlain_noteXls (s : State) (t slot : Nat) (ptrs : List Nat) : s.ReadsPlain (s.noteXls t slot ptrs) :=
  readsPlain_foldl (fun s p =>
    (readsPlain_foldl (fun s (r : Nat × Nat × Bool) => readsPlain_noteWalk s t (8 * p + r.1) r.2) _ s).trans
      (readsPlain_keepXl _ _ _)) _ s

theorem readsPlain_noteRead_core (s : State) (c cnt line secs : Nat) (rd : Bool) :
    s.ReadsPlain (s.noteRead (.core c) cnt line secs rd) := fun h => by
  obtain ⟨hc, hm⟩ := uncounted_readIn_core s c cnt line secs rd h
  have e : s.noteRead (.core c) cnt line secs rd = { s with caches := (s.readIn (.core c) cnt line secs rd).caches } := by
    change { s with caches := _, mem := _ } = _
    rw [hm]
  rw [e]
  exact ⟨touches_caches s _, hc⟩

theorem readsPlain_noteVirt_core (s : State) (c slot : Nat) (runs : List (Nat × Nat)) :
    s.ReadsPlain (s.noteVirt (.core c) slot runs) :=
  ((readsPlain_noteXls s _ slot _).trans (readsPlain_foldl (fun s _ => readsPlain_noteRead_core s c 0 _ _ _) _ _)).trans
    (readsPlain_settle _ _)

/-- What reading records leaves of a machine in which no line is counted. -/
theorem State.Plain.touches_noteRecords {s : State} (h : s.Plain) (runs : List (Nat × Nat)) : Touches s (s.noteRecords runs) :=
  (readsPlain_noteVirt_core s _ _ runs h.counted).1

end Sys2Proof.Machine
end

section
/-! ## The checks of a launch record (R384) -/

namespace Sys2Proof.Machine
open Sys2Proof Sys2Proof.Claims

theorem ite_some_eq_find? {p : Nat → Bool} {a : Nat} {l : List Nat} {c : Prop} [Decidable c] {x : Option Nat}
    (h : c ↔ p a = true) (hx : x = l.find? p) : (if c then some a else x) = (a :: l).find? p := by
  by_cases hc : c
  · rw [if_pos hc, List.find?_cons_of_pos (h.1 hc)]
  · rw [if_neg hc, List.find?_cons_of_neg fun k => hc (h.2 k), hx]

/-- How many cores of a quad are not fenced. -/
def State.upCores (s : State) (q : Nat) : Nat := ((List.range 4).filter fun i => !(s.core (4 * q + i)).fenced).length

/-- No quad has n cores that are not fenced. -/
theorem quadWith_eq_false {s : State} {n : Nat} : s.quadWith n = false ↔ ∀ q < 160, s.upCores q < n := by
  have hcount (q : Nat) : (quadCores q).countP (fun c => !(s.core c).fenced) = s.upCores q := by
    rw [quadCores, List.countP_map, List.countP_eq_length_filter]
    rfl
  simp [State.quadWith, hcount, Config.nQuads]

/-- A quad's engine is enabled where none of its four cores is fenced (R18). -/
theorem engineOn_iff {s : State} {q : Nat} : s.engineOn q = true ↔ s.upCores q = 4 := by
  rw [State.engineOn, List.all_eq_true]
  exact (List.length_filter_eq_length_iff (l := List.range 4)).symm

theorem bits_lt (x hi lo : Nat) : bits x hi lo < 2 ^ (hi - lo + 1) := Nat.mod_lt _ (Nat.two_pow_pos _)

/-- No core takes a record's blocks where no quad has its engine or cores enough (R384, check 10). -/
theorem unplaceable_iff (s : State) (r : LaunchRec) (host : Option (Nat × Nat)) :
    ((r.tiles != 0 && !(List.range Config.nQuads).any s.engineOn) || !s.quadWith r.cluster) = true ↔
      failsCheck s r host 10 = true := by
  have hcheck : failsCheck s r host 10 = true ↔
      (0 < r.tiles ∧ ∀ q < 160, s.upCores q ≠ 4) ∨ (bits r.shape.toNat 26 25 = 1 ∧ ∀ q < 160, s.upCores q < 2) ∨
        (bits r.shape.toNat 26 25 = 2 ∧ ∀ q < 160, s.upCores q < 4) := by
    simp [failsCheck, State.upCores, LaunchRec.tiles, or_assoc]
  have hquads : s.quadWith r.cluster = false ↔
      (bits r.shape.toNat 26 25 = 1 ∧ ∀ q < 160, s.upCores q < 2) ∨
        (bits r.shape.toNat 26 25 = 2 ∧ ∀ q < 160, s.upCores q < 4) := by
    rw [quadWith_eq_false, LaunchRec.cluster]
    split
    · next h => simp [h]
    · next h => simp [h]
    · next h1 h2 =>
      simp only [show ¬bits r.shape.toNat 26 25 = 1 from h1, show ¬bits r.shape.toNat 26 25 = 2 from h2, false_and, or_self,
        iff_false]
      exact fun h => Nat.not_lt_zero _ (h 0 (by omega))
  rw [hcheck, ← hquads]
  simp [engineOn_iff, Config.nQuads, Nat.pos_iff_ne_zero]

/-- The refusal code is that of the first check that fails. -/
theorem refusal_eq_find? (s : State) (r : LaunchRec) (host : Option (Nat × Nat)) :
    s.refusal r host = [1, 2, 3, 4, 5, 6, 7, 8, 9, 10, 11].find? (failsCheck s r host) := by
  unfold State.refusal
  dsimp only
  refine ite_some_eq_find? ?_ (ite_some_eq_find? ?_ (ite_some_eq_find? ?_ (ite_some_eq_find? ?_ (ite_some_eq_find? ?_
    (ite_some_eq_find? ?_ (ite_some_eq_find? ?_ (ite_some_eq_find? ?_ (ite_some_eq_find? ?_ (ite_some_eq_find? ?_
    (ite_some_eq_find? ?_ rfl))))))))))
  · have hlt : r.cupimg.toNat < 2 ^ 64 := r.cupimg.isLt
    have himg : bits r.cupimg.toNat 63 12 = r.cupimg.toNat / 4096 := by
      simp only [bits]
      omega
    simp [failsCheck, LaunchRec.cupSize, LaunchRec.image, himg]
  · simp [failsCheck, LaunchRec.nBlocks, LaunchRec.extX, LaunchRec.extY, LaunchRec.extZ]
  · have hgang : bits r.entry.toNat 0 0 < 2 := bits_lt _ _ _
    simp only [Bool.or_eq_true, decide_eq_true_eq]
    simp [failsCheck, LaunchRec.barriers, LaunchRec.qbar, LaunchRec.tiles, LaunchRec.lclass, LaunchRec.gang]
    omega
  · simp only [Bool.or_eq_true, decide_eq_true_eq]
    simp [failsCheck, LaunchRec.teams, LaunchRec.groups, LaunchRec.regs, LaunchRec.lanes, LaunchRec.scratch]
    omega
  · simp [failsCheck, LaunchRec.cupSize]
    omega
  · simp only [Bool.or_eq_true, decide_eq_true_eq]
    simp [failsCheck, LaunchRec.wlcnt, LaunchRec.wlcap]
    omega
  · simp [failsCheck, LaunchRec.gang]
  · simp [failsCheck, LaunchRec.lclass, LaunchRec.l1f]
  · cases host <;> simp [failsCheck, LaunchRec.ctx]
  · exact unplaceable_iff s r host
  · cases host <;> simp [failsCheck, State.lidUsed, Grid.incomplete]

/-- A record is refused with the code that the checks give, and accepted where they give none. -/
theorem refusal_of_refusedWith {s : State} {r : LaunchRec} {host : Option (Nat × Nat)} {c : Nat} (h : refusedWith s r host c) :
    s.refusal r host = some c := by
  obtain ⟨hc, hlt⟩ := h
  have hmem : c ∈ List.range' 1 11 := by
    unfold failsCheck at hc
    dsimp only at hc
    split at hc
    case h_12 => cases hc
    all_goals simp
  rw [refusal_eq_find?]
  exact List.find?_range'_eq_some.2 ⟨hc, hmem, fun k _ hk => by simp [hlt k hk]⟩

theorem refusal_of_accepted {s : State} {r : LaunchRec} {host : Option (Nat × Nat)} (h : accepted s r host) :
    s.refusal r host = none := by
  rw [refusal_eq_find?, List.find?_eq_none]
  exact fun k _ => by simp [h k]

end Sys2Proof.Machine
end

section
/-! ## A gang without clusters on the first scope that takes it (R384, R390) -/

namespace Sys2Proof.Machine
open Sys2Proof Sys2Proof.Claims

/-! ### The core with the fewest teams (R389) -/

/-- Of the cores l, c has the fewest resident teams, and is the lowest of those. -/
def LeastIn (s : State) (l : List Nat) (c : Nat) : Prop :=
  c ∈ l ∧ ∀ x ∈ l, s.nTeams [c] < s.nTeams [x] ∨ (s.nTeams [c] = s.nTeams [x] ∧ c ≤ x)

theorem LeastIn.unique {s : State} {l : List Nat} {c d : Nat} (h : LeastIn s l c) (k : LeastIn s l d) : c = d := by
  have h1 := h.2 d k.1
  have h2 := k.2 c h.1
  omega

/-- The next core of an ascending list against the least of those before it. -/
def fewer (s : State) (b : Option (Nat × Nat)) (c : Nat) : Option (Nat × Nat) :=
  match b with
  | none => some (s.nTeams [c], c)
  | some x => if s.nTeams [c] < x.1 then some (s.nTeams [c], c) else b

theorem foldl_fewer {s : State} {l : List Nat} (hl : l.Pairwise (· < ·)) :
    (l.foldl (fewer s) none = none → l = []) ∧
      ∀ x, l.foldl (fewer s) none = some x → x.1 = s.nTeams [x.2] ∧ LeastIn s l x.2 := by
  induction l using List.reverseRecOn with
  | nil => exact ⟨fun _ => rfl, nofun⟩
  | append_singleton l c ih =>
    obtain ⟨hl', -, hlast⟩ := List.pairwise_append.1 hl
    obtain ⟨hnone, hsome⟩ := ih hl'
    rw [List.foldl_append, List.foldl_cons, List.foldl_nil]
    cases hb : l.foldl (fewer s) none with
    | none =>
      obtain rfl := hnone hb
      refine ⟨nofun, fun x hx => ?_⟩
      obtain rfl := Option.some.inj hx
      exact ⟨rfl, by simp, by simp⟩
    | some y =>
      obtain ⟨hy, hmem, hmin⟩ := hsome y hb
      have hlt : y.2 < c := hlast y.2 hmem c (by simp)
      unfold fewer
      dsimp only
      split
      · next hc =>
        refine ⟨nofun, fun x hx => ?_⟩
        obtain rfl := Option.some.inj hx
        refine ⟨rfl, by simp, fun z hz => ?_⟩
        rcases List.mem_append.1 hz with hz | hz
        · have := hmin z hz
          dsimp only
          omega
        · obtain rfl := List.mem_singleton.1 hz
          exact .inr ⟨rfl, Nat.le_refl _⟩
      · next hc =>
        refine ⟨nofun, fun x hx => ?_⟩
        obtain rfl := Option.some.inj hx
        refine ⟨hy, by simp [hmem], fun z hz => ?_⟩
        rcases List.mem_append.1 hz with hz | hz
        · exact hmin z hz
        · obtain rfl := List.mem_singleton.1 hz
          omega

/-- The core that takes the next block is the least of those it may go to. -/
theorem fewest_eq_some {s : State} {l : List Nat} (hl : l.Pairwise (· < ·)) {c : Nat} :
    s.fewest l = some c ↔ LeastIn s l c := by
  have e : s.fewest l = (l.foldl (fewer s) none).map (·.2) := rfl
  obtain ⟨hnone, hsome⟩ := foldl_fewer (s := s) hl
  rw [e]
  constructor
  · intro h
    obtain ⟨x, hx, rfl⟩ := Option.map_eq_some_iff.1 h
    exact (hsome x hx).2
  · intro h
    cases hb : l.foldl (fewer s) none with
    | none =>
      have hmem := h.1
      rw [hnone hb] at hmem
      cases hmem
    | some x => exact congrArg some ((hsome x hb).2.unique h)

/-! ### Blocks one after another (R390) -/

section
variable {g : Grid} {f : Nat → Bool} {cores : List Nat} (hc : g.lrec.cluster = 0) (hsort : cores.Pairwise (· < ·))
  (hmem : ∀ x, x ∈ cores ↔ x < 640 ∧ f x = true)
include hc hsort hmem

/-- The core of the block of rank k. -/
theorem fewest_eligNew {s : State} {k c : Nat} :
    s.fewest (cores.filter fun c => eligNew g s k c) = some c ↔
      leastCore s (fun x => x < 640 ∧ f x = true ∧ s.eligible x g.gid g.lrec k g.lrec.teams = true) c := by
  have hin (x : Nat) : x ∈ cores.filter (fun c => eligNew g s k c) ↔
      x < 640 ∧ f x = true ∧ s.eligible x g.gid g.lrec k g.lrec.teams = true := by
    rw [List.mem_filter, hmem, and_assoc, eligNew, clusterOf, if_pos hc]
  rw [fewest_eq_some (hsort.filter _)]
  simp only [LeastIn, leastCore, hin]

/-- The blocks of ranks k to k + m - 1 can be put, the last of a gang, just where a list of cores takes them in order. -/
theorem putGroups_isSome {m k : Nat} {s : State} (hm : g.lrec.nBlocks = k + m) :
    (putGroups (eligNew g) (fun s k c => s.putNew g k c) cores ((List.range' k m).map fun k => ⟨[k], false, false⟩) s).isSome =
        true ↔ ∃ l, gangCores g f l k s := by
  induction m generalizing k s with
  | zero => exact ⟨fun _ => ⟨[], hm.symm⟩, fun _ => rfl⟩
  | succ m ih =>
    have hput : putGroup (eligNew g) (fun s k c => s.putNew g k c) cores ⟨[k], false, false⟩ s =
        (s.fewest (cores.filter fun c => eligNew g s k c)).map fun c => s.putNew g k c := by
      change putAll _ _ cores [k] s = _
      unfold putAll
      cases s.fewest (cores.filter fun c => eligNew g s k c) <;> rfl
    have hleast (c : Nat) := fewest_eligNew hc hsort hmem (s := s) (k := k) (c := c)
    rw [List.range'_succ, List.map_cons]
    unfold putGroups
    rw [hput]
    constructor
    · intro h
      cases hb : s.fewest (cores.filter fun c => eligNew g s k c) with
      | none =>
        rw [hb] at h
        cases h
      | some c =>
        rw [hb] at h
        obtain ⟨l, hl⟩ := (ih (by omega)).1 h
        exact ⟨c :: l, (hleast c).1 hb, hl⟩
    · rintro ⟨l, hl⟩
      cases l with
      | nil =>
        have : k = g.lrec.nBlocks := hl
        omega
      | cons c l =>
        obtain ⟨hfirst, hrest⟩ := hl
        rw [(hleast c).2 hfirst]
        exact (ih (by omega)).2 ⟨l, hrest⟩

end

/-! ### The scopes of a class (R390) -/

theorem mem_insertBy {α : Type} {k : α → Nat} {x y : α} {l : List α} : y ∈ insertBy k x l ↔ y = x ∨ y ∈ l := by
  induction l with
  | nil => simp [insertBy]
  | cons z r ih =>
    unfold insertBy
    split
    · simp
    · simp only [List.mem_cons, ih]
      exact or_left_comm

theorem mem_sortBy {α : Type} {k : α → Nat} {y : α} {l : List α} : y ∈ sortBy k l ↔ y ∈ l := by
  induction l using List.reverseRecOn with
  | nil => rfl
  | append_singleton l x ih =>
    rw [sortBy, List.foldl_append, List.foldl_cons, List.foldl_nil, mem_insertBy, List.mem_append, List.mem_singleton, or_comm]
    exact or_congr_left ih

/-- The cores of scope n of a class. -/
def scopeCores (lclass n : Nat) : List Nat :=
  if lclass = 0 then quadCores n else if lclass = 1 then towerCores n else allCores

theorem mem_scopes {s : State} {lclass : Nat} {cores : List Nat} :
    cores ∈ s.scopes lclass ↔ ∃ n < nScopes lclass, cores = scopeCores lclass n := by
  unfold State.scopes nScopes scopeCores
  split
  · simp [Config.nQuads, eq_comm]
  · simp [Config.nTowers, mem_sortBy, eq_comm]
  · next h0 h1 =>
    simp only [if_neg h0, if_neg h1]
    simp

theorem scopeCores_sorted (lclass n : Nat) : (scopeCores lclass n).Pairwise (· < ·) := by
  have hrun (k m : Nat) : ((List.range k).map (m + ·)).Pairwise (· < ·) :=
    List.pairwise_map.2 (List.pairwise_lt_range.imp fun h => Nat.add_lt_add_left h m)
  unfold scopeCores
  split
  · exact hrun _ _
  · split
    · exact hrun _ _
    · exact List.pairwise_lt_range

theorem mem_scopeCores {lclass n x : Nat} (hn : n < nScopes lclass) :
    x ∈ scopeCores lclass n ↔ x < 640 ∧ scopeHas lclass n x = true := by
  unfold nScopes at hn
  unfold scopeCores scopeHas
  have hrun {k m : Nat} : x ∈ (List.range k).map (m + ·) ↔ m ≤ x ∧ x < m + k := by
    simp only [List.mem_map, List.mem_range]
    exact ⟨fun ⟨i, hi, e⟩ => by omega, fun h => ⟨x - m, by omega, by omega⟩⟩
  by_cases h0 : lclass = 0
  · simp only [if_pos h0, quadCores, hrun, beq_iff_eq] at hn ⊢
    omega
  · simp only [if_neg h0] at hn ⊢
    by_cases h1 : lclass = 1
    · simp only [if_pos h1, towerCores, hrun, beq_iff_eq] at hn ⊢
      omega
    · simp only [if_neg h1, allCores, Config.nCores, List.mem_range, and_true]

/-- The gang of a record fits where some scope of its class takes it with no other work resident (R384). -/
theorem gangFits_iff {s : State} {r : LaunchRec} (hc : r.cluster = 0) (hn : r.nBlocks ≤ 16 * 640) :
    s.gangFits r = true ↔
      ∃ n l, n < nScopes r.lclass ∧ gangCores { Grid.none with lrec := r } (scopeHas r.lclass n) l 0 (idle s) := by
  have hranks : r.togethers 0 r.nBlocks = (List.range' 0 r.nBlocks).map fun k => ⟨[k], false, false⟩ := by
    simp [LaunchRec.togethers, hc, List.range_eq_range']
  have hput (n : Nat) (hlt : n < nScopes r.lclass) := putGroups_isSome (g := { Grid.none with lrec := r })
    (f := scopeHas r.lclass n) hc (scopeCores_sorted r.lclass n) (fun x => mem_scopeCores hlt) (k := 0) (s := idle s)
    (Nat.zero_add _).symm
  unfold State.gangFits State.putGang
  rw [if_neg (by simpa [Config.nCores] using hn)]
  simp only [List.filter_true, List.findSome?_isSome_iff, hranks]
  constructor
  · rintro ⟨cores, hcores, h⟩
    obtain ⟨n, hlt, rfl⟩ := mem_scopes.1 hcores
    obtain ⟨l, hl⟩ := (hput n hlt).1 h
    exact ⟨n, l, hlt, hl⟩
  · rintro ⟨n, l, hlt, hl⟩
    exact ⟨_, mem_scopes.2 ⟨n, hlt, rfl⟩, (hput n hlt).2 ⟨l, hl⟩⟩

end Sys2Proof.Machine
end

section
/-! ## Queues, the completion of a grid, and CWAIT (R35, R48, R194, R387, R391) -/

namespace Sys2Proof.Machine
open Sys2Proof Sys2Proof.Claims

/-! ### Enqueueing (R387) -/

/-- The launches of a context that one with these prerequisites waits for (R387). -/
def State.watching (s : State) (ctx : Nat) (r : LaunchRec) : List Nat :=
  (s.grids.filter fun g => g.ctx == ctx && g.incomplete && g.lid != 0 && r.prereq.contains g.lid).map (·.gid)

theorem mem_watching {s : State} {ctx k : Nat} {r : LaunchRec} :
    k ∈ s.watching ctx r ↔
      ∃ h ∈ s.grids, h.gid = k ∧ h.ctx = ctx ∧ h.st ≠ .complete ∧ h.lid ≠ 0 ∧ h.lid ∈ r.prereq := by
  simp only [State.watching, List.mem_map, List.mem_filter, Bool.and_eq_true, beq_iff_eq, bne_iff_ne, Grid.incomplete,
    List.contains_iff_mem]
  constructor
  · rintro ⟨h, ⟨hmem, ⟨⟨hctx, hst⟩, hlid⟩, hpre⟩, hgid⟩
    exact ⟨h, hmem, hgid, hctx, hst, hlid, hpre⟩
  · rintro ⟨h, hmem, hgid, hctx, hst, hlid, hpre⟩
    exact ⟨h, ⟨hmem, ⟨⟨hctx, hst⟩, hlid⟩, hpre⟩, hgid⟩

/-- The grid that a launch adds, before it is known whether it waits. -/
def State.launched (s : State) (ctx lid qsel depth : Nat) (parent : Option Nat) (r : LaunchRec) : Grid :=
  { Grid.none with
    gid := s.uid, lid := lid, ctx := ctx, lrec := r, parent := parent, depth := depth, qsel := qsel
    watched := s.watching ctx r, gbars := if r.gang then List.replicate 4 {} else [] }

/-- The grid as it is enqueued: Held while it waits for another, else Queued. -/
def State.queuedGrid (s : State) (g : Grid) : Grid := if g.watched.isEmpty then s.toQueue g else g

theorem enqueue_eq (s : State) (ctx lid qsel depth : Nat) (parent : Option Nat) (r : LaunchRec) :
    s.enqueue ctx lid qsel depth parent r =
      { s with uid := s.uid + 1, grids := s.grids ++ [s.queuedGrid (s.launched ctx lid qsel depth parent r)] } := rfl

/-- Entering the queue changes the grid's state, class and times only. -/
theorem queuedGrid_eq (s : State) (g : Grid) :
    s.queuedGrid g = { g with
      st := (s.queuedGrid g).st, cls := (s.queuedGrid g).cls, clsAt := (s.queuedGrid g).clsAt
      queuedAt := (s.queuedGrid g).queuedAt } := by
  unfold State.queuedGrid
  split <;> rfl

/-- Its identity and its record are as they were. -/
theorem queuedGrid_kept (s : State) (g : Grid) :
    (s.queuedGrid g).gid = g.gid ∧ (s.queuedGrid g).lid = g.lid ∧ (s.queuedGrid g).ctx = g.ctx ∧
      (s.queuedGrid g).lrec = g.lrec ∧ (s.queuedGrid g).parent = g.parent ∧ (s.queuedGrid g).depth = g.depth ∧
      (s.queuedGrid g).qsel = g.qsel ∧ (s.queuedGrid g).next = g.next ∧ (s.queuedGrid g).retired = g.retired ∧
      (s.queuedGrid g).watched = g.watched := by
  rw [queuedGrid_eq]
  exact ⟨rfl, rfl, rfl, rfl, rfl, rfl, rfl, rfl, rfl, rfl⟩

/-- One that waits for none is Queued at its class, and the others stay as they were (R387, R388). -/
theorem queuedGrid_st (s : State) (g : Grid) :
    (g.watched = [] → (s.queuedGrid g).st = .queued ∧ (s.queuedGrid g).cls = g.lrec.prio) ∧
      (g.watched ≠ [] → (s.queuedGrid g).st = g.st) := by
  refine ⟨fun h => ?_, fun h => ?_⟩
  · have e : s.queuedGrid g = s.toQueue g := if_pos (by simp [h])
    rw [e]
    exact ⟨rfl, rfl⟩
  · rw [State.queuedGrid, if_neg (by simpa using h)]

/-! ### Completion (R35, R48, R391) -/

theorem sendComplete_eq (s : State) (ctx lid status code : Nat) (tstart : DWord) (blocks : Nat) :
    s.sendComplete ctx lid status code tstart blocks =
      s.send 0 0x02 ctx 0 (completeBytes lid status code tstart.toNat s.pkg.clk.toNat blocks) := by
  simp only [State.sendComplete, completeBytes, List.append_assoc]
  rfl

/-- A launch once it no longer waits for grid gid. -/
def State.freed (s : State) (gid : Nat) (h : Grid) : Grid :=
  if h.watched.contains gid then
    let h1 := { h with watched := h.watched.filter fun x => x != gid }
    if h1.watched.isEmpty && h1.st == GridSt.held then s.toQueue h1 else h1
  else h

theorem freed_gid (s : State) (gid : Nat) (h : Grid) : (s.freed gid h).gid = h.gid := by
  unfold State.freed
  dsimp only
  split
  · split <;> rfl
  · rfl

/-- A launch that does not wait for the grid is as it was. -/
theorem freed_of_notMem {s : State} {gid : Nat} {h : Grid} (hno : gid ∉ h.watched) : s.freed gid h = h := by
  rw [State.freed, if_neg (by simpa using hno)]

/-- One that was Held for the grid alone is Queued (R387). -/
theorem freed_held {s : State} {gid : Nat} {h : Grid} (hst : h.st = .held) (hw : h.watched = [gid]) :
    (s.freed gid h).st = .queued ∧ (s.freed gid h).watched = [] ∧ (s.freed gid h).cls = h.lrec.prio := by
  have e : s.freed gid h = s.toQueue { h with watched := [] } := by
    simp [State.freed, hw, hst]
  rw [e]
  exact ⟨rfl, rfl, rfl⟩

/-- What the end of a grid leaves. -/
theorem gridOver_eq (s : State) (g : Grid) (status code blocks : Nat) :
    s.gridOver g status code blocks = { s with
      grids := (s.grids.filter fun h => h.gid != g.gid).map (s.freed g.gid)
      seals := (s.gridOver g status code blocks).seals
      link := match g.parent with
        | none => (s.sendComplete g.ctx g.lid status code g.tstart blocks).link
        | some _ => s.link } := by
  unfold State.gridOver
  cases g.imgSeal <;> cases g.parent <;> rfl

/-- A grid that is done is complete. -/
theorem gridDone_of {s : State} {g : Grid} (hst : g.st = .running ∨ g.st = .draining) (hret : g.retired = g.lrec.nBlocks)
    (hkids : ∀ h ∈ s.grids, h.parent = some g.gid → h.st = .complete) (hw : ∀ w ∈ s.link.wlate, w.2.1 ≠ g.gid) :
    s.gridDone g = true := by
  have hk : (s.grids.any fun h => h.parent == some g.gid && h.incomplete) = false := by
    simpa [Grid.incomplete] using hkids
  have hl : (s.link.wlate.any fun w => w.2.1 == g.gid) = false := by simpa using hw
  have hs : (g.st == GridSt.running || g.st == GridSt.draining) = true := by rcases hst with e | e <;> simp [e]
  simp [State.gridDone, hs, hret, hk, hl]

/-! ### CWAIT (R194) -/

/-- The children that CWAIT of x asks about. -/
def State.asks (s : State) (x : Nat) : List (Nat × Nat) := s.t.kids.filter fun k => x == 0 || k.2 == x

theorem asks_eq (s : State) (x : Nat) : s.asks x = if x = 0 then s.t.kids else s.t.kids.filter fun k => k.2 == x := by
  by_cases h : x = 0
  · rw [if_pos h, State.asks, h]
    exact List.filter_eq_self.2 fun _ _ => rfl
  · rw [if_neg h, State.asks, beq_false_of_ne h]
    simp only [Bool.false_or]

theorem kidOpen_iff {s : State} {k : Nat × Nat} : s.kidOpen k = true ↔ ∃ g ∈ s.grids, g.gid = k.1 ∧ g.st ≠ .complete := by
  simp [State.kidOpen, Grid.incomplete]

section
variable {s : State} {d a : Nat} (h : s.Clear) (hc : s.checks (.cwait d a) = none)
include h hc

/-- CWAIT of an id that the team has not launched answers at once. -/
theorem execCwait_unknown (hx : (s.sReg a).toNat ≠ 0) (hk : s.asks (s.sReg a).toNat = []) :
    ∃ u, exec (.cwait d a) s = .next u ∧ Goes 1 s (s.ws d 0x8000000000000001) u := by
  refine h.exec_goes hc rfl ?_ ⟨rfl, rfl, rfl, rfl, rfl⟩
  dsimp only
  rw [h.rs, ← asks_eq, hk]
  exact if_pos ⟨hx, rfl⟩

/-- CWAIT of complete children answers 0. -/
theorem execCwait_complete (hx : (s.sReg a).toNat = 0 ∨ s.asks (s.sReg a).toNat ≠ [])
    (hk : ∀ k ∈ s.asks (s.sReg a).toNat, ∀ g ∈ s.grids, g.gid = k.1 → g.st = .complete) :
    ∃ u, exec (.cwait d a) s = .next u ∧ Goes 1 s (s.acquired.ws d 0) u := by
  refine h.exec_goes hc rfl ?_ ⟨rfl, rfl, rfl, rfl, rfl⟩
  dsimp only
  rw [h.rs, ← asks_eq, if_neg (fun ⟨h1, h2⟩ => hx.elim h1 fun h3 => h3 (List.isEmpty_iff.1 h2)), if_neg]
  · rfl
  · simp only [List.any_eq_true, kidOpen_iff]
    rintro ⟨k, hmem, g, hg, hgid, hst⟩
    exact hst (hk k hmem g hg hgid)

/-- CWAIT of a child that is not complete waits. -/
theorem execCwait_open (hk : ∃ k ∈ s.asks (s.sReg a).toNat, ∃ g ∈ s.grids, g.gid = k.1 ∧ g.st ≠ .complete) :
    exec (.cwait d a) s = .next (s.hold .cwait) := by
  refine h.exec_stays hc rfl ?_ rfl
  have hne : (s.asks (s.sReg a).toNat).isEmpty = false := by
    obtain ⟨k, hmem, -⟩ := hk
    cases he : s.asks (s.sReg a).toNat with
    | nil => rw [he] at hmem; cases hmem
    | cons _ _ => rfl
  dsimp only
  rw [h.rs, ← asks_eq, if_neg (by simp [hne]), if_pos]
  simp only [List.any_eq_true, kidOpen_iff]
  exact hk

end

/-- An effect that writes s_d and completes changes nothing else but the team's place. -/
theorem Goes.onlyS {n d : Nat} {s w u : State} {x : DWord} (g : Goes n s (w.ws d x) u) (h : s.Clear)
    (hw : w = { s with t := s.t.placeOf w.t }) : s.OnlyS u ∧ s.KeepsS u [d] ∧ u.sReg d = x := by
  have hi : u.t.infl = [] := g.infl_nil (by rw [hw]; exact h.infl)
  obtain ⟨-, -, -, hs, -⟩ := g.kept
  have hreg (n : Nat) : u.sReg n = sget 0 n (sput 0 d x w.t.s) := congrArg (sget 0 n) hs
  have hws : w.t.s = s.t.s := by rw [hw]; rfl
  refine ⟨?_, fun n hn => ?_, ?_⟩
  · have hf := g.frame
    generalize w.t = y at hw
    rw [hi, hw] at hf
    unfold State.OnlyS
    rw [hf, ← h.infl]
    rfl
  · rw [hreg, hws]
    exact sget_sput_ne 0 (by simpa using hn) _ _
  · rw [hreg]
    exact sget_sput_self 0 d _ _

end Sys2Proof.Machine
end

section
/-! ## LAUNCH, as a message and as an instruction (R193, R384 to R387) -/

namespace Sys2Proof.Machine
open Sys2Proof Sys2Proof.Claims

/-! ### The message (R386, R407) -/

/-- A message that cannot proceed holds the link (R375). -/
theorem takeMsg_hold {s : State} {i : Instr} {body : HostMsg → State → Took} (h : Arrives s i) (hi : i ≠ .unknownType)
    (e : body s.link.rx (heard s) = .hold) :
    takeMsg i body s = { s with link := { s.link with blocked := true, judged := i == .launchMsg } } := by
  unfold takeMsg
  rw [if_neg (by simp [h.up, h.row]), if_neg (by simp [h.seq]), if_neg (by simp [hi]), if_neg (by simp [h.form]),
    if_neg (by simp [h.locked])]
  change (match body s.link.rx (heard s) with | .err _ => _ | .hold => _ | .ok _ => _) = _
  rw [e]

/-- The payload of a LAUNCH: id, queue selector, zeros, record (R386). -/
structure LaunchPayload (s : State) (lid qsel : Nat) (r : LaunchRec) : Prop where
  id : s.link.rx.field 0 4 = lid
  queue : s.link.rx.field 4 1 = qsel
  small : qsel < 4
  zeros : s.link.rx.field 5 11 = 0
  record : r = LaunchRec.of (s.link.rx.payload.drop 16)

section
variable {s : State} {lid qsel : Nat} {r : LaunchRec} (h : LaunchPayload s lid qsel r)
include h

/-- What taking a LAUNCH does, by its refusal. -/
theorem takeLaunch_eq : takeLaunch s.link.rx (heard s) =
    match (heard s).launchRefusal r lid s.link.rx.ctx.toNat with
    | some c => .ok ((heard s).sendComplete s.link.rx.ctx.toNat lid 1 c 0 0)
    | none => if 256 ≤ s.qlevel (4 * r.prio + qsel) then .hold
      else .ok ((heard s).enqueue s.link.rx.ctx.toNat lid qsel 0 none r) := by
  unfold takeLaunch
  dsimp only
  rw [h.id, h.queue, ← h.record, if_neg (by simp [h.zeros, Nat.not_lt.2 (Nat.le_of_lt_succ h.small)])]
  rfl

/-- A LAUNCH that is refused is answered with COMPLETE. -/
theorem execLaunchMsg_refused {c : Nat} (ha : Arrives s .launchMsg)
    (hr : (heard s).launchRefusal r lid s.link.rx.ctx.toNat = some c) :
    exec .launchMsg s = .next ((taken s).send 0 0x02 s.link.rx.ctx.toNat 0 (completeBytes lid 1 c 0 s.pkg.clk.toNat 0)) := by
  have e : takeLaunch s.link.rx (heard s) = .ok ((heard s).sendComplete s.link.rx.ctx.toNat lid 1 c 0 0) := by
    rw [takeLaunch_eq h, hr]
  change Host.Outcome.next (takeMsg .launchMsg takeLaunch s) = _
  rw [takeMsg_ok ha nofun e, sendComplete_eq]
  rfl

/-- One that is accepted holds the link while its queue is full. -/
theorem execLaunchMsg_full (ha : Arrives s .launchMsg) (hr : (heard s).launchRefusal r lid s.link.rx.ctx.toNat = none)
    (hq : 256 ≤ s.qlevel (4 * r.prio + qsel)) :
    exec .launchMsg s = .next { s with link := { s.link with blocked := true, judged := true } } := by
  have e : takeLaunch s.link.rx (heard s) = .hold := by
    rw [takeLaunch_eq h, hr]
    exact if_pos hq
  change Host.Outcome.next (takeMsg .launchMsg takeLaunch s) = _
  rw [takeMsg_hold ha nofun e]
  rfl

/-- And else it is enqueued. -/
theorem execLaunchMsg_queued (ha : Arrives s .launchMsg) (hr : (heard s).launchRefusal r lid s.link.rx.ctx.toNat = none)
    (hq : s.qlevel (4 * r.prio + qsel) < 256) :
    exec .launchMsg s = .next { taken s with
      grids := s.grids ++ [s.queuedGrid (s.launched s.link.rx.ctx.toNat lid qsel 0 none r)], uid := s.uid + 1 } := by
  have e : takeLaunch s.link.rx (heard s) = .ok ((heard s).enqueue s.link.rx.ctx.toNat lid qsel 0 none r) := by
    rw [takeLaunch_eq h, hr]
    exact if_neg (Nat.not_le.2 hq)
  change Host.Outcome.next (takeMsg .launchMsg takeLaunch s) = _
  rw [takeMsg_ok ha nofun e, enqueue_eq]
  rfl

end

/-- A record that has not been judged is judged by the eleven checks. -/
theorem launchRefusal_fresh {s : State} {r : LaunchRec} {lid ctx : Nat} (hj : s.link.judged = false) :
    s.launchRefusal r lid ctx = s.refusal r (some (lid, ctx)) := by
  simp [State.launchRefusal, hj]

/-- One that has been judged is refused only where its context is gone or ends (log 83). -/
theorem launchRefusal_judged {s : State} {r : LaunchRec} {lid ctx : Nat} (hj : s.link.judged = true) :
    s.launchRefusal r lid ctx = if s.slotOf ctx = none ∨ s.ctxEnding ctx = true then some 9 else none := by
  simp [State.launchRefusal, hj]

/-! ### The instruction (R193, R385) -/

/-- Nothing keeps a team whose operand log is free, with no engine operation about, from reading records (R38, R98). -/
theorem recordWait_none {s : State} (h : s.Clear) (hp : s.Plain) (held : List (List Byte)) (runs : List (Nat × Nat)) :
    s.recordWait held runs = none := by
  have howned (p n : Nat) : s.recordOwned p n = false := by
    simp [State.recordOwned, State.owned, hp.eops]
  simp [State.recordWait, State.recordStop, howned, State.spanHeld, h.log]

/-- A release at block scope waits for nothing where no reply is due and no engine operation is about (R92). -/
theorem released_of {s : State} (hr : s.link.reqs = []) (he : s.eops = []) : s.released 3 = true := by
  simp [State.released, State.redsDone, State.grantsDone, State.readsDone, hr, he]

/-- Every id for a child is one of those that R385 gives. -/
theorem childLid_range {s : State} {ctx n last : Nat} (h : last < 2 ^ 32) :
    2 ^ 31 ≤ s.childLid ctx (n + 1) last ∧ s.childLid ctx (n + 1) last < 2 ^ 32 := by
  induction n generalizing last with
  | zero =>
    unfold State.childLid
    simp only [State.childLid, ite_self]
    split <;> omega
  | succ n ih =>
    have hid : 2 ^ 31 ≤ (if last < 2 ^ 31 ∨ last = 2 ^ 32 - 1 then 2 ^ 31 else last + 1) ∧
        (if last < 2 ^ 31 ∨ last = 2 ^ 32 - 1 then 2 ^ 31 else last + 1) < 2 ^ 32 := by
      split <;> omega
    rw [State.childLid]
    generalize (if last < 2 ^ 31 ∨ last = 2 ^ 32 - 1 then 2 ^ 31 else last + 1) = id at hid
    split
    · exact ih hid.2
    · exact hid

theorem startLaunch_depth {s : State} {who : Asker} {ops : List DWord} {held : List (List Byte)} (hd : s.t.depth = 10) :
    s.startLaunch who ops held = .trap [(13, (ops.getD 0 0).toNat)] := by
  rw [State.startLaunch]
  exact if_pos hd

/-- The id that w gives to the next child of team t, and what w is once it is enqueued (R385). -/
def State.nextLid (w : State) (t : Team) : Nat := w.childLid t.ctx (w.grids.length + 1) (w.ctxOf t.ctx).lastLid
def State.withChild (w : State) (t : Team) (r : LaunchRec) : State :=
  let s1 := (w.enqueue t.ctx (w.nextLid t) w.myGrid.qsel (t.depth + 1) (some t.gid) r).modCtx t.ctx fun c =>
    { c with lastLid := w.nextLid t }
  { s1 with t := { s1.t with kids := s1.t.kids ++ [(w.uid, w.nextLid t)] } }

/-- LAUNCH with its record at hand, refused by what judging it gives or not: w is the machine once it has been read. -/
theorem startLaunch_eq {s w : State} {ops : List DWord} {held : List (List Byte)} {bs : List Byte} (h : s.Clear)
    (hpl : s.Plain) (hd : s.t.depth ≠ 10) (hal : (ops.getD 0 0).toNat % 64 = 0)
    (hrec : s.recordOr s.recordWho held 0 (ops.getD 0 0).toNat 64 = .ok bs)
    (hw : (if held.isEmpty then s.noteRecords [((ops.getD 0 0).toNat, 64)] else s) = w) :
    (∀ c, (if held.isEmpty then w.refusal (LaunchRec.of bs) none else none) = some c →
      s.startLaunch s.recordWho ops held = .go w (some (BitVec.ofNat 64 (2 ^ 63 + c))) .ready) ∧
    ((if held.isEmpty then w.refusal (LaunchRec.of bs) none else none) = none →
      s.startLaunch s.recordWho ops held =
        if 256 ≤ w.qlevel (4 * (LaunchRec.of bs).prio + w.myGrid.qsel) || !w.released 3 then .wait (.queue bs) w
        else .go (w.withChild s.t (LaunchRec.of bs)) (some (BitVec.ofNat 64 (w.nextLid s.t))) .ready) := by
  refine ⟨fun c hres => ?_, fun hres => ?_⟩
  all_goals
    rw [State.startLaunch]
    dsimp only
    rw [if_neg hd, if_neg fun k => k hal, recordWait_none h hpl]
    dsimp only
    rw [hrec]
    dsimp only
    rw [hw]
    simp only [hres]
  rfl

/-- At the greatest depth it is Launch-Depth. -/
theorem execLaunch_depth {s : State} {d a : Nat} (h : s.Clear) (hc : s.checks (.launch d a) = none) (hd : s.t.depth = 10) :
    exec (.launch d a) s = .next (s.raise 13 (s.sReg a)) := by
  refine h.exec_stays hc rfl ?_ (raise_ord _ _ _)
  dsimp only
  rw [h.rs, startLaunch_depth hd]
  change s.decide [⟨13, 0, BitVec.ofNat 64 (s.sReg a).toNat, s.t.pc, s.t.cl, false, s.t.ord⟩] = _
  rw [BitVec.ofNat_toNat, BitVec.setWidth_eq]
  rfl

/-! ### What reading a record leaves of what LAUNCH looks at -/

theorem State.SlotsKept.slotOf {s u : State} (h : s.SlotsKept u) (ctx : Nat) : u.slotOf ctx = s.slotOf ctx := by
  obtain ⟨-, hk⟩ := h
  have hact (n : Nat) : (u.slot n).act = (s.slot n).act := by rw [hk n]
  have hid (n : Nat) : (u.slot n).ctxid = (s.slot n).ctxid := by rw [hk n]
  simp only [State.slotOf, hact, hid]

theorem State.SlotsKept.lastLid {s u : State} (h : s.SlotsKept u) (ctx : Nat) :
    (u.ctxOf ctx).lastLid = (s.ctxOf ctx).lastLid := by
  rw [State.ctxOf, State.ctxOf, h.slotOf]
  cases s.slotOf ctx with
  | none => rfl
  | some n => exact (congrArg CtxSlot.lastLid (h.2 n)).trans rfl

/-- What LAUNCH looks at besides its record is as before the read. -/
theorem Touches.kept {s w : State} (h : Touches s w) :
    w.grids = s.grids ∧ w.link = s.link ∧ w.eops = s.eops ∧ w.uid = s.uid := by
  have hf := h.frame
  generalize w.t.infl = x at hf
  generalize w.others = y at hf
  refine ⟨?_, ?_, ?_, ?_⟩ <;> rw [hf]

theorem Touches.myGrid {s w : State} (h : Touches s w) (hi : s.t.infl = []) : w.myGrid = s.myGrid := by
  rw [State.myGrid, State.myGrid, State.grid?, State.grid?, h.kept.1, h.t_of_nil hi]

theorem Touches.stays {s w : State} (h : Touches s w) : s.Stays w := by
  have ht := h.t_eq
  exact ⟨(congrArg Team.tid ht :), (congrArg Team.pc ht :), (congrArg (·.cl.hdr) ht :), (congrArg (·.cl.idx) ht :),
    (congrArg Team.ord ht :)⟩

/-- A child enqueued: a grid more, and the team knows it. -/
theorem withChild_eq (w : State) (t : Team) (r : LaunchRec) :
    w.withChild t r = { w with
      t := { w.t with kids := w.t.kids ++ [(w.uid, w.nextLid t)] }
      grids := w.grids ++ [w.queuedGrid (w.launched t.ctx (w.nextLid t) w.myGrid.qsel (t.depth + 1) (some t.gid) r)]
      uid := w.uid + 1, ctxs := (w.withChild t r).ctxs } := by
  unfold State.withChild State.modCtx
  dsimp only
  split <;> rfl

/-! ### What LAUNCH leaves -/

section
variable {s w : State} {d a : Nat} {x : DWord}

/-- A LAUNCH that starts gives its answer and completes. -/
theorem execLaunch_go (h : s.Clear) (hc : s.checks (.launch d a) = none)
    (hgo : s.startLaunch s.recordWho [s.sReg a] s.t.wait.recs = .go w (some x) .ready) (hw : s.Stays w) :
    ∃ u, exec (.launch d a) s = .next u ∧ Goes 1 s ((w.ws d x).attach .ready [] [a] []) u := by
  refine h.exec_goes hc rfl ?_ ⟨hw.tid, hw.pc, hw.hdr, hw.idx, hw.ord⟩
  dsimp only
  rw [h.rs, hgo]
  rfl

/-- Its answer, and that nothing else is outstanding. -/
theorem Goes.launch {u : State} (g : Goes 1 s ((w.ws d x).attach .ready [] [a] []) u) (hi : w.t.infl = []) (hcl : w.t.cl = s.t.cl)
    (hs : w.t.s = s.t.s) : Claims.oneReady s u ∧ s.KeepsS u [d] ∧ u.sReg d = x := by
  obtain ⟨-, -, -, hreg, -⟩ := g.kept
  have hreg (n : Nat) : u.sReg n = sget 0 n (sput 0 d x s.t.s) := hs ▸ congrArg (sget 0 n) hreg
  refine ⟨g.oneReady (v := w.ws d x) hi hcl, fun n hn => ?_, ?_⟩
  · rw [hreg]
    exact sget_sput_ne 0 (by simpa using hn) _ _
  · rw [hreg]
    exact sget_sput_self 0 d _ _

end

/-- What completing leaves of the team's children, the other teams and the context slots. -/
theorem Goes.rest {m : Nat} {s w u : State} (g : Goes m s w u) :
    u.others = w.others ∧ u.t.kids = w.t.kids ∧ u.ctxs = w.ctxs := by
  have hf := g.frame
  generalize hp : { w.t.placeOf u.t with infl := u.t.infl } = p at hf
  subst hf
  exact ⟨rfl, (congrArg Team.kids hp).symm, rfl⟩

/-- A LAUNCH whose record is read and refused. -/
theorem execLaunch_refused {s : State} {d a c : Nat} {bs : List Byte} (h : s.Clear) (hpl : s.Plain)
    (hc : s.checks (.launch d a) = none) (hd : s.t.depth ≠ 10) (hal : (s.sReg a).toNat % 64 = 0) (hrecs : s.t.wait.recs = [])
    (hread : s.readRecord s.recordWho (s.sReg a).toNat 64 = .ok bs)
    (href : (s.noteRecords [((s.sReg a).toNat, 64)]).refusal (LaunchRec.of bs) none = some c) :
    ∃ u, exec (.launch d a) s = .next u ∧
      Goes 1 s (((s.noteRecords [((s.sReg a).toNat, 64)]).ws d (BitVec.ofNat 64 (2 ^ 63 + c))).attach .ready [] [a] []) u := by
  have hw : Touches s (s.noteRecords [((s.sReg a).toNat, 64)]) := hpl.touches_noteRecords _
  refine execLaunch_go h hc ?_ hw.stays
  rw [hrecs]
  exact (startLaunch_eq (ops := [s.sReg a]) (held := []) h hpl hd hal hread (if_pos rfl)).1 c ((if_pos rfl).trans href)

theorem launch_ctxs {s w u : State} {d a : Nat} {x : DWord} (g : Goes 1 s ((w.ws d x).attach .ready [] [a] []) u) :
    u.ctxs = w.ctxs := g.rest.2.2

/-- What a refused LAUNCH leaves of a settled machine. -/
theorem launch_frame {s w u : State} {d a : Nat} {x : DWord} (g : Goes 1 s ((w.ws d x).attach .ready [] [a] []) u)
    (hw : w = { s with ctxs := w.ctxs, caches := w.caches }) :
    u = { s with
      t := { s.t.placeOf u.t with s := u.t.s, infl := u.t.infl }, uid := u.uid, caches := u.caches, ctxs := u.ctxs } := by
  have hf := g.frame
  generalize w.ctxs = cs at hw
  generalize w.caches = ca at hw
  subst hw
  rw [hf]
  rfl

/-- A LAUNCH whose record is accepted, or has been before, and finds room in its queue: w is the machine once it has the
record. -/
theorem execLaunch_child {s w : State} {d a : Nat} {bs : List Byte} (h : s.Clear) (hpl : s.Plain)
    (hc : s.checks (.launch d a) = none) (hw : Touches s w)
    (hgo : s.startLaunch s.recordWho [s.sReg a] s.t.wait.recs =
      if 256 ≤ w.qlevel (4 * (LaunchRec.of bs).prio + w.myGrid.qsel) || !w.released 3 then .wait (.queue bs) w
      else .go (w.withChild s.t (LaunchRec.of bs)) (some (BitVec.ofNat 64 (w.nextLid s.t))) .ready)
    (hq : s.qlevel (4 * (LaunchRec.of bs).prio + s.myGrid.qsel) < 256) :
    ∃ u, exec (.launch d a) s = .next u ∧ Goes 1 s (((w.withChild s.t (LaunchRec.of bs)).ws d
      (BitVec.ofNat 64 (w.nextLid s.t))).attach .ready [] [a] []) u := by
  obtain ⟨hgrids, hlink, heops, -⟩ := hw.kept
  have ht := hw.t_of_nil h.infl
  have hmine := hw.myGrid h.infl
  have hlevel : w.qlevel (4 * (LaunchRec.of bs).prio + w.myGrid.qsel) =
      s.qlevel (4 * (LaunchRec.of bs).prio + s.myGrid.qsel) := by rw [State.qlevel, State.qlevel, hgrids, hmine]
  have hrel : w.released 3 = true := released_of (by rw [hlink]; exact h.reqs) (heops.trans hpl.eops)
  rw [hlevel, hrel, if_neg (by simpa using hq)] at hgo
  have e : (w.withChild s.t (LaunchRec.of bs)).t = _ := congrArg State.t (withChild_eq w s.t (LaunchRec.of bs))
  refine execLaunch_go h hc hgo ⟨?_, ?_, ?_, ?_, ?_⟩ <;> rw [e] <;> dsimp only <;> rw [ht]

/-- The machine w in which LAUNCH has a record that it goes on with: read and accepted, or held from before. -/
theorem exists_launchRecord {s : State} {a : Nat} {bs : List Byte} (h : s.Clear) (hpl : s.Plain) (hd : s.t.depth ≠ 10)
    (hal : (s.sReg a).toNat % 64 = 0)
    (hrec : (s.t.wait.recs = [] ∧ s.readRecord s.recordWho (s.sReg a).toNat 64 = .ok bs ∧
      accepted (s.noteRecords [((s.sReg a).toNat, 64)]) (LaunchRec.of bs) none) ∨ s.t.wait.recs = [bs]) :
    ∃ w, Touches s w ∧ s.startLaunch s.recordWho [s.sReg a] s.t.wait.recs =
      if 256 ≤ w.qlevel (4 * (LaunchRec.of bs).prio + w.myGrid.qsel) || !w.released 3 then .wait (.queue bs) w
      else .go (w.withChild s.t (LaunchRec.of bs)) (some (BitVec.ofNat 64 (w.nextLid s.t))) .ready := by
  rcases hrec with ⟨hrecs, hread, hacc⟩ | hrecs <;> rw [hrecs]
  · exact ⟨_, hpl.touches_noteRecords _, (startLaunch_eq (ops := [s.sReg a]) (held := []) h hpl hd hal hread (if_pos rfl)).2
      ((if_pos rfl).trans (refusal_of_accepted hacc))⟩
  · exact ⟨s, .refl s, (startLaunch_eq (ops := [s.sReg a]) (held := [bs]) h hpl hd hal rfl (if_neg nofun)).2 (if_neg nofun)⟩

/-- What LAUNCH leaves once its child is enqueued: the answer, the grids, and what the team knows of it. -/
theorem Goes.child {s w u : State} {d a : Nat} {r : LaunchRec} (h : s.Clear) (hw : Touches s w)
    (g : Goes 1 s (((w.withChild s.t r).ws d (BitVec.ofNat 64 (w.nextLid s.t))).attach .ready [] [a] []) u) :
    Claims.oneReady s u ∧ s.KeepsS u [d] ∧ u.sReg d = BitVec.ofNat 64 (w.nextLid s.t) ∧
      u.grids = s.grids ++
        [w.queuedGrid (w.launched s.t.ctx (w.nextLid s.t) w.myGrid.qsel (s.t.depth + 1) (some s.t.gid) r)] ∧
      u.t.kids = s.t.kids ++ [(w.uid, w.nextLid s.t)] ∧ u.mem = s.mem ∧ u.t.v = s.t.v ∧
      (settled s → u.others = s.others) := by
  have ht := hw.t_of_nil h.infl
  have hc := withChild_eq w s.t r
  have hct : (w.withChild s.t r).t = { s.t with kids := s.t.kids ++ [(w.uid, w.nextLid s.t)] } := by
    refine (congrArg State.t hc).trans ?_
    dsimp only
    rw [ht]
  have hcg : (w.withChild s.t r).grids = _ := congrArg State.grids hc
  have hcm : (w.withChild s.t r).mem = _ := congrArg State.mem hc
  have hco : (w.withChild s.t r).others = _ := congrArg State.others hc
  generalize w.withChild s.t r = x at g hct hcg hcm hco
  obtain ⟨hgrids, hmem, -, -, hv, -⟩ := g.kept
  obtain ⟨hothers, hkids, -⟩ := g.rest
  obtain ⟨hone, hkeep, hval⟩ := g.launch (by rw [hct]; exact h.infl) (by rw [hct]) (by rw [hct])
  obtain ⟨hwg, -, -, -⟩ := hw.kept
  refine ⟨hone, hkeep, hval, ?_, ?_, ?_, ?_, fun hset => ?_⟩
  · exact (hgrids.trans hcg).trans (by rw [hwg])
  · exact hkids.trans (congrArg Team.kids hct :)
  · exact (hmem.trans hcm).trans hw.mem_eq
  · exact hv.trans (congrArg Team.v hct :)
  · exact (hothers.trans hco).trans (hw.settled hset).2

end Sys2Proof.Machine

open Sys2Proof Sys2Proof.Machine Sys2Proof.Claims

/-- Settles O50: the message by `takeLaunch_eq` and the refusal of its record (`refusal_eq_find?`), the instruction by
`startLaunch_eq`, CWAIT by what its children are, completion by `gridOver_eq`, gangs by `gangFits_iff`. -/
theorem launches : Obligations.Launches := by
  unfold Obligations.Launches
  refine ⟨fun s lid qsel r ha hlid hqsel hsmall hzeros hr => ?_, fun d a s h hpl hc => ?_, fun d a s h hc => ?_,
    fun g s hg hst hret hkids hw => ?_, fun r s _ hcl hn => gangFits_iff hcl hn⟩
  · have hpay : LaunchPayload s lid qsel r := ⟨hlid, hqsel, hsmall, hzeros, hr⟩
    intro ctx good
    have hgood : good → (heard s).launchRefusal r lid ctx = none := by
      intro hg
      by_cases hj : s.link.judged = true
      · obtain ⟨hslot, hend⟩ := Eq.mp (if_pos hj) hg
        refine (launchRefusal_judged (s := heard s) hj).trans (if_neg ?_)
        rintro (hno | hno)
        · exact Option.isSome_iff_ne_none.1 hslot hno
        · exact Bool.false_ne_true (hend.symm.trans hno)
      · exact (launchRefusal_fresh (s := heard s) (Bool.eq_false_iff.2 hj)).trans
          (refusal_of_accepted (Eq.mp (if_neg hj) hg))
    refine ⟨fun c hj href => ?_, fun hj hctx => ?_, fun hg hq => execLaunchMsg_full hpay ha (hgood hg) hq, fun hg hq => ?_⟩
    · exact execLaunchMsg_refused hpay ha ((launchRefusal_fresh (s := heard s) hj).trans (refusal_of_refusedWith href))
    · exact execLaunchMsg_refused hpay ha ((launchRefusal_judged (s := heard s) hj).trans (if_pos hctx))
    · have hkept := queuedGrid_kept s (s.launched ctx lid qsel 0 none r)
      obtain ⟨hqueued, hheld⟩ := queuedGrid_st s (s.launched ctx lid qsel 0 none r)
      refine ⟨_, s.queuedGrid (s.launched ctx lid qsel 0 none r), execLaunchMsg_queued hpay ha (hgood hg) hq, rfl, ?_⟩
      generalize s.queuedGrid (s.launched ctx lid qsel 0 none r) = g at hkept hqueued hheld ⊢
      obtain ⟨egid, elid, ectx, elrec, eparent, edepth, eqsel, enext, eretired, ewatched⟩ := hkept
      refine ⟨egid, elid, ectx, elrec, eparent, edepth, eqsel, enext, eretired, fun k => ?_, fun hnil => ?_, fun hne => ?_⟩
      · rw [ewatched]
        exact mem_watching
      · exact hqueued (ewatched ▸ hnil)
      · exact hheld (ewatched ▸ hne)
  · intro p s0
    refine ⟨execLaunch_depth h hc, fun bs c hd hal hrecs hset hread href => ?_,
      fun bs r hd hal hset hr hrec hq hlast => ?_⟩
    · have hw : Touches s s0 := hpl.touches_noteRecords _
      have ht := hw.t_of_nil h.infl
      obtain ⟨u, he, g⟩ := execLaunch_refused h hpl hc hd hal hrecs hread (refusal_of_refusedWith href)
      obtain ⟨hone, hkeep, hval⟩ := g.launch (by rw [ht]; exact h.infl) (by rw [ht]) (by rw [ht])
      refine ⟨u, he, g.past, hone, ?_, hval, hkeep, ?_⟩
      · exact hw.slots.trans (.of_eq (launch_ctxs g))
      · exact launch_frame g (hw.frame_of_settled hset)
    · subst hr
      obtain ⟨w, hw, hgo⟩ := exists_launchRecord h hpl hd hal hrec
      obtain ⟨u, he, g⟩ := execLaunch_child h hpl hc hw hgo hq
      obtain ⟨hone, hkeep, hval, hgrids, hkids, hmem, hv, hothers⟩ := g.child h hw
      obtain ⟨hlo, hhi⟩ : 2 ^ 31 ≤ w.nextLid s.t ∧ w.nextLid s.t < 2 ^ 32 :=
        childLid_range (by rw [hw.slots.lastLid]; exact hlast)
      have hkept := queuedGrid_kept w
        (w.launched s.t.ctx (w.nextLid s.t) w.myGrid.qsel (s.t.depth + 1) (some s.t.gid) (LaunchRec.of bs))
      generalize w.queuedGrid
        (w.launched s.t.ctx (w.nextLid s.t) w.myGrid.qsel (s.t.depth + 1) (some s.t.gid) (LaunchRec.of bs)) = y
        at hgrids hkept
      obtain ⟨egid, elid, ectx, elrec, eparent, edepth, eqsel, -⟩ := hkept
      have elid : y.lid = w.nextLid s.t := elid
      have egid : y.gid = w.uid := egid
      exact ⟨u, y, he, g.past, hone, by rw [elid]; exact hval, hkeep, hgrids, by rw [egid, elid]; exact hkids,
        by rw [elid]; exact hlo, by rw [elid]; exact hhi, ectx, elrec, eparent, edepth,
        by rw [eqsel, ← hw.myGrid h.infl]; rfl, hmem, hv, hothers hset⟩
  · intro x kids
    refine ⟨fun hx hk => ?_, fun hx hk => ?_, fun hk => execCwait_open h hc hk⟩
    · obtain ⟨u, he, g⟩ := execCwait_unknown h hc hx hk
      exact ⟨u, he, g.past, g.onlyS h rfl⟩
    · obtain ⟨u, he, g⟩ := execCwait_complete h hc hx hk
      exact ⟨u, he, g.past, g.onlyS h rfl⟩
  · have hdone := gridDone_of hst hret hkids hw
    have he : exec (.gridCompletion g.gid) s = .next (s.gridOver g 0 0 g.retired) := by
      change execGridCompletion g.gid s = _
      rw [execGridCompletion, hg]
      exact congrArg Host.Outcome.next (if_pos hdone)
    have hu := gridOver_eq s g 0 0 g.retired
    generalize s.gridOver g 0 0 g.retired = u at he hu
    have hgrids : u.grids = _ := congrArg State.grids hu
    have hlink : u.link = _ := congrArg State.link hu
    have hin {h : Grid} (hm : h ∈ s.grids) (hne : h.gid ≠ g.gid) : s.freed g.gid h ∈ u.grids := by
      rw [hgrids]
      exact List.mem_map_of_mem (List.mem_filter.2 ⟨hm, bne_iff_ne.2 hne⟩)
    refine ⟨u, he, ?_, fun h hm => ?_, fun hp => ?_, fun hp => ?_, fun h hm hne hno => ?_, fun h hm hne hheld hwatch => ?_⟩
    · rw [hu]
    · rw [hgrids] at hm
      obtain ⟨k, hk, rfl⟩ := List.mem_map.1 hm
      rw [freed_gid]
      exact bne_iff_ne.1 (List.mem_filter.1 hk).2
    · rw [hlink, hp]
      exact (congrArg State.link (sendComplete_eq s g.ctx g.lid 0 0 g.tstart g.retired) :)
    · obtain ⟨p, hp⟩ := Option.ne_none_iff_exists'.1 hp
      rw [hlink, hp]
    · exact freed_of_notMem (s := s) hno ▸ hin hm hne
    · exact ⟨_, hin hm hne, freed_gid s g.gid h, freed_held hheld hwatch⟩

end

section
/-! ## A prefetch that meets a poisoned sector (R249, R439)

A VPREF drops the lanes that would raise a cause, but one that meets a poisoned sector ends the context, and its team stays at it
(R439). No premise of the prefetch's clause in `CupboardFencePrefetch` says that no sector is poisoned. -/

namespace Sys2Proof.Machine
open Sys2Proof Sys2Proof.Claims

namespace PoisonedPrefetch

/-- The first 64 bytes of local memory, readable. -/
def xreg : XReg := { limit := 64, rd := true, v := true }

/-- A team of one lane in an active context, with m0 on local memory, whose first sector is poisoned. -/
def state : State :=
  { t := { ctx := 5, mask := 1, m := [(0, xreg)], life := .live }
    ctxs := { ctxid := 5, act := true } :: List.replicate 15 {}
    poison := [0] }

/-- The answer is a state in which the team has issued nothing, and its context has begun to end with status 0x44. -/
def endsAtIt : Host.Outcome State Fault Refusal → Bool
  | .next u => u.t.ord == 0 && (u.slot 0).ending == some 0x44
  | _ => false

/-- The prefetch, evaluated. -/
theorem endsAtIt_vpref : endsAtIt (exec (.vpref 0 0) state) = true := by decide +kernel

theorem clear_state : state.Clear := ⟨rfl, by decide +kernel, rfl, rfl, rfl, rfl, rfl⟩

theorem settled_state : settled state := fun t ht f hf => by
  obtain rfl := List.mem_singleton.1 ht
  exact absurd hf List.not_mem_nil

end PoisonedPrefetch

end Sys2Proof.Machine

open Sys2Proof Sys2Proof.Machine

/-- Refutes O34: its clause on VPREF does not say that no sector is poisoned. In `PoisonedPrefetch.state` the one active lane's
address lies in a poisoned sector: the context begins to end with status 0x44 (R439), and the team does not go past the
prefetch. -/
theorem not_cupboardFencePrefetch : ¬ Obligations.CupboardFencePrefetch := by
  unfold Obligations.CupboardFencePrefetch
  rintro ⟨-, hgo⟩
  obtain ⟨hpref, -⟩ := hgo 0 0 0 PoisonedPrefetch.state PoisonedPrefetch.clear_state rfl
  obtain ⟨u, hexec, ⟨-, -, hord⟩, -⟩ := hpref (by decide +kernel) PoisonedPrefetch.settled_state
  have hends := PoisonedPrefetch.endsAtIt_vpref
  rw [hexec] at hends
  have hstays : u.t.ord = 0 := by
    simp only [PoisonedPrefetch.endsAtIt, Bool.and_eq_true, beq_iff_eq] at hends
    exact hends.1
  rw [hstays] at hord
  cases hord

end

section
/-! ## The trap of a team that nothing holds back (R206, R207, R211, R214) -/

namespace Sys2Proof.Machine
open Sys2Proof Sys2Proof.Claims

/-- The winner of a decision is one of its causes, and none has a lower code. -/
theorem exists_decWinner {l : List Dec} (h : l ≠ []) :
    ∃ w ∈ l, decWinner l = some w ∧ ∀ d ∈ l, w.cause ≤ d.cause := by
  induction l with
  | nil => exact absurd rfl h
  | cons d r ih =>
    by_cases hr : r = []
    · subst hr
      exact ⟨d, List.mem_singleton.2 rfl, rfl, fun x hx => by rw [List.mem_singleton.1 hx]⟩
    · obtain ⟨w, hw, e, hmin⟩ := ih hr
      have hbeats : (w.beats d = true → w.cause ≤ d.cause) ∧ (w.beats d = false → d.cause ≤ w.cause) := by
        unfold Dec.beats
        by_cases hc : w.cause = d.cause
        · simp [hc]
        · simp only [ne_eq, hc, not_false_eq_true, if_true, decide_eq_true_eq, decide_eq_false_iff_not]
          omega
      have he : decWinner (d :: r) = some (if w.beats d then w else d) := by
        rw [decWinner, e]
      by_cases hb : w.beats d = true
      · refine ⟨w, List.mem_cons_of_mem d hw, by rw [he, if_pos hb], fun x hx => ?_⟩
        rcases List.mem_cons.1 hx with rfl | hx
        · exact hbeats.1 hb
        · exact hmin x hx
      · refine ⟨d, List.mem_cons_self, by rw [he, if_neg hb], fun x hx => ?_⟩
        have hd := hbeats.2 (Bool.eq_false_iff.2 hb)
        rcases List.mem_cons.1 hx with rfl | hx
        · exact Nat.le_refl _
        · exact Nat.le_trans hd (hmin x hx)

/-- The cause with the lowest lane, and the first of those in the list. -/
def lowest? (l : List LaneCause) : Option LaneCause :=
  l.foldl (fun m x => m.elim (some x) fun y => some (if x.lane < y.lane then x else y)) none

theorem lowest?_eq (l : List LaneCause) :
    (l = [] ∧ lowest? l = none) ∨ ∃ x ∈ l, lowest? l = some x ∧ ∀ y ∈ l, x.lane ≤ y.lane := by
  have hfold (r : List LaneCause) (z : LaneCause) :
      ∃ x ∈ z :: r, lowest? (z :: r) = some x ∧ ∀ y ∈ z :: r, x.lane ≤ y.lane := by
    induction r generalizing z with
    | nil => exact ⟨z, List.mem_singleton.2 rfl, rfl, fun y hy => by rw [List.mem_singleton.1 hy]⟩
    | cons a r ih =>
      obtain ⟨x, hx, e, hmin⟩ := ih (if a.lane < z.lane then a else z)
      have hhead := hmin _ List.mem_cons_self
      refine ⟨x, ?_, e, fun y hy => ?_⟩
      · rcases List.mem_cons.1 hx with rfl | hx
        · split <;> simp
        · exact List.mem_cons_of_mem z (List.mem_cons_of_mem a hx)
      · rcases List.mem_cons.1 hy with rfl | hy
        · split at hhead <;> omega
        · rcases List.mem_cons.1 hy with rfl | hy
          · split at hhead <;> omega
          · exact hmin y (List.mem_cons_of_mem _ hy)
  cases l with
  | nil => exact .inl ⟨rfl, rfl⟩
  | cons z r => exact .inr (hfold r z)

/-- The decision of a cause of a lane (R206, R207). -/
def LaneCause.dec (x : LaneCause) (cause kind tile : Nat) (tepc : DWord) (cl : Clause) (ord : Nat) : Dec :=
  ⟨cause, tlaneWord kind tile x.lane, BitVec.ofNat 64 x.frec, tepc, cl, false, ord⟩

theorem laneDecs_eq (kind tile : Nat) (cs : List LaneCause) (tepc : DWord) (cl : Clause) (ord : Nat) :
    laneDecs kind tile cs tepc cl ord = (List.range 16).filterMap fun c =>
      (lowest? (cs.filter fun x => x.cause == c)).map fun x => x.dec c kind tile tepc cl ord := by
  have hf : (fun (m : Option LaneCause) (x : LaneCause) => match m with
        | none => some x | some y => some (if x.lane < y.lane then x else y)) =
      fun m x => m.elim (some x) fun y => some (if x.lane < y.lane then x else y) := by
    funext m x
    cases m <;> rfl
  unfold laneDecs lowest?
  congr 1
  funext c
  rw [← hf]
  dsimp only
  generalize List.foldl _ _ _ = o
  cases o <;> rfl

section
variable {kind tile : Nat} {cs : List LaneCause} {tepc : DWord} {cl : Clause} {ord : Nat}

/-- A decision is of the lowest lane that has its cause. -/
theorem mem_laneDecs {d : Dec} (h : d ∈ laneDecs kind tile cs tepc cl ord) :
    ∃ x ∈ cs, d = x.dec x.cause kind tile tepc cl ord ∧ ∀ y ∈ cs, y.cause = x.cause → x.lane ≤ y.lane := by
  rw [laneDecs_eq] at h
  obtain ⟨c, -, hd⟩ := List.mem_filterMap.1 h
  rcases lowest?_eq (cs.filter fun x => x.cause == c) with ⟨-, e⟩ | ⟨x, hx, e, hmin⟩
  · rw [e] at hd
    cases hd
  · rw [e] at hd
    obtain ⟨hmem, hcause⟩ := List.mem_filter.1 hx
    obtain rfl := beq_iff_eq.1 hcause
    exact ⟨x, hmem, (Option.some.inj hd).symm, fun y hy hc => hmin y (List.mem_filter.2 ⟨hy, beq_iff_eq.2 hc⟩)⟩

/-- Each cause has a decision. -/
theorem exists_mem_laneDecs {y : LaneCause} (h : y ∈ cs) (hc : y.cause < 16) :
    ∃ d ∈ laneDecs kind tile cs tepc cl ord, d.cause = y.cause := by
  rcases lowest?_eq (cs.filter fun x => x.cause == y.cause) with ⟨e, -⟩ | ⟨x, -, e, -⟩
  · exact absurd (List.mem_filter.2 ⟨h, beq_self_eq_true y.cause⟩) (by rw [e]; exact List.not_mem_nil)
  · refine ⟨x.dec y.cause kind tile tepc cl ord, ?_, rfl⟩
    rw [laneDecs_eq]
    exact List.mem_filterMap.2 ⟨y.cause, List.mem_range.2 hc, by rw [e]; rfl⟩

end

/-- Traps are enabled in the team, it runs no handler, and no boundary cause is pending. -/
structure Team.Traps (t : Team) : Prop where
  pend : t.pendB = []
  hnd : t.hnd = false
  tvec : t.tvec.toNat % 2 = 1

/-- The entry of a handler for an instruction's cause w. -/
structure Team.Enters (t u : Team) (w : Dec) : Prop where
  tcause : u.tcause = BitVec.ofNat 32 (2 ^ 31 + w.cause)
  tlane : u.tlane = w.tlane
  tepc : u.tepc = w.tepc &&& ~~~(3#64)
  pc : u.pc = t.tvec &&& ~~~(127#64)
  v : u.v = t.v

/-- A decision that an instruction's cause wins, in a team with traps enabled that runs no handler. -/
theorem takeTrap_enters {s : State} {w : Dec} (hwin : decWinner s.t.decision = some w) (hb : w.bnd = false)
    (hhnd : s.t.hnd = false) (htvec : s.t.tvec.toNat % 2 = 1) : s.t.Enters s.takeTrap.t w := by
  rcases takeTrap_cases s with ⟨hnone, -⟩ | ⟨x, hx, hcase⟩
  · rw [hnone] at hwin
    cases hwin
  obtain rfl : x = w := Option.some.inj (hx.symm.trans hwin)
  rcases hcase with ⟨h, -⟩ | ⟨-, h, -⟩ | ⟨-, -, a, ha, e⟩
  · rw [hhnd] at h
    cases h
  · rw [htvec] at h
    cases h
  · rw [if_neg (by rw [hb]; exact Bool.false_ne_true)] at ha
    rw [e, ha]
    exact ⟨rfl, rfl, rfl, rfl, rfl⟩

/-- Causes of an instruction of a team that nothing holds back are taken at once, the one with the lowest code. -/
theorem State.Clear.decide_enters {k s : State} (h : k.Clear) (ht : s.t = k.t) (htr : k.t.Traps) {l : List Dec} (hl : l ≠ [])
    (hbnd : ∀ d ∈ l, d.bnd = false) :
    ∃ w ∈ l, (∀ d ∈ l, w.cause ≤ d.cause) ∧ k.t.Enters (s.decide l).t w := by
  obtain ⟨w, hw, hwin, hmin⟩ := exists_decWinner hl
  refine ⟨w, hw, hmin, ?_⟩
  obtain ⟨hpend, hhnd, htvec⟩ := htr
  have e : s.decide l = (s.modT fun _ => { k.t with dec := l }).takeTrap := by
    have hq : (s.modT fun _ => { k.t with dec := l }).t.quietForTrap = true := by
      have hw := h.appends
      simp only [Team.appending_eq] at hw
      simp [Team.quietForTrap, Team.appending_eq, State.modT, h.log, h.infl, hw]
    cases l with
    | nil => exact absurd rfl hl
    | cons d r =>
      unfold State.decide State.tryTrap
      simp only [State.modT, ht, h.dec, List.nil_append]
      exact if_pos hq
  have hdec : (s.modT fun _ => { k.t with dec := l }).t.decision = l := by
    simp [Team.decision, State.modT, hpend]
  rw [e]
  obtain ⟨hcause, hlane, htepc, hpc, hv⟩ := takeTrap_enters (s := s.modT fun _ => { k.t with dec := l })
    (by rw [hdec]; exact hwin) (hbnd w hw) hhnd htvec
  exact ⟨hcause, hlane, htepc, hpc, hv⟩

end Sys2Proof.Machine
end

section
/-! ## Containers of an element type in the active lanes (R114, R245) -/

namespace Sys2Proof.Machine
open Sys2Proof Sys2Proof.Claims

theorem etBytes_of_pair {et : Nat} (h : etPair et = true) : etBytes et = 8 := if_pos h

theorem etBytes_le_of_not_pair {et : Nat} (h : etPair et = false) : etBytes et ≤ 4 := by
  unfold etBytes
  rw [h, if_neg Bool.false_ne_true]
  split <;> decide

/-- Writing containers writes the team's vector registers alone. -/
theorem wc_frame (s : State) (et n : Nat) (l : List (Nat × Nat)) :
    s.wc et n l = { s with t := { s.t with v := (s.wc et n l).t.v } } := by
  unfold State.wc
  dsimp only
  split <;> rfl

section
variable {l : List (Nat × Nat)} (hl : ∀ p ∈ l, p.1 < 1024)
include hl

theorem lanes_of_words (f : Nat → Word) : ∀ p ∈ l.map fun p => (p.1, f p.2), p.1 < 1024 := fun p hp => by
  obtain ⟨q, hq, rfl⟩ := List.mem_map.1 hp
  exact hl q hq

/-- Every vector register outside the container is as before. -/
theorem keepsV_wc (s : State) (et n : Nat) : s.KeepsV (s.wc et n l) (contRegs et n) := by
  intro k lane hlane hk
  unfold State.wc contRegs at *
  dsimp only
  cases hp : etPair et with
  | false =>
    rw [hp, if_neg Bool.false_ne_true, List.mem_singleton] at hk
    exact vReg_wv_ne (lanes_of_words hl fun x => BitVec.ofNat 32 x) hk hlane
  | true =>
    rw [hp, if_pos rfl] at hk
    obtain ⟨hn, hn1⟩ : k ≠ n ∧ k ≠ n + 1 := by simpa using hk
    exact (vReg_wv_ne (lanes_of_words hl fun x => BitVec.ofNat 32 (x / 2 ^ 32)) hn1 hlane).trans
      (vReg_wv_ne (lanes_of_words hl fun x => BitVec.ofNat 32 x) hn hlane)

/-- A lane that is written holds its container. -/
theorem cont_wc_of_mem (s : State) {et n lane x : Nat} (hn : (l.map (·.1)).Nodup) (h : (lane, x) ∈ l)
    (hx : x < 2 ^ (8 * etBytes et)) : (s.wc et n l).cont et n lane = x := by
  have hkeys (f : Nat → Word) : ((l.map fun p => (p.1, f p.2)).map (·.1)).Nodup := by
    rw [List.map_map]
    exact hn
  have hmem (f : Nat → Word) : (lane, f x) ∈ l.map fun p => (p.1, f p.2) := List.mem_map.2 ⟨_, h, rfl⟩
  have hlo (s : State) : (s.wv n (l.map fun p => (p.1, BitVec.ofNat 32 p.2))).vReg n lane = BitVec.ofNat 32 x :=
    vReg_wv_self (hkeys fun x => BitVec.ofNat 32 x) (hmem fun x => BitVec.ofNat 32 x)
  unfold State.wc State.cont
  dsimp only
  cases hp : etPair et with
  | false =>
    have hle := Nat.pow_le_pow_right (n := 2) (by decide) (Nat.mul_le_mul_left 8 (etBytes_le_of_not_pair hp))
    rw [if_neg Bool.false_ne_true, if_neg Bool.false_ne_true, hlo, BitVec.toNat_ofNat]
    exact Nat.mod_eq_of_lt (Nat.lt_of_lt_of_le hx hle)
  | true =>
    rw [etBytes_of_pair hp] at hx
    rw [if_pos rfl, if_pos rfl, vReg_wv_self (hkeys fun x => BitVec.ofNat 32 (x / 2 ^ 32)) (hmem fun x => BitVec.ofNat 32 (x / 2 ^ 32)),
      vReg_wv_ne (lanes_of_words hl fun x => BitVec.ofNat 32 (x / 2 ^ 32)) (Nat.succ_ne_self n).symm (hl _ h), hlo,
      BitVec.toNat_ofNat, BitVec.toNat_ofNat]
    omega

end

/-- A lane that is not written holds the container that it held. -/
theorem cont_wc_of_notMem (s : State) {et n lane : Nat} {l : List (Nat × Nat)} (hl : ∀ p ∈ l, p.1 < 1024) (hlane : lane < 1024)
    (h : ∀ p ∈ l, p.1 ≠ lane) : (s.wc et n l).cont et n lane = s.cont et n lane := by
  have hwv (s : State) (k r : Nat) (f : Nat → Word) : (s.wv k (l.map fun p => (p.1, f p.2))).vReg r lane = s.vReg r lane := by
    refine sget_sputs_of_notMem 0 _ _ fun p hp e => ?_
    obtain ⟨q, hq, rfl⟩ := List.mem_map.1 hp
    obtain ⟨o, ho, rfl⟩ := List.mem_map.1 hq
    have h1 := hl o ho
    have h2 := h o ho
    dsimp only at e
    omega
  have hwc (r : Nat) : (s.wc et n l).vReg r lane = s.vReg r lane := by
    unfold State.wc
    dsimp only
    split
    · exact (hwv _ (n + 1) r fun x => BitVec.ofNat 32 (x / 2 ^ 32)).trans (hwv s n r fun x => BitVec.ofNat 32 x)
    · exact hwv s n r fun x => BitVec.ofNat 32 x
  simp only [State.cont, hwc]

theorem cont_congr {s u : State} (h : u.t.v = s.t.v) (et n lane : Nat) : u.cont et n lane = s.cont et n lane := by
  simp only [State.cont, State.vReg, h]

/-- What the vector registers of s hold once each of its active lanes has a container. -/
theorem keepsV_cont_wc {s w : State} (hv : w.t.v = s.t.v) (et d : Nat) {f : Nat → Nat} (hf : ∀ l, f l < 2 ^ (8 * etBytes et)) :
    s.KeepsV (w.wc et d ((onLanes s).map fun l => (l, f l))) (contRegs et d) ∧
      ∀ l, l < 1024 → (w.wc et d ((onLanes s).map fun l => (l, f l))).cont et d l =
        if s.laneOn l then f l else s.cont et d l := by
  have hl : ∀ p ∈ (onLanes s).map fun l => (l, f l), p.1 < 1024 := fun p hp => by
    obtain ⟨l, hl, rfl⟩ := List.mem_map.1 hp
    exact onLanes_lt hl
  have hn : (((onLanes s).map fun l => (l, f l)).map (·.1)).Nodup := by
    rw [List.map_map, Function.comp_def, List.map_id']
    exact onLanes_nodup s
  refine ⟨fun n lane hlane hn => ?_, fun l hlt => ?_⟩
  · rw [keepsV_wc hl w et d n lane hlane hn, State.vReg, hv, State.vReg]
  by_cases hon : s.laneOn l = true
  · have hmem : l ∈ onLanes s := by
      refine List.mem_filter.2 ⟨List.mem_range.2 ?_, hon⟩
      simp only [State.laneOn, Bool.and_eq_true, decide_eq_true_eq] at hon
      obtain ⟨⟨hlanes, -⟩, -⟩ := hon
      exact hlanes
    rw [if_pos hon]
    exact cont_wc_of_mem hl w hn (List.mem_map.2 ⟨l, hmem, rfl⟩) (hf l)
  · rw [if_neg hon, ← cont_congr hv]
    refine cont_wc_of_notMem w hl hlt fun p hp e => hon ?_
    obtain ⟨k, hk, rfl⟩ := List.mem_map.1 hp
    exact e ▸ (List.mem_filter.1 hk).2

/-- What an instruction leaves that gives each active lane a container, and attaches. -/
theorem Goes.containers {n : Nat} {s w u : State} {et d : Nat} {f : Nat → Nat} (hf : ∀ l, f l < 2 ^ (8 * etBytes et))
    (hi : s.t.infl = []) (ht : w.t = s.t)
    (g : Goes n s ((w.wc et d ((onLanes s).map fun l => (l, f l))).attach .ready [] [] []) u) :
    Claims.oneReady s u ∧ u = { w with t := { s.t.placeOf u.t with v := u.t.v, infl := u.t.infl }, uid := u.uid } ∧
      s.KeepsV u (contRegs et d) ∧
      ∀ l, l < 1024 → u.cont et d l = if s.laneOn l then f l else s.cont et d l := by
  obtain ⟨hkeep, hcont⟩ := keepsV_cont_wc (congrArg Team.v ht) et d hf
  have hfr := wc_frame w et d ((onLanes s).map fun l => (l, f l))
  generalize w.wc et d ((onLanes s).map fun l => (l, f l)) = x at g hkeep hcont hfr
  have htx : x.t = { s.t with v := x.t.v } := by rw [← ht]; exact congrArg State.t hfr
  obtain ⟨-, -, -, -, hv, -⟩ := g.kept
  have hv : u.t.v = x.t.v := hv
  refine ⟨g.oneReady ((congrArg Team.infl htx).trans hi) (congrArg Team.cl htx :), ?_, fun r lane hlane hr => ?_, fun l hl => ?_⟩
  · have hfu := g.frame
    generalize x.t.v = y at htx hfr
    rw [hfu, hfr, ht]
    rfl
  · rw [State.vReg, hv]
    exact hkeep r lane hlane hr
  · rw [cont_congr hv]
    exact hcont l hl

theorem leNat_sgets_lt (k n : Nat) (m : SMap Byte) : leNat (sgets 0 k n m) < 2 ^ (8 * n) := by
  have h := leNat_lt (sgets 0 k n m)
  rwa [sgets, List.length_map, List.length_range] at h

/-- The active lanes in ascending order. -/
theorem onLanes_sorted (s : State) : (onLanes s).Pairwise (· < ·) := List.pairwise_lt_range.filter _

end Sys2Proof.Machine
end

section
/-! ## Scratchpad loads and stores (R56, R246, R250) -/

namespace Sys2Proof.Machine
open Sys2Proof Sys2Proof.Claims

/-! ### Runs of bytes put down one after another (R85) -/

section
variable {f : Nat → Nat} {b : Nat → List Byte} {n : Nat} (hb : ∀ l, (b l).length = n)
include hb

theorem sget_foldl_sputRun_out {o : Nat} {ls : List Nat} (m : SMap Byte) (h : ∀ l ∈ ls, o < f l ∨ f l + n ≤ o) :
    sget 0 o (ls.foldl (fun m l => sputRun 0 (f l) (b l) m) m) = sget 0 o m := by
  induction ls generalizing m with
  | nil => rfl
  | cons x r ih =>
    refine (ih _ fun l hl => h l (List.mem_cons_of_mem x hl)).trans (sget_sputRun_out 0 (b x) m ?_)
    rw [hb]
    exact h x List.mem_cons_self

theorem sgets_foldl_sputRun_out {a k : Nat} {ls : List Nat} (m : SMap Byte) (h : ∀ l ∈ ls, f l + n ≤ a ∨ a + k ≤ f l) :
    sgets 0 a k (ls.foldl (fun m l => sputRun 0 (f l) (b l) m) m) = sgets 0 a k m := by
  refine List.map_congr_left fun i hi => sget_foldl_sputRun_out hb m fun l hl => ?_
  have hik := List.mem_range.1 hi
  have hout := h l hl
  omega

/-- A run that no later one meets stands. -/
theorem sgets_foldl_sputRun {l : Nat} {ls : List Nat} (m : SMap Byte) (hs : ls.Pairwise (· < ·)) (hl : l ∈ ls)
    (h : ∀ k ∈ ls, l < k → f k + n ≤ f l ∨ f l + n ≤ f k) :
    sgets 0 (f l) n (ls.foldl (fun m l => sputRun 0 (f l) (b l) m) m) = b l := by
  induction ls generalizing m with
  | nil => cases hl
  | cons x r ih =>
    obtain ⟨hx, hr⟩ := List.pairwise_cons.1 hs
    rcases List.mem_cons.1 hl with rfl | hmem
    · refine (sgets_foldl_sputRun_out hb _ fun k hk => h k (List.mem_cons_of_mem l hk) (hx k hk)).trans ?_
      have hrun := sgets_sputRun 0 (b l) (f l) m
      rwa [hb] at hrun
    · exact ih _ hr hmem fun k hk => h k (List.mem_cons_of_mem x hk)

end

/-! ### Blocks -/

theorem find?_updFirst_ne {α : Type} {p q : α → Bool} {f : α → α} (l : List α) (h : ∀ x, p x = true → q x = false ∧ q (f x) = false) :
    (updFirst p f l).find? q = l.find? q := by
  induction l with
  | nil => rfl
  | cons a r ih =>
    by_cases ha : p a = true
    · obtain ⟨hq, hqf⟩ := h a ha
      rw [updFirst, if_pos ha, List.find?_cons_of_neg (by simp [hqf]), List.find?_cons_of_neg (by simp [hq])]
    · rw [updFirst, if_neg ha, List.find?_cons, List.find?_cons, ih]

theorem block?_modBlock_self {s : State} {bid : Nat} {k : Block} {f : Block → Block} (h : s.block? bid = some k)
    (hf : (f k).bid = bid) : (s.modBlock bid f).block? bid = some (f k) :=
  find?_updFirst h (by rw [hf]; exact beq_self_eq_true bid)

theorem block?_modBlock_ne {s : State} {bid n : Nat} {f : Block → Block} (hf : ∀ k, (f k).bid = k.bid) (hn : n ≠ bid) :
    (s.modBlock bid f).block? n = s.block? n :=
  find?_updFirst_ne s.blocks fun k hk => by
    have hbid : k.bid = bid := beq_iff_eq.1 hk
    simp [hf, hbid, hn.symm]

theorem block?_congr {s u : State} (h : u.blocks = s.blocks) (n : Nat) : u.block? n = s.block? n := by
  simp only [State.block?, h]

/-! ### The four forms -/

/-- The active lanes' offsets in v_a. -/
def State.scratchOffs (s : State) (a : Nat) : List (Nat × Nat) := (onLanes s).map fun l => (l, (s.vReg a l).toNat)

/-- They are aligned, and within n bytes. -/
def State.OffsIn (s : State) (a n : Nat) : Prop :=
  ∀ l ∈ onLanes s, (s.vReg a l).toNat % 32 + etBytes (mET s.t.mode) ≤ 32 ∧ (s.vReg a l).toNat + etBytes (mET s.t.mode) ≤ n

/-- Aligned offsets within the allocation raise no cause. -/
theorem State.OffsIn.spaceCauses {s : State} {a n : Nat} (h : s.OffsIn a n) :
    spaceCauses false (etBytes (mET s.t.mode)) n (s.scratchOffs a) = [] := by
  refine List.flatMap_eq_nil_iff.2 fun x hx => ?_
  obtain ⟨l, hl, rfl⟩ := List.mem_map.1 hx
  obtain ⟨hal, hin⟩ := h l hl
  have hmis : misaligned false (s.vReg a l).toNat (etBytes (mET s.t.mode)) = false := by simp [misaligned, hal]
  rw [hmis, if_neg Bool.false_ne_true, if_neg (Nat.not_lt.2 hin)]
  rfl

/-- s once the sectors of block k's scratchpad at the active lanes' offsets in v_a have been accessed (R84). -/
def State.scratchMet (s : State) (k : Block) (a : Nat) : State :=
  s.settle fun e => e.blk == some k.bid && ((s.scratchOffs a).map fun x => x.2 / 32).contains (e.addr / 32)

theorem scratchMet_touches (s : State) (k : Block) (a : Nat) : Touches s (s.scratchMet k a) := touches_settle s _

theorem scratchMet_blocks (s : State) (k : Block) (a : Nat) : (s.scratchMet k a).blocks = s.blocks := State.settle_blocks s _

/-- Each active lane's container of v_d put down at its offset in v_a. -/
def State.scratchPut (s : State) (d a : Nat) (m : SMap Byte) : SMap Byte :=
  (s.scratchOffs a).foldl
    (fun m x => sputRun 0 x.2 (leBytes (etBytes (mET s.t.mode)) (s.cont (mET s.t.mode) d x.1)) m) m

theorem State.scratchPut_out (s : State) (d : Nat) {a o : Nat} (m : SMap Byte)
    (h : ∀ l ∈ onLanes s, o < (s.vReg a l).toNat ∨ (s.vReg a l).toNat + etBytes (mET s.t.mode) ≤ o) :
    sget 0 o (s.scratchPut d a m) = sget 0 o m := by
  rw [State.scratchPut, State.scratchOffs, List.foldl_map]
  exact sget_foldl_sputRun_out (fun l => length_leBytes _ _) m h

/-- The container of a lane that no higher lane overlaps stands. -/
theorem State.scratchPut_lane (s : State) (d : Nat) {a l : Nat} (m : SMap Byte) (hl : l ∈ onLanes s)
    (h : ∀ n ∈ onLanes s, l < n → (s.vReg a n).toNat + etBytes (mET s.t.mode) ≤ (s.vReg a l).toNat ∨
      (s.vReg a l).toNat + etBytes (mET s.t.mode) ≤ (s.vReg a n).toNat) :
    leNat (sgets 0 (s.vReg a l).toNat (etBytes (mET s.t.mode)) (s.scratchPut d a m)) =
      s.cont (mET s.t.mode) d l % 2 ^ (8 * etBytes (mET s.t.mode)) := by
  rw [State.scratchPut, State.scratchOffs, List.foldl_map,
    sgets_foldl_sputRun (f := fun l => (s.vReg a l).toNat) (b := fun l => leBytes _ (s.cont (mET s.t.mode) d l))
      (fun l => length_leBytes _ _) m (onLanes_sorted s) hl h]
  exact leNat_leBytes _ _

/-- The block with its scratchpad so written. -/
def Block.wrote (s : State) (d a : Nat) (k : Block) : Block := { k with scratch := s.scratchPut d a k.scratch }

/-- The value that a load finds at an offset of block k's scratchpad. -/
def State.scratchGet (s : State) (k : Block) (o : Nat) : Nat := leNat (sgets 0 o (etBytes (mET s.t.mode)) k.scratch)

section
variable {s : State} {i : Instr} {d a : Nat} {k : Block} {b : State → Option Block} (h : s.Clear) (hc : s.checks i = none)
  (hw : i.nWords = 1) (hb : b s = some k) (hin : s.OffsIn a k.scratchSize)
include h hc hw hb hin

theorem exec_scratchForm_load (he : exec i s = .next (scratchForm i d a false b s)) :
    ∃ u, exec i s = .next u ∧
      Goes 1 s (((s.scratchMet k a).wc (mET s.t.mode) d
        ((s.scratchOffs a).map fun x => (x.1, s.scratchGet k x.2))).attach .ready [] [] []) u := by
  have ht : (s.scratchMet k a).t = s.t := (scratchMet_touches s k a).t_of_nil h.infl
  refine h.exec_goes hc he ?_ ⟨?_, ?_, ?_, ?_, ?_⟩
  · dsimp only
    simp only [h.actLanes, h.rv, hb]
    rw [if_neg (by simpa [State.scratchOffs] using hin.spaceCauses), if_neg Bool.false_ne_true, State.done, hw]
    rfl
  all_goals rw [wc_frame]
  · exact (congrArg Team.tid ht :)
  · exact (congrArg Team.pc ht :)
  · exact (congrArg (·.cl.hdr) ht :)
  · exact (congrArg (·.cl.idx) ht :)
  · exact (congrArg Team.ord ht :)

theorem exec_scratchForm_store (he : exec i s = .next (scratchForm i d a true b s)) :
    ∃ u late, exec i s = .next u ∧
      Goes 1 s (((s.scratchMet k a).modBlock k.bid (Block.wrote s d a)).attach .ready
        (etSpan (mET s.t.mode) d ++ [a]) [] late) u := by
  have ht : (s.scratchMet k a).t = s.t := (scratchMet_touches s k a).t_of_nil h.infl
  have hcl : (s.scratchMet k a).Clear := h.of_parts (congrArg Team.dec ht) (congrArg Team.ctx ht) (State.settle_ctxs _ _)
    (congrArg Team.log ht) (congrArg Team.infl ht) (congrArg Team.recent ht) (State.settle_link _ _) (congrArg Team.wait ht)
  have hrc (et n l : Nat) : (s.scratchMet k a).rc et n l = s.cont et n l :=
    (hcl.rc et n l).trans (cont_congr (congrArg Team.v ht) et n l)
  have hgo := h.exec_goes (n := 1) hc he (w := ((s.scratchMet k a).modBlock k.bid (Block.wrote s d a)).attach .ready
    (etSpan (mET s.t.mode) d ++ [a]) [] (lastLate ((s.scratchOffs a).flatMap fun x =>
      lateOf d (some k.bid) (etBytes (mET s.t.mode)) x.1 x.2)))
  obtain ⟨u, hexec, g⟩ := hgo (by
    dsimp only
    simp only [h.actLanes, h.rv, hb]
    rw [if_neg (by simpa [State.scratchOffs] using hin.spaceCauses), if_pos trivial, State.done, hw]
    unfold State.scratchMet State.scratchOffs at hrc
    simp only [hrc]
    rfl) ⟨(congrArg Team.tid ht :), (congrArg Team.pc ht :), (congrArg (·.cl.hdr) ht :), (congrArg (·.cl.idx) ht :),
      (congrArg Team.ord ht :)⟩
  exact ⟨u, _, hexec, g⟩

end

/-- What a scratchpad store leaves. -/
theorem Goes.scratchStore {s u : State} {d a : Nat} {k : Block} {late : List LateSrc} (h : s.Clear) (hk : s.block? k.bid = some k)
    (g : Goes 1 s (((s.scratchMet k a).modBlock k.bid (Block.wrote s d a)).attach .ready
        (etSpan (mET s.t.mode) d ++ [a]) [] late) u) :
    Claims.oneReady s u ∧ u.mem = s.mem ∧ u.t.s = s.t.s ∧ u.t.v = s.t.v ∧ (∀ n, n ≠ k.bid → u.block? n = s.block? n) ∧
      (Claims.settled s → u = { s with t := { s.t.placeOf u.t with v := u.t.v, infl := u.t.infl }, blocks := u.blocks, uid := u.uid }) ∧
      u.block? k.bid = some (Block.wrote s d a k) := by
  have hw := scratchMet_touches s k a
  have ht : (s.scratchMet k a).t = s.t := hw.t_of_nil h.infl
  obtain ⟨-, hmem, -, hs, hv, -⟩ := g.kept
  have hb : u.blocks = (s.modBlock k.bid (Block.wrote s d a)).blocks := by
    refine (congrArg State.blocks g.frame).trans ?_
    exact congrArg (updFirst _ _) (State.settle_blocks s _)
  refine ⟨g.oneReady ((congrArg Team.infl ht).trans h.infl) (congrArg Team.cl ht :), hmem.trans hw.mem_eq,
    hs.trans (congrArg Team.s ht :), hv.trans (congrArg Team.v ht :), fun n hn => ?_, fun hset => ?_, ?_⟩
  · rw [block?_congr hb]
    exact block?_modBlock_ne (fun _ => rfl) hn
  · have hfr := g.frame
    rw [State.scratchMet, settle_eq_self hset] at hfr
    rw [hfr]
    rfl
  · rw [block?_congr hb]
    exact block?_modBlock_self hk rfl

/-! ### A store past the allocation -/

/-- A lane's cause is Region-Violation or Misaligned-Access. -/
theorem cause_of_mem_spaceCauses {atomic : Bool} {size alloc : Nat} {l : List (Nat × Nat)} {x : LaneCause}
    (h : x ∈ spaceCauses atomic size alloc l) : x.cause = 5 ∨ x.cause = 6 := by
  obtain ⟨p, -, hx⟩ := List.mem_flatMap.1 h
  rcases List.mem_append.1 hx with hx | hx <;> split at hx <;> simp_all

/-- A lane past the allocation has a Region-Violation. -/
theorem mem_spaceCauses_of_past {atomic : Bool} {size alloc : Nat} {l : List (Nat × Nat)} {p : Nat × Nat} (hp : p ∈ l)
    (h : alloc < p.2 + size) : ⟨p.1, 5, p.2⟩ ∈ spaceCauses atomic size alloc l :=
  List.mem_flatMap.2 ⟨p, hp, List.mem_append_right _ (by rw [if_pos h]; exact List.mem_singleton.2 rfl)⟩

/-- Region-Violation has the lowest code of a store's causes: its lowest lane is the trap's. -/
theorem State.Clear.raiseLanes_region {s : State} (h : s.Clear) (htr : s.t.Traps) {cs : List LaneCause} {y : LaneCause}
    (hy : y ∈ cs) (hfive : y.cause = 5) (hcs : ∀ x ∈ cs, x.cause = 5 ∨ x.cause = 6) :
    ∃ x ∈ cs, x.cause = 5 ∧ x.lane ≤ y.lane ∧
      s.t.Enters (s.raiseLanes cs).t (x.dec 5 1 0 s.t.pc s.t.cl s.t.ord) := by
  obtain ⟨d, hd, hdc⟩ := exists_mem_laneDecs (kind := 1) (tile := 0) (tepc := s.t.pc) (cl := s.t.cl) (ord := s.t.ord) hy
    (by rw [hfive]; decide)
  obtain ⟨w, hw, hmin, henters⟩ := h.decide_enters rfl htr (List.ne_nil_of_mem hd) fun d hd => by
    obtain ⟨x, -, rfl, -⟩ := mem_laneDecs hd
    rfl
  obtain ⟨x, hx, rfl, hlow⟩ := mem_laneDecs hw
  have hle : x.cause ≤ 5 := by
    have hle := hmin d hd
    rw [hdc, hfive] at hle
    exact hle
  have hx5 : x.cause = 5 := by
    have hor := hcs x hx
    omega
  rw [hx5] at henters
  exact ⟨x, hx, hx5, hlow y hy (hfive.trans hx5.symm), henters⟩

end Sys2Proof.Machine

open Sys2Proof Sys2Proof.Machine Sys2Proof.Claims

/-- Settles O32: the four forms are `scratchForm` in the block that each names, and a lane past the allocation is the trap's
(`raiseLanes_region`). -/
theorem scratchpadForms : Obligations.ScratchpadForms := by
  unfold Obligations.ScratchpadForms
  refine ⟨fun i d a b store k s h hc hk hform hin => ?_, ?_⟩
  · have hin : s.OffsIn a k.scratchSize := hin
    obtain ⟨b, hb, hw, he⟩ : ∃ b : State → Option Block, b s = some k ∧ i.nWords = 1 ∧
        exec i s = .next (scratchForm i d a store b s) := by
      have hremote {r : Option Block} (hb : s.remoteBlock (s.sReg b).toNat = r) : s.remoteBlock (s.rs b).toNat = r := by
        rw [h.rs]; exact hb
      rcases hform with ⟨rfl, rfl, hb⟩ | ⟨rfl, rfl, hb⟩ | ⟨rfl, rfl, hb⟩ | ⟨rfl, rfl, hb⟩
      · exact ⟨_, hb, rfl, rfl⟩
      · exact ⟨_, hb, rfl, rfl⟩
      · exact ⟨fun s => s.remoteBlock (s.rs b).toNat, hremote hb, rfl, rfl⟩
      · exact ⟨fun s => s.remoteBlock (s.rs b).toNat, hremote hb, rfl, rfl⟩
    cases store with
    | false =>
      obtain ⟨u, hexec, g⟩ := exec_scratchForm_load h hc hw hb hin he
      have hmet := scratchMet_touches s k a
      rw [State.scratchOffs, List.map_map] at g
      obtain ⟨hone, hfr, hkeep, hcont⟩ := Goes.containers (f := fun l => s.scratchGet k (s.vReg a l).toNat)
        (fun l => leNat_sgets_lt _ _ _) h.infl (hmet.t_of_nil h.infl) g
      have hblocks : u.blocks = s.blocks := (congrArg State.blocks hfr).trans (scratchMet_blocks s k a)
      refine ⟨u, hexec, g.past, hone, (congrArg State.mem hfr).trans hmet.mem_eq, ?_, fun n _ => block?_congr hblocks n,
        fun hset => ?_, fun _ => ⟨hblocks, hkeep, hcont⟩, nofun⟩
      · exact (congrArg (·.t.s) hfr :)
      · rw [State.scratchMet, settle_eq_self hset] at hfr
        rw [hfr]
        rfl
    | true =>
      obtain ⟨u, late, hexec, g⟩ := exec_scratchForm_store h hc hw hb hin he
      obtain ⟨hone, hmem, hs, hv, hothers, hfr, hwrote⟩ := g.scratchStore h hk
      refine ⟨u, hexec, g.past, hone, hmem, hs, hothers, hfr, nofun, fun _ => ⟨hv, _, hwrote, fun o ho => ?_, fun l hl hno => ?_⟩⟩
      · exact s.scratchPut_out d k.scratch ho
      · exact s.scratchPut_lane d k.scratch hl hno
  · intro d a k l s h hc hk hl hpend hhnd htvec _ hpast
    have hmem : (l, (s.vReg a l).toNat) ∈ s.scratchOffs a := List.mem_map.2 ⟨l, hl, rfl⟩
    obtain ⟨x, hx, -, hle, henters⟩ := h.raiseLanes_region ⟨hpend, hhnd, htvec⟩
      (mem_spaceCauses_of_past (atomic := false) hmem hpast) rfl fun _ => cause_of_mem_spaceCauses
    have hexec : exec (.vsts d a) s = .next (s.raiseLanes (spaceCauses false (etBytes (mET s.t.mode)) k.scratchSize
        (s.scratchOffs a))) := by
      refine h.exec_stays hc (i := .vsts d a) (body := _) rfl ?_ (decide_ord s _)
      dsimp only
      simp only [h.actLanes, h.rv, hk]
      exact if_pos (by simpa [State.scratchOffs] using List.ne_nil_of_mem hx)
    have hfr := decide_frame s (laneDecs 1 0 (spaceCauses false (etBytes (mET s.t.mode)) k.scratchSize (s.scratchOffs a))
      s.t.pc s.t.cl s.t.ord)
    obtain ⟨hcause, hlane, -, -, hv⟩ := henters
    have hxl : x.lane < 1024 := Nat.lt_of_le_of_lt hle (onLanes_lt hl)
    have htl : (tlaneWord 1 0 x.lane).toNat = 2 ^ 30 + x.lane := by
      simp only [tlaneWord, BitVec.toNat_ofNat]
      omega
    refine ⟨_, hexec, hcause, ?_, ?_, (congrArg State.mem hfr :), (congrArg State.blocks hfr :), hv⟩
    · rw [hlane, LaneCause.dec, htl]
      omega
    · rw [hlane, LaneCause.dec, htl]
      have hle : x.lane ≤ l := hle
      omega

end

section
/-! ## What an eviction leaves of the health of the cores and of a context that is ending (R18, R412, R413)

A fenced core's units are evicted. What the tile memory port still does for them (R109), and what their records need, is made of
updates of parts that hold neither the bundles of a core nor what the Sideboard knows: `State.SameHealth`. -/

namespace Sys2Proof.Machine
open Sys2Proof Sys2Proof.Claims

/-- The bundles of the cores and what the Sideboard knows are in u as in s. -/
structure State.SameHealth (s u : State) : Prop where
  cores : u.cores = s.cores
  side : u.side = s.side

theorem State.SameHealth.refl (s : State) : s.SameHealth s := ⟨rfl, rfl⟩

namespace State.SameHealth

variable {k s : State} (h : k.SameHealth s)
include h

theorem trans {u : State} (g : s.SameHealth u) : k.SameHealth u := ⟨g.cores.trans h.cores, g.side.trans h.side⟩

/-- An update of other parts. -/
theorem upd {u : State} (hc : u.cores = s.cores := by rfl) (hs : u.side = s.side := by rfl) : k.SameHealth u :=
  h.trans ⟨hc, hs⟩

theorem foldl {α : Type} {f : State → α → State} (hf : ∀ u x, k.SameHealth u → k.SameHealth (f u x)) (l : List α) :
    k.SameHealth (l.foldl f s) :=
  List.foldlRecOn l f h fun u hu x _ => hf u x hu

theorem ite {u : State} {p : Prop} [Decidable p] (g : k.SameHealth u) : k.SameHealth (if p then s else u) := by
  split <;> assumption

/-! ### Caches and memory -/

theorem touches {u : State} (g : Touches s u) : k.SameHealth u := by
  have e := g.frame
  generalize u.t.infl = x at e
  exact h.upd (congrArg State.cores e :) (congrArg State.side e :)

theorem settle (p : LateSrc → Bool) : k.SameHealth (s.settle p) := h.touches (touches_settle s p)

theorem noteWrite (a : Agent) (line : Nat) : k.SameHealth (s.noteWrite a line) := by
  have hline := h.settle fun e => e.inMem fun a => lineOf a == line
  cases a with
  | core c => exact h.upd
  | fetch c => exact State.SameHealth.upd hline
  | engine t => exact State.SameHealth.upd hline
  | unit t => exact State.SameHealth.upd hline
  | host => exact State.SameHealth.upd hline

theorem noteWrites (a : Agent) (lines : List Nat) : k.SameHealth (s.noteWrites a lines) :=
  h.foldl (fun _ _ hu => hu.noteWrite a _) _

theorem putBytes_foldl (l : List (Nat × List Byte)) : k.SameHealth (l.foldl (fun s p => s.putBytes p.1 p.2) s) :=
  h.foldl (fun _ _ hu => hu.upd) l

theorem clearPoisonBytes (l : List Nat) : k.SameHealth (s.clearPoisonBytes l) := by
  unfold State.clearPoisonBytes
  split
  · exact h
  · exact h.upd

/-! ### Messages and context slots -/

theorem send (port typ ctx tag : Nat) (payload : List Byte) : k.SameHealth (s.send port typ ctx tag payload) :=
  h.upd (by simp) (by simp)

theorem endCtx (ctx st : Nat) : k.SameHealth (s.endCtx ctx st) := h.upd (by simp) (by simp)

theorem modT (f : Team → Team) : k.SameHealth (s.modT f) := h.upd

theorem modBlock (bid : Nat) (f : Block → Block) : k.SameHealth (s.modBlock bid f) := h.upd

theorem select (tid : Nat) : k.SameHealth (s.select tid) := h.upd (by simp) (by simp)

theorem modQuad (q : Nat) (f : Quad → Quad) : k.SameHealth (s.modQuad q f) := h.upd (by simp) (by simp)

theorem winWrite (tid pa : Nat) (data : List Byte) : k.SameHealth (s.winWrite tid pa data) := by
  have hsend := State.SameHealth.send (s := s.newTag) h.upd (s.winRoute pa).1 8 0 s.newTag.link.tag (s.mwrPayload pa data)
  exact State.SameHealth.upd hsend

theorem sendFault (slot src core team unit owner quad : Nat) (pages : List Nat) :
    k.SameHealth (s.sendFault slot src core team unit owner quad pages).1 := by
  have e := sendFault_frame s slot src core team unit owner quad pages
  exact h.upd (congrArg State.cores e :) (congrArg State.side e :)

/-! ### A row of a reduction stream (R395) -/

theorem devWrite (a : Nat) (bs : List Byte) : k.SameHealth (s.devWrite a bs) :=
  ((((h.foldl (fun _ _ hu => hu.upd) _).noteWrites .host _).foldl (fun _ _ hu => hu.upd) _)).clearPoisonBytes _

theorem emit (n i : Nat) (row : List Word) (bound : Word) : k.SameHealth (s.emit n i row bound) := by
  have hb (p : Prop) [Decidable p] (a : Nat) (bs bs' : List Byte) (b : Nat) :
      k.SameHealth (if p then s.devWrite a bs else (s.devWrite a bs).devWrite b bs') :=
    (h.devWrite a bs).ite ((h.devWrite a bs).devWrite b bs')
  unfold State.emit
  dsimp only
  exact ((h.send _ _ _ _ _).ite h.upd).ite (.ite h.upd (.ite (h.endCtx _ _)
    (.ite (hb _ _ _ _ _) (.ite ((hb _ _ _ _ _).endCtx _ _) ((hb _ _ _ _ _).devWrite _ _)))))

theorem rowArrive (src n i : Nat) (row : List Word) (bound : Word) : k.SameHealth (s.rowArrive src n i row bound) := by
  unfold State.rowArrive
  dsimp only
  refine State.SameHealth.ite h.upd (.ite (State.SameHealth.emit ?_ _ _ _ _) ?_)
  · exact h.upd
  · exact h.upd

/-! ### What MDRM writes (R298, R299) -/

theorem engWrite (o : EngOp) (l : List (Nat × List Byte)) : k.SameHealth (s.engWrite o l) := by
  have h4 (s1 : State) (g : k.SameHealth s1) (a : Agent) (lines bytes : List Nat) (locs : List (Nat × List Byte)) :
      k.SameHealth ((locs.foldl (fun s p => s.putBytes p.1 p.2) (s1.noteWrites a lines)).clearPoisonBytes bytes) :=
    ((g.noteWrites a lines).putBytes_foldl locs).clearPoisonBytes bytes
  unfold State.engWrite
  dsimp only
  refine State.SameHealth.foldl ?_ (fun _ _ hu => hu.winWrite _ _ _) _
  refine State.SameHealth.ite (h4 _ ?_ _ _ _ _) (State.SameHealth.upd (h4 _ ?_ _ _ _ _))
  · exact h.upd
  · exact h.upd

theorem grant (tower : Nat) (l : List Nat) : k.SameHealth (s.grant tower l).1 := by
  induction l generalizing s with
  | nil => exact h
  | cons n r ih =>
    unfold State.grant
    split
    · exact h.upd
    · exact ih (h.noteWrite _ n)

theorem drainGrant (slot u : Nat) : k.SameHealth (s.drainGrant slot u) := by
  unfold State.drainGrant
  split
  · exact h
  · exact h.ite (h.grant _ _).upd

theorem drainWrite (u : Nat) (l : List (Nat × Nat × List Byte)) : k.SameHealth (s.drainWrite u l).1 := by
  unfold State.drainWrite
  split
  · exact h.upd
  · split
    · exact h.engWrite _ _
    · exact h

theorem drainMem (slot u : Nat) (l : List (Nat × List (Nat × Nat × List Byte))) (rest : List Nat) :
    k.SameHealth (s.drainMem slot u l rest).1 := by
  unfold State.drainMem
  refine State.SameHealth.upd (s := (List.foldl _ (s, []) l).1) ?_
  refine List.foldlRecOn (motive := fun p : State × List (Nat × Nat) => k.SameHealth p.1) l _ h fun q hq x _ => ?_
  have hx := hq.drainWrite u x.2
  split
  · next e => rw [e] at hx; exact hx
  · next e => rw [e] at hx; exact hx

theorem parkRows (p : PortOp) (ops : List DWord) (parked : List (Nat × Nat × Nat × Bool)) (causes : List LaneCause)
    (spans : Spans) (reads : Reads) : k.SameHealth (s.parkRows p ops parked causes spans reads) := by
  unfold State.parkRows
  refine State.SameHealth.modT (State.SameHealth.sendFault ?_ _ _ _ _ _ _ _ _) _
  exact State.SameHealth.upd (h.touches (touches_noteXls s (towerOf s.t.core) ((s.slotOf s.t.ctx).getD 0)
    (parked.map fun p => p.2.2.1)))

/-! ### The tile memory port (R159, R445) -/

end State.SameHealth

/-- Where the port's work goes on, it has left health as it was. -/
def TileRes.SameHealth (k : State) : TileRes → Prop
  | .go s _ => k.SameHealth s
  | _ => True

theorem TileRes.SameHealth.ite {k : State} {r r' : TileRes} {p : Prop} [Decidable p] (h : r.SameHealth k) (h' : r'.SameHealth k) :
    (if p then r else r').SameHealth k := by
  split <;> assumption

namespace State.SameHealth

variable {k s : State} (h : k.SameHealth s)
include h

theorem mdrmRun (p : PortOp) (a : Nat) : (s.mdrmRun p a).SameHealth k := by
  have hx (slot u : Nat) (l : List (Nat × List (Nat × Nat × List Byte))) (rest : List Nat) (t : Nat) (ptrs : List Nat) :
      k.SameHealth ((((s.drainGrant slot p.u).drainMem slot u l rest).1).noteXls t slot ptrs) :=
    ((h.drainGrant slot p.u).drainMem slot u l rest).touches (touches_noteXls _ _ _ _)
  unfold State.mdrmRun
  dsimp only
  split
  · trivial
  · exact TileRes.SameHealth.ite trivial (TileRes.SameHealth.ite ((hx _ _ _ _ _ _).parkRows _ _ _ _ _ _) ((hx _ _ _ _ _ _).modT _))

theorem tileRun (p : PortOp) : (s.tileRun p).SameHealth k := by
  unfold State.tileRun
  split
  · exact h.modQuad _ _
  · exact h.modQuad _ _
  · exact h.upd
  · exact (h.settle _).modBlock _ _
  · exact h.mdrmRun p _
  · exact TileRes.SameHealth.ite trivial (h.foldl (fun _ _ hu => hu.rowArrive _ _ _ _ _) _)
  · exact h.modQuad _ _
  · exact h.upd
  · exact h.modQuad _ _
  · exact h

theorem portTurn (q : Nat) : k.SameHealth (s.portTurn q) := by
  unfold State.portTurn
  split
  · exact h
  next p rest _ =>
    have hu := h.select p.tid
    refine State.SameHealth.select (.ite hu ?_) _
    have hrun := hu.tileRun p
    split
    · next s1 on e =>
      rw [e] at hrun
      exact (State.SameHealth.modT hrun _).modQuad _ _
    · exact hu
    · exact hu.endCtx _ _

theorem drainPort (bids : List Nat) (q : Nat) : k.SameHealth (s.drainPort bids q) :=
  h.foldl (fun _ _ hu => (hu.portTurn q).ite hu) _

end State.SameHealth

end Sys2Proof.Machine
end

section
/-! ## Evictions under way do not touch the status of another context that is ending (R18, R408, R412) -/

namespace Sys2Proof.Machine
open Sys2Proof Sys2Proof.Claims

/-- Nothing waits at a tile memory port, no tower is lost, and the context of slot n is ending. -/
structure State.Undisturbed (k : State) (n : Nat) : Prop where
  lost : k.regs.towerlost = 0
  ports : ∀ q, (k.quadD q).port = []
  ending : (k.slot n).ending.isSome = true

/-- s is k but for evictions: health is as it was, and where the end of the context of slot n is undisturbed, so it stays. -/
structure State.Evicting (n : Nat) (k s : State) : Prop where
  health : k.SameHealth s
  lost : k.Undisturbed n → s.regs.towerlost = 0
  ports : k.Undisturbed n → ∀ q, (s.quadD q).port = []
  slots : k.Undisturbed n → ∀ j, (s.slot j).act = (k.slot j).act ∧ (s.slot j).ctxid = (k.slot j).ctxid
  ending : k.Undisturbed n → (s.slot n).ending = (k.slot n).ending

theorem State.Evicting.refl (n : Nat) (s : State) : State.Evicting n s s :=
  ⟨.refl s, fun h => h.lost, fun h => h.ports, fun _ _ => ⟨rfl, rfl⟩, fun _ => rfl⟩

theorem slotOf_congr {s u : State} (h : ∀ j, (u.slot j).act = (s.slot j).act ∧ (u.slot j).ctxid = (s.slot j).ctxid) (ctx : Nat) :
    u.slotOf ctx = s.slotOf ctx := by
  simp only [State.slotOf, h]

/-- A slot is what it was, or what f makes of it. -/
theorem slot_modSlot_cases (s : State) (n j : Nat) (f : CtxSlot → CtxSlot) :
    (s.modSlot n f).slot j = s.slot j ∨ (j = n ∧ (s.modSlot n f).slot j = f (s.slot j)) := by
  by_cases hj : j = n
  · subst hj
    by_cases hlen : j < s.ctxs.length
    · exact .inr ⟨rfl, slot_modSlot_self s f hlen⟩
    · refine .inl ?_
      have hnone : ∀ l : List CtxSlot, l.length = s.ctxs.length → l.getD j {} = {} := fun l hl => by
        rw [List.getD_eq_default]; omega
      exact (hnone _ (by rw [State.modSlot_ctxs, List.length_modify])).trans (hnone _ rfl).symm
  · exact .inl (slot_modSlot_ne s f hj)

/-- Beginning to end a context leaves every slot its context, and changes no slot but that context's. -/
theorem slot_endCtx (s : State) (ctx st j : Nat) :
    ((s.endCtx ctx st).slot j).act = (s.slot j).act ∧ ((s.endCtx ctx st).slot j).ctxid = (s.slot j).ctxid ∧
      (s.slotOf ctx ≠ some j → (s.endCtx ctx st).slot j = s.slot j) := by
  unfold State.endCtx State.modCtx
  split
  · next m hm =>
    rw [hm]
    rcases slot_modSlot_cases s m j _ with e | ⟨rfl, e⟩
    · rw [e]; exact ⟨rfl, rfl, fun _ => rfl⟩
    · refine ⟨?_, ?_, fun hne => absurd rfl hne⟩
      all_goals
        rw [e]
        split
        · split <;> rfl
        · rfl
  · exact ⟨rfl, rfl, fun _ => rfl⟩

/-- The record of a quad after an update of one. -/
theorem quadD_modQuad (s : State) (q j : Nat) {f : Quad → Quad} (hf : ∀ x, (f x).q = x.q) :
    (s.modQuad q f).quadD j = if j = q then f (s.quadD q) else s.quadD j := by
  unfold State.modQuad State.quadD
  by_cases hany : (s.quads.any fun x => x.q == q) = true
  · rw [if_pos hany]
    dsimp only
    by_cases hj : j = q
    · subst hj
      obtain ⟨x, hx⟩ := Option.isSome_iff_exists.1 (List.find?_isSome.2 (List.any_eq_true.1 hany))
      have hxq : x.q == j := List.find?_some (p := fun x : Quad => x.q == j) hx
      rw [if_pos rfl, hx, find?_updFirst hx (by rw [hf]; exact hxq)]
      rfl
    · rw [if_neg hj, find?_updFirst_ne _ fun x hx => ?_]
      have hxq : x.q = q := beq_iff_eq.1 hx
      simp [hf, hxq, Ne.symm hj]
  · rw [if_neg hany]
    dsimp only
    rw [Bool.not_eq_true, List.any_eq_false] at hany
    by_cases hj : j = q
    · subst hj
      have hnone : (s.quads.find? fun x => x.q == j) = none := List.find?_eq_none.2 hany
      rw [if_pos rfl, List.find?_append, hnone]
      simp [hf]
    · rw [if_neg hj, List.find?_append]
      simp [hf, Ne.symm hj]

theorem admitResv_kept (n : Nat) (x : Quad) : (admitResv n x).q = x.q ∧ (admitResv n x).port = x.port := by
  induction n generalizing x with
  | zero => exact ⟨rfl, rfl⟩
  | succ n ih =>
    unfold admitResv
    split
    · exact ⟨rfl, rfl⟩
    · split
      · exact ⟨rfl, rfl⟩
      · exact ih _

/-- A quad without what has been saved keeps its number; nothing comes to its port. -/
theorem Quad.withoutSaved_kept (x : Quad) (v : SavedQuad) :
    (x.withoutSaved v).q = x.q ∧ (x.port = [] → (x.withoutSaved v).port = []) := by
  unfold Quad.withoutSaved Quad.releaseResv
  obtain ⟨hq, hp⟩ := admitResv_kept 8 ({ x with
    mops := x.mops.filter fun m => !v.mops.any fun o => o.u == m.u
    port := x.port.filter fun p => !v.port.any fun o => o.u == p.u
    wide := if v.wide.isSome then none else x.wide
    resv := x.resv.filter fun r => !(v.resv.any fun p => p.1.key == r.key)
    rqueue := x.rqueue.filter fun r => !(v.resv.any fun p => p.1.key == r.key) } : Quad)
  exact ⟨hq, fun h => hp.trans (by rw [h]; rfl)⟩

namespace State.Evicting

variable {n : Nat} {k s : State} (h : State.Evicting n k s)
include h

/-- An update of parts that hold none of this. -/
theorem upd {u : State} (hh : s.SameHealth u := by exact ⟨rfl, rfl⟩) (hr : u.regs = s.regs := by rfl)
    (hq : u.quads = s.quads := by rfl) (hc : u.ctxs = s.ctxs := by rfl) : State.Evicting n k u := by
  have hslot (j : Nat) : u.slot j = s.slot j := by simp only [State.slot, hc]
  refine ⟨h.health.trans hh, fun g => hr ▸ h.lost g, fun g q => ?_, fun g j => ?_, fun g => ?_⟩
  · rw [State.quadD, hq]; exact h.ports g q
  · rw [hslot]; exact h.slots g j
  · rw [hslot]; exact h.ending g

theorem foldl {α : Type} {f : State → α → State} (hf : ∀ u x, State.Evicting n k u → State.Evicting n k (f u x)) (l : List α) :
    State.Evicting n k (l.foldl f s) :=
  List.foldlRecOn l f h fun u hu x _ => hf u x hu

/-- The slot keeps its context and its end. -/
theorem modSlot (m : Nat) {f : CtxSlot → CtxSlot} (hf : (f (s.slot m)).act = (s.slot m).act ∧
    (f (s.slot m)).ctxid = (s.slot m).ctxid ∧ (f (s.slot m)).ending = (s.slot m).ending) : State.Evicting n k (s.modSlot m f) := by
  obtain ⟨hact, hid, hend⟩ := hf
  refine ⟨h.health.upd, h.lost, h.ports, fun g j => ?_, fun g => ?_⟩
  · rw [← (h.slots g j).1, ← (h.slots g j).2]
    rcases slot_modSlot_cases s m j f with e | ⟨rfl, e⟩
    · rw [e]; exact ⟨rfl, rfl⟩
    · rw [e]; exact ⟨hact, hid⟩
  · rw [← h.ending g]
    rcases slot_modSlot_cases s m n f with e | ⟨rfl, e⟩
    · rw [e]
    · rw [e, hend]

/-- A context that was not ending is not that of slot n. -/
theorem endCtx {ctx : Nat} (hctx : k.ctxEnding ctx = false) (st : Nat) : State.Evicting n k (s.endCtx ctx st) := by
  refine ⟨h.health.endCtx ctx st, fun g => ?_, fun g q => ?_, fun g j => ?_, fun g => ?_⟩
  · rw [State.endCtx_regs]; exact h.lost g
  · rw [State.quadD, State.endCtx_quads]; exact h.ports g q
  · obtain ⟨hact, hid, -⟩ := slot_endCtx s ctx st j
    rw [hact, hid]
    exact h.slots g j
  · obtain ⟨-, -, hne⟩ := slot_endCtx s ctx st n
    rw [hne, h.ending g]
    rw [slotOf_congr (h.slots g)]
    intro e
    have hend := g.ending
    rw [State.ctxEnding, State.ctxOf, e] at hctx
    rw [hctx] at hend
    cases hend

/-- No line is lost where no tower is. -/
theorem endCtx_lost {pa len : Nat} (hl : s.spanLost pa len = true) (ctx st : Nat) : State.Evicting n k (s.endCtx ctx st) := by
  have hno : ¬k.Undisturbed n := fun g => by simp [State.spanLost, h.lost g] at hl
  exact ⟨h.health.endCtx ctx st, fun g => absurd g hno, fun g => absurd g hno, fun g => absurd g hno, fun g => absurd g hno⟩

theorem modQuad (q : Nat) {f : Quad → Quad} (hf : ∀ x, (f x).q = x.q ∧ (x.port = [] → (f x).port = [])) :
    State.Evicting n k (s.modQuad q f) := by
  refine ⟨h.health.modQuad q f, fun g => ?_, fun g j => ?_, fun g j => ?_, fun g => ?_⟩
  · rw [State.modQuad_regs]; exact h.lost g
  · rw [quadD_modQuad s q j fun x => (hf x).1]
    split
    · exact (hf _).2 (h.ports g q)
    · exact h.ports g j
  · simp only [State.slot, State.modQuad_ctxs]; exact h.slots g j
  · simp only [State.slot, State.modQuad_ctxs]; exact h.ending g

theorem ite {u : State} {p : Prop} [Decidable p] (g : State.Evicting n k u) : State.Evicting n k (if p then s else u) := by
  split <;> assumption

/-! ### Messages and memory -/

theorem send (port typ ctx tag : Nat) (payload : List Byte) : State.Evicting n k (s.send port typ ctx tag payload) :=
  h.upd ((State.SameHealth.refl s).send _ _ _ _ _) (by simp) (by simp) (by simp)

theorem noteWrite_host (line : Nat) : State.Evicting n k (s.noteWrite .host line) :=
  h.upd ((State.SameHealth.refl s).noteWrite .host line) (State.settle_regs s fun e => e.inMem fun a => lineOf a == line)
    (State.settle_quads s fun e => e.inMem fun a => lineOf a == line) (State.settle_ctxs s fun e => e.inMem fun a => lineOf a == line)

theorem putBytes (a : Nat) (bs : List Byte) : State.Evicting n k (s.putBytes a bs) := h.upd

theorem modBlock (bid : Nat) (f : Block → Block) : State.Evicting n k (s.modBlock bid f) := h.upd

theorem modTeams (p : Team → Bool) (f : Team → Team) : State.Evicting n k (s.modTeams p f) := h.upd

theorem clearPoison (a m : Nat) : State.Evicting n k (s.clearPoison a m) := h.upd

theorem noteWrites_host (lines : List Nat) : State.Evicting n k (s.noteWrites .host lines) :=
  h.foldl (fun _ _ hu => hu.noteWrite_host _) _

/-! ### The save area (R414) -/

theorem writeMap (slot lo len : Nat) : State.Evicting n k (s.writeMap slot lo len) := by
  unfold State.writeMap
  dsimp only
  split
  · next hl => exact h.endCtx_lost hl _ _
  · exact h.foldl (fun _ _ hu => (hu.noteWrite_host _).putBytes _ _) _

theorem writeRecord (u : SavedUnit) (b : Block) : State.Evicting n k (s.writeRecord u b) := by
  unfold State.writeRecord
  split
  · dsimp only
    split
    · next hl => exact h.endCtx_lost hl _ _
    · exact ((h.noteWrites_host _).putBytes _ _).clearPoison _ _
  · exact h

theorem trimSave (u : SavedUnit) (b : Block) : State.Evicting n k (s.trimSave u b) := by
  unfold State.trimSave
  dsimp only
  split
  · refine h.ite (State.Evicting.writeMap (State.Evicting.modSlot (State.Evicting.modBlock ?_ _ _) _ ⟨rfl, rfl, rfl⟩) _ _ _)
    exact h.upd
  · exact h

theorem writeUnit (u : SavedUnit) : State.Evicting n k (s.writeUnit u) := by
  unfold State.writeUnit
  refine State.Evicting.foldl (State.Evicting.foldl ?_ (fun w b hw => ?_) _) (fun w b hw => ?_) _
  · exact h.upd
  · split
    · exact hw.trimSave _ _
    · exact hw
  · split
    · exact hw.writeRecord _ _
    · exact hw

theorem unsave (slot : Nat) (bids : List Nat) : State.Evicting n k (s.unsave slot bids) := by
  have hslot := h.modSlot slot (f := fun c => { c with
    units := c.units.filter fun x => !(bids.filterMap fun k => (s.block? k).bind (·.save)).contains x }) ⟨rfl, rfl, rfl⟩
  unfold State.unsave
  refine State.Evicting.foldl ?_ (fun _ _ hu => hu.writeMap _ _ _) _
  exact State.Evicting.upd hslot

theorem dropFillFaults (slot : Nat) : State.Evicting n k (s.dropFillFaults slot) := by
  have hslot (f : CtxSlot → List FaultRec) := h.modSlot slot (f := fun c => { c with faults := f c }) ⟨rfl, rfl, rfl⟩
  unfold State.dropFillFaults State.flushFaults
  dsimp only
  split
  · exact hslot _
  · exact State.Evicting.foldl (State.Evicting.modSlot (hslot _) _ ⟨rfl, rfl, rfl⟩) (fun _ _ hu => hu.send _ _ _ _ _) _

/-! ### A unit (R413) -/

/-- Where nothing waits at a port, none of its work is done. -/
theorem drainPort (bids : List Nat) (q : Nat) : State.Evicting n k (s.drainPort bids q) := by
  have hnone (g : k.Undisturbed n) : s.drainPort bids q = s := by
    rw [State.drainPort, h.ports g q]
    rfl
  refine ⟨h.health.drainPort bids q, fun g => ?_, fun g => ?_, fun g => ?_, fun g => ?_⟩ <;> rw [hnone g]
  · exact h.lost g
  · exact h.ports g
  · exact h.slots g
  · exact h.ending g

theorem freeQuad (gid cluster q : Nat) (r : LaunchRec) : State.Evicting n k (s.freeQuad gid cluster q r) :=
  h.modQuad q fun _ => ⟨rfl, id⟩

omit h in
/-- Units taken in the save area change nothing else of the slot. -/
theorem take_kept {c c1 : CtxSlot} {sizes firsts : List Nat} (hc : c.take_ sizes = some (firsts, c1)) :
    c1 = { c with units := c1.units } := by
  induction sizes generalizing c firsts with
  | nil => cases hc; rfl
  | cons m r ih =>
    unfold CtxSlot.take_ at hc
    split at hc
    · cases hc
    split at hc
    · cases hc
    next e =>
      cases hc
      have hrest := ih e
      exact hrest

/-- A unit leaves; no MERGE is stopped for it. -/
theorem evictUnit (bs : List Block) : ∀ r ∈ s.evictUnit bs false, State.Evicting n k r.1 := by
  unfold State.evictUnit
  split
  · exact sound_none
  dsimp only
  split
  · exact sound_none
  next hc =>
    have hkept := take_kept hc
    refine sound_some ((fun (h : State.Evicting n k _) => h.ite (h.writeUnit _)) ?_)
    refine State.Evicting.foldl ?_ (fun _ _ hu => hu.writeMap _ _ _) _
    refine State.Evicting.foldl ?_ (fun _ _ hu => hu.modBlock _ _) _
    refine State.Evicting.dropFillFaults (State.Evicting.modSlot ?_ _ ?_) _
    · refine State.Evicting.foldl ?_ (fun _ _ hu => hu.freeQuad _ _ _ _) _
      refine State.Evicting.foldl (State.Evicting.modTeams ?_ _ _) (fun _ p hu => hu.modQuad _ fun x => x.withoutSaved_kept p.2) _
      refine State.Evicting.upd (State.Evicting.unsave ?_ _ _)
      exact h.foldl (fun _ _ hu => hu.drainPort _ _) _
    · generalize State.slot _ _ = c at hkept
      rw [hkept]
      exact ⟨rfl, rfl, rfl⟩

theorem evictCount (e : Evicted) (bs : List Block) : ∀ r ∈ s.evictCount e bs false, State.Evicting n k r.1 := by
  intro r hr
  obtain ⟨p, hp, rfl⟩ := Option.map_eq_some_iff.1 hr
  exact h.evictUnit bs p hp

theorem settleSaving (v : Saving) : State.Evicting n k (s.settleSaving v) := by
  unfold State.settleSaving
  refine State.Evicting.ite (h.send _ _ _ _ _) ?_
  exact h.upd

/-- The units of a context that has to leave, where it was not ending. -/
theorem stepSaving {v : Saving} (hk : v.kind = 0x11) (hctx : k.ctxEnding v.ctx = false) :
    State.Evicting n k (s.stepSaving v) := by
  unfold State.stepSaving
  generalize hp : List.foldl _ _ v.todo = p
  have h1 : State.Evicting n k p.1 ∧ p.2.kind = 0x11 := by
    rw [← hp]
    refine List.foldlRecOn (motive := fun q : State × Saving => State.Evicting n k q.1 ∧ q.2.kind = 0x11) v.todo _ ⟨h, hk⟩
      fun q hq bids _ => ?_
    obtain ⟨hq, hqk⟩ := hq
    dsimp only
    split
    · exact ⟨hq, hqk⟩
    rw [hk]
    split
    · next e => exact ⟨hq.evictCount _ _ _ e, rfl⟩
    · exact ⟨hq.endCtx hctx _, hqk⟩
  exact h1.1.ite (h1.1.settleSaving _)

end State.Evicting

theorem evicting_clearCore (n : Nat) (s : State) (core : Nat) : State.Evicting n s (s.clearCore core) := by
  unfold State.clearCore
  refine List.foldlRecOn (motive := State.Evicting n s) _ _ (.refl n s) fun u hu c hc => ?_
  obtain ⟨-, hctx⟩ := List.mem_filter.1 hc
  have hctx : s.ctxEnding c = false := by simpa using hctx
  exact hu.stepSaving rfl hctx

end Sys2Proof.Machine
end

section
/-! ## Bundles, towers, soft errors and epochs (R67, R423, R434 to R439) -/

namespace Sys2Proof.Machine
open Sys2Proof Sys2Proof.Claims

/-! ### The status with which contexts end (R408) -/

/-- An event that ends the context of slot n gives it the status of R408. -/
theorem ending_endCtx {s : State} {ctx n : Nat} (h : s.slotOf ctx = some n) (st : Nat) :
    ((s.endCtx ctx st).slot n).ending = some (endsWith s n st) := by
  obtain ⟨hact, -⟩ := act_of_slotOf h
  have hn : n < s.ctxs.length := by
    refine Nat.not_le.1 fun hle => ?_
    rw [State.slot, List.getD_eq_default _ _ hle] at hact
    cases hact
  unfold State.endCtx State.modCtx
  rw [h]
  dsimp only
  rw [slot_modSlot_self s _ hn, endsWith]
  cases hend : (s.slot n).ending with
  | none => rfl
  | some old =>
    dsimp only
    by_cases hat : (s.slot n).endAt = s.fab
    · by_cases hlt : st < old
      · simp [hat, hlt, Nat.le_of_lt hlt]
      · simp [hat, hlt, Nat.not_lt.1 hlt, hend]
    · simp [hat, hend]

/-- A slot is of one context. -/
theorem slotOf_inj {s : State} {c ctx n : Nat} (hc : s.slotOf c = some n) (h : s.slotOf ctx = some n) : c = ctx := by
  have hid {x : Nat} (hx : s.slotOf x = some n) : (s.slot n).ctxid = x := by
    have hp := List.find?_some hx
    rw [Bool.and_eq_true, beq_iff_eq] at hp
    exact hp.2
  exact (hid hc).symm.trans (hid h)

theorem slotOf_endCtx (s : State) (c st ctx : Nat) : (s.endCtx c st).slotOf ctx = s.slotOf ctx :=
  slotOf_congr (fun j => ⟨(slot_endCtx s c st j).1, (slot_endCtx s c st j).2.1⟩) ctx

/-- Ends of other contexts leave a context's slot. -/
theorem slot_endCtx_foldl {s : State} {ctx n : Nat} (h : s.slotOf ctx = some n) (st : Nat) {l : List Nat} (hl : ctx ∉ l) :
    (l.foldl (fun s c => s.endCtx c st) s).slot n = s.slot n := by
  refine (List.foldlRecOn (motive := fun u : State => u.slotOf ctx = some n ∧ u.slot n = s.slot n) l _ ⟨h, rfl⟩
    fun u hu c hc => ?_).2
  obtain ⟨hof, hslot⟩ := hu
  obtain ⟨-, -, hne⟩ := slot_endCtx u c st n
  exact ⟨(slotOf_endCtx u c st ctx).trans hof,
    (hne fun e => hl (slotOf_inj e hof ▸ hc)).trans hslot⟩

/-- One event that ends several contexts ends each of them once. -/
theorem ending_endCtx_foldl {s : State} {ctx n : Nat} (h : s.slotOf ctx = some n) (st : Nat) {l : List Nat} (hn : l.Nodup)
    (hl : ctx ∈ l) : ((l.foldl (fun s c => s.endCtx c st) s).slot n).ending = some (endsWith s n st) := by
  induction l generalizing s with
  | nil => cases hl
  | cons c r ih =>
    obtain ⟨hc, hr⟩ := List.nodup_cons.1 hn
    have hof := (slotOf_endCtx s c st ctx).trans h
    rw [List.foldl_cons]
    rcases List.mem_cons.1 hl with rfl | hmem
    · rw [slot_endCtx_foldl hof st hc, ending_endCtx h]
    · obtain ⟨-, -, hne⟩ := slot_endCtx s c st n
      have hslot := hne fun e => hc (slotOf_inj e h ▸ hmem)
      rw [ih hof hr hmem, endsWith, hslot, State.fab, State.endCtx_pkg]
      rfl

/-! ### Bundles (R434 to R437) -/

theorem core_modCore (s : State) (c n : Nat) (f : CoreHealth → CoreHealth) :
    (s.modCore c f).core n = if n = c then f (s.core c) else s.core n :=
  sget_sput ({} : CoreHealth) c n (f (s.core c)) s.cores

/-- The bundle beside vp is in service. -/
def CoreHealth.beside (h : CoreHealth) (vp : Nat) : Bool := if vp = 0 then h.vp1 else h.vp0

theorem fenced_remove (h : CoreHealth) (vp reason : Nat) : (h.remove vp reason).fenced = !h.beside vp := by
  unfold CoreHealth.remove CoreHealth.beside CoreHealth.fenced
  by_cases hvp : vp = 0 <;> simp [hvp]

/-- s once a bundle of a core is out of service, before a fenced core is cleared. -/
def State.without (s : State) (core vp reason : Nat) : State :=
  (s.modCore core fun h => h.remove vp reason).sbEvent (.bundleRemoved core vp)

theorem core_without (s : State) (core vp reason c : Nat) :
    (s.without core vp reason).core c = if c = core then (s.core core).remove vp reason else s.core c :=
  core_modCore s core c fun h => h.remove vp reason

theorem removeBundle_eq (s : State) (core vp reason : Nat) :
    s.removeBundle core vp reason = if (s.core core).beside vp then s.without core vp reason
      else ((s.without core vp reason).clearCore core).sbEvent (.coreFenced core) := by
  have hf : ((s.without core vp reason).core core).fenced = !(s.core core).beside vp := by
    rw [core_without, if_pos rfl, fenced_remove]
  unfold State.removeBundle
  unfold State.without at hf
  dsimp only
  rw [hf]
  cases (s.core core).beside vp <;> rfl

/-- The second bundle that goes fences its core: of the cores' bundles it changes that one alone. -/
theorem removeBundle_fences {s : State} {core vp : Nat} (reason : Nat) (h : (s.core core).beside vp = false) :
    (s.removeBundle core vp reason).side = { s.side with
        alert := true, events := s.side.events ++ [.bundleRemoved core vp, .coreFenced core] } ∧
      ∀ c, (s.removeBundle core vp reason).core c = if c = core then (s.core core).remove vp reason else s.core c := by
  obtain ⟨⟨hcores, hside⟩, -⟩ := evicting_clearCore 0 (s.without core vp reason) core
  rw [removeBundle_eq, h, if_neg Bool.false_ne_true]
  refine ⟨?_, fun c => ?_⟩
  · simp only [State.sbEvent, hside]
    simp [State.without, State.sbEvent, State.modCore]
  · rw [← core_without]
    exact congrArg (sget ({} : CoreHealth) c) hcores

/-- The context of the team whose pass failed on a core ends (R436). -/
def State.passFailed (s : State) (core tid : Nat) : State :=
  match s.team? tid with
  | some t => if t.core = core ∧ t.life = Life.live then s.endCtx t.ctx 0x44 else s
  | none => s

theorem sameHealth_passFailed (s : State) (core tid : Nat) : s.SameHealth (s.passFailed core tid) := by
  have h := State.SameHealth.refl s
  unfold State.passFailed
  split
  · exact (h.endCtx _ _).ite h
  · exact h

/-- A corrected error of a bundle is counted. -/
def CoreHealth.counts (vp : Nat) (h : CoreHealth) : CoreHealth :=
  if vp = 0 then { h with ce0 := min 0xFFFF (h.ce0 + 1), leak0 := h.leak0 + 1 }
  else { h with ce1 := min 0xFFFF (h.ce1 + 1), leak1 := h.leak1 + 1 }

/-- A bundle's error-rate count. -/
def CoreHealth.leak (h : CoreHealth) (vp : Nat) : Nat := if vp = 0 then h.leak0 else h.leak1

theorem leak_counts (h : CoreHealth) (vp : Nat) : (h.counts vp).leak vp = h.leak vp + 1 := by
  unfold CoreHealth.counts CoreHealth.leak
  split <;> rfl

theorem beside_counts (h : CoreHealth) (vp : Nat) : (h.counts vp).beside vp = h.beside vp := by
  unfold CoreHealth.counts CoreHealth.beside
  split <;> rfl

section
variable {s : State} {core vp : Nat} (hcore : core < 640) (hvp : vp < 2) (hin : (s.core core).inService vp = true)
include hcore hvp hin

theorem idle_of_inService : ¬(Config.nCores ≤ core ∨ 2 ≤ vp ∨ (!(s.core core).inService vp) = true) := by
  rw [hin]
  simpa [Nat.lt_succ_iff] using ⟨hcore, Nat.le_of_lt_succ hvp⟩

theorem vpCorrectedError_eq : exec (.vpCorrectedError core vp) s =
    .next (if 63 ≤ (s.core core).leak vp then (s.modCore core (CoreHealth.counts vp)).removeBundle core vp 2
      else s.modCore core (CoreHealth.counts vp)) := by
  have hleak : ((s.modCore core (CoreHealth.counts vp)).core core).leak vp = (s.core core).leak vp + 1 := by
    rw [core_modCore, if_pos rfl, leak_counts]
  have hiff : 64 ≤ ((s.modCore core (CoreHealth.counts vp)).core core).leak vp ↔ 63 ≤ (s.core core).leak vp := by
    rw [hleak]
    omega
  refine congrArg (fun u : State => (.next u : Out)) ((if_neg (idle_of_inService hcore hvp hin)).trans ?_)
  exact if_congr hiff rfl rfl

theorem vpUncorrectableError_eq (tid : Nat) : exec (.vpUncorrectableError core vp tid) s =
    .next (if (s.core core).beside vp then s.removeBundle core vp 3
      else (s.passFailed core tid).removeBundle core vp 3) := by
  have hboth : ((s.core core).vp0 && (s.core core).vp1) = (s.core core).beside vp := by
    unfold CoreHealth.beside
    unfold CoreHealth.inService at hin
    by_cases hz : vp = 0
    · rw [if_pos hz] at hin ⊢
      rw [hin, Bool.true_and]
    · rw [if_neg hz] at hin ⊢
      rw [hin, Bool.and_true]
  refine congrArg (fun u : State => (.next u : Out)) ((if_neg (idle_of_inService hcore hvp hin)).trans ?_)
  rw [hboth]
  rfl

end

/-- The first bundle that goes. -/
theorem removeBundle_keeps {s : State} {core vp : Nat} (reason : Nat) (h : (s.core core).beside vp = true) :
    s.removeBundle core vp reason = s.without core vp reason := by
  rw [removeBundle_eq, h, if_pos rfl]

/-- With idle ports and no lost tower, the second bundle that goes leaves a context's end as it was. -/
theorem ending_removeBundle {s : State} {core vp n : Nat} (reason : Nat) (h : (s.core core).beside vp = false)
    (hlost : s.regs.towerlost = 0) (hports : ∀ q, (s.quadD q).port = []) (hend : (s.slot n).ending.isSome = true) :
    ((s.removeBundle core vp reason).slot n).ending = (s.slot n).ending := by
  rw [removeBundle_eq, h, if_neg Bool.false_ne_true]
  exact (evicting_clearCore n (s.without core vp reason) core).ending ⟨hlost, hports, hend⟩

/-- A pass that fails on a core's only bundle ends the team's context with status 0x44. -/
theorem ending_passFailed {s : State} {core vp tid n : Nat} {t : Team}
    (h : ((s.passFailed core tid).core core).beside vp = false) (hlost : s.regs.towerlost = 0)
    (hports : ∀ q, (s.quadD q).port = []) (ht : s.team? tid = some t) (htc : t.core = core) (hlive : t.life = .live)
    (hof : s.slotOf t.ctx = some n) :
    (((s.passFailed core tid).removeBundle core vp 3).slot n).ending = some (endsWith s n 0x44) := by
  have hend := ending_endCtx hof 0x44
  have hpass : s.passFailed core tid = s.endCtx t.ctx 0x44 := by
    unfold State.passFailed
    rw [ht]
    exact if_pos ⟨htc, hlive⟩
  rw [hpass] at h ⊢
  rw [ending_removeBundle 3 h, hend]
  · rw [State.endCtx_regs]; exact hlost
  · intro q; rw [State.quadD, State.endCtx_quads]; exact hports q
  · rw [hend]; rfl

theorem mem_leakFall (s : State) (k : Nat) (h : CoreHealth) : (k, h) ∈ s.leakFall.cores ↔
    h ≠ {} ∧ ∃ o, (k, o) ∈ s.cores ∧ h = { o with leak0 := o.leak0 - 1, leak1 := o.leak1 - 1 } := by
  unfold State.leakFall
  rw [List.mem_filter, List.mem_map]
  constructor
  · rintro ⟨⟨⟨j, o⟩, ho, e⟩, hne⟩
    obtain ⟨rfl, rfl⟩ := Prod.mk.inj e
    exact ⟨bne_iff_ne.1 hne, o, ho, rfl⟩
  · rintro ⟨hne, o, ho, rfl⟩
    exact ⟨⟨(k, o), ho, rfl⟩, bne_iff_ne.2 hne⟩

/-! ### Lost towers (R423) -/

/-- A core of a tower that is lost: its bundles are out of service (R434). -/
def CoreHealth.lost (h : CoreHealth) : CoreHealth := { h with vp0 := false, vp1 := false, reason := 4 }

theorem core_foldl_lost (l : List Nat) (s : State) (c : Nat) :
    (l.foldl (fun s c => s.modCore c CoreHealth.lost) s).core c = if c ∈ l then (s.core c).lost else s.core c := by
  induction l generalizing s with
  | nil => rfl
  | cons a r ih =>
    rw [List.foldl_cons, ih, core_modCore]
    by_cases hca : c = a
    · subst hca
      rw [if_pos rfl, if_pos List.mem_cons_self]
      split <;> rfl
    · rw [if_neg hca]
      simp [hca]

theorem mem_towerCores (t c : Nat) : c ∈ towerCores t ↔ c / 80 = t := by
  simp only [towerCores, List.mem_map, List.mem_range]
  constructor
  · rintro ⟨i, hi, rfl⟩
    omega
  · rintro rfl
    exact ⟨c % 80, by omega, by omega⟩

theorem core_fenceTower (s : State) (t c : Nat) :
    (s.fenceTower t).core c = if c / 80 = t then (s.core c).lost else s.core c := by
  have h := core_foldl_lost (towerCores t)
    { s with regs := { s.regs with towerlost := s.regs.towerlost ||| BitVec.ofNat 8 (2 ^ t) } } c
  simp only [mem_towerCores] at h
  exact h

theorem fenceTower_frame (s : State) (t : Nat) : s.fenceTower t = { s with
    regs := { s.regs with towerlost := s.regs.towerlost ||| BitVec.ofNat 8 (2 ^ t) }, cores := (s.fenceTower t).cores } := by
  unfold State.fenceTower
  generalize hs : ({ s with regs := { s.regs with towerlost := s.regs.towerlost ||| BitVec.ofNat 8 (2 ^ t) } } : State) = w
  have hfold : ((towerCores t).foldl (fun s c => s.modCore c CoreHealth.lost) w) =
      { w with cores := ((towerCores t).foldl (fun s c => s.modCore c CoreHealth.lost) w).cores } :=
    List.foldlRecOn (motive := fun u : State => u = { w with cores := u.cores }) (towerCores t) _ rfl fun u hu c _ => by
      rw [hu]; rfl
  subst hs
  exact hfold

@[simp] theorem State.fenceTower_ctxs (s : State) (t : Nat) : (s.fenceTower t).ctxs = s.ctxs := by rw [fenceTower_frame]

@[simp] theorem State.fenceTower_pkg (s : State) (t : Nat) : (s.fenceTower t).pkg = s.pkg := by rw [fenceTower_frame]

@[simp] theorem State.dropTower_ctxs (s : State) (t : Nat) : (s.dropTower t).ctxs = s.ctxs := rfl

@[simp] theorem State.dropTower_pkg (s : State) (t : Nat) : (s.dropTower t).pkg = s.pkg := rfl

theorem foldl_endCtx_frame (l : List Nat) (st : Nat) (s : State) : l.foldl (fun s c => s.endCtx c st) s =
    { s with ctxs := (l.foldl (fun s c => s.endCtx c st) s).ctxs } :=
  List.foldlRecOn (motive := fun u : State => u = { s with ctxs := u.ctxs }) l _ rfl fun u hu c _ => by
    rw [endCtx_frame, hu]

/-- The contexts with a block on a tower. -/
def State.towerCtxs (s : State) (t : Nat) : List Nat :=
  (((s.blocks.filter fun b => b.life == BlockLife.resident && towerOf b.core == t).filterMap fun b => s.grid? b.gid).map
    fun g => g.ctx).dedup

theorem mem_towerCtxs {s : State} {t : Nat} {b : Block} {g : Grid} (hb : b ∈ s.blocks) (hlife : b.life = .resident)
    (ht : b.core / 80 = t) (hg : s.grid? b.gid = some g) : g.ctx ∈ s.towerCtxs t := by
  refine List.mem_dedup.2 (List.mem_map.2 ⟨g, List.mem_filterMap.2 ⟨b, List.mem_filter.2 ⟨hb, ?_⟩, hg⟩, rfl⟩)
  rw [hlife, towerOf, ht]
  simp

theorem State.nodup_towerCtxs (s : State) (t : Nat) : (s.towerCtxs t).Nodup := List.nodup_dedup _

/-- s once tower t is lost. -/
def State.towerGone (s : State) (t : Nat) : State :=
  ((s.towerCtxs t).foldl (fun s c => s.endCtx c 0x41) ((s.fenceTower t).dropTower t)).sbEvent (.towerLost t)

theorem bridgeTimeout_eq {s : State} {t : Nat} (ht : t < 8) (h : s.regs.towerlost.getLsbD t = false) :
    exec (.bridgeTimeout t) s = .next (s.towerGone t) := by
  have hidle : ¬(Config.nTowers ≤ t ∨ s.regs.towerlost.getLsbD t = true) := by
    rw [h]
    exact fun hor => hor.elim (Nat.not_le.2 ht) Bool.false_ne_true
  exact congrArg (fun u : State => (.next u : Out)) (if_neg hidle)

theorem towerGone_frame (s : State) (t : Nat) : s.towerGone t = { s with
    regs := { s.regs with towerlost := s.regs.towerlost ||| BitVec.ofNat 8 (2 ^ t) }, cores := (s.fenceTower t).cores
    caches := (s.towerGone t).caches, ctxs := (s.towerGone t).ctxs
    side := { s.side with alert := true, events := s.side.events ++ [.towerLost t] } } := by
  have hends := foldl_endCtx_frame (s.towerCtxs t) 0x41 ((s.fenceTower t).dropTower t)
  have hfence := fenceTower_frame s t
  unfold State.towerGone
  rw [hends]
  generalize (s.fenceTower t) = w at hfence ⊢
  rw [hfence]
  rfl

@[simp] theorem State.slot_sbEvent (s : State) (e : SbEvent) (n : Nat) : (s.sbEvent e).slot n = s.slot n := rfl

theorem ending_towerGone {s : State} {t ctx n : Nat} (hc : ctx ∈ s.towerCtxs t) (h : s.slotOf ctx = some n) :
    ((s.towerGone t).slot n).ending = some (endsWith s n 0x41) := by
  have hctxs : ((s.fenceTower t).dropTower t).ctxs = s.ctxs := by rw [State.dropTower_ctxs, State.fenceTower_ctxs]
  have hpkg : ((s.fenceTower t).dropTower t).pkg = s.pkg := by rw [State.dropTower_pkg, State.fenceTower_pkg]
  rw [State.towerGone, State.slot_sbEvent]
  generalize (s.fenceTower t).dropTower t = w at hctxs hpkg ⊢
  have hslot (j : Nat) : w.slot j = s.slot j := by simp only [State.slot, hctxs]
  have hof := (slotOf_congr (s := s) (fun j => by rw [hslot]; exact ⟨rfl, rfl⟩) ctx).trans h
  rw [ending_endCtx_foldl hof 0x41 (s.nodup_towerCtxs t) hc, endsWith, hslot, State.fab, hpkg]
  rfl

/-! ### Soft errors (R438, R439) -/

theorem soft_countSoft (s : State) (t o k : Nat) : sget 0 k (s.countSoft t o).regs.soft =
    if k = 256 * t + o then (sget 0 (256 * t + o) s.regs.soft + 1) % 2 ^ 64 else sget 0 k s.regs.soft :=
  sget_sput 0 (256 * t + o) k _ s.regs.soft

/-- A sector is poisoned. -/
def State.poisonSector (s : State) (q : Nat) : State :=
  if s.poison.contains q then s else { s with poison := q :: s.poison }

theorem poisonSector_frame (s : State) (q : Nat) : s.poisonSector q = { s with poison := (s.poisonSector q).poison } := by
  unfold State.poisonSector
  split <;> rfl

theorem mem_poisonSector (s : State) (q n : Nat) : n ∈ (s.poisonSector q).poison ↔ n = q ∨ n ∈ s.poison := by
  unfold State.poisonSector
  split
  · next hq => exact ⟨.inr, fun h => h.elim (fun e => e ▸ List.contains_iff_mem.1 hq) id⟩
  · exact List.mem_cons

/-- A counter's register is elsewhere. -/
theorem soft_countSoft_ne (s : State) {t o k : Nat} (h : k ≠ o) :
    sget 0 (256 * t + k) (s.countSoft t o).regs.soft = sget 0 (256 * t + k) s.regs.soft := by
  rw [soft_countSoft, if_neg (by omega)]

/-- s once an error counted at o has struck a sector, which POISON counts (R438, R439). -/
def State.struck (s : State) (t o q : Nat) : State := ((s.countSoft t o).countSoft t 0x80).poisonSector q

theorem struck_kept (s : State) (t o q : Nat) (ho : o ≠ 0x80) :
    sget 0 (256 * t + o) (s.struck t o q).regs.soft = (sget 0 (256 * t + o) s.regs.soft + 1) % 2 ^ 64 ∧
      sget 0 (256 * t + 0x80) (s.struck t o q).regs.soft = (sget 0 (256 * t + 0x80) s.regs.soft + 1) % 2 ^ 64 ∧
      s.struck t o q =
        { s with regs := { s.regs with soft := (s.struck t o q).regs.soft }, poison := (s.struck t o q).poison } ∧
      ∀ n, n ∈ (s.struck t o q).poison ↔ n = q ∨ n ∈ s.poison := by
  have hfr := poisonSector_frame ((s.countSoft t o).countSoft t 0x80) q
  have hsoft : (s.struck t o q).regs.soft = ((s.countSoft t o).countSoft t 0x80).regs.soft := (congrArg (·.regs.soft) hfr :)
  rw [hsoft]
  refine ⟨?_, ?_, ?_, mem_poisonSector _ q⟩
  · rw [soft_countSoft_ne _ ho, soft_countSoft, if_pos rfl]
  · rw [soft_countSoft, if_pos rfl, soft_countSoft_ne s ho.symm]
  · rw [State.struck, hfr]
    rfl

/-- s once an uncorrectable error of structure k has been counted, and has had its effect (R439). -/
def State.softStruck (s : State) (t k : Nat) : SoftErr → State
  | .clean => s.countSoft t (16 * k + 8)
  | .owned ctx => (s.countSoft t (16 * k + 8)).endCtx ctx 0x44
  | .sector pa => s.struck t (16 * k + 8) (pa / 32)

theorem softErrorUncorrectable_eq {t k : Nat} {w : SoftErr} (ht : t < 8) (hk : k < 8) (hw : softFits w k = true) (s : State) :
    exec (.softErrorUncorrectable t k w) s = .next (s.softStruck t k w) := by
  have hidle : ¬(8 ≤ t ∨ 8 ≤ k ∨ (!softFits w k) = true) := by
    rw [hw]
    simpa using ⟨ht, hk⟩
  refine congrArg (fun u : State => (.next u : Out)) ((if_neg hidle).trans ?_)
  cases w <;> rfl

/-! ### Epochs (R67) -/

/-- A region at an epoch's end, with REPLAUTO as selected. -/
def RegionRep.turned (r : RegionRep) (auto : Bool) : RegionRep := if auto then r.epoch else { r with x := 0, n := 0, w := 0 }

theorem turned_iff (o r : RegionRep) (auto : Bool) : o.turned auto = r ↔ r.pin = o.pin ∧ r.x = 0 ∧ r.n = 0 ∧ r.w = 0 ∧ r.level =
    if o.pin.isSome ∨ auto = false then o.level
    else if 0 < o.level ∧ (o.x < 8 * o.w ∨ o.x < 64) then o.level - 1
    else if o.level < 3 ∧ 1024 ≤ o.x ∧ 64 * o.w ≤ o.x ∧ o.x ≤ 4 * o.n then o.level + 1
    else o.level := by
  have hlevel : (o.turned auto).level = if o.pin.isSome ∨ auto = false then o.level
      else if 0 < o.level ∧ (o.x < 8 * o.w ∨ o.x < 64) then o.level - 1
      else if o.level < 3 ∧ 1024 ≤ o.x ∧ 64 * o.w ≤ o.x ∧ o.x ≤ 4 * o.n then o.level + 1
      else o.level := by
    cases auto with
    | false => simp [RegionRep.turned]
    | true => simp [RegionRep.turned, RegionRep.epoch]
  have hrest : o.turned auto = { level := (o.turned auto).level, pin := o.pin } := by
    cases auto <;> rfl
  obtain ⟨level, pin, x, n, w⟩ := r
  rw [hrest, hlevel, RegionRep.mk.injEq]
  constructor
  · rintro ⟨rfl, rfl, rfl, rfl, rfl⟩
    exact ⟨rfl, rfl, rfl, rfl, rfl⟩
  · rintro ⟨rfl, rfl, rfl, rfl, rfl⟩
    exact ⟨rfl, rfl, rfl, rfl, rfl⟩

theorem mem_epochEnd (s : State) (k : Nat) (r : RegionRep) : (k, r) ∈ s.epochEnd.caches.regions ↔
    r ≠ {} ∧ ∃ o, (k, o) ∈ s.caches.regions ∧ o.turned (s.feature 4) = r := by
  have h : s.epochEnd.caches.regions =
      (s.caches.regions.map fun p => (p.1, p.2.turned (s.feature 4))).filter fun p => p.2 != {} := rfl
  rw [h, List.mem_filter, List.mem_map]
  constructor
  · rintro ⟨⟨⟨j, o⟩, ho, e⟩, hne⟩
    obtain ⟨rfl, rfl⟩ := Prod.mk.inj e
    exact ⟨bne_iff_ne.1 hne, o, ho, rfl⟩
  · rintro ⟨hne, o, ho, rfl⟩
    exact ⟨⟨(k, o), ho, rfl⟩, bne_iff_ne.2 hne⟩

theorem countLevel_frame (c : Caches) (r old new : Nat) : c.countLevel r old new = { c with ctr := (c.countLevel r old new).ctr } := by
  unfold Caches.countLevel
  dsimp only
  split
  · rfl
  · split <;> rfl

theorem epochEnd_caches (s : State) : s.epochEnd.caches.l1 = s.caches.l1 ∧ s.epochEnd.caches.counted = s.caches.counted := by
  unfold State.epochEnd
  dsimp only
  refine List.foldlRecOn (motive := fun c : Caches => c.l1 = s.caches.l1 ∧ c.counted = s.caches.counted) _ _ ⟨rfl, rfl⟩
    fun c hc p _ => ?_
  rw [countLevel_frame]
  exact hc

end Sys2Proof.Machine

open Sys2Proof Sys2Proof.Machine Sys2Proof.Claims

/-- Settles O58: the second bundle of a core that goes fences it, and what is then evicted leaves the health of every core and, at
idle ports, the end that the failed pass began (`evicting_clearCore`). -/
theorem health : Obligations.Health := by
  unfold Obligations.Health
  refine ⟨⟨fun core vp tid s hcore hvp => ?_, fun s hdue => ?_⟩, fun t s ht hlost => ?_, fun t k s ht hk => ?_, fun s hdue => ?_⟩
  · intro h up out leak other alert hin
    have hin : (s.core core).inService vp = true := hin
    have herr := vpCorrectedError_eq hcore hvp hin
    have hunc := vpUncorrectableError_eq hcore hvp hin tid
    refine ⟨fun hleak => ?_, fun hleak ho => ?_, fun hleak ho => ?_, fun ho => ?_, fun ho => ?_⟩
    · have hleak : (s.core core).leak vp < 63 := hleak
      rw [if_neg (Nat.not_le.2 hleak)] at herr
      exact ⟨_, herr, rfl, (core_modCore s core core _).trans (if_pos rfl), fun c hc => (core_modCore s core c _).trans (if_neg hc)⟩
    · have hleak : 63 ≤ (s.core core).leak vp := hleak
      rw [if_pos hleak, removeBundle_keeps 2 (by rw [core_modCore, if_pos rfl, beside_counts]; exact ho)] at herr
      have hcores (c : Nat) := core_without (s.modCore core (CoreHealth.counts vp)) core vp 2 c
      simp only [core_modCore, if_true] at hcores
      refine ⟨_, herr, rfl, (hcores core).trans (if_pos rfl), fun c hc => ?_⟩
      rw [hcores, if_neg hc, if_neg hc]
    · obtain ⟨hside, hcores⟩ := removeBundle_fences (s := s.modCore core (CoreHealth.counts vp)) 2
        (by rw [core_modCore, if_pos rfl, beside_counts]; exact ho)
      have hleak : 63 ≤ (s.core core).leak vp := hleak
      rw [if_pos hleak] at herr
      simp only [core_modCore, if_true] at hcores
      refine ⟨_, herr, hside, (hcores core).trans (if_pos rfl), fun c hc => ?_⟩
      rw [hcores, if_neg hc, if_neg hc]
    · have ho : (s.core core).beside vp = true := ho
      rw [if_pos ho, removeBundle_keeps 3 ho] at hunc
      have hcores (c : Nat) := core_without s core vp 3 c
      exact ⟨_, hunc, rfl, (hcores core).trans (if_pos rfl), fun c hc => (hcores c).trans (if_neg hc)⟩
    · have ho : (s.core core).beside vp = false := ho
      rw [if_neg (by rw [ho]; exact Bool.false_ne_true)] at hunc
      obtain ⟨hcores, hside⟩ := sameHealth_passFailed s core tid
      have hcore (c : Nat) : (s.passFailed core tid).core c = s.core c := congrArg (sget ({} : CoreHealth) c) hcores
      have hbeside : ((s.passFailed core tid).core core).beside vp = false := by rw [hcore]; exact ho
      obtain ⟨hfside, hfcores⟩ := removeBundle_fences 3 hbeside
      simp only [hcore, hside] at hfside hfcores
      exact ⟨_, hunc, hfside, (hfcores core).trans (if_pos rfl), fun c hc => (hfcores c).trans (if_neg hc),
        fun hlost hports t n ht htc hlive hof => ending_passFailed hbeside hlost hports ht htc hlive hof⟩
  · have hfab : ¬s.fab < s.pkg.leakAt + 2 ^ 20 := Nat.not_lt.2 hdue
    exact ⟨s.leakFall, congrArg (fun u : State => (.next u : Out)) (if_neg hfab), rfl, rfl, mem_leakFall s⟩
  · have hfr := towerGone_frame s t
    have hcores : (s.towerGone t).cores = (s.fenceTower t).cores := by rw [hfr]
    refine ⟨s.towerGone t, bridgeTimeout_eq ht hlost, (congrArg State.regs hfr :), fun c hc => ?_, fun c hc => ?_,
      (congrArg State.mem hfr :), (congrArg State.t hfr :), (congrArg State.others hfr :), (congrArg State.blocks hfr :),
      (congrArg State.side hfr :), fun b hb hlife hbt g hg n hof => ending_towerGone (mem_towerCtxs hb hlife hbt hg) hof⟩
    all_goals
      rw [State.core, hcores]
      refine (core_fenceTower s t c).trans ?_
    · exact if_pos hc
    · exact if_neg hc
  · intro counted
    have hcounted (o : Nat) : counted (s.countSoft t o) o := (soft_countSoft s t o _).trans (if_pos rfl)
    refine ⟨⟨s.countSoft t (16 * k), ?_, hcounted _, rfl, fun o ho => (soft_countSoft s t (16 * k) o).trans (if_neg ho)⟩,
      fun hfit => ⟨s.countSoft t (16 * k + 8), ?_, hcounted _, rfl⟩, fun ctx n hfit hof => ?_, fun pa hfit hpa => ?_⟩
    · exact congrArg (fun u : State => (.next u : Out)) (if_neg (by omega))
    · exact softErrorUncorrectable_eq ht hk (by simpa [softFits, or_assoc] using hfit) s
    · have hfits : softFits (.owned ctx) k = true := by simpa [softFits, or_assoc] using hfit
      have hfr := endCtx_frame (s.countSoft t (16 * k + 8)) ctx 0x44
      refine ⟨(s.countSoft t (16 * k + 8)).endCtx ctx 0x44, softErrorUncorrectable_eq ht hk hfits s, ?_, ending_endCtx (s := s.countSoft t (16 * k + 8)) hof 0x44, by rw [hfr]; rfl⟩
      rw [hfr]
      exact hcounted _
    · have hfits : softFits (.sector pa) k = true := by
        simpa [softFits, isLocal, or_assoc] using ⟨hpa, hfit⟩
      obtain ⟨hcount, hpoison, hfr, hmem⟩ := struck_kept s t (16 * k + 8) (pa / 32) (by omega)
      exact ⟨s.struck t (16 * k + 8) (pa / 32), softErrorUncorrectable_eq ht hk hfits s, hcount, hpoison, hfr, hmem⟩
  · have hfab : ¬s.fab < s.pkg.epochAt + 65536 := Nat.not_lt.2 hdue
    obtain ⟨hl1, hcounted⟩ := epochEnd_caches s
    refine ⟨s.epochEnd, congrArg (fun u : State => (.next u : Out)) (if_neg hfab), rfl, rfl, hl1, hcounted, fun k r => ?_⟩
    simp only [mem_epochEnd, turned_iff]

end

section
/-! ## Seals and pins (R68, R73, R75, R253) -/

namespace Sys2Proof.Machine
open Sys2Proof Sys2Proof.Claims

/-! ### An instruction that answers a scalar register -/

/-- Of the team, v has at most moved what its fetches may use (R350). -/
def State.SameTeam (s v : State) : Prop := v.t = { s.t with codeAt := v.t.codeAt }

theorem Touches.sameTeam {s v : State} (h : Touches s v) (hi : s.t.infl = []) : s.SameTeam v := by
  rw [State.SameTeam, h.t_of_nil hi]

/-- An instruction of one word whose effect is v with an answer in s_d goes on so. -/
theorem State.Clear.exec_answers {s v : State} (h : s.Clear) {i : Instr} (hc : s.checks i = none) {body : State → State}
    (ho : exec i s = .next (Machine.issue i s body)) (hw : i.nWords = 1) {d : Nat} {x : DWord} {l : List Nat}
    (hb : body s = ((v.ws d x).attach .ready [] l []).done i) (hv : s.SameTeam v) :
    ∃ u, exec i s = .next u ∧ Goes 1 s ((v.ws d x).attach .ready [] l []) u := by
  refine h.exec_goes hc ho (hb.trans (by rw [State.done, hw])) ⟨?_, ?_, ?_, ?_, ?_⟩
  · exact (congrArg Team.tid hv :)
  · exact (congrArg Team.pc hv :)
  · exact (congrArg (·.cl.hdr) hv :)
  · exact (congrArg (·.cl.idx) hv :)
  · exact (congrArg Team.ord hv :)

/-- What it leaves. -/
theorem Goes.answers {s v u : State} {d : Nat} {x : DWord} {l : List Nat} (h : s.Clear) (hv : s.SameTeam v)
    (g : Goes 1 s ((v.ws d x).attach .ready [] l []) u) :
    Claims.oneReady s u ∧ s.KeepsS u [d] ∧ u.t.v = s.t.v ∧ u.sReg d = x ∧
      u = { v with t := { s.t.placeOf u.t with s := u.t.s, infl := u.t.infl }, uid := u.uid } := by
  obtain ⟨-, -, -, hs, hvr, -⟩ := g.kept
  have hvs : v.t.s = s.t.s := by rw [hv]
  have hs : u.t.s = sput 0 d x s.t.s := by rw [hs, ← hvs]; rfl
  refine ⟨g.oneReady ((congrArg Team.infl hv :).trans h.infl) (congrArg Team.cl hv :), fun n hn => ?_,
    hvr.trans (congrArg Team.v hv :), ?_, ?_⟩
  · rw [State.sReg, hs]
    exact sget_sput_ne 0 (by simpa using hn) _ _
  · rw [State.sReg, hs]
    exact sget_sput_self 0 d _ _
  · have hf := g.frame
    unfold State.SameTeam at hv
    generalize v.t.codeAt = y at hv
    have hve : v = { v with t := { s.t with codeAt := y } } := by rw [← hv]
    rw [hf, hve]
    rfl

/-! ### SEAL and UNSEAL -/

/-- Nothing of the team is outstanding: below system scope a release need not wait. -/
theorem State.Clear.released {s : State} (h : s.Clear) (he : s.eops = []) (scope : Nat) (hs : scope ≠ 4) : s.released scope = true := by
  simp [State.released, State.redsDone, State.grantsDone, State.readsDone, h.reqs, he, hs]

theorem rangeOwned_nil {s : State} (he : s.eops = []) (base len : Nat) : s.rangeOwned base len = false := by
  simp [State.rangeOwned, he]

/-- SEAL is refused: the table is full, or the range touches an entry's. -/
def State.sealTaken (s : State) (base len : Nat) : Bool :=
  64 ≤ s.seals.length || s.seals.any fun e => e.base < base + len && base < e.base + e.len

/-- s once SEAL has done its work. -/
def State.sealed (s : State) (base len : Nat) : State :=
  let s0 := s.settle fun e => e.inMem fun p => base ≤ p && p < base + len
  let dirty := s0.caches.l1.filter fun e => e.excl && base ≤ 128 * e.line && 128 * e.line < base + len
  if s.sealTaken base len then s0
  else dirty.foldl (fun s e => s.writeBack e.line) { s0 with seals := s0.seals ++ [⟨base, len, s.t.ctx, 0⟩] }

theorem touches_writeBack (s : State) (line : Nat) : Touches s (s.writeBack line) := touches_caches s _

theorem Touches.seals_eq {s u : State} (h : Touches s u) : u.seals = s.seals := by
  have e := h.frame
  generalize u.t.infl = x at e
  exact e ▸ rfl

theorem Touches.poison_eq {s u : State} (h : Touches s u) : u.poison = s.poison := by
  have e := h.frame
  generalize u.t.infl = x at e
  exact e ▸ rfl

theorem sealed_kept (s : State) (base len : Nat) (hi : s.t.infl = []) :
    s.SameTeam (s.sealed base len) ∧ (s.sealed base len).mem = s.mem ∧
      (s.sealed base len).seals = if s.sealTaken base len then s.seals else s.seals ++ [⟨base, len, s.t.ctx, 0⟩] := by
  have h0 := touches_settle s fun e => e.inMem fun p => base ≤ p && p < base + len
  unfold State.sealed
  dsimp only
  split
  · exact ⟨h0.sameTeam hi, h0.mem_eq, h0.seals_eq⟩
  · generalize (s.settle fun e => e.inMem fun p => base ≤ p && p < base + len) = w at h0
    have hfold := touches_foldl (fun (s : State) (e : L1Line) => touches_writeBack s e.line)
      (w.caches.l1.filter fun e => e.excl && base ≤ 128 * e.line && 128 * e.line < base + len)
      { w with seals := w.seals ++ [⟨base, len, s.t.ctx, 0⟩] }
    have ht : w.t = s.t := h0.t_of_nil hi
    refine ⟨?_, hfold.mem_eq.trans h0.mem_eq, hfold.seals_eq.trans (by rw [← h0.seals_eq])⟩
    have hft := hfold.t_of_nil ((congrArg Team.infl ht).trans hi)
    refine hft.trans (ht.trans ?_)
    rw [hft, ← ht]

theorem exec_seal {s : State} {d a m : Nat} (h : s.Clear) (hc : s.checks (.seal d a m) = none) (he : s.eops = [])
    (hok : sealRangeOk (s.mReg m) (s.sReg a).toNat = true) :
    ∃ u, exec (.seal d a m) s = .next u ∧ Goes 1 s (((s.sealed (s.mReg m).phys (s.sReg a).toNat).ws d
      (if s.sealTaken (s.mReg m).phys (s.sReg a).toNat then 0 else 1)).attach .ready [] [a] []) u := by
  obtain ⟨hteam, -⟩ := sealed_kept s (s.mReg m).phys (s.sReg a).toNat h.infl
  refine h.exec_answers (i := .seal d a m) hc rfl rfl ?_ hteam
  dsimp only
  rw [h.rm, h.rs, hok, h.released he 3 (by decide), rangeOwned_nil he]
  rfl

theorem exec_unseal {s : State} {d a m : Nat} (h : s.Clear) (hc : s.checks (.unseal d a m) = none) (he : s.eops = [])
    (hok : sealRangeOk (s.mReg m) (s.sReg a).toNat = true)
    (hrefs : ∀ e ∈ s.seals, e.covers (s.mReg m).phys (s.sReg a).toNat s.t.ctx = true → e.refs = 0) :
    ∃ u v x, exec (.unseal d a m) s = .next u ∧ Goes 1 s ((v.ws d x).attach .ready [] [a] []) u ∧ s.SameTeam v ∧ v.mem = s.mem ∧
      v.seals = s.seals.filter (fun e => !e.covers (s.mReg m).phys (s.sReg a).toNat s.t.ctx) ∧
      x = if s.seals.any (Seal.covers (s.mReg m).phys (s.sReg a).toNat s.t.ctx) then 1 else 0 := by
  cases hfind : s.seals.find? (Seal.covers (s.mReg m).phys (s.sReg a).toNat s.t.ctx) with
  | none =>
    have hno := List.find?_eq_none.1 hfind
    obtain ⟨u, hexec, g⟩ := h.exec_answers (i := .unseal d a m) (v := s.acquired) (d := d) (x := 0) (l := [a]) hc rfl rfl (by
      dsimp only
      rw [h.rm, h.rs, hok, h.released he 3 (by decide), hfind]
      rfl) rfl
    refine ⟨u, s.acquired, 0, hexec, g, rfl, rfl, (List.filter_eq_self.2 fun e hx => ?_).symm, (if_neg ?_).symm⟩
    · simpa using hno e hx
    · simpa using hno
  | some e =>
    have hmem := List.mem_of_find?_eq_some hfind
    have hcov := List.find?_some hfind
    obtain ⟨u, hexec, g⟩ := h.exec_answers (i := .unseal d a m)
      (v := (s.dropSeal (s.mReg m).phys (s.sReg a).toNat s.t.ctx).acquired) (d := d) (x := 1) (l := [a]) hc rfl rfl (by
        dsimp only
        rw [h.rm, h.rs, hok, h.released he 3 (by decide), hfind]
        exact if_pos (hrefs e hmem hcov)) rfl
    exact ⟨u, _, 1, hexec, g, rfl, rfl, rfl, (if_pos (List.any_eq_true.2 ⟨e, hmem, hcov⟩)).symm⟩

/-! ### REPL -/

section
variable {r : RegionRep} {ctx n : Nat}

theorem pinTo_level (hn : n < 4) (h : r.pin = none ∨ r.pin = some ctx) :
    r.pinTo ctx n = some { r with pin := some ctx, level := n } := by
  rcases h with h | h <;> simp [RegionRep.pinTo, h, hn]

theorem pinTo_unpin (hn : ¬n < 4) (h : r.pin = some ctx) : r.pinTo ctx n = some { r with pin := none } := by
  simp [RegionRep.pinTo, h, hn]

theorem pinTo_unpinned (hn : ¬n < 4) (h : r.pin = none) : r.pinTo ctx n = none := by
  simp [RegionRep.pinTo, h, hn]

theorem pinTo_other {c : Nat} (h : r.pin = some c) (hne : c ≠ ctx) : r.pinTo ctx n = none := by
  simp [RegionRep.pinTo, h, hne]

end

/-- s with region r as REPL leaves it. -/
def State.repinned (s : State) (r : Nat) (o : Option RegionRep) : State :=
  match o with
  | none => s
  | some g => { s with caches := s.caches.modRegion r fun _ => g }

theorem repinned_frame (s : State) (r : Nat) (o : Option RegionRep) : s.repinned r o =
    { s with caches := { s.caches with regions := (s.repinned r o).caches.regions } } := by
  cases o <;> rfl

theorem region_repinned (s : State) (r : Nat) (o : Option RegionRep) (k : Nat) : (s.repinned r o).caches.region k =
    if k = r then o.getD (s.caches.region r) else s.caches.region k := by
  cases o with
  | none => rw [Option.getD_none]; split <;> simp_all [State.repinned]
  | some g => exact sget_sput ({} : RegionRep) r k g s.caches.regions

/-- The region that REPL of level n makes of one whose page is mapped so, if it accepts. -/
def State.replTo (s : State) (a m : Nat) (big : Bool) : Option RegionRep :=
  if big then (s.caches.region (regionOf (s.mReg m).phys)).pinTo s.t.ctx (s.sReg a).toNat else none

/-- What REPL has found of the page (R253): without a level or a translation it does not walk. -/
def State.replPage (s : State) (a m : Nat) : Nat ⊕ Bool :=
  if 4 < (s.sReg a).toNat || (s.mReg m).limit = 0 then .inr false else s.bigPage (mySlot s) (s.mReg m).vbase.toNat

theorem replPage_walks {s : State} {a m : Nat} (hn : (s.sReg a).toNat ≤ 4) (hlim : (s.mReg m).limit ≠ 0) :
    s.replPage a m = s.bigPage (mySlot s) (s.mReg m).vbase.toNat :=
  if_neg (by
    rw [Bool.or_eq_true, decide_eq_true_eq, decide_eq_true_eq]
    exact fun h => h.elim (Nat.not_lt.2 hn) hlim)

theorem replPage_idle {s : State} {a m : Nat} (h : 4 < (s.sReg a).toNat ∨ (s.mReg m).limit = 0) :
    s.replPage a m = .inr false :=
  if_pos (by simpa using h)

theorem exec_repl {s : State} {d a m : Nat} {big : Bool} (h : s.Clear) (hc : s.checks (.repl d a m) = none)
    (hv : (s.mReg m).v = true) (hbig : s.replPage a m = .inr big) :
    ∃ u, exec (.repl d a m) s = .next u ∧ Goes 1 s (((s.repinned (regionOf (s.mReg m).phys) (s.replTo a m big)).ws d
      (if (s.replTo a m big).isSome then 1 else 0)).attach .ready [] [a] []) u := by
  refine h.exec_answers (i := .repl d a m) hc rfl rfl ?_ ?_
  · dsimp only
    rw [h.rm, h.rs, hv]
    unfold State.replPage mySlot at hbig
    simp only [Bool.not_true, Bool.false_eq_true, if_false]
    rw [hbig]
    rfl
  · rw [repinned_frame]
    rfl

/-- What REPL leaves. -/
theorem repl_leaves {s : State} {d a m : Nat} {big : Bool} (h : s.Clear) (hc : s.checks (.repl d a m) = none)
    (hv : (s.mReg m).v = true) (hbig : s.replPage a m = .inr big) :
    ∃ u, exec (.repl d a m) s = .next u ∧ s.Past u 1 ∧ Claims.oneReady s u ∧ AccessFrame s u ∧ u.mem = s.mem ∧ s.KeepsS u [d] ∧
      u.t.v = s.t.v ∧ u.sReg d = (if (s.replTo a m big).isSome then 1 else 0) ∧
      u.caches = { s.caches with regions := u.caches.regions } ∧
      u.caches.region (regionOf (s.mReg m).phys) = (s.replTo a m big).getD (s.caches.region (regionOf (s.mReg m).phys)) ∧
      ∀ k, k ≠ regionOf (s.mReg m).phys → u.caches.region k = s.caches.region k := by
  obtain ⟨u, hexec, g⟩ := exec_repl h hc hv hbig
  have hfr := repinned_frame s (regionOf (s.mReg m).phys) (s.replTo a m big)
  have hreg := region_repinned s (regionOf (s.mReg m).phys) (s.replTo a m big)
  generalize s.repinned (regionOf (s.mReg m).phys) (s.replTo a m big) = w at g hfr hreg
  have hteam : s.SameTeam w := by rw [hfr]; rfl
  obtain ⟨hone, hkeep, hvec, hans, hu⟩ := g.answers h hteam
  have hcaches : u.caches = w.caches := (congrArg State.caches hu :)
  refine ⟨u, hexec, g.past, hone, ⟨.of_eq ?_, ?_⟩, ?_, hkeep, hvec, hans, ?_, ?_, fun k hk => ?_⟩
  · rw [hu, hfr]
  · rw [hu, hfr]; rfl
  · rw [hu, hfr]
  · rw [hcaches]
    exact (congrArg State.caches hfr :)
  · rw [hcaches, hreg, if_pos rfl]
  · rw [hcaches, hreg, if_neg hk]

/-! ### A store to a sealed byte -/

theorem clearPoisonBytes_nil {s : State} (h : s.poison = []) (l : List Nat) : s.clearPoisonBytes l = s := by
  unfold State.clearPoisonBytes
  rw [h]

theorem sealAt_isSome {s : State} {e : Seal} {pa : Nat} (he : e ∈ s.seals) (hlo : e.base ≤ pa) (hhi : pa < e.base + e.len) :
    (s.sealAt pa).isSome = true :=
  List.find?_isSome.2 ⟨e, he, by simp [hlo, hhi]⟩

section
variable {s : State} {op : MemOp} {x : LaneAcc} {pa : Nat} (hk : op.kind = .store) (hpois : s.poison = [])
  (hseal : (s.sealAt pa).isSome = true)
include hk hpois hseal

/-- A store to a sealed byte is refused, and writes nothing (R73). -/
theorem performLocal_refused (core : Nat) :
    Touches s (s.performLocal core op [(x, pa)]).s ∧ (s.performLocal core op [(x, pa)]).vals = [] ∧
      (s.performLocal core op [(x, pa)]).refused = [⟨x.lane, 9, x.ptr⟩] ∧ (s.performLocal core op [(x, pa)]).reads = {} := by
  have hpois : (s.noteSealed pa).poison = [] := hpois
  have hlane : Perf.lane op { s := s } (x, pa) = { s := s.noteSealed pa, refused := [⟨x.lane, 9, x.ptr⟩] } := by
    simp [Perf.lane, hk, AccKind.writes, hseal]
  have hperf : [(x, pa)].foldl (Perf.lane op) { s := s } = { s := s.noteSealed pa, refused := [⟨x.lane, 9, x.ptr⟩] } := hlane
  unfold State.performLocal
  simp only [hk, AccKind.atomic, Bool.false_and, Bool.false_eq_true, if_false, hperf, AccKind.writes, if_true,
    clearPoisonBytes_nil hpois]
  exact ⟨(touches_caches s _).trans (touches_settle _ _), trivial, trivial, trivial⟩

/-- A scalar store to a sealed byte leaves its Sealed-Write to be decided. -/
theorem access_refused {i : Instr} {srcV srcS : List Nat} {late : LaneAcc → Nat → List LateSrc} (h : s.Clear)
    (heops : s.eops = []) (hacq : op.acq = false) (hx : reaches s op x pa) :
    ∃ w, s.access i op true [x] srcV srcS late = w.decide (laneDecs 0 0 [⟨x.lane, 9, x.ptr⟩] s.t.pc s.t.cl s.t.ord) ∧
      Touches s w := by
  obtain ⟨hres, hloc⟩ := hx
  unfold mySlot at hres
  have hsys : op.sysAcq = false := by simp [MemOp.sysAcq, hacq]
  have hown : s.owned pa = false := by simp [State.owned, heops]
  have hwins (w : State) : w.winAccesses s.t.core op [] = (w, []) := by
    unfold State.winAccesses
    rw [hk]
    rfl
  have hpaid (w : State) : w.paid {} = w := rfl
  have hdel (w : State) : w.deliver op [] = w := deliver_nil w op
  have hmap : [x].map (fun a => (a, s.resolve ((s.slotOf s.t.ctx).getD 0) op a)) = [(x, .ok pa)] := by
    rw [List.map_singleton, hres]
  have hlocal : pickPa isLocal [(x, .ok pa)] = [(x, pa)] := by simp [pickPa, hloc]
  have hwin : pickPa (fun pa => !isLocal pa) [(x, .ok pa)] = [] := by simp [pickPa, hloc]
  have hend : lowestEnd [(x, .ok pa)] = none := rfl
  have hnote := touches_noteXls s (towerOf s.t.core) ((s.slotOf s.t.ctx).getD 0) (tlbPtrs op [(x, .ok pa)])
  have hperf := performLocal_refused (s := s.noteXls (towerOf s.t.core) ((s.slotOf s.t.ctx).getD 0) (tlbPtrs op [(x, .ok pa)]))
    (op := op) (x := x) (pa := pa) hk (hnote.poison_eq.trans hpois) (by rw [State.sealAt, hnote.seals_eq]; exact hseal) s.t.core
  unfold State.access
  dsimp only
  rw [hmap]
  simp only [List.flatMap_cons, List.flatMap_nil, MemOp.issueCauses, List.append_nil, List.isEmpty_nil, Bool.not_true,
    Bool.false_eq_true, if_false, hend, hlocal, hwin, List.filterMap_cons, List.filterMap_nil, State.sectorHeld, h.log,
    List.any_nil, List.any_cons, hown, Bool.or_false, Bool.false_and, hsys]
  generalize (s.noteXls _ _ _).performLocal _ _ _ = p at hperf ⊢
  obtain ⟨hp, hvals, href, hreads⟩ := hperf
  have haw (k : Nat) : p.s.awaits k = false := (hnote.trans hp).awaits h k
  simp only [hvals, href, hreads, hpaid, if_true, List.map_nil, hwins, haw, List.isEmpty_cons, Bool.false_eq_true, if_false,
    List.append_nil, hdel, State.acqDone, hacq, ite_self]
  exact ⟨p.s, rfl, hnote.trans hp⟩

end

/-- SST to a sealed byte is Sealed-Write. -/
theorem exec_sst_refused {s : State} {d a m pa : Nat} (h : s.Clear) (hc : s.checks (.sst d a m) = none) (hpois : s.poison = [])
    (hseal : (s.sealAt pa).isSome = true) (heops : s.eops = []) (hoff : (s.sReg a).toNat < 2 ^ 32) (htr : s.t.Traps)
    (hx : reaches s { kind := .store, et := 15, size := 8 } ⟨0, (s.sReg a).toNat, s.mReg m, (s.sReg d).toNat, 0⟩ pa) :
    ∃ (u : State) (frec : Nat), exec (.sst d a m) s = .next u ∧ u.mem = s.mem ∧
      s.t.Enters u.t (LaneCause.dec ⟨0, 9, frec⟩ 9 0 0 s.t.pc s.t.cl s.t.ord) := by
  obtain ⟨w, hacc, hw⟩ := access_refused (i := .sst d a m) (srcV := []) (srcS := [d, a])
    (late := fun _ pa => (List.range 8).map fun i => ⟨d, none, none, pa + i, i⟩) rfl hpois hseal h heops rfl hx
  have ht := hw.t_of_nil h.infl
  generalize (⟨0, (s.sReg a).toNat, s.mReg m, (s.sReg d).toNat, 0⟩ : LaneAcc).ptr = p at hacc
  obtain ⟨c, hc9, hmem9⟩ := exists_mem_laneDecs (kind := 0) (tile := 0) (tepc := s.t.pc) (cl := s.t.cl) (ord := s.t.ord)
    (List.mem_singleton.2 (rfl : (⟨0, 9, p⟩ : LaneCause) = _)) (Nat.lt_of_sub_pos (by decide : 0 < 16 - 9))
  obtain ⟨v, hv, -, henters⟩ := h.decide_enters ht htr (List.ne_nil_of_mem hc9) fun d hd => by
    obtain ⟨x, -, rfl, -⟩ := mem_laneDecs hd
    rfl
  obtain ⟨x, hx9, rfl, -⟩ := mem_laneDecs hv
  obtain rfl := List.mem_singleton.1 hx9
  refine ⟨_, p, h.exec_stays (i := .sst d a m) hc rfl ?_ ((decide_ord w _).trans (congrArg Team.ord ht)), ?_, henters⟩
  · rw [scalarAccess, h.rs, h.rm, h.rs, if_neg (Nat.not_le.2 hoff)]
    exact hacc
  · exact (congrArg State.mem (decide_frame w _) :).trans hw.mem_eq

end Sys2Proof.Machine

open Sys2Proof Sys2Proof.Machine Sys2Proof.Claims

/-- Settles O35: SEAL by `exec_seal`, UNSEAL by `exec_unseal`, REPL by `repl_leaves`; a store to a sealed byte is performed on no
byte (`performLocal_refused`), and its Sealed-Write is taken (`exec_sst_refused`). -/
theorem sealsAndPins : Obligations.SealsAndPins := by
  unfold Obligations.SealsAndPins
  refine ⟨fun d a m s base len h heops hbase hlen hok => ?_, fun d a m pa e s h hpois _ heops hc hoff hx he hlo hhi hpend hhnd htvec => ?_,
    fun d a m s old h hc hv hold => ?_⟩
  · subst hbase hlen
    refine ⟨fun hc => ?_, fun hc hrefs => ?_⟩
    · obtain ⟨u, hexec, g⟩ := exec_seal h hc heops hok
      obtain ⟨hteam, hmem, hseals⟩ := sealed_kept s (s.mReg m).phys (s.sReg a).toNat h.infl
      obtain ⟨hone, hkeep, hvec, hans, hu⟩ := g.answers h hteam
      have hus := (congrArg State.seals hu :).trans hseals
      refine ⟨u, hexec, g.past, hone, (congrArg State.mem hu :).trans hmem, hkeep, hvec, fun hroom hno => ?_, fun htaken => ?_⟩
      · have hfree : s.sealTaken (s.mReg m).phys (s.sReg a).toNat = false := by
          simp only [State.sealTaken, Bool.or_eq_false_iff, decide_eq_false_iff_not, List.any_eq_false, Bool.and_eq_true,
            decide_eq_true_eq]
          refine ⟨Nat.not_le.2 hroom, fun e he hmeets => ?_⟩
          have happart := hno e he
          omega
        rw [hfree] at hans hus
        exact ⟨hans, hus⟩
      · have htaken : s.sealTaken (s.mReg m).phys (s.sReg a).toNat = true := by
          simpa [State.sealTaken] using htaken
        rw [htaken] at hans hus
        exact ⟨hans, hus⟩
    · obtain ⟨u, v, x, hexec, g, hteam, hmem, hseals, hx⟩ := exec_unseal h hc heops hok fun e he hcov => by
        simp only [Seal.covers, Bool.and_eq_true, beq_iff_eq] at hcov
        obtain ⟨⟨hb, hl⟩, hctx⟩ := hcov
        exact hrefs e he hb hl hctx
      obtain ⟨hone, hkeep, hvec, hans, hu⟩ := g.answers h hteam
      exact ⟨u, hexec, g.past, hone, (congrArg State.mem hu :).trans hmem, hkeep, hvec, (congrArg State.seals hu :).trans hseals,
        hans.trans hx⟩
  · obtain ⟨u, frec, hexec, hmem, hcause, hlane, htepc, hpc, -⟩ :=
      exec_sst_refused h hc hpois (sealAt_isSome he hlo hhi) heops hoff ⟨hpend, hhnd, htvec⟩ hx
    exact ⟨u, hexec, hmem, hcause, hlane, htepc, hpc⟩
  · subst hold
    intro big small n ends
    have hends {b : Bool} (hb : s.replPage a m = .inr b) : ends (if (s.replTo a m b).isSome then 1 else 0)
        ((s.replTo a m b).getD (s.caches.region (regionOf (s.mReg m).phys))) := repl_leaves h hc hv hb
    have hbig (hn : n ≤ 4) (hlim : (s.mReg m).limit ≠ 0) (hbig : big) : s.replPage a m = .inr true := by
      obtain ⟨l, p, hpage, hsize⟩ := hbig
      rw [replPage_walks hn hlim, State.bigPage, hpage]
      simp [hsize]
    refine ⟨fun hn hlim hb hpin => ?_, fun hn hlim hb hpin => ?_, fun hn hlim hb hpin => ?_, fun c hn hlim hb hpin hne => ?_,
      fun hno => ?_, fun hn hlim hs => ?_⟩
    · have e : s.replTo a m true = some _ := pinTo_level hn hpin
      have hres := hends (hbig (Nat.le_of_lt hn) hlim hb)
      rw [e] at hres
      exact hres
    · have e : s.replTo a m true = some _ := pinTo_unpin (Nat.not_lt.2 (Nat.le_of_eq hn.symm)) hpin
      have hres := hends (hbig (Nat.le_of_eq hn) hlim hb)
      rw [e] at hres
      exact hres
    · have e : s.replTo a m true = none := pinTo_unpinned (Nat.not_lt.2 (Nat.le_of_eq hn.symm)) hpin
      have hres := hends (hbig (Nat.le_of_eq hn) hlim hb)
      rw [e] at hres
      exact hres
    · have e : s.replTo a m true = none := pinTo_other hpin hne
      have hres := hends (hbig hn hlim hb)
      rw [e] at hres
      exact hres
    · exact hends (replPage_idle hno)
    · refine hends (b := false) ?_
      rw [replPage_walks hn hlim, State.bigPage]
      rcases hs with ⟨l, p, hpage, hsize⟩ | ⟨p, hpage⟩ <;> rw [hpage]
      exact congrArg Sum.inr (beq_false_of_ne hsize)

end

section
/-! ## Vector integer instructions (R114, R123, R218, R221 to R223) -/

namespace Sys2Proof.Machine
open Sys2Proof Sys2Proof.Claims

/-! ### Elements of a container (R114) -/

theorem etWidth_pos (et : Nat) : 0 < etWidth et := by
  by_cases h : et < 17
  · interval_cases et <;> decide
  · obtain ⟨n, rfl⟩ := Nat.exists_eq_add_of_le' (Nat.not_lt.1 h)
    exact Nat.succ_pos _

theorem etWidth_mul_etCount (et : Nat) : etWidth et * etCount et = 8 * etBytes et := by
  by_cases h : et < 17
  · interval_cases et <;> rfl
  · obtain ⟨n, rfl⟩ := Nat.exists_eq_add_of_le' (Nat.not_lt.1 h)
    rfl

theorem packElems_lt (w : Nat) (l : List Nat) : packElems w l < 2 ^ (w * l.length) := by
  induction l with
  | nil => exact Nat.one_pos
  | cons x r ih =>
    have hx := Nat.mod_lt x (Nat.two_pow_pos w)
    rw [packElems, List.length_cons, Nat.mul_succ, Nat.pow_add, Nat.mul_comm (2 ^ (w * r.length))]
    calc x % 2 ^ w + 2 ^ w * packElems w r < 2 ^ w + 2 ^ w * packElems w r := Nat.add_lt_add_right hx _
      _ = 2 ^ w * (packElems w r + 1) := by ring
      _ ≤ 2 ^ w * 2 ^ (w * r.length) := Nat.mul_le_mul_left _ ih

/-- Element k of a container is the element that it was made of; past the last it is zero. -/
theorem elemOf_packElems (w k : Nat) (l : List Nat) : elemOf w k (packElems w l) = l.getD k 0 % 2 ^ w := by
  induction l generalizing k with
  | nil => simp [elemOf, packElems]
  | cons x r ih =>
    have hx := Nat.mod_lt x (Nat.two_pow_pos w)
    cases k with
    | zero => simp [elemOf, packElems, Nat.add_mul_mod_self_left]
    | succ k =>
      rw [List.getD_cons_succ, ← ih k, elemOf, elemOf, packElems, Nat.mul_succ, Nat.add_comm (w * k), Nat.pow_add,
        ← Nat.div_div_eq_div_mul, Nat.add_mul_div_left _ _ (Nat.two_pow_pos w), Nat.div_eq_of_lt hx, Nat.zero_add]

/-- The container of ET with these elements. -/
def packed (et : Nat) (e : Nat → Nat) : Nat := packElems (etWidth et) ((List.range (etCount et)).map e)

theorem packed_lt (et : Nat) (e : Nat → Nat) : packed et e < 2 ^ (8 * etBytes et) := by
  have h := packElems_lt (etWidth et) ((List.range (etCount et)).map e)
  rwa [List.length_map, List.length_range, etWidth_mul_etCount] at h

theorem getD_map_range {α : Type} (e : Nat → α) (z : α) {n k : Nat} (hk : k < n) : ((List.range n).map e).getD k z = e k := by
  simp [List.getD_eq_getElem?_getD, hk]

theorem elemOf_packed {et k : Nat} (e : Nat → Nat) (hk : k < etCount et) :
    elemOf (etWidth et) k (packed et e) = e k % 2 ^ etWidth et := by
  rw [packed, elemOf_packElems, getD_map_range e 0 hk]

/-- Of an element only the low bits count. -/
theorem packed_congr {et : Nat} {e e' : Nat → Nat} (h : ∀ k, e k % 2 ^ etWidth et = e' k % 2 ^ etWidth et) :
    packed et e = packed et e' := by
  unfold packed
  induction List.range (etCount et) with
  | nil => rfl
  | cons k r ih => rw [List.map_cons, List.map_cons, packElems, packElems, h, ih]

theorem elemOf_lt (w k c : Nat) : elemOf w k c < 2 ^ w := Nat.mod_lt _ (Nat.two_pow_pos w)

theorem map1_eq (et : Nat) (f : Nat → Nat) (x : Nat) : map1 et f x = packed et fun k => f (elemOf (etWidth et) k x) := by
  rw [map1, elems, List.map_map]
  rfl

theorem map2_eq (et : Nat) (f : Nat → Nat → Nat) (x y : Nat) :
    map2 et f x y = packed et fun k => f (elemOf (etWidth et) k x) (elemOf (etWidth et) k y) := by
  rw [map2, elems, elems, List.zipWith_map, List.zipWith_self]
  rfl

theorem map3_eq (et : Nat) (f : Nat → Nat → Nat → Nat) (x y z : Nat) :
    map3 et f x y z = packed et fun k => f (elemOf (etWidth et) k x) (elemOf (etWidth et) k y) (elemOf (etWidth et) k z) := by
  rw [map3, elems, elems, elems, List.zipWith_map, List.zipWith_self, List.zipWith_map, List.zipWith_self]
  rfl

/-! ### What an instruction leaves that gives each active lane a container -/

/-- Under stochastic rounding an instruction that rounds leaves the generator after its last advance, and nothing else changes. -/
theorem srStep_eq (s : State) (rounds : Bool) :
    s.srStep rounds = { s with t := { s.t with srng := if rounds && mRND s.t.mode == 5 then s.srLast else s.t.srng } } := by
  unfold State.srStep
  split <;> rfl

/-- Apart from its place in its stream, the team differs in its vector registers and its generator alone. -/
def State.OnlyVG (s u : State) : Prop := u = { s with t := { s.t.placeOf u.t with v := u.t.v, srng := u.t.srng } }

theorem State.OnlyVG.onlyV {s u : State} (h : s.OnlyVG u) (hs : u.t.srng = s.t.srng) : s.OnlyV u := by
  unfold State.OnlyVG at h
  rw [hs] at h
  exact h

/-- What u holds after s has given every active lane the elements e of a container of type ct in v_d. -/
structure State.Packs (s u : State) (n ct d : Nat) (rounds : Bool) (e : Nat → Nat → Nat) : Prop where
  past : s.Past u n
  keeps : s.KeepsV u (contRegs ct d)
  frame : s.OnlyVG u
  srng : u.t.srng = if rounds && mRND s.t.mode == 5 then s.srLast else s.t.srng
  on : ∀ l, l < 1024 → s.laneOn l = true → u.cont ct d l = packed ct (e l)
  off : ∀ l, l < 1024 → s.laneOn l = false → u.cont ct d l = s.cont ct d l

theorem State.Packs.elem {s u : State} {n ct d : Nat} {rounds : Bool} {e : Nat → Nat → Nat} (p : s.Packs u n ct d rounds e)
    {l : Nat} (hl : l < 1024) (hon : s.laneOn l = true) {k : Nat} (hk : k < etCount ct) :
    u.elem ct d l k = e l k % 2 ^ etWidth ct := by
  rw [State.elem, p.on l hl hon, elemOf_packed _ hk]

theorem State.Packs.congr {s u : State} {n ct d : Nat} {rounds : Bool} {e e' : Nat → Nat → Nat} (p : s.Packs u n ct d rounds e)
    (h : ∀ l k, e l k % 2 ^ etWidth ct = e' l k % 2 ^ etWidth ct) : s.Packs u n ct d rounds e' :=
  { p with on := fun l hl hon => (p.on l hl hon).trans (packed_congr (h l)) }

/-- An instruction that does not round leaves the generator. -/
theorem State.Packs.onlyV {s u : State} {n ct d : Nat} {e : Nat → Nat → Nat} (p : s.Packs u n ct d false e) : s.OnlyV u :=
  p.frame.onlyV p.srng

/-- An effect that writes the vector registers, and advances the generator where it rounds. -/
theorem State.Clear.exec_vregs {s w : State} (h : s.Clear) {i : Instr} (hc : s.checks i = none) {rounds : Bool}
    {body : State → State} (ho : exec i s = .next (Machine.issue i s body)) (hb : body s = w.done i)
    (hw : w = { s.srStep rounds with t := { (s.srStep rounds).t with v := w.t.v } }) :
    ∃ u, exec i s = .next u ∧ s.Past u i.nWords ∧ s.OnlyVG u ∧
      u.t.srng = (if rounds && mRND s.t.mode == 5 then s.srLast else s.t.srng) ∧ u.t.v = w.t.v := by
  rw [srStep_eq] at hw
  have hst : s.Stays w := by
    rw [hw]
    exact ⟨rfl, rfl, rfl, rfl, rfl⟩
  obtain ⟨u, hexec, g⟩ := h.exec_goes hc ho hb hst
  obtain ⟨-, -, -, -, hv, -⟩ := g.kept
  have hi := g.infl_nil (by rw [hw]; exact h.infl)
  have hf := g.frame
  have hs : u.t.srng = w.t.srng := by rw [hf]; rfl
  generalize hy : w.t.v = y at hw
  rw [hi, ← h.infl, hw] at hf
  exact ⟨u, hexec, g.past, by rw [State.OnlyVG, hf]; rfl, by rw [hs, hw], hv.trans hy⟩

theorem State.Clear.exec_packs {s : State} (h : s.Clear) {i : Instr} (hc : s.checks i = none) {ct d : Nat} {rounds : Bool}
    {e : Nat → Nat → Nat} {body : State → State} (ho : exec i s = .next (Machine.issue i s body))
    (hb : body s = ((s.srStep rounds).wc ct d ((onLanes s).map fun l => (l, packed ct (e l)))).done i) :
    ∃ u, exec i s = .next u ∧ s.Packs u i.nWords ct d rounds e := by
  obtain ⟨u, hexec, hpast, hfr, hs, hv⟩ := h.exec_vregs hc ho hb (wc_frame _ ct d _)
  obtain ⟨hkeep, hcont⟩ := keepsV_cont_wc (s := s) (w := s.srStep rounds) (by rw [srStep_eq]) ct d fun l => packed_lt ct (e l)
  refine ⟨u, hexec, hpast, fun r lane hlane hr => ?_, hfr, hs, fun l hl hon => ?_, fun l hl hoff => ?_⟩
  · rw [State.vReg, hv]
    exact hkeep r lane hlane hr
  · rw [cont_congr hv, hcont l hl, if_pos hon]
  · rw [cont_congr hv, hcont l hl, if_neg (by rw [hoff]; exact Bool.false_ne_true)]

/-! ### Exact results and their low bits (R123) -/

theorem narrow_lt (et : Nat) (clamps : Bool) (x : Int) : narrow et clamps x < 2 ^ etWidth et := by
  have hp : (0 : Int) < 2 ^ etWidth et := by positivity
  rw [narrow, Int.toNat_lt (Int.emod_nonneg _ hp.ne')]
  exact_mod_cast Int.emod_lt_of_pos _ hp

theorem narrow_mod (et : Nat) (clamps : Bool) (x : Int) : narrow et clamps x % 2 ^ etWidth et = narrow et clamps x :=
  Nat.mod_eq_of_lt (narrow_lt et clamps x)

theorem wrapN_eq_narrow (et : Nat) (x : Int) : wrapN (etWidth et) x = narrow et false x := by
  simp [wrapN, narrow]

theorem etLo_le_etHi (et : Nat) : etLo et ≤ etHi et := by
  have h := Nat.two_pow_pos (etWidth et - 1)
  have h' := Nat.two_pow_pos (etWidth et)
  unfold etLo etHi
  split <;> omega

theorem clamp_eq {lo hi : Int} (h : lo ≤ hi) (x : Int) : clamp lo hi x = max lo (min hi x) := by
  unfold clamp
  split
  · omega
  · split <;> omega

theorem etFit_eq_narrow (et : Nat) (sat : Bool) (x : Int) : etFit et sat x = narrow et sat x := by
  simp [etFit, wrapN, narrow, clamp_eq (etLo_le_etHi et)]

theorem narrow_natCast (et n : Nat) : narrow et false n = n % 2 ^ etWidth et := by
  rw [narrow, if_neg Bool.false_ne_true]
  exact_mod_cast Int.toNat_natCast _

/-- Clamped or not, the signed reading of an element has the element's low bits. -/
theorem narrow_etInt (et v : Nat) : narrow et false (etInt et v) = v % 2 ^ etWidth et := by
  unfold etInt
  split
  · unfold sgnOf
    dsimp only
    split
    · rw [narrow_natCast, Nat.mod_mod]
    · have hsub (u : Int) : narrow et false (u - (2 ^ etWidth et : Nat)) = narrow et false u := by simp [narrow]
      rw [hsub, narrow_natCast, Nat.mod_mod]
  · rw [narrow_natCast, Nat.mod_mod]

theorem etInt_eq_zero {et v : Nat} (hv : v < 2 ^ etWidth et) : etInt et v = 0 ↔ v = 0 := by
  constructor
  · intro h
    have := narrow_etInt et v
    rw [h, Nat.mod_eq_of_lt hv] at this
    simpa [narrow] using this.symm
  · rintro rfl
    unfold etInt sgnOf
    split <;> simp


theorem vdivVal_narrow {et : Nat} (sat : Bool) (x : Nat) {y : Nat} (hy : y < 2 ^ etWidth et) :
    vdivVal et sat x y = narrow et (if etInt et y = 0 then (-1, false) else (Int.tdiv (etInt et x) (etInt et y), sat)).2
      (if etInt et y = 0 then (-1, false) else (Int.tdiv (etInt et x) (etInt et y), sat)).1 := by
  unfold vdivVal
  by_cases h : y = 0
  · have hpos := Nat.two_pow_pos (etWidth et)
    have hlow : narrow et false ((2 ^ etWidth et - 1 : Nat) : Int) = narrow et false (-1) := by
      simp [narrow, Nat.cast_sub hpos]
    rw [if_pos h, if_pos ((etInt_eq_zero hy).2 h), ← hlow, narrow_natCast]
    exact (Nat.mod_eq_of_lt (Nat.sub_lt hpos Nat.one_pos)).symm
  · rw [if_neg h, if_neg fun k => h ((etInt_eq_zero hy).1 k), etFit_eq_narrow]

theorem vremVal_narrow {et x y : Nat} (hx : x < 2 ^ etWidth et) (hy : y < 2 ^ etWidth et) :
    vremVal et x y = narrow et false
      (if etInt et y = 0 then etInt et x else etInt et x - etInt et y * Int.tdiv (etInt et x) (etInt et y)) := by
  unfold vremVal
  by_cases h : y = 0
  · rw [if_pos h, if_pos ((etInt_eq_zero hy).2 h), narrow_etInt, Nat.mod_eq_of_lt hx]
  · rw [if_neg h, if_neg fun k => h ((etInt_eq_zero hy).1 k), wrapN_eq_narrow, Int.tmod_def]

theorem minVal_narrow {et x y : Nat} (hx : x < 2 ^ etWidth et) (hy : y < 2 ^ etWidth et) :
    minVal et x y = narrow et false (min (etInt et x) (etInt et y)) := by
  unfold minVal
  split
  · next h => rw [min_eq_left h, narrow_etInt, Nat.mod_eq_of_lt hx]
  · next h => rw [min_eq_right (by omega), narrow_etInt, Nat.mod_eq_of_lt hy]

theorem maxVal_narrow {et x y : Nat} (hx : x < 2 ^ etWidth et) (hy : y < 2 ^ etWidth et) :
    maxVal et x y = narrow et false (max (etInt et x) (etInt et y)) := by
  unfold maxVal
  split
  · next h => rw [max_eq_right h, narrow_etInt, Nat.mod_eq_of_lt hy]
  · next h => rw [max_eq_left (by omega), narrow_etInt, Nat.mod_eq_of_lt hx]

/-! Shifts: every count from the width on gives what the width gives. -/

theorem shlVal_narrow (et x n : Nat) : shlVal et x n = narrow et false ((x : Int) * 2 ^ n) := by
  have hcast : narrow et false ((x : Int) * 2 ^ n) = x * 2 ^ n % 2 ^ etWidth et := by
    exact_mod_cast narrow_natCast et (x * 2 ^ n)
  unfold shlVal
  rw [hcast]
  split
  · next h => rw [Nat.mod_eq_zero_of_dvd ((Nat.pow_dvd_pow 2 h).mul_left x)]
  · rfl

theorem shrVal_narrow {et x : Nat} (hx : x < 2 ^ etWidth et) (n : Nat) :
    shrVal et x n = narrow et false ((x : Int) / 2 ^ n) := by
  have hcast : narrow et false ((x : Int) / 2 ^ n) = x / 2 ^ n % 2 ^ etWidth et := by
    exact_mod_cast narrow_natCast et (x / 2 ^ n)
  unfold shrVal
  rw [hcast]
  split
  · next h => rw [Nat.div_eq_of_lt (Nat.lt_of_lt_of_le hx (Nat.pow_le_pow_right (by decide) h)), Nat.zero_mod]
  · exact (Nat.mod_eq_of_lt (Nat.lt_of_le_of_lt (Nat.div_le_self _ _) hx)).symm

/-- A number within w bits and a sign, shifted right by w or more, is its sign. -/
theorem ediv_two_pow_min {v : Int} {w : Nat} (hlo : -2 ^ w ≤ v) (hhi : v < 2 ^ w) (n : Nat) :
    v / 2 ^ min n w = v / 2 ^ n := by
  rcases Nat.le_total n w with h | h
  · rw [min_eq_left h]
  have hpow : (2 : Int) ^ w ≤ 2 ^ n := pow_le_pow_right₀ (by decide) h
  have hw : (0 : Int) < 2 ^ w := by positivity
  rw [min_eq_right h]
  rcases Int.lt_or_le v 0 with hv | hv
  · have sign {k : Int} (hk : 0 < k) (hvk : -k ≤ v) : v / k = -1 := by
      rw [Int.ediv_eq_iff_of_pos hk]
      omega
    rw [sign hw hlo, sign (by omega) (by omega)]
  · rw [Int.ediv_eq_zero_of_lt hv hhi, Int.ediv_eq_zero_of_lt hv (by omega)]

theorem sgnOf_range {w : Nat} (v : Nat) : -2 ^ w ≤ sgnOf w v ∧ sgnOf w v < 2 ^ w := by
  have h : (v % 2 ^ w : Nat) < (2 ^ w : Nat) := Nat.mod_lt _ (Nat.two_pow_pos w)
  have hz : (0 : Int) ≤ 2 ^ w := by positivity
  zify at h
  unfold sgnOf
  dsimp only
  split <;> push_cast <;> omega

theorem sarVal_narrow {et x : Nat} (hx : x < 2 ^ etWidth et) (n : Nat) :
    sarVal et x n = narrow et false (etInt et x / 2 ^ n) := by
  unfold sarVal etInt
  split
  · obtain ⟨hlo, hhi⟩ := sgnOf_range (w := etWidth et) x
    rw [wrapN_eq_narrow]
    push_cast
    rw [ediv_two_pow_min hlo hhi]
  · rw [shrVal_narrow hx, Nat.mod_eq_of_lt hx]

theorem rotlVal_narrow (et x n : Nat) : rotlVal et x n % 2 ^ etWidth et = narrow et false
    ((x : Int) * 2 ^ (n % etWidth et) + (x : Int) / 2 ^ (etWidth et - n % etWidth et)) := by
  have hcast := narrow_natCast et (x * 2 ^ (n % etWidth et) + x / 2 ^ (etWidth et - n % etWidth et))
  push_cast at hcast
  rw [hcast, rotlVal, Nat.mod_add_mod]

theorem sgnOf_eq_toInt {w : Nat} (hw : 0 < w) (v : Nat) : sgnOf w v = (BitVec.ofNat w v).toInt := by
  obtain ⟨k, rfl⟩ := Nat.exists_eq_add_of_le' hw
  rw [BitVec.toInt_eq_toNat_cond, BitVec.toNat_ofNat, sgnOf, Nat.add_sub_cancel, Nat.pow_succ]
  split <;> split <;> omega

/-! Counts of bits. -/

/-- The positions before the first that fails. -/
theorem countWhile_range {p : Nat → Bool} {w k : Nat} (hk : k ≤ w) (hall : ∀ i, i < k → p i = true) (hstop : k < w → p k = false) :
    countWhile p (List.range w) = k := by
  obtain ⟨m, rfl⟩ := Nat.exists_eq_add_of_le hk
  have hrest : ((List.range m).map (k + ·)).takeWhile p = [] := by
    cases m with
    | zero => rfl
    | succ m =>
      rw [List.range_succ_eq_map, List.map_cons, Nat.add_zero, List.takeWhile_cons_of_neg]
      rw [hstop (by omega)]
      exact Bool.false_ne_true
  rw [countWhile, List.range_add, List.takeWhile_append_of_pos (fun i hi => hall i (List.mem_range.1 hi)), hrest, List.append_nil,
    List.length_range]

theorem clzN_eq {w v : Nat} (hv : v < 2 ^ w) : clzN w v = countWhile (fun i => !v.testBit (w - 1 - i)) (List.range w) := by
  rw [clzN, Nat.mod_eq_of_lt hv, bitLen]
  by_cases h0 : v = 0
  · rw [if_pos h0, Nat.sub_zero, countWhile_range (Nat.le_refl w) (fun i _ => by simp [h0]) fun h => absurd h (Nat.lt_irrefl w)]
  · have hlog : v.log2 < w := (Nat.log2_lt h0).2 hv
    rw [if_neg h0]
    refine (countWhile_range (Nat.sub_le w _) (fun i hi => ?_) fun _ => ?_).symm
    · have hlow : v < 2 ^ (w - 1 - i) := (Nat.log2_lt h0).1 (by omega)
      rw [Nat.testBit_lt_two_pow hlow, Bool.not_false]
    · rw [show w - 1 - (w - (v.log2 + 1)) = v.log2 by omega, Nat.testBit_log2 h0, Bool.not_true]

theorem ctzN_eq (w v : Nat) : ctzN w v = countWhile (fun i => !v.testBit i) (List.range w) := by
  induction w generalizing v with
  | zero => rfl
  | succ w ih =>
    rw [ctzN, ih, countWhile, countWhile, List.range_succ_eq_map, List.takeWhile_cons, Nat.testBit_zero, List.takeWhile_map,
      Function.comp_def]
    simp only [Nat.testBit_succ]
    split
    · next h => simp [h]
    · next h => simp [h, Nat.add_comm]

theorem popN_eq (w v : Nat) : popN w v = ((List.range w).filter fun i => v.testBit i).length := by
  induction w generalizing v with
  | zero => rfl
  | succ w ih =>
    rw [popN, ih, List.range_succ_eq_map, List.filter_cons, Nat.testBit_zero, List.filter_map, Function.comp_def]
    simp only [Nat.testBit_succ]
    rcases Nat.mod_two_eq_zero_or_one v with h | h <;> simp [h, Nat.add_comm]

theorem ofBits_congr {w : Nat} {f g : Nat → Bool} (h : ∀ i, i < w → f i = g i) : ofBits w f = ofBits w g := by
  induction w with
  | zero => rfl
  | succ w ih => rw [ofBits_succ, ofBits_succ, ih fun i hi => h i (Nat.lt_succ_of_lt hi), h w (Nat.lt_succ_self w)]

theorem brevN_eq (w v : Nat) : brevN w v = ofBits w fun i => v.testBit (w - 1 - i) := by
  induction w generalizing v with
  | zero => rfl
  | succ w ih =>
    have hlow : (ofBits w fun i => v.testBit (w - i)) = ofBits w fun i => (v / 2).testBit (w - 1 - i) :=
      ofBits_congr fun i hi => by rw [show w - i = w - 1 - i + 1 by omega, Nat.testBit_succ]
    rw [brevN, ih, ofBits_succ, Nat.add_sub_cancel, hlow, Nat.sub_self, Nat.testBit_zero]
    rcases Nat.mod_two_eq_zero_or_one v with h | h <;> simp [h, Nat.add_comm]

/-! ### The forms of one, two and three sources -/

section
variable {s : State} (h : s.Clear) {i : Instr} (hc : s.checks i = none) {d a b : Nat} {f : Nat → Nat → Int × Bool}
include h hc

theorem vInt1_packs {g : Nat → Bool → Nat → Nat} (ho : exec i s = .next (vInt1 i d a g s))
    (hg : ∀ l k, g (mET s.t.mode) (mSAT s.t.mode) (s.elem (mET s.t.mode) a l k) % 2 ^ etWidth (mET s.t.mode) =
      narrow (mET s.t.mode) (f l k).2 (f l k).1) :
    ∃ u, exec i s = .next u ∧ s.Packs u i.nWords (mET s.t.mode) d false fun l k => narrow (mET s.t.mode) (f l k).2 (f l k).1 := by
  obtain ⟨u, hexec, p⟩ := h.exec_packs hc (ct := mET s.t.mode) (d := d) (rounds := false)
    (e := fun l k => g (mET s.t.mode) (mSAT s.t.mode) (s.elem (mET s.t.mode) a l k)) ho (by
      simp only [map1_eq, h.actLanes, h.rc]
      rfl)
  exact ⟨u, hexec, p.congr fun l k => by rw [hg, narrow_mod]⟩

theorem vInt2_packs {g : Nat → Bool → Nat → Nat → Nat} (ho : exec i s = .next (vInt2 i d a b g s))
    (hg : ∀ l k, g (mET s.t.mode) (mSAT s.t.mode) (s.elem (mET s.t.mode) a l k) (s.elem (mET s.t.mode) b l k) %
      2 ^ etWidth (mET s.t.mode) = narrow (mET s.t.mode) (f l k).2 (f l k).1) :
    ∃ u, exec i s = .next u ∧ s.Packs u i.nWords (mET s.t.mode) d false fun l k => narrow (mET s.t.mode) (f l k).2 (f l k).1 := by
  obtain ⟨u, hexec, p⟩ := h.exec_packs hc (ct := mET s.t.mode) (d := d) (rounds := false)
    (e := fun l k => g (mET s.t.mode) (mSAT s.t.mode) (s.elem (mET s.t.mode) a l k) (s.elem (mET s.t.mode) b l k)) ho (by
      simp only [map2_eq, h.actLanes, h.rc]
      rfl)
  exact ⟨u, hexec, p.congr fun l k => by rw [hg, narrow_mod]⟩

end

theorem execVmad_packs {s : State} (h : s.Clear) {d a b : Nat} (hc : s.checks (.vmad d a b) = none) :
    ∃ u, exec (.vmad d a b) s = .next u ∧ s.Packs u (Instr.vmad d a b).nWords (mET s.t.mode) d false fun l k =>
      narrow (mET s.t.mode) (mSAT s.t.mode)
        (s.elemI (mET s.t.mode) a l k * s.elemI (mET s.t.mode) b l k + s.elemI (mET s.t.mode) d l k) := by
  refine h.exec_packs (i := .vmad d a b) hc rfl ?_
  simp only [map3_eq, h.actLanes, h.rc, etFit_eq_narrow]
  rfl

/-- The instruction gives each element of an active lane the low bits of its exact result, clamped where it says so. -/
def State.PacksInt (s : State) (i : Instr) (o : Nat × (Nat → Nat → Int × Bool)) : Prop :=
  s.checks i = none → ∃ u, exec i s = .next u ∧ s.Packs u i.nWords (mET s.t.mode) o.1 false fun l k =>
    narrow (mET s.t.mode) (o.2 l k).2 (o.2 l k).1

end Sys2Proof.Machine

end

section
/-! ## Results of lanes that may be held back (R118, R120, R126, R218) -/

namespace Sys2Proof.Machine
open Sys2Proof Sys2Proof.Claims

/-! ### Finishing with a result for each lane -/

/-- The instruction finishes in each active lane l with vals l for n registers from v_d on, and the lane raises where one of its m
elements does. -/
def State.Finishes (s : State) (i : Instr) (rounds : Bool) (d n : Nat) (vals : Nat → List Nat) (m : Nat) (bad : Nat → Nat → Bool) :
    Prop :=
  ∃ body F, exec i s = .next (Machine.issue i s body) ∧ body s = (s.srStep rounds).finishF i d n ((onLanes s).map F) ∧
    (∀ l, (F l).lane = l) ∧ (∀ l, (F l).vals = vals l) ∧ ∀ l, (F l).bad = (List.range m).any (bad l)

theorem srStep_mode (s : State) (rounds : Bool) : (s.srStep rounds).t.mode = s.t.mode := by rw [srStep_eq]

theorem mem_onLanes {s : State} {l : Nat} : l ∈ onLanes s ↔ s.laneOn l = true := by
  refine ⟨fun h => (List.mem_filter.1 h).2, fun h => List.mem_filter.2 ⟨List.mem_range.2 ?_, h⟩⟩
  simp only [State.laneOn, Bool.and_eq_true, decide_eq_true_eq] at h
  obtain ⟨⟨hlanes, -⟩, -⟩ := h
  exact hlanes

/-- Where nothing is held back every lane writes. -/
theorem finishF_of_noHold {s w : State} {i : Instr} {d n m : Nat} {F : Nat → LaneOut} {bad : Nat → Nat → Bool}
    (hF : ∀ l, (F l).bad = (List.range m).any (bad l)) (hb : noHold s m bad) (hm : w.t.mode = s.t.mode) (ha : i.attaches = false) :
    w.finishF i d n ((onLanes s).map F) = (w.wvRegs ((onLanes s).map F) d n).done i := by
  unfold State.finishF
  rw [hm, ha]
  rcases hb with hb | hb
  · simp [hb]
  · have hnil : (((onLanes s).map F).filter fun o => o.bad) = [] := by
      refine List.filter_eq_nil_iff.2 fun o ho => ?_
      obtain ⟨l, hl, rfl⟩ := List.mem_map.1 ho
      rw [hF, List.any_eq_true]
      rintro ⟨k, hk, h⟩
      rw [hb l k (onLanes_lt hl) (mem_onLanes.1 hl) (List.mem_range.1 hk)] at h
      cases h
    simp [hnil]

/-- The registers of a container hold it. -/
theorem wvRegs_etRegs (s : State) (et d : Nat) {lanes : List Nat} {F : Nat → LaneOut} {c : Nat → Nat} (hl : ∀ l, (F l).lane = l)
    (hv : ∀ l, (F l).vals = contVals et (c l)) :
    s.wvRegs (lanes.map F) d (etRegs et) = s.wc et d (lanes.map fun l => (l, c l)) := by
  unfold etRegs State.wc
  cases hp : etPair et with
  | false => simp [State.wvRegs, hv, hl, contVals, hp, Function.comp_def]
  | true =>
    have hlo (x : Nat) : BitVec.ofNat 32 (x % 4294967296) = BitVec.ofNat 32 x := by
      apply BitVec.eq_of_toNat_eq
      simp
    simp [State.wvRegs, hv, hl, contVals, hp, Function.comp_def, hlo]

/-- An instruction that is not held back gives each active lane its container. -/
theorem State.Finishes.packs {s : State} {i : Instr} {rounds : Bool} {ct d m : Nat} {bad : Nat → Nat → Bool} {e : Nat → Nat → Nat}
    (hfin : s.Finishes i rounds d (etRegs ct) (fun l => contVals ct (packed ct (e l))) m bad) (h : s.Clear)
    (hc : s.checks i = none) (ha : i.attaches = false) (hb : noHold s m bad) :
    ∃ u, exec i s = .next u ∧ s.Packs u i.nWords ct d rounds e := by
  obtain ⟨body, F, ho, hbody, hl, hv, hbad⟩ := hfin
  refine h.exec_packs hc ho ?_
  rw [hbody, finishF_of_noHold hbad hb (srStep_mode s rounds) ha, wvRegs_etRegs _ ct d hl hv]

/-! ### One container of ET (R218) -/

/-- The instruction finishes in each active lane with a container of ET with elements e. -/
def State.FinishesCont (s : State) (i : Instr) (rounds : Bool) (d et : Nat) (e : Nat → Nat → Nat) : Prop :=
  s.Finishes i rounds d (etRegs et) (fun l => contVals et (packed et (e l))) (etCount et)
    fun l k => ((etFmt et).getD .fp32).nonFinite (e l k)

/-- An effect that gives each lane the elements e of a container, however it computes them. -/
theorem State.Clear.finishesCont {s : State} (h : s.Clear) {i : Instr} {rounds : Bool} {d et : Nat} {e : Nat → Nat → Nat}
    {g : Nat → List Nat} (hg : ∀ l, g l = (List.range (etCount et)).map (e l)) {body : State → State}
    (ho : exec i s = .next (Machine.issue i s body))
    (hb : body s = (s.srStep rounds).finishF i d (etRegs et) (s.actLanes.map fun l => outC et l (g l))) :
    s.FinishesCont i rounds d et e := by
  rw [h.actLanes] at hb
  refine ⟨body, _, ho, hb, fun _ => rfl, fun l => ?_, fun l => ?_⟩
  · rw [hg]
    rfl
  · rw [hg]
    exact List.any_map

/-! ### Floating-point forms (R229, R230, R233, R234) -/

theorem getD_fins (s : State) {et k : Nat} (c : Nat) (z : Ex) (hk : k < etCount et) :
    (s.fins et c).getD k z = ((etFmt et).getD .fp32).decZ (mFTZ s.t.mode) (elemOf (etWidth et) k c) := by
  unfold State.fins elems
  rw [List.map_map]
  exact getD_map_range _ z hk

/-- The exact results f, each rounded once into ET. -/
def rounded (s : State) (f : Nat → Nat → Ex) (l k : Nat) : Nat :=
  ((etFmt (mET s.t.mode)).getD .fp32).round (s.rmAt s.srTab l k) (f l k)

theorem sgnOf_elemOf (w k y : Nat) : sgnOf w (elemOf w k y) = sgnOf w (y / 2 ^ (w * k)) := by
  simp only [sgnOf, elemOf, Nat.mod_mod]

/-- The instruction does not attach, and finishes in each active lane with the exact results o, each rounded once into ET. -/
def State.FinishesFlt (s : State) (i : Instr) (o : Nat × (Nat → Nat → Ex) × Bool) : Prop :=
  i.attaches = false ∧ s.FinishesCont i o.2.2 o.1 (mET s.t.mode) (rounded s o.2.1)

section
variable {s : State} (h : s.Clear) {i : Instr} {d a b c : Nat}
include h

theorem fltElem_eq (a l : Nat) {k : Nat} (z : Ex) (hk : k < etCount (mET s.t.mode)) :
    (s.fins (mET s.t.mode) (s.rc (mET s.t.mode) a l)).getD k z = fltElem s a l k := by
  rw [getD_fins s _ z hk, h.rc]
  rfl

theorem vFlt_finishes {rounds : Bool} {f : Nat → Ex → Ex → Ex → Ex} {g : Nat → Nat → Ex}
    (ho : exec i s = .next (vFlt i rounds d a b c f s))
    (hg : ∀ l k, f (mRND s.t.mode) (fltElem s a l k) (fltElem s b l k) (fltElem s c l k) = g l k) :
    s.FinishesCont i rounds d (mET s.t.mode) (rounded s g) := by
  refine h.finishesCont (fun l => List.map_congr_left fun k hk => ?_) ho rfl
  have hk := List.mem_range.1 hk
  rw [fltElem_eq h a l _ hk, fltElem_eq h b l _ hk, fltElem_eq h c l _ hk]
  exact congrArg (Fmt.round _ _) (hg l k)

theorem vfLit_finishes {x : Word} {f : Nat → Ex → Ex → Ex → Ex} {g : Nat → Nat → Ex}
    (ho : exec i s = .next (vfLit i d a b x f s))
    (hg : ∀ l k, f (mRND s.t.mode) (fltElem s a l k) (fltElem s b l k) (s.fltLit (mET s.t.mode) x) = g l k) :
    s.FinishesCont i true d (mET s.t.mode) (rounded s g) := by
  refine h.finishesCont (fun l => List.map_congr_left fun k hk => ?_) ho rfl
  have hk := List.mem_range.1 hk
  rw [fltElem_eq h a l _ hk, fltElem_eq h b l _ hk]
  exact congrArg (Fmt.round _ _) (hg l k)

theorem execVfldexp_finishes : s.FinishesCont (.vfldexp d a b) true d (mET s.t.mode) (rounded s fun l k => (fltElem s a l k).scale
    (if etCount (mET s.t.mode) = 1 then (s.vReg b l).toInt else sgnOf 16 ((s.vReg b l).toNat / 2 ^ (16 * k)))) := by
  refine h.finishesCont (i := .vfldexp d a b) (fun l => List.map_congr_left fun k hk => ?_) rfl rfl
  have hk := List.mem_range.1 hk
  have hint : sgnOf 32 (s.vReg b l).toNat = (s.vReg b l).toInt := by
    rw [sgnOf_eq_toInt (by decide), BitVec.ofNat_toNat, BitVec.setWidth_eq]
  dsimp only
  rw [fltElem_eq h a l _ hk, h.rv, hint, sgnOf_elemOf]
  rfl

theorem execVfrint_finishes : s.FinishesCont (.vfrint d a b) (b == 5) d (mET s.t.mode) (rounded s fun l k => (fltElem s a l k).rint
    (let rm := s.rmAt s.srTab l k
     if b = 5 then rm else { rm with rnd := b })) := by
  refine h.finishesCont (i := .vfrint d a b) (fun l => List.map_congr_left fun k hk => ?_) rfl rfl
  dsimp only
  rw [fltElem_eq h a l _ (List.mem_range.1 hk)]
  rfl

end

end Sys2Proof.Machine

end

section
/-! ## Conversions, codebook weights and packing (R118, R235, R237 to R239) -/

namespace Sys2Proof.Machine
open Sys2Proof Sys2Proof.Claims

/-! ### Several registers a lane -/

/-- Writing result registers writes the team's vector registers alone. -/
theorem wvRegs_frame (s : State) (outs : List LaneOut) (d n : Nat) :
    s.wvRegs outs d n = { s with t := { s.t with v := (s.wvRegs outs d n).t.v } } := by
  induction n generalizing s d with
  | zero => rfl
  | succ n ih =>
    rw [State.wvRegs, ih]
    rfl

/-- What v_k holds in a lane after v_n is written in some lanes. -/
theorem vReg_wv_map {lanes : List Nat} (hlt : ∀ l ∈ lanes, l < 1024) (hn : lanes.Nodup) {l : Nat} (hl : l < 1024) (s : State)
    (n k : Nat) (f : Nat → Word) :
    (s.wv n (lanes.map fun l => (l, f l))).vReg k l = if k = n ∧ l ∈ lanes then f l else s.vReg k l := by
  by_cases hk : k = n
  · subst hk
    by_cases hmem : l ∈ lanes
    · rw [if_pos ⟨rfl, hmem⟩]
      refine vReg_wv_self ?_ (List.mem_map.2 ⟨l, hmem, rfl⟩)
      simpa [List.map_map, Function.comp_def] using hn
    · rw [if_neg fun hc => hmem hc.2]
      refine sget_sputs_of_notMem 0 _ _ fun p hp e => hmem ?_
      simp only [List.map_map, List.mem_map, Function.comp_apply] at hp
      obtain ⟨j, hj, rfl⟩ := hp
      have := hlt j hj
      dsimp only at e
      obtain rfl : j = l := by omega
      exact hj
  · rw [if_neg fun hc => hk hc.1]
    refine vReg_wv_ne (fun p hp => ?_) hk hl
    obtain ⟨j, hj, rfl⟩ := List.mem_map.1 hp
    exact hlt j hj

/-- What v_k holds in a lane after the results of some lanes went to n registers from v_d on. -/
theorem vReg_wvRegs {F : Nat → LaneOut} (hF : ∀ l, (F l).lane = l) {lanes : List Nat} (hlt : ∀ l ∈ lanes, l < 1024)
    (hn : lanes.Nodup) {l : Nat} (hl : l < 1024) (s : State) (k d n : Nat) :
    (s.wvRegs (lanes.map F) d n).vReg k l =
      if l ∈ lanes ∧ d ≤ k ∧ k < d + n then BitVec.ofNat 32 ((F l).vals.getD ((F l).vals.length - (d + n - k)) 0)
      else s.vReg k l := by
  induction n generalizing s d with
  | zero => rw [State.wvRegs, if_neg (by omega)]
  | succ n ih =>
    have hmap : ((lanes.map F).map fun o => (o.lane, BitVec.ofNat 32 (o.vals.getD (o.vals.length - (n + 1)) 0))) =
        lanes.map fun l => (l, BitVec.ofNat 32 ((F l).vals.getD ((F l).vals.length - (n + 1)) 0)) := by
      simp [hF, Function.comp_def]
    rw [State.wvRegs, ih, hmap, vReg_wv_map hlt hn hl]
    by_cases hkd : k = d
    · subst hkd
      rw [if_neg (by omega), Nat.add_sub_cancel_left]
      simp
    · have hk : d + 1 ≤ k ∧ k < d + 1 + n ↔ d ≤ k ∧ k < d + (n + 1) := by omega
      simp only [hk, hkd, false_and, if_false, show d + 1 + n - k = d + (n + 1) - k by omega]

/-- What u holds after s has given every active lane the words x in n registers from v_d on. -/
structure State.Fills (s u : State) (words d n : Nat) (rounds : Bool) (x : Nat → Nat → Nat) : Prop where
  past : s.Past u words
  keeps : s.KeepsV u ((List.range n).map fun r => d + r)
  frame : s.OnlyVG u
  srng : u.t.srng = if rounds && mRND s.t.mode == 5 then s.srLast else s.t.srng
  reg : ∀ l r, l < 1024 → r < n → u.vReg (d + r) l = if s.laneOn l then BitVec.ofNat 32 (x l r) else s.vReg (d + r) l

/-- An instruction that is not held back gives each active lane its registers. -/
theorem State.Finishes.fills {s : State} {i : Instr} {rounds : Bool} {d n m : Nat} {bad : Nat → Nat → Bool} {vals : Nat → List Nat}
    (hfin : s.Finishes i rounds d n vals m bad) (h : s.Clear) (hc : s.checks i = none) (ha : i.attaches = false)
    (hb : noHold s m bad) (hlen : ∀ l, (vals l).length = n) :
    ∃ u, exec i s = .next u ∧ s.Fills u i.nWords d n rounds fun l r => (vals l).getD r 0 := by
  obtain ⟨body, F, ho, hbody, hl, hv, hbad⟩ := hfin
  rw [finishF_of_noHold hbad hb (srStep_mode s rounds) ha] at hbody
  obtain ⟨u, hexec, hpast, hfr, hs, hvr⟩ := h.exec_vregs hc ho hbody (wvRegs_frame _ _ d n)
  have hreg (k l : Nat) (hlt : l < 1024) : u.vReg k l = if l ∈ onLanes s ∧ d ≤ k ∧ k < d + n then
      BitVec.ofNat 32 ((F l).vals.getD ((F l).vals.length - (d + n - k)) 0) else s.vReg k l := by
    have hw := vReg_wvRegs hl (fun _ => onLanes_lt) (onLanes_nodup s) hlt (s.srStep rounds) k d n
    have hs : (s.srStep rounds).vReg k l = s.vReg k l := by rw [srStep_eq]; rfl
    rwa [hs, State.vReg, ← hvr] at hw
  refine ⟨u, hexec, hpast, fun k l hlt hk => ?_, hfr, hs, fun l r hlt hr => ?_⟩
  · rw [hreg k l hlt, if_neg]
    rintro ⟨-, hd, hn⟩
    exact hk (List.mem_map.2 ⟨k - d, List.mem_range.2 (by omega), by omega⟩)
  · rw [hreg _ l hlt]
    by_cases hon : s.laneOn l = true
    · rw [if_pos ⟨mem_onLanes.2 hon, by omega, by omega⟩, if_pos hon, hv, hlen]
      congr 2
      omega
    · rw [if_neg fun hc => hon (mem_onLanes.1 hc.1), if_neg hon]

/-- One FP32 result a lane. -/
theorem State.Clear.finishesOne {s : State} (h : s.Clear) {i : Instr} {rounds : Bool} {d : Nat} {x : Nat → Nat} {g : Nat → Nat}
    (hg : ∀ l, g l = x l) {body : State → State} (ho : exec i s = .next (Machine.issue i s body))
    (hb : body s = (s.srStep rounds).finishF i d 1 (s.actLanes.map fun l => outC 0 l [g l])) :
    s.Finishes i rounds d 1 (fun l => [x l % 2 ^ 32]) 1 fun l _ => Fmt.fp32.nonFinite (x l) := by
  rw [h.actLanes] at hb
  exact ⟨body, _, ho, hb, fun _ => rfl, fun l => by rw [hg]; rfl, fun l => by rw [hg]; rfl⟩

/-! ### CVT (R118, R235) -/

theorem getD_elems {et k : Nat} (c : Nat) (hk : k < etCount et) : (elems et c).getD k 0 = elemOf (etWidth et) k c :=
  getD_map_range _ 0 hk

theorem packElems_zeros (w n : Nat) : packElems w ((List.range n).map fun _ => 0) = 0 := by
  induction List.range n with
  | nil => rfl
  | cons k r ih => rw [List.map_cons, packElems, ih]; simp

theorem packElems_append_zeros (w n : Nat) (l : List Nat) : packElems w (l ++ (List.range n).map fun _ => 0) = packElems w l := by
  induction l with
  | nil => exact packElems_zeros w n
  | cons x r ih => rw [List.cons_append, packElems, packElems, ih]

/-- Elements past the last one given are zero. -/
theorem packElems_range_min (w n m : Nat) (f : Nat → Nat) :
    packElems w ((List.range (min n m)).map f) = packElems w ((List.range m).map fun k => if k < n then f k else 0) := by
  rcases Nat.le_total m n with hle | hle
  · rw [min_eq_right hle]
    congr 1
    exact List.map_congr_left fun k hk => (if_pos (Nat.lt_of_lt_of_le (List.mem_range.1 hk) hle)).symm
  · obtain ⟨j, rfl⟩ := Nat.exists_eq_add_of_le hle
    rw [min_eq_left hle, List.range_add, List.map_append, List.map_map]
    have hhead : (List.range n).map (fun k => if k < n then f k else 0) = (List.range n).map f :=
      List.map_congr_left fun k hk => if_pos (List.mem_range.1 hk)
    have htail : (List.range j).map ((fun k => if k < n then f k else 0) ∘ fun x => n + x) = (List.range j).map fun _ => 0 :=
      List.map_congr_left fun k _ => if_neg (Nat.not_lt.2 (Nat.le_add_right n k))
    rw [hhead, htail, packElems_append_zeros]

/-! ### The width of a rounded value (R115) -/

theorem Fmt.sgn_le (f : Fmt) (neg : Bool) : f.sgn neg ≤ 2 ^ (f.exp + f.man) := by
  unfold Fmt.sgn
  split
  · exact le_refl _
  · exact Nat.zero_le _

theorem Fmt.inf_lt (f : Fmt) : (2 ^ f.exp - 1) * 2 ^ f.man < 2 ^ (f.exp + f.man) := by
  rw [Nat.pow_add]
  exact Nat.mul_lt_mul_of_pos_right (Nat.sub_lt (Nat.two_pow_pos _) Nat.one_pos) (Nat.two_pow_pos _)

/-- A sign and a magnitude fit the format. -/
theorem Fmt.sgn_add_lt (f : Fmt) (neg : Bool) {x : Nat} (hx : x < 2 ^ (f.exp + f.man)) : f.sgn neg + x < 2 ^ f.width := by
  have hs := f.sgn_le neg
  have hw : 2 ^ f.width = 2 ^ (f.exp + f.man) + 2 ^ (f.exp + f.man) := by
    rw [Fmt.width, Nat.add_assoc, Nat.pow_add]
    omega
  omega

section
variable {f : Fmt} (hk : f.kind = .ieee)
include hk

theorem Fmt.maxBits_lt : f.maxBits < 2 ^ (f.exp + f.man) := by
  unfold Fmt.maxBits
  rw [hk]
  exact Nat.lt_of_le_of_lt (Nat.sub_le _ _) f.inf_lt

theorem Fmt.nan_lt (hm : 0 < f.man) : f.nan < 2 ^ (f.exp + f.man) := by
  have hhalf : 2 ^ (f.man - 1) < 2 ^ f.man := Nat.pow_lt_pow_right (by decide) (by omega)
  have hexp := Nat.two_pow_pos f.exp
  unfold Fmt.nan
  rw [hk]
  calc (2 ^ f.exp - 1) * 2 ^ f.man + 2 ^ (f.man - 1) < (2 ^ f.exp - 1) * 2 ^ f.man + 2 ^ f.man := Nat.add_lt_add_left hhalf _
    _ = (2 ^ f.exp - 1 + 1) * 2 ^ f.man := (Nat.succ_mul _ _).symm
    _ = 2 ^ (f.exp + f.man) := by rw [Nat.sub_add_cancel hexp, Nat.pow_add]

theorem Fmt.overflow_lt (rm : Rm) (neg : Bool) : f.overflow rm neg < 2 ^ f.width := by
  unfold Fmt.overflow
  rw [hk]
  dsimp only
  split
  · exact f.sgn_add_lt neg (Fmt.maxBits_lt hk)
  · exact f.sgn_add_lt neg f.inf_lt

theorem Fmt.roundFin_lt (rm : Rm) (neg : Bool) (m : Nat) (e : Int) (st : Bool) : f.roundFin rm neg m e st < 2 ^ f.width := by
  have hmax := Fmt.maxBits_lt hk
  have hsgn : f.sgn neg < 2 ^ f.width := f.sgn_add_lt neg (x := 0) (Nat.two_pow_pos _)
  have hfit (mag : Nat) : (if f.maxBits < mag then f.overflow rm neg
      else if rm.ftz && f.flushes && mag < 2 ^ f.man then f.sgn neg else f.sgn neg + mag) < 2 ^ f.width := by
    split
    · exact Fmt.overflow_lt hk rm neg
    · split
      · exact hsgn
      · exact f.sgn_add_lt neg (by omega)
  unfold Fmt.roundFin
  split
  · exact hsgn
  · exact hfit _

/-- A value rounded into an IEEE format is a bit pattern of that format. -/
theorem Fmt.round_lt (hm : 0 < f.man) (rm : Rm) (x : Ex) : f.round rm x < 2 ^ f.width := by
  cases x with
  | nan =>
    have hsgn := f.sgn_add_lt false (Fmt.nan_lt hk hm)
    rwa [show f.sgn false = 0 from rfl, Nat.zero_add] at hsgn
  | inf neg =>
    unfold Fmt.round
    rw [hk]
    exact f.sgn_add_lt neg f.inf_lt
  | fin neg m e st => exact Fmt.roundFin_lt hk rm neg m e st
  | btw neg lo hi e =>
    unfold Fmt.round
    dsimp only
    split
    · exact Fmt.roundFin_lt hk rm neg lo e true
    · exact Nat.mod_lt _ (Nat.two_pow_pos _)

end

theorem any_range_pairs (n : Nat) (p : Nat → Bool) :
    ((List.range n).any fun r => p (2 * r) || p (2 * r + 1)) = (List.range (2 * n)).any p := by
  induction n with
  | zero => rfl
  | succ n ih => simp [List.range_succ, Nat.mul_succ, ih]

section
variable {s : State} (h : s.Clear) (d a b : Nat)
include h

theorem execCvt_finishes : s.Finishes (.cvt d a b) ((etFmt (mET s.t.mode)).isSome || (etFmt b).isSome) d (etRegs b)
    (fun l => contVals b (packed b fun k => if k < etCount (mET s.t.mode) then (convRes s a b l k).1 else 0))
    (min (etCount (mET s.t.mode)) (etCount b)) fun l k => (convRes s a b l k).2 := by
  have hes (l : Nat) : (List.range (min (etCount (mET s.t.mode)) (etCount b))).map (fun k => cvtElem (s.rmAt s.srTab l k) (mET s.t.mode) b
      ((elems (mET s.t.mode) (s.rc (mET s.t.mode) a l)).getD k 0)) =
      (List.range (min (etCount (mET s.t.mode)) (etCount b))).map (convRes s a b l) := by
    refine List.map_congr_left fun k hk => ?_
    rw [getD_elems _ (lt_min_iff.1 (List.mem_range.1 hk)).1, h.rc]
    rfl
  refine ⟨_, _, rfl, by rw [h.actLanes], fun _ => rfl, fun l => ?_, fun l => ?_⟩
  · dsimp only
    rw [hes, List.map_map, packed, ← packElems_range_min]
    rfl
  · dsimp only
    rw [hes, List.any_map]
    rfl

/-! ### CVTXM and CBDEC (R237, R239) -/

theorem execCvtxm_finishes :
    s.Finishes (.cvtxm d a b) true d 1 (fun l => [scaledRes s a b l % 2 ^ 32]) 1 fun l _ => Fmt.fp32.nonFinite (scaledRes s a b l) :=
  h.finishesOne (i := .cvtxm d a b) (fun l => by rw [h.rv, h.rv]; rfl) rfl rfl

theorem execCbdec_finishes : s.Finishes (.cbdec d a b) true d 8
    (fun l => (List.range 8).map fun r => weightRes s a b l (2 * r) + 2 ^ 16 * weightRes s a b l (2 * r + 1)) 16
    fun l m => Fmt.bf16.nonFinite (weightRes s a b l m) := by
  have hlt (l m : Nat) : weightRes s a b l m < 2 ^ 16 := Fmt.round_lt rfl (by decide) _ _
  refine ⟨_, _, rfl, by rw [h.actLanes], fun _ => rfl, fun l => ?_, fun l => ?_⟩
  · simp only [h.rv]
    rfl
  · have hpair (x y : Nat) (hx : x < 2 ^ 16) : (x + 2 ^ 16 * y) % 2 ^ 16 = x ∧ (x + 2 ^ 16 * y) / 2 ^ 16 = y :=
      ⟨(Nat.add_mul_mod_self_left x _ y).trans (Nat.mod_eq_of_lt hx),
        (Nat.add_mul_div_left x y (by decide)).trans (by rw [Nat.div_eq_of_lt hx, Nat.zero_add])⟩
    have hw (m : Nat) : Fmt.bf16.round (s.rmAt s.srTab l (m % 2))
        (cbWeight (elemOf 16 (m / 8) (s.vReg a l).toNat) ((s.vReg b l).toNat % 256) (m % 8)) = weightRes s a b l m := rfl
    simp only [h.rv, hw, List.any_map, Function.comp_def, (hpair _ _ (hlt l _)).1, (hpair _ _ (hlt l _)).2]
    exact any_range_pairs 8 fun m => Fmt.bf16.nonFinite (weightRes s a b l m)

end

/-! ### VPACK (R238) -/

/-- An effect that writes one word in every active lane of v_d. -/
theorem State.Clear.exec_word {s : State} (h : s.Clear) {i : Instr} (hc : s.checks i = none) {d : Nat} {f : Nat → Word}
    {body : State → State} (ho : exec i s = .next (Machine.issue i s body))
    (hb : body s = (s.wv d ((onLanes s).map fun l => (l, f l))).done i) :
    ∃ u, exec i s = .next u ∧ s.Past u i.nWords ∧ s.OnlyV u ∧ s.KeepsV u [d] ∧
      ∀ l, l < 1024 → u.vReg d l = if s.laneOn l then f l else s.vReg d l := by
  obtain ⟨u, hexec, hpast, hfr, hs, hv⟩ := h.exec_vregs hc (rounds := false) ho hb rfl
  have hreg (k l : Nat) (hl : l < 1024) : u.vReg k l = if k = d ∧ l ∈ onLanes s then f l else s.vReg k l := by
    rw [State.vReg, hv]
    exact vReg_wv_map (fun _ => onLanes_lt) (onLanes_nodup s) hl s d k f
  refine ⟨u, hexec, hpast, hfr.onlyV hs, fun k l hl hk => ?_, fun l hl => ?_⟩
  · rw [hreg k l hl, if_neg fun hc => hk (List.mem_singleton.2 hc.1)]
  · simp only [hreg d l hl, mem_onLanes, true_and]

theorem execVpack_writes {s : State} (h : s.Clear) {d a b : Nat} (hc : s.checks (.vpack d a b) = none) :
    ∃ u, exec (.vpack d a b) s = .next u ∧ s.Past u 1 ∧ s.OnlyV u ∧ s.KeepsV u [d] ∧ ∀ l, l < 1024 → u.vReg d l =
      if s.laneOn l then BitVec.ofNat 32 (packElems (etWidth (mET s.t.mode)) ((elems (mET s.t.mode) (s.vReg d l).toNat).set
        ((s.vReg b l).toNat % 8 % etCount (mET s.t.mode)) (elemOf (etWidth (mET s.t.mode)) 0 (s.vReg a l).toNat)))
      else s.vReg d l :=
  h.exec_word (i := .vpack d a b) hc rfl (by simp only [h.actLanes, h.rv])

/-- Of a word made of its elements, with one replaced. -/
theorem elemOf_pack_set {et k j : Nat} (c x : Nat) (hp : etPair et = false) (hk : k < etCount et) :
    elemOf (etWidth et) k (BitVec.ofNat 32 (packElems (etWidth et) ((elems et c).set j x))).toNat =
      if k = j then x % 2 ^ etWidth et else elemOf (etWidth et) k c := by
  have hlen : (elems et c).length = etCount et := by simp [elems]
  have hlt := packElems_lt (etWidth et) ((elems et c).set j x)
  rw [List.length_set, hlen, etWidth_mul_etCount] at hlt
  have hle : 2 ^ (8 * etBytes et) ≤ 2 ^ 32 := Nat.pow_le_pow_right (by decide) (Nat.mul_le_mul_left 8 (etBytes_le_of_not_pair hp))
  rw [BitVec.toNat_ofNat, Nat.mod_eq_of_lt (Nat.lt_of_lt_of_le hlt hle), elemOf_packElems]
  by_cases hkj : k = j
  · subst hkj
    simp [List.getD_eq_getElem?_getD, hlen, hk]
  · have hold := getD_elems c hk
    rw [List.getD_eq_getElem?_getD] at hold
    rw [if_neg hkj, List.getD_eq_getElem?_getD, List.getElem?_set, if_neg (Ne.symm hkj), hold, Nat.mod_eq_of_lt (elemOf_lt _ _ _)]

/-! ### CVTMX (R129, R236) -/

/-- An instruction that its checks pass names its registers as its row demands (R162). -/
theorem alignOk_of_checks {s : State} {i : Instr} {r : Raw} (hr : i.raw = some r) (h : s.checks i = none) :
    alignOk s.t.mode r = true := by
  have hw := wf_of_checks h
  unfold State.checks at h
  rw [hw, hr] at h
  cases hf : formOf r.op with
  | none => simp [hf] at h
  | some f =>
    by_contra hno
    rw [Bool.not_eq_true] at hno
    simp [hf, hno] at h

/-- Its two destinations are not one register. -/
theorem cvtmx_ne {s : State} {d a b : Nat} (hc : s.checks (.cvtmx d a b) = none) : d ≠ b :=
  bne_iff_ne.1 (alignOk_of_checks (r := ⟨0x89, d, a, b, []⟩) rfl hc)

/-- A group's lanes hold an active one exactly where the group is run. -/
theorem groupWord_ne_zero {m : Lanes} {g : Nat} : groupWord m g ≠ 0 ↔ ∃ l, l / 32 = g ∧ m.getLsbD l = true := by
  have hbit (i : Nat) : (groupWord m g).testBit i = (decide (i < 32) && m.getLsbD (32 * g + i)) := by
    rw [groupWord, Nat.testBit_mod_two_pow, Nat.testBit_div_two_pow, Nat.add_comm]
    rfl
  constructor
  · intro hne
    obtain ⟨i, hi⟩ := Nat.exists_testBit_of_ne_zero hne
    rw [hbit, Bool.and_eq_true, decide_eq_true_eq] at hi
    exact ⟨32 * g + i, by omega, hi.2⟩
  · rintro ⟨l, rfl, hl⟩ hz
    have hb := hbit (l % 32)
    rw [hz, Nat.div_add_mod, hl, Nat.zero_testBit] at hb
    simp [Nat.mod_lt] at hb

/-- The active lanes of a group, the block of their values, and the element that a lane of the group gets. -/
def mxLanes (s : State) (g : Nat) : List Nat := (List.range s.t.lanes).filter fun n => s.laneOn n && n / 32 == g
def mxBlk (s : State) (a g : Nat) : Nat × List Nat × Bool :=
  mxBlock (mET s.t.mode) ((mxLanes s g).map fun n => (Fmt.fp32.decZ (mFTZ s.t.mode) (s.vReg a n).toNat, s.rmAt s.srTab n 0))
def mxElem (s : State) (a l : Nat) : Nat :=
  match (List.zip (mxLanes s (l / 32)) (mxBlk s a (l / 32)).2.1).find? fun p => p.1 == l with
  | some p => p.2 | none => 0

/-- The groups that run, their present lanes, and the active lanes whose input is NaN or infinite. -/
def mxGroups (s : State) : List Nat := (List.range s.t.ngroups).filter fun g => groupWord s.active g != 0
def mxPresent (s : State) : List Nat := (mxGroups s).flatMap fun g => (List.range s.t.lanes).filter fun l => l / 32 == g
def mxBads (s : State) (a : Nat) : List Nat :=
  (mxGroups s).flatMap fun g => (mxLanes s g).filter fun l => Fmt.fp32.nonFinite (s.vReg a l).toNat

theorem mem_mxGroups {s : State} (h : s.Clear) {g : Nat} : g ∈ mxGroups s ↔ ∃ l, l / 32 = g ∧ s.laneOn l = true := by
  have hact (l : Nat) : s.active.getLsbD l = true ↔ s.laneOn l = true := by
    by_cases hl : l < 1024
    · rw [h.getLsbD_active hl]
    · exact ⟨fun hon => absurd (BitVec.lt_of_getLsbD hon) hl, fun hon => absurd (laneOn_lt hon) hl⟩
  have hlanes {l : Nat} (hon : s.laneOn l = true) : l / 32 < s.t.ngroups := by
    have hl := List.mem_range.1 (List.mem_filter.1 (mem_onLanes.2 hon)).1
    unfold Team.ngroups
    omega
  rw [mxGroups, List.mem_filter, List.mem_range, bne_iff_ne, groupWord_ne_zero]
  simp only [hact]
  refine ⟨fun hg => hg.2, fun hg => ⟨?_, hg⟩⟩
  obtain ⟨l, rfl, hon⟩ := hg
  exact hlanes hon

theorem mem_mxLanes {s : State} {g l : Nat} : l ∈ mxLanes s g ↔ s.laneOn l = true ∧ l / 32 = g := by
  rw [mxLanes, List.mem_filter, Bool.and_eq_true, beq_iff_eq]
  exact ⟨fun hl => hl.2, fun hl => ⟨(List.mem_filter.1 (mem_onLanes.2 hl.1)).1, hl⟩⟩

theorem mxLanes_eq_nil {s : State} (h : s.Clear) {g : Nat} : mxLanes s g = [] ↔ g ∉ mxGroups s := by
  rw [mem_mxGroups h, List.eq_nil_iff_forall_not_mem]
  simp only [mem_mxLanes]
  exact ⟨fun hno ⟨l, hg, hon⟩ => hno l ⟨hon, hg⟩, fun hno l hl => hno ⟨l, hl.2, hl.1⟩⟩

theorem mem_mxPresent {s : State} {l : Nat} : l ∈ mxPresent s ↔ l < s.t.lanes ∧ l / 32 ∈ mxGroups s := by
  simp only [mxPresent, List.mem_flatMap, List.mem_filter, List.mem_range, beq_iff_eq]
  exact ⟨fun ⟨g, hg, hl, e⟩ => ⟨hl, e ▸ hg⟩, fun ⟨hl, hg⟩ => ⟨_, hg, hl, rfl⟩⟩

theorem mxPresent_lt {s : State} (h : s.Clear) {l : Nat} (hl : l ∈ mxPresent s) : l < 1024 := by
  obtain ⟨k, hk, hon⟩ := (mem_mxGroups h).1 (mem_mxPresent.1 hl).2
  have := laneOn_lt hon
  omega

theorem mxPresent_nodup (s : State) : (mxPresent s).Nodup := by
  refine List.nodup_flatMap.2 ⟨fun g _ => List.nodup_range.filter _, ?_⟩
  refine List.Pairwise.imp (fun {g k} hne l hg hk => hne ?_) (List.nodup_range.filter _)
  rw [List.mem_filter, beq_iff_eq] at hg hk
  rw [← hg.2, ← hk.2]

theorem mem_mxBads {s : State} (h : s.Clear) {a l : Nat} :
    l ∈ mxBads s a ↔ s.laneOn l = true ∧ Fmt.fp32.nonFinite (s.vReg a l).toNat = true := by
  simp only [mxBads, List.mem_flatMap, List.mem_filter, mem_mxLanes, mem_mxGroups h]
  exact ⟨fun ⟨g, _, ⟨hon, _⟩, hb⟩ => ⟨hon, hb⟩, fun ⟨hon, hb⟩ => ⟨l / 32, ⟨l, rfl, hon⟩, ⟨hon, rfl⟩, hb⟩⟩

/-- Flushing makes no NaN and no infinity, and hides none. -/
theorem decZ_isFin (f : Fmt) (ftz : Bool) (w : Nat) : (∃ n m e st, f.decZ ftz w = .fin n m e st) ↔ f.nonFinite w = false := by
  have hdec : (∃ n m e st, f.dec w = .fin n m e st) ↔ f.nonFinite w = false := by
    unfold Fmt.nonFinite
    cases f.dec w <;> simp
  unfold Fmt.decZ
  split
  · next hz =>
    simp only [Bool.and_eq_true, beq_iff_eq] at hz
    have hd : f.dec w = .fin (w / 2 ^ (f.exp + f.man) % 2 == 1) (w % 2 ^ f.man) f.qmin false := if_pos hz.2
    exact ⟨fun _ => hdec.1 ⟨_, _, _, _, hd⟩, fun _ => ⟨_, _, _, _, rfl⟩⟩
  · exact hdec

theorem filterMap_zip_map {α β : Type} (ls : List α) (v : α → β) {f : α × β → Option α} {p : α → Bool}
    (hf : ∀ l, f (l, v l) = if p l then some l else none) : (List.zip ls (ls.map v)).filterMap f = ls.filter p := by
  induction ls with
  | nil => rfl
  | cons x r ih =>
    rw [List.map_cons, List.zip_cons_cons, List.filterMap_cons, hf, ih, List.filter_cons]
    cases p x <;> rfl

/-- The effect of CVTMX: the trap of the lanes bads, or the words ds and bs in v_d and v_b. -/
def mxEffect (s : State) (d a b : Nat) (bads : List Nat) (ds bs : List (Nat × Word)) : State :=
  if mNFT s.t.mode && !bads.isEmpty then
    (s.srStep true).raiseLanes (bads.map fun l => ⟨l, 10, [0, 0xFF].getD (s.freeNat (fk 40 l) % 2) 0⟩)
  else (((s.srStep true).wv d ds).wv b bs).done (.cvtmx d a b)

theorem execCvtmx_effect {s : State} (h : s.Clear) (d a b : Nat) : ∃ body,
    exec (.cvtmx d a b) s = .next (Machine.issue (.cvtmx d a b) s body) ∧
    body s = mxEffect s d a b (mxBads s a) ((mxPresent s).map fun l => (l, BitVec.ofNat 32 (mxElem s a l)))
      ((mxPresent s).map fun l => (l, BitVec.ofNat 32 (mxBlk s a (l / 32)).1)) := by
  have hls (g : Nat) : (s.actLanes.filter fun l => l / 32 == g) = mxLanes s g := by
    rw [h.actLanes, onLanes, List.filter_filter]
    exact List.filter_congr fun l _ => Bool.and_comm _ _
  have hcongr {bads ds bs bads' ds' bs'} (h1 : bads = bads') (h2 : ds = ds') (h3 : bs = bs') :
      mxEffect s d a b bads ds bs = mxEffect s d a b bads' ds' bs' := by rw [h1, h2, h3]
  have hpresent {f : Nat → Nat → Word} {F : Nat → Word} (hf : ∀ l, f (l / 32) l = F l) :
      ((mxGroups s).flatMap fun g => ((List.range s.t.lanes).filter fun l => l / 32 == g).map fun l => (l, f g l)) =
        (mxPresent s).map fun l => (l, F l) := by
    rw [mxPresent, List.map_flatMap]
    refine congrArg (List.flatMap · _) (funext fun g => List.map_congr_left fun l hl => ?_)
    obtain rfl := beq_iff_eq.1 (List.mem_filter.1 hl).2
    rw [hf]
  refine ⟨_, rfl, hcongr ?_ ?_ ?_⟩
  · simp only [hls, h.rv]
    rw [List.flatMap_map, mxBads]
    refine congrArg (List.flatMap · _) (funext fun g => filterMap_zip_map _ _ fun l => ?_)
    have hfin := decZ_isFin .fp32 (mFTZ s.t.mode) (s.vReg a l).toNat
    cases hd : Fmt.fp32.decZ (mFTZ s.t.mode) (s.vReg a l).toNat with
    | fin n m e st => rw [hfin.1 ⟨n, m, e, st, hd⟩]; rfl
    | _ =>
      have hbad : Fmt.fp32.nonFinite (s.vReg a l).toNat = true :=
        Bool.eq_true_of_not_eq_false fun hno => by simpa [hd] using hfin.2 hno
      rw [hbad]; rfl
  · simp only [hls, h.rv]
    rw [List.flatMap_map]
    exact hpresent fun l => rfl
  · simp only [hls, h.rv]
    rw [List.flatMap_map]
    exact hpresent fun l => rfl

/-- What CVTMX leaves where nothing is held back. -/
theorem execCvtmx_writes {s : State} (h : s.Clear) {d a b : Nat} (hc : s.checks (.cvtmx d a b) = none)
    (hb : noHold s 1 fun l _ => Fmt.fp32.nonFinite (s.vReg a l).toNat) :
    ∃ u, exec (.cvtmx d a b) s = .next u ∧ s.Past u 1 ∧ s.KeepsV u [d, b] ∧ s.OnlyVG u ∧
      ∀ l, l < 1024 →
        u.vReg d l = (if l ∈ mxPresent s then BitVec.ofNat 32 (mxElem s a l) else s.vReg d l) ∧
        u.vReg b l = (if l ∈ mxPresent s then BitVec.ofNat 32 (mxBlk s a (l / 32)).1 else s.vReg b l) := by
  obtain ⟨body, ho, hbody⟩ := execCvtmx_effect h d a b
  have hno : (mNFT s.t.mode && !(mxBads s a).isEmpty) = false := by
    rcases hb with hb | hb
    · rw [hb]; rfl
    · have hnil : mxBads s a = [] := List.eq_nil_iff_forall_not_mem.2 fun l hl => by
        obtain ⟨hon, hbad⟩ := (mem_mxBads h).1 hl
        exact absurd hbad (Bool.eq_false_iff.1 (hb l 0 (laneOn_lt hon) hon Nat.one_pos))
      simp [hnil]
  rw [mxEffect, hno, if_neg Bool.false_ne_true] at hbody
  obtain ⟨u, hexec, hpast, hfr, -, hv⟩ := h.exec_vregs hc (rounds := true) ho hbody rfl
  have hreg (k l : Nat) (hl : l < 1024) : u.vReg k l = if k = b ∧ l ∈ mxPresent s then BitVec.ofNat 32 (mxBlk s a (l / 32)).1
      else if k = d ∧ l ∈ mxPresent s then BitVec.ofNat 32 (mxElem s a l) else s.vReg k l := by
    have hs : (s.srStep true).vReg k l = s.vReg k l := by rw [srStep_eq]; rfl
    have hlt (l : Nat) : l ∈ mxPresent s → l < 1024 := mxPresent_lt h
    rw [State.vReg, hv]
    exact (vReg_wv_map hlt (mxPresent_nodup s) hl _ b k _).trans (by rw [vReg_wv_map hlt (mxPresent_nodup s) hl, hs])
  have hne := cvtmx_ne hc
  refine ⟨u, hexec, hpast, fun k l hl hk => ?_, hfr, fun l hl => ⟨?_, ?_⟩⟩
  · obtain ⟨hd, hb⟩ : k ≠ d ∧ k ≠ b := by simpa using hk
    rw [hreg k l hl, if_neg fun hc => hb hc.1, if_neg fun hc => hd hc.1]
  · rw [hreg d l hl, if_neg fun hc => hne hc.1]
    simp only [true_and]
  · rw [hreg b l hl]
    by_cases hl : l ∈ mxPresent s
    · rw [if_pos ⟨rfl, hl⟩, if_pos hl]
    · rw [if_neg fun hc => hl hc.2, if_neg fun hc => hl hc.2, if_neg hl]

end Sys2Proof.Machine

open Sys2Proof Sys2Proof.Machine Sys2Proof.Claims

/-- Settles O24: CVT, CVTXM and CBDEC finish with a result for each lane (`State.Finishes`), VPACK writes a word in each, and CVTMX the
present lanes of the groups that run. -/
theorem conversions : Obligations.Conversions := by
  unfold Obligations.Conversions
  refine ⟨fun d a b s h => ⟨fun hc hb => ?_, fun hc hb => ?_, fun hc hb => ?_, fun hc => ?_⟩, fun d a b s h hc hb => ?_⟩
  · obtain ⟨u, hexec, p⟩ := (execCvt_finishes h d a b).packs h hc rfl hb
    refine ⟨u, hexec, p.past, p.keeps, p.frame, fun l hl => ⟨fun hon k hk => (p.elem hl hon hk).trans ?_, p.off l hl⟩⟩
    split
    · rfl
    · exact Nat.zero_mod _
  · obtain ⟨u, hexec, p⟩ := (execCvtxm_finishes h d a b).fills h hc rfl hb fun _ => rfl
    refine ⟨u, hexec, p.past, p.keeps, p.frame, fun l hl => ?_⟩
    rw [show u.vReg d l = _ from p.reg l 0 hl Nat.one_pos]
    split
    · simp
    · rfl
  · obtain ⟨u, hexec, p⟩ := (execCbdec_finishes h d a b).fills h hc rfl hb fun _ => by simp
    refine ⟨u, hexec, p.past, p.keeps, p.frame, fun l r hl hr => ?_⟩
    rw [p.reg l r hl hr, getD_map_range _ 0 hr]
    split
    · exact BitVec.toNat_ofNat _ _
    · rfl
  · obtain ⟨u, hexec, hpast, hv, hkeep, hreg⟩ := execVpack_writes h hc
    refine ⟨u, hexec, hpast, hv, hkeep, fun l hl => ⟨fun hon k hk hp => ?_, fun hoff => ?_⟩⟩
    · rw [hreg l hl, if_pos hon, elemOf_pack_set _ _ hp hk, Nat.mod_eq_of_lt (elemOf_lt _ _ _)]
      simp [elemOf]
    · rw [hreg l hl, if_neg (by rw [hoff]; exact Bool.false_ne_true)]
  · obtain ⟨u, hexec, hpast, hkeep, hfr, hreg⟩ := execCvtmx_writes h hc hb
    refine ⟨u, hexec, hpast, hkeep, hfr, fun l hlanes hl => ?_⟩
    obtain ⟨hd, hb⟩ := hreg l hl
    have hmem : l ∈ mxPresent s ↔ mxLanes s (l / 32) ≠ [] := by
      rw [ne_eq, mxLanes_eq_nil h, not_not, mem_mxPresent]
      exact and_iff_right hlanes
    refine ⟨fun hnil => ?_, fun hne => ?_⟩
    · have hno := mt hmem.1 (not_not.2 hnil)
      exact ⟨hd.trans (if_neg hno), hb.trans (if_neg hno)⟩
    · rw [if_pos (hmem.2 hne)] at hd hb
      rw [hd, hb]
      refine ⟨BitVec.toNat_ofNat _ _, ?_⟩
      unfold mxElem mxBlk mxLanes
      cases List.find? _ _ <;> simp

end

section
/-! ## SCAN and REDV (R134, R135, R242) -/

namespace Sys2Proof.Machine
open Sys2Proof Sys2Proof.Claims

/-- Whether a fold of some element position is NaN or infinite, as the tree's instructions ask it. -/
theorem any_badElem (et : Nat) (es : List (Option Nat)) :
    (match etFmt et with
      | some f => es.any fun x => match x with | some v => f.nonFinite v | none => false
      | none => false) = es.any fun x => x.any (badElem et) := by
  unfold badElem
  cases etFmt et with
  | none =>
    refine (List.any_eq_false.2 fun x _ => ?_).symm
    cases x <;> simp
  | some f =>
    refine congrArg es.any (funext fun x => ?_)
    cases x <;> rfl

section
variable {s : State} (h : s.Clear) (d a b : Nat)
include h

theorem execScan_finishes : s.Finishes (.scan d a b) (etFmt (mET s.t.mode)).isSome d (etRegs (mET s.t.mode))
    (fun l => contVals (mET s.t.mode) (packed (mET s.t.mode) fun k =>
      (scanFold s a b l k).getD (redIdentity (mET s.t.mode) (b % 8))))
    (etCount (mET s.t.mode)) fun l k => (scanFold s a b l k).any (badElem (mET s.t.mode)) := by
  have hes (l : Nat) : (List.range (etCount (mET s.t.mode))).map (fun e =>
      redFold (redComb (mET s.t.mode) (b % 8) (rmOf s.t.mode (srValue s.srLast (l + e))))
        (((List.range (etCount (mET s.t.mode))).map fun e => s.redTreeOf (mET s.t.mode) (b % 8) a e).getD e [])
        (if 8 ≤ b then l else l + 1) 11 0 none) = (List.range (etCount (mET s.t.mode))).map (scanFold s a b l) := by
    refine List.map_congr_left fun k hk => ?_
    rw [getD_map_range _ [] (List.mem_range.1 hk)]
    rfl
  refine ⟨_, _, rfl, by rw [h.actLanes], fun _ => rfl, fun l => ?_, fun l => ?_⟩
  · dsimp only
    rw [hes, List.map_map]
    rfl
  · refine (any_badElem _ _).trans ?_
    rw [hes, List.any_map]
    rfl

end

theorem etBytes_le (et : Nat) : etBytes et ≤ 8 := by
  cases hp : etPair et with
  | true => exact Nat.le_of_eq (etBytes_of_pair hp)
  | false => exact Nat.le_trans (etBytes_le_of_not_pair hp) (by decide)

/-- The word of REDV's roots, and whether one of them raises. -/
def redWord (s : State) (a b : Nat) : Nat :=
  packed (mET s.t.mode) fun k => (redRoot s a b k).getD (redIdentity (mET s.t.mode) b)
def redBad (s : State) (a b : Nat) : Bool :=
  (List.range (etCount (mET s.t.mode))).any fun k => (redRoot s a b k).any (badElem (mET s.t.mode))

/-- The effect of REDV: none without a pass; else the trap of the lowest active lane, or the word in s_d. -/
def redvEffect (s : State) (d a b : Nat) (bad : Bool) (c : Nat) : State :=
  if s.t.passes.isEmpty then s.done (.redv d a b)
  else if mNFT s.t.mode && bad then (s.srStep (etFmt (mET s.t.mode)).isSome).raiseLanes [⟨s.actLanes.headD 0, 10, c⟩]
  else ((s.srStep (etFmt (mET s.t.mode)).isSome).ws d (BitVec.ofNat 64 c)).done (.redv d a b)

theorem execRedv_effect (s : State) (d a b : Nat) : ∃ body,
    exec (.redv d a b) s = .next (Machine.issue (.redv d a b) s body) ∧
    body s = redvEffect s d a b (redBad s a b) (redWord s a b) := by
  have hcongr {bad c bad' c'} (h1 : bad = bad') (h2 : c = c') : redvEffect s d a b bad c = redvEffect s d a b bad' c' := by
    rw [h1, h2]
  refine ⟨_, rfl, hcongr ?_ ?_⟩
  · refine (any_badElem _ _).trans ?_
    simp only [List.any_map, Function.comp_def, redBad, redRoot]
  · simp only [List.map_map, Function.comp_def, redWord, packed, redRoot]

/-- An effect that writes the scalar registers, and advances the generator where it rounds. -/
theorem State.Clear.exec_sregs {s w : State} (h : s.Clear) {i : Instr} (hc : s.checks i = none) {rounds : Bool}
    {body : State → State} (ho : exec i s = .next (Machine.issue i s body)) (hb : body s = w.done i)
    (hw : w = { s.srStep rounds with t := { (s.srStep rounds).t with s := w.t.s } }) :
    ∃ u, exec i s = .next u ∧ s.Past u i.nWords ∧
      u = { s with t := { s.t.placeOf u.t with s := u.t.s, srng := u.t.srng } } ∧ u.t.s = w.t.s := by
  rw [srStep_eq] at hw
  have hst : s.Stays w := by
    rw [hw]
    exact ⟨rfl, rfl, rfl, rfl, rfl⟩
  obtain ⟨u, hexec, g⟩ := h.exec_goes hc ho hb hst
  obtain ⟨-, -, -, hs, -⟩ := g.kept
  have hi := g.infl_nil (by rw [hw]; exact h.infl)
  have hf := g.frame
  generalize hy : w.t.s = y at hw
  rw [hi, ← h.infl, hw] at hf
  exact ⟨u, hexec, g.past, by rw [hf]; rfl, hs.trans hy⟩

end Sys2Proof.Machine

open Sys2Proof Sys2Proof.Machine Sys2Proof.Claims

/-- Settles O25: SCAN finishes with the folds of each lane (`execScan_finishes`), and REDV's effect is one of three
(`execRedv_effect`). -/
theorem scanAndRedv : Obligations.ScanAndRedv := by
  unfold Obligations.ScanAndRedv
  intro d a b s h et
  refine ⟨fun hc hb => ?_, fun hc hb => ?_⟩
  · obtain ⟨u, hexec, p⟩ := (execScan_finishes h d a b).packs h hc rfl hb
    exact ⟨u, hexec, p.past, p.keeps, p.frame, fun l hl => ⟨fun hon k hk => p.elem hl hon hk, p.off l hl⟩⟩
  · obtain ⟨body, ho, hbody⟩ := execRedv_effect s d a b
    unfold redvEffect at hbody
    by_cases hp : s.t.passes = []
    · rw [hp] at hbody
      obtain ⟨u, hexec, hpast, hfr, hs⟩ := h.exec_sregs hc (rounds := false) ho hbody rfl
      exact ⟨u, hexec, hpast, fun n _ => congrArg (sget 0 n) hs, hfr, fun _ => congrArg (sget 0 d) hs, fun hne => absurd hp hne⟩
    · have hno : (mNFT s.t.mode && redBad s a b) = false := by
        rcases hb with hb | hb | hb
        · rw [hb]; rfl
        · exact absurd hb hp
        · have hbad : redBad s a b = false := List.any_eq_false.2 fun k hk => by
            rw [hb k (List.mem_range.1 hk)]; exact Bool.false_ne_true
          rw [hbad, Bool.and_false]
      rw [if_neg (by simpa using hp), hno, if_neg Bool.false_ne_true] at hbody
      obtain ⟨u, hexec, hpast, hfr, hs⟩ := h.exec_sregs hc (rounds := (etFmt (mET s.t.mode)).isSome) ho hbody rfl
      have hreg (n : Nat) : u.sReg n = sget 0 n (sput 0 d (BitVec.ofNat 64 (redWord s a b)) s.t.s) := by
        have hst : (s.srStep (etFmt (mET s.t.mode)).isSome).t.s = s.t.s := by rw [srStep_eq]
        rw [State.sReg, hs, ← hst]
        rfl
      refine ⟨u, hexec, hpast, fun n hn => ?_, hfr, fun hnil => absurd hnil hp, fun _ k hk => ?_⟩
      · rw [hreg, sget_sput_ne _ fun e => hn (List.mem_singleton.2 e)]
        rfl
      · have hlt : redWord s a b < 2 ^ 64 := Nat.lt_of_lt_of_le (packed_lt _ _)
          (Nat.pow_le_pow_right (by decide) (Nat.mul_le_mul_left 8 (etBytes_le (mET s.t.mode))))
        rw [hreg, sget_sput_self, BitVec.toNat_ofNat, Nat.mod_eq_of_lt hlt]
        exact elemOf_packed _ hk

end

section
/-! ## The Non-Finite hold (R126) -/

namespace Sys2Proof.Machine
open Sys2Proof Sys2Proof.Claims

/-- What a trap, taken or put off, leaves of the team: its registers. -/
theorem decide_registers (s : State) (l : List Dec) :
    (s.decide l).t.v = s.t.v ∧ (s.decide l).t.s = s.t.s ∧ (s.decide l).t.p = s.t.p := by
  have htrap (u : State) : u.takeTrap.t.v = u.t.v ∧ u.takeTrap.t.s = u.t.s ∧ u.takeTrap.t.p = u.t.p := by
    rcases takeTrap_cases u with ⟨-, e⟩ | ⟨w, -, ⟨-, -, e⟩ | ⟨-, -, e⟩ | ⟨-, -, a, -, e⟩⟩
    · rw [e]; exact ⟨rfl, rfl, rfl⟩
    · rw [e, endCtx_frame]; exact ⟨rfl, rfl, rfl⟩
    · rw [e, endCtx_frame]; exact ⟨rfl, rfl, rfl⟩
    · rw [e]; exact ⟨rfl, rfl, rfl⟩
  cases l with
  | nil => exact ⟨rfl, rfl, rfl⟩
  | cons d r =>
    simp only [State.decide, State.tryTrap]
    split
    · exact htrap _
    · exact ⟨rfl, rfl, rfl⟩

/-- The word that names lane i (R207). -/
theorem toNat_tlaneWord_lane (i : Nat) : (tlaneWord 1 0 i).toNat = 2 ^ 30 + i % 1024 := by
  rw [tlaneWord, BitVec.toNat_ofNat]
  omega

theorem lane_of_tlane {x i : Nat} (h : x = 2 ^ 30 + i % 1024) : x / 2 ^ 30 = 1 ∧ x % 1024 = i % 1024 := by omega

/-- What an instruction leaves that is held back for the lanes of cs: every register and all memory as before, and with traps enabled
the Non-Finite trap of the lowest of those lanes. -/
theorem State.Clear.exec_held {s : State} (h : s.Clear) {i : Instr} (hc : s.checks i = none) {rounds : Bool} {cs : List LaneCause}
    {body : State → State} (ho : exec i s = .next (Machine.issue i s body)) (hb : body s = (s.srStep rounds).raiseLanes cs)
    (hne : cs ≠ []) (hten : ∀ x ∈ cs, x.cause = 10) (hpend : s.t.pendB = []) :
    ∃ u, exec i s = .next u ∧ u.t.v = s.t.v ∧ u.t.s = s.t.s ∧ u.t.p = s.t.p ∧ u.mem = s.mem ∧
      (s.t.hnd = false → s.t.tvec.toNat % 2 = 1 → u.t.tcause = 0x8000000A ∧ u.t.tepc = s.t.pc &&& ~~~(3#64) ∧
        ∃ x ∈ cs, (∀ y ∈ cs, x.lane ≤ y.lane) ∧ u.t.tlane.toNat = 2 ^ 30 + x.lane % 1024) := by
  have hk : (s.srStep rounds).Clear := by
    rw [srStep_eq]
    exact h.of_parts rfl rfl rfl rfl rfl rfl rfl rfl
  have hord : ((s.srStep rounds).raiseLanes cs).t.ord = s.t.ord := (decide_ord _ _).trans (by rw [srStep_eq])
  obtain ⟨hv, hs, hp⟩ := decide_registers (s.srStep rounds) (laneDecs 1 0 cs (s.srStep rounds).t.pc (s.srStep rounds).t.cl
    (s.srStep rounds).t.ord)
  refine ⟨_, h.exec_stays hc ho hb hord, hv.trans (by rw [srStep_eq]), hs.trans (by rw [srStep_eq]), hp.trans (by rw [srStep_eq]),
    ?_, fun hhnd htvec => ?_⟩
  · rw [State.raiseLanes_mem, srStep_eq]
  · have htr : (s.srStep rounds).t.Traps := by
      rw [srStep_eq]
      exact ⟨hpend, hhnd, htvec⟩
    obtain ⟨y, hy⟩ := List.exists_mem_of_ne_nil cs hne
    obtain ⟨d, hd, -⟩ := exists_mem_laneDecs (kind := 1) (tile := 0) (tepc := (s.srStep rounds).t.pc)
      (cl := (s.srStep rounds).t.cl) (ord := (s.srStep rounds).t.ord) hy (by rw [hten y hy]; decide)
    obtain ⟨w, hw, -, henters⟩ := hk.decide_enters rfl htr (List.ne_nil_of_mem hd) fun d hd => by
      obtain ⟨x, -, rfl, -⟩ := mem_laneDecs hd
      rfl
    obtain ⟨x, hx, rfl, hlow⟩ := mem_laneDecs hw
    obtain ⟨hcause, hlane, hpc, -, -⟩ := henters
    refine ⟨?_, ?_, x, hx, fun y hy => hlow y hy ((hten y hy).trans (hten x hx).symm), ?_⟩
    · rw [hten x hx] at hcause
      exact hcause
    · have hpc0 : (s.srStep rounds).t.pc = s.t.pc := by rw [srStep_eq]
      exact hpc.trans (congrArg (· &&& ~~~(3#64)) hpc0)
    · exact (congrArg BitVec.toNat hlane).trans (toNat_tlaneWord_lane _)

/-! ### The instructions that may be held back -/

/-- The causes cs are Non-Finite, of the active lanes with an element that raises. -/
structure Blames (s : State) (n : Nat) (bad : Nat → Nat → Bool) (cs : List LaneCause) : Prop where
  cause : ∀ x ∈ cs, x.cause = 10
  raised : ∀ x ∈ cs, s.laneOn x.lane = true ∧ ∃ j, j < n ∧ bad x.lane j = true
  all : ∀ l k, s.laneOn l = true → k < n → bad l k = true → ∃ x ∈ cs, x.lane = l

/-- With NFT set, the instruction raises for the lanes whose elements raise, where there are any. -/
def State.Holds (s : State) (i : Instr) (n : Nat) (bad : Nat → Nat → Bool) : Prop :=
  ∃ body rounds cs, exec i s = .next (Machine.issue i s body) ∧ Blames s n bad cs ∧
    (mNFT s.t.mode = true → cs ≠ [] → body s = (s.srStep rounds).raiseLanes cs)

theorem State.Finishes.holds {s : State} {i : Instr} {rounds : Bool} {d k n : Nat} {vals : Nat → List Nat} {bad : Nat → Nat → Bool}
    (hfin : s.Finishes i rounds d k vals n bad) : s.Holds i n bad := by
  obtain ⟨body, F, ho, hbody, hl, -, hbad⟩ := hfin
  have hany (l : Nat) : (F l).bad = true ↔ ∃ j, j < n ∧ bad l j = true := by
    rw [hbad, List.any_eq_true]
    simp only [List.mem_range]
  refine ⟨body, rounds, (((onLanes s).map F).filter fun o => o.bad).map fun o =>
    ⟨o.lane, 10, o.frec.getD ((s.srStep rounds).freeNat (fk 40 o.lane) % max 1 o.frec.length) 0⟩, ho, ⟨fun x hx => ?_, fun x hx => ?_,
      fun l j hon hj hb => ?_⟩, fun hnft hne => ?_⟩
  · obtain ⟨o, -, rfl⟩ := List.mem_map.1 hx
    rfl
  · obtain ⟨o, ho, rfl⟩ := List.mem_map.1 hx
    obtain ⟨ho, hraise⟩ := List.mem_filter.1 ho
    obtain ⟨l, hmem, rfl⟩ := List.mem_map.1 ho
    dsimp only
    rw [hl]
    exact ⟨mem_onLanes.1 hmem, (hany l).1 hraise⟩
  · refine ⟨_, List.mem_map.2 ⟨F l, List.mem_filter.2 ⟨List.mem_map.2 ⟨l, mem_onLanes.2 hon, rfl⟩, ?_⟩, rfl⟩, hl l⟩
    exact (hany l).2 ⟨j, hj, hb⟩
  · have hsome : (((onLanes s).map F).filter fun o => o.bad).isEmpty = false := by
      rw [List.isEmpty_eq_false_iff]
      exact fun hnil => hne (by rw [hnil]; rfl)
    rw [hbody, State.finishF, srStep_mode, hnft, hsome]
    rfl

/-- An instruction that its checks pass accepts the type of MODE (R219). -/
theorem et_of_checks {s : State} {i : Instr} {r : Raw} {l : List Nat} (hr : i.raw = some r) (hl : etAccepts r.op r.b = some l)
    (h : s.checks i = none) : mET s.t.mode ∈ l := by
  have hw := wf_of_checks h
  unfold State.checks at h
  rw [hw, hr] at h
  cases hf : formOf r.op with
  | none => simp [hf] at h
  | some f =>
    have hm : s.modeChk r = none := by
      simp only [hf] at h
      split_ifs at h
      exact h
    unfold State.modeChk at hm
    simp only [hl] at hm
    by_contra hno
    simp only [List.contains_eq_mem, hno, decide_false, Bool.not_false, if_true] at hm
    split_ifs at hm

section
variable {s : State} (h : s.Clear) (d a b : Nat)
include h

theorem execCvtmx_holds : s.Holds (.cvtmx d a b) 1 fun l _ => Fmt.fp32.nonFinite (s.vReg a l).toNat := by
  obtain ⟨body, ho, hbody⟩ := execCvtmx_effect h d a b
  refine ⟨body, true, (mxBads s a).map fun l => ⟨l, 10, [0, 0xFF].getD (s.freeNat (fk 40 l) % 2) 0⟩, ho, ⟨fun x hx => ?_,
    fun x hx => ?_, fun l k hon _ hb => ?_⟩, fun hnft hne => ?_⟩
  · obtain ⟨l, -, rfl⟩ := List.mem_map.1 hx
    rfl
  · obtain ⟨l, hl, rfl⟩ := List.mem_map.1 hx
    obtain ⟨hon, hb⟩ := (mem_mxBads h).1 hl
    exact ⟨hon, 0, Nat.one_pos, hb⟩
  · exact ⟨_, List.mem_map.2 ⟨l, (mem_mxBads h).2 ⟨hon, hb⟩, rfl⟩, rfl⟩
  · have hsome : (mxBads s a).isEmpty = false := by
      rw [List.isEmpty_eq_false_iff]
      exact fun hnil => hne (by rw [hnil]; rfl)
    rw [hbody, mxEffect, hnft, hsome]
    rfl

theorem execVfcopys_finishes : s.FinishesCont (.vfcopys d a b) false d (mET s.t.mode) (copyRes s a b) := by
  refine h.finishesCont (i := .vfcopys d a b) (fun l => ?_) rfl rfl
  have hsign (y : Nat) : (y / 2 ^ (etWidth (mET s.t.mode) - 1) % 2 == 1) = y.testBit (etWidth (mET s.t.mode) - 1) := by
    rw [Nat.testBit_eq_decide_div_mod_eq]
    rfl
  simp only [State.fins, elems, List.map_map, List.zipWith_map, List.zipWith_self, h.rc, hsign]
  rfl

theorem execVfdot2_finishes (hc : s.checks (.vfdot2 d a b) = none) : s.Finishes (.vfdot2 d a b) true d 1
    (fun l => [dotRes s d a b l % 2 ^ 32]) 1 fun l _ => Fmt.fp32.nonFinite (dotRes s d a b l) := by
  have htwo : etCount (mET s.t.mode) = 2 ∧ etPair (mET s.t.mode) = false := by
    have hmem := et_of_checks (r := ⟨0x76, d, a, b, []⟩) (l := [2, 3]) rfl rfl hc
    rcases List.mem_pair.1 hmem with e | e <;> rw [e] <;> exact ⟨rfl, rfl⟩
  obtain ⟨hcount, hpair⟩ := htwo
  have hcont (n l : Nat) : (s.rv n l).toNat = s.rc (mET s.t.mode) n l := by
    rw [h.rv, h.rc, State.cont, if_neg (by rw [hpair]; exact Bool.false_ne_true)]
  have hfins (n l : Nat) : s.fins (mET s.t.mode) (s.rv n l).toNat = [fltElem s n l 0, fltElem s n l 1] := by
    rw [← fltElem_eq h n l .nan (by omega), ← fltElem_eq h n l .nan (k := 1) (by omega), hcont]
    simp [State.fins, elems, hcount, List.range_succ]
  refine h.finishesOne (i := .vfdot2 d a b) (fun l => ?_) rfl rfl
  rw [hfins, hfins, h.rv]
  rfl

theorem lmv_finishes {n : Nat} {i : Instr} (ho : exec i s = .next (lmv i n d a b s)) (hin : matricesIn s n b) :
    ∃ vals, s.Finishes i true d n vals n fun l r => Fmt.fp32.nonFinite (lmvRow s n a b l r) := by
  have hcauses : ((onLanes s).flatMap fun l => cupCauses l 64 (4 * n * n) s.cupSize (s.vReg b l).toNat) = [] := by
    refine List.flatMap_eq_nil_iff.2 fun l hl => ?_
    obtain ⟨hal, hend⟩ := hin l (onLanes_lt hl) (mem_onLanes.1 hl)
    rw [cupCauses, if_neg (not_not.2 hal), if_neg (Nat.not_lt.2 hend)]
    rfl
  have hrow (l r : Nat) : Fmt.fp32.round (s.rmAt s.srTab l r) (Ex.sum (mRND s.t.mode) (List.zipWith Ex.mul
      ((List.range n).map fun j => Fmt.fp32.decZ (mFTZ s.t.mode) (s.cupNat ((s.vReg b l).toNat + 4 * (n * r + j)) 4))
      ((List.range n).map fun j => Fmt.fp32.decZ (mFTZ s.t.mode) (s.vReg (a + j) l).toNat))) = lmvRow s n a b l r := by
    rw [List.zipWith_map, List.zipWith_self]
    rfl
  refine ⟨fun l => (List.range n).map (lmvRow s n a b l), _, fun l => ⟨l, (List.range n).map (lmvRow s n a b l),
    ((List.range n).map (lmvRow s n a b l)).any Fmt.fp32.nonFinite,
    ((List.range n).map (lmvRow s n a b l)).filter Fmt.fp32.nonFinite⟩, ho, ?_, fun _ => rfl, fun _ => rfl, fun l => List.any_map⟩
  simp only [h.actLanes, h.rv, hcauses, hrow]
  rfl

end

/-- The hold of R126 acts on the instruction as its results o say, where LMV4 and LMV8 read whole matrices. -/
def State.HoldsOut (s : State) (i : Instr) (o : Nat × (Nat → Nat → Bool)) : Prop :=
  s.checks i = none → (∀ d a b, (i = .lmv4 d a b → matricesIn s 4 b) ∧ (i = .lmv8 d a b → matricesIn s 8 b)) → s.Holds i o.1 o.2

end Sys2Proof.Machine

end

section
/-! ## What an instruction does is what its results say: integer, floating-point and held-back results -/

namespace Sys2Proof.Machine
open Sys2Proof Sys2Proof.Claims

/-- The instruction does what its results say, of whichever family it is. -/
structure State.Answers (s : State) (i : Instr) : Prop where
  int : ∀ o, vintOut s i = some o → s.PacksInt i o
  flt : ∀ o, fltOut s i = some o → s.FinishesFlt i o
  held : ∀ o, heldOut s i = some o → s.HoldsOut i o

section
variable {s : State} {i : Instr}

theorem State.Answers.of_none (hv : vintOut s i = none) (hf : fltOut s i = none) (hh : heldOut s i = none) : s.Answers i :=
  ⟨fun o ho => (Option.some_ne_none o (ho.symm.trans hv)).elim, fun o ho => (Option.some_ne_none o (ho.symm.trans hf)).elim,
    fun o ho => (Option.some_ne_none o (ho.symm.trans hh)).elim⟩

theorem State.Answers.of_int {p : Nat × (Nat → Nat → Int × Bool)} (hv : vintOut s i = some p) (hf : fltOut s i = none)
    (hh : heldOut s i = none) (hp : s.PacksInt i p) : s.Answers i :=
  ⟨fun _ ho => Option.some.inj (hv.symm.trans ho) ▸ hp, fun o ho => (Option.some_ne_none o (ho.symm.trans hf)).elim,
    fun o ho => (Option.some_ne_none o (ho.symm.trans hh)).elim⟩

/-- A floating-point result that is not finite is held back. -/
theorem State.Answers.of_flt {p : Nat × (Nat → Nat → Ex) × Bool} (hv : vintOut s i = none) (hf : fltOut s i = some p)
    (hp : s.FinishesFlt i p) : s.Answers i := by
  refine ⟨fun o ho => (Option.some_ne_none o (ho.symm.trans hv)).elim, fun _ ho => Option.some.inj (hf.symm.trans ho) ▸ hp,
    fun o ho => ?_⟩
  unfold heldOut at ho
  rw [hf] at ho
  cases ho
  exact fun _ _ => State.Finishes.holds hp.2

theorem State.Answers.of_held {p : Nat × (Nat → Nat → Bool)} (hv : vintOut s i = none) (hf : fltOut s i = none)
    (hh : heldOut s i = some p) (hp : s.HoldsOut i p) : s.Answers i :=
  ⟨fun o ho => (Option.some_ne_none o (ho.symm.trans hv)).elim, fun o ho => (Option.some_ne_none o (ho.symm.trans hf)).elim,
    fun _ ho => Option.some.inj (hh.symm.trans ho) ▸ hp⟩

end

/-- Every instruction does what its results say (R126, R221 to R223, R229, R230, R233, R234). -/
theorem State.Clear.answers {s : State} (h : s.Clear) (i : Instr) : s.Answers i := by
  have hlt (n l k : Nat) : s.elem (mET s.t.mode) n l k < 2 ^ etWidth (mET s.t.mode) := elemOf_lt _ _ _
  have fit (et : Nat) (sat : Bool) (x : Int) : etFit et sat x % 2 ^ etWidth et = narrow et sat x := by
    rw [etFit_eq_narrow, narrow_mod]
  have wrap (et : Nat) (x : Int) : wrapN (etWidth et) x % 2 ^ etWidth et = narrow et false x := by
    rw [wrapN_eq_narrow, narrow_mod]
  have low {et n : Nat} {b : Bool} {x : Int} (e : n = narrow et b x) : n % 2 ^ etWidth et = narrow et b x := by rw [e, narrow_mod]
  have count {et n m : Nat} (e : n = m) : n % 2 ^ etWidth et = narrow et false m := by rw [e, narrow_natCast]
  cases i
  case vadd | vsub | vmul => exact .of_int rfl rfl rfl fun hc => vInt2_packs h hc rfl fun _ _ => fit _ _ _
  case vmulh => exact .of_int rfl rfl rfl fun hc => vInt2_packs h hc rfl fun _ _ => by push_cast; exact wrap _ _
  case vmad => exact .of_int rfl rfl rfl fun hc => execVmad_packs h hc
  case vdiv => exact .of_int rfl rfl rfl fun hc => vInt2_packs h hc rfl fun _ _ => low (vdivVal_narrow _ _ (hlt _ _ _))
  case vrem => exact .of_int rfl rfl rfl fun hc => vInt2_packs h hc rfl fun _ _ => low (vremVal_narrow (hlt _ _ _) (hlt _ _ _))
  case vmin => exact .of_int rfl rfl rfl fun hc => vInt2_packs h hc rfl fun _ _ => low (minVal_narrow (hlt _ _ _) (hlt _ _ _))
  case vmax => exact .of_int rfl rfl rfl fun hc => vInt2_packs h hc rfl fun _ _ => low (maxVal_narrow (hlt _ _ _) (hlt _ _ _))
  case vabsd => exact .of_int rfl rfl rfl fun hc => vInt2_packs h hc rfl fun _ _ => wrap _ _
  case vshl => exact .of_int rfl rfl rfl fun hc => vInt2_packs h hc rfl fun _ _ => low (shlVal_narrow _ _ _)
  case vshr => exact .of_int rfl rfl rfl fun hc => vInt2_packs h hc rfl fun _ _ => low (shrVal_narrow (hlt _ _ _) _)
  case vsar => exact .of_int rfl rfl rfl fun hc => vInt2_packs h hc rfl fun _ _ => low (sarVal_narrow (hlt _ _ _) _)
  case vrotl => exact .of_int rfl rfl rfl fun hc => vInt2_packs h hc rfl fun _ _ => rotlVal_narrow _ _ _
  case vaddi =>
    exact .of_int rfl rfl rfl fun hc => vInt1_packs h hc rfl fun _ _ => by rw [sgnOf_eq_toInt (by decide)]; exact fit _ _ _
  case vshli => exact .of_int rfl rfl rfl fun hc => vInt1_packs h hc rfl fun _ _ => low (shlVal_narrow _ _ _)
  case vshri => exact .of_int rfl rfl rfl fun hc => vInt1_packs h hc rfl fun _ _ => low (shrVal_narrow (hlt _ _ _) _)
  case vsari => exact .of_int rfl rfl rfl fun hc => vInt1_packs h hc rfl fun _ _ => low (sarVal_narrow (hlt _ _ _) _)
  case vneg | vabs => exact .of_int rfl rfl rfl fun hc => vInt1_packs h hc rfl fun _ _ => fit _ _ _
  case vclz => exact .of_int rfl rfl rfl fun hc => vInt1_packs h hc rfl fun _ _ => count (clzN_eq (hlt _ _ _))
  case vctz => exact .of_int rfl rfl rfl fun hc => vInt1_packs h hc rfl fun _ _ => count (ctzN_eq _ _)
  case vcnt => exact .of_int rfl rfl rfl fun hc => vInt1_packs h hc rfl fun _ _ => count (popN_eq _ _)
  case vbrev => exact .of_int rfl rfl rfl fun hc => vInt1_packs h hc rfl fun _ _ => count (brevN_eq _ _)
  case vsgn => exact .of_int rfl rfl rfl fun hc => vInt1_packs h hc rfl fun _ _ => wrap _ _
  case vfadd | vfsub | vfmul | vfma | vfms | vfnma | vfdiv | vfsqrt | vfmin | vfmax | vfabs | vfneg | vfrcp | vfrsq | vfexp2
    | vflog2 | vfsin | vfcos => exact .of_flt rfl rfl ⟨rfl, vFlt_finishes h rfl fun _ _ => rfl⟩
  case vfmull | vfaddl | vffmal => exact .of_flt rfl rfl ⟨rfl, vfLit_finishes h rfl fun _ _ => rfl⟩
  case vfldexp => exact .of_flt rfl rfl ⟨rfl, execVfldexp_finishes h⟩
  case vfrint => exact .of_flt rfl rfl ⟨rfl, execVfrint_finishes h⟩
  case vfcopys d a b => exact .of_held rfl rfl rfl fun _ _ => State.Finishes.holds (execVfcopys_finishes h d a b)
  case vfdot2 d a b => exact .of_held rfl rfl rfl fun hc _ => (execVfdot2_finishes h d a b hc).holds
  case cvt d a b => exact .of_held rfl rfl rfl fun _ _ => (execCvt_finishes h d a b).holds
  case cvtxm d a b => exact .of_held rfl rfl rfl fun _ _ => (execCvtxm_finishes h d a b).holds
  case cbdec d a b => exact .of_held rfl rfl rfl fun _ _ => (execCbdec_finishes h d a b).holds
  case cvtmx d a b => exact .of_held rfl rfl rfl fun _ _ => execCvtmx_holds h d a b
  case scan d a b => exact .of_held rfl rfl rfl fun _ _ => (execScan_finishes h d a b).holds
  case lmv4 d a b =>
    exact .of_held rfl rfl rfl fun _ hin => (lmv_finishes h d a b rfl ((hin d a b).1 rfl)).elim fun _ hfin => hfin.holds
  case lmv8 d a b =>
    exact .of_held rfl rfl rfl fun _ hin => (lmv_finishes h d a b rfl ((hin d a b).2 rfl)).elim fun _ hfin => hfin.holds
  all_goals exact .of_none rfl rfl rfl

end Sys2Proof.Machine

open Sys2Proof Sys2Proof.Machine Sys2Proof.Claims

/-- Settles O18: every form gives each active lane a container of exact results (`State.Clear.answers`), whose elements are read back
by `State.Packs.elem`. -/
theorem vectorIntegerResults : Obligations.VectorIntegerResults := by
  unfold Obligations.VectorIntegerResults
  intro i s d f h hc hf
  obtain ⟨u, hexec, p⟩ := (h.answers i).int _ hf hc
  exact ⟨u, hexec, p.past, p.onlyV, p.keeps, fun l hl =>
    ⟨fun hon k hk => (p.elem hl hon hk).trans (narrow_mod _ _ _), p.off l hl⟩⟩

/-- Settles O21: every floating-point form finishes with its rounded results (`State.Clear.answers`), and each lane that is not held
back gets the container of them. -/
theorem floatResults : Obligations.FloatResults := by
  unfold Obligations.FloatResults
  intro i s d f rounds h hc hf hb
  obtain ⟨ha, hfin⟩ := (h.answers i).flt _ hf
  obtain ⟨u, hexec, p⟩ := State.Finishes.packs hfin h hc ha hb
  exact ⟨u, hexec, p.past, p.keeps, p.frame, p.srng, fun l hl => ⟨fun hon k hk => p.elem hl hon hk, p.off l hl⟩⟩

/-- Settles O22: an instruction that may be held back raises for its active lanes whose elements raise (`State.Clear.answers`), REDV for the
lowest active lane, and the trap is of the lowest of them (`State.Clear.exec_held`). -/
theorem nonFiniteHeld : Obligations.NonFiniteHeld := by
  unfold Obligations.NonFiniteHeld
  refine ⟨fun i s n bad l k h hc hpend hnft ho _ hon hk hb hin => ?_, fun d a b k x s h hc hpend hnft hp hk hroot hb => ?_⟩
  · obtain ⟨body, rounds, cs, hexec, hcs, hbody⟩ := (h.answers i).held _ ho hc hin
    obtain ⟨y, hy, hyl⟩ := hcs.all l k hon hk hb
    have hne := List.ne_nil_of_mem hy
    obtain ⟨u, hexec, hv, hs, hpr, hmem, htrap⟩ := h.exec_held hc hexec (hbody hnft hne) hne hcs.cause hpend
    refine ⟨u, hexec, hv, hs, hpr, hmem, fun hhnd htvec => ?_⟩
    obtain ⟨hcause, htepc, z, hz, hlow, hlane⟩ := htrap hhnd htvec
    obtain ⟨hzon, hzbad⟩ := hcs.raised z hz
    obtain ⟨hkind, hzl⟩ := lane_of_tlane hlane
    rw [hzl, Nat.mod_eq_of_lt (laneOn_lt hzon)]
    exact ⟨hcause, htepc, hkind, hyl ▸ hlow y hy, hzon, hzbad⟩
  · obtain ⟨body, hexec, hbody⟩ := execRedv_effect s d a b
    have hbad : redBad s a b = true := List.any_eq_true.2 ⟨k, List.mem_range.2 hk, by rw [hroot]; exact hb⟩
    rw [redvEffect, if_neg (by simpa using hp), hnft, hbad, Bool.true_and, if_pos rfl, h.actLanes] at hbody
    obtain ⟨u, hexec, hv, hs, hpr, hmem, htrap⟩ := h.exec_held hc hexec hbody (List.cons_ne_nil _ _)
      (fun x hx => by rw [List.mem_singleton.1 hx]) hpend
    refine ⟨u, hexec, hv, hs, hpr, hmem, fun hhnd htvec => ?_⟩
    obtain ⟨hcause, htepc, z, hz, -, hlane⟩ := htrap hhnd htvec
    rw [List.mem_singleton.1 hz] at hlane
    exact ⟨hcause, htepc, lane_of_tlane hlane⟩

end

section
/-! ## Rows of tiles and their bounds (R138, R142, R279)

Nothing is asked of a tile map's form: a row that is stored reads back, and no other row is touched, whatever the map holds. -/

namespace Sys2Proof.Machine
open Sys2Proof Sys2Proof.Claims

/-! ### Rows of a sparse store -/

section
variable {α : Type} (z : α)

/-- Entries below the key are passed over. -/
theorem sget_append_of_lt {k : Nat} {l m : SMap α} (h : ∀ p ∈ l, p.1 < k) : sget z k (l ++ m) = sget z k m := by
  induction l with
  | nil => rfl
  | cons p r ih =>
    have hp := h p List.mem_cons_self
    rw [List.cons_append, sget, if_neg (by omega), if_neg (by omega)]
    exact ih fun p hp => h p (List.mem_cons_of_mem _ hp)

/-- The first entry is above the key, if there is any. -/
theorem sget_of_forall_gt {k : Nat} {m : SMap α} (h : ∀ p ∈ m, k < p.1) : sget z k m = z := by
  cases m with
  | nil => rfl
  | cons p r =>
    have hp := h p List.mem_cons_self
    rw [sget, if_neg (by omega), if_pos hp]

variable [DecidableEq α]

/-- The entries of a row of values from key k on. -/
def rowEntries (k : Nat) : List α → SMap α
  | [] => []
  | x :: r => if x = z then rowEntries (k + 1) r else (k, x) :: rowEntries (k + 1) r

theorem rowEntries_eq (k : Nat) (l : List α) :
    (List.zip ((List.range l.length).map (k + ·)) l).filter (fun p => p.2 ≠ z) = rowEntries z k l := by
  induction l generalizing k with
  | nil => rfl
  | cons x r ih =>
    have hkeys : (List.range (r.length + 1)).map (k + ·) = k :: (List.range r.length).map (k + 1 + ·) := by
      rw [List.range_succ_eq_map, List.map_cons, List.map_map]
      exact congrArg (k :: ·) (List.map_congr_left fun i _ => by simp only [Function.comp_apply]; omega)
    rw [List.length_cons, hkeys, List.zip_cons_cons, List.filter_cons, ih, rowEntries]
    by_cases hx : x = z <;> simp [hx]

theorem rowEntries_keys {k : Nat} {l : List α} {p : Nat × α} (h : p ∈ rowEntries z k l) : k ≤ p.1 ∧ p.1 < k + l.length := by
  induction l generalizing k with
  | nil => cases h
  | cons x r ih =>
    have hrec (hp : p ∈ rowEntries z (k + 1) r) : k ≤ p.1 ∧ p.1 < k + (r.length + 1) := by
      obtain ⟨h1, h2⟩ := ih hp
      omega
    rw [rowEntries] at h
    split at h
    · exact hrec h
    · rcases List.mem_cons.1 h with rfl | h
      · exact ⟨Nat.le_refl _, by simp⟩
      · exact hrec h

theorem sget_rowEntries_append {k i : Nat} {l : List α} {m : SMap α} (hi : i < l.length)
    (hm : ∀ p ∈ m, k + l.length ≤ p.1) : sget z (k + i) (rowEntries z k l ++ m) = l.getD i z := by
  induction l generalizing k i with
  | nil => cases hi
  | cons x r ih =>
    rw [List.length_cons] at hi hm
    cases i with
    | zero =>
      rw [rowEntries, List.getD_cons_zero]
      split
      · next hx =>
        rw [hx]
        refine sget_of_forall_gt z fun p hp => ?_
        rcases List.mem_append.1 hp with hp | hp
        · have := (rowEntries_keys z hp).1
          omega
        · have := hm p hp
          omega
      · rw [List.cons_append, sget, if_pos (Nat.add_zero k)]
    | succ i =>
      have hrec := ih (k := k + 1) (i := i) (by omega) fun p hp => by
        have := hm p hp
        omega
      rw [show k + (i + 1) = k + 1 + i by omega, rowEntries, List.getD_cons_succ, ← hrec]
      split
      · rfl
      · rw [List.cons_append, sget, if_neg (by omega), if_neg (by omega)]

theorem sputRow_eq (k : Nat) (l : List α) (m : SMap α) : sputRow z k l m =
    (m.filter fun p => p.1 < k) ++ (rowEntries z k l ++ m.filter fun p => k + l.length ≤ p.1) := by
  rw [sputRow, ← rowEntries_eq, List.append_assoc]

/-- A cell of a stored row. -/
theorem sget_sputRow {k i : Nat} {l : List α} (m : SMap α) (hi : i < l.length) :
    sget z (k + i) (sputRow z k l m) = l.getD i z := by
  rw [sputRow_eq, sget_append_of_lt, sget_rowEntries_append z hi]
  · intro p hp
    exact of_decide_eq_true (List.mem_filter.1 hp).2
  · intro p hp
    have hlt := of_decide_eq_true (List.mem_filter.1 hp).2
    omega

/-- Of a store with a row put in it, the entries of that row. -/
theorem sfrom_sputRow_self (k : Nat) (l : List α) (m : SMap α) :
    sfrom k (k + l.length) (sputRow z k l m) = rowEntries z k l := by
  have hlow : ((m.filter fun p => p.1 < k).filter fun p => k ≤ p.1 && p.1 < k + l.length) = [] :=
    List.filter_eq_nil_iff.2 fun p hp => by
      have hlt := of_decide_eq_true (List.mem_filter.1 hp).2
      simp only [Bool.and_eq_true, decide_eq_true_eq]
      omega
  have hhigh : ((m.filter fun p => k + l.length ≤ p.1).filter fun p => k ≤ p.1 && p.1 < k + l.length) = [] :=
    List.filter_eq_nil_iff.2 fun p hp => by
      have hle := of_decide_eq_true (List.mem_filter.1 hp).2
      simp only [Bool.and_eq_true, decide_eq_true_eq]
      omega
  have hrow : ((rowEntries z k l).filter fun p => k ≤ p.1 && p.1 < k + l.length) = rowEntries z k l :=
    List.filter_eq_self.2 fun p hp => by
      simpa only [Bool.and_eq_true, decide_eq_true_eq] using rowEntries_keys z hp
  rw [sputRow_eq, sfrom, List.filter_append, List.filter_append, hlow, hhigh, hrow, List.nil_append, List.append_nil]

/-- A row stored elsewhere leaves the entries of a run. -/
theorem sfrom_sputRow_of_disjoint {k lo hi : Nat} {l : List α} (m : SMap α) (h : k + l.length ≤ lo ∨ hi ≤ k) :
    sfrom lo hi (sputRow z k l m) = sfrom lo hi m := by
  have hrow : ((rowEntries z k l).filter fun p => lo ≤ p.1 && p.1 < hi) = [] := List.filter_eq_nil_iff.2 fun p hp => by
    have hk := rowEntries_keys z hp
    simp only [Bool.and_eq_true, decide_eq_true_eq]
    omega
  have hnone {q : Nat × α → Bool} (hq : ∀ p, q p = true → ¬(lo ≤ p.1 ∧ p.1 < hi)) :
      (m.filter q).filter (fun p => lo ≤ p.1 && p.1 < hi) = [] := List.filter_eq_nil_iff.2 fun p hp => by
    simpa only [Bool.and_eq_true, decide_eq_true_eq] using hq p (List.mem_filter.1 hp).2
  have hall {q : Nat × α → Bool} (hq : ∀ p, lo ≤ p.1 ∧ p.1 < hi → q p = true) :
      (m.filter q).filter (fun p => lo ≤ p.1 && p.1 < hi) = m.filter fun p => lo ≤ p.1 && p.1 < hi := by
    rw [List.filter_filter]
    refine List.filter_congr fun p _ => ?_
    cases hp : (decide (lo ≤ p.1) && decide (p.1 < hi)) with
    | false => rfl
    | true => exact hq p (by simpa only [Bool.and_eq_true, decide_eq_true_eq] using hp)
  rw [sputRow_eq, sfrom, List.filter_append, List.filter_append, hrow, List.nil_append]
  rcases h with h | h
  · rw [hnone fun p hp => by have := of_decide_eq_true hp; omega, hall fun p hp => decide_eq_true (by omega), List.nil_append]
    rfl
  · rw [hall fun p hp => decide_eq_true (by omega), hnone fun p hp => by have := of_decide_eq_true hp; omega, List.append_nil]
    rfl

omit [DecidableEq α] in
theorem length_srow (k n : Nat) (m : SMap α) : (srow z k n m).length = n := by
  rw [srow, sgets, List.length_map, List.length_range]

/-- A row that is stored reads back. -/
theorem srow_sputRow_self {k n : Nat} {l : List α} (m : SMap α) (hl : l.length = n) : srow z k n (sputRow z k l m) = l := by
  subst hl
  have hcell (i : Nat) (hi : i < l.length) : sget z (k + i) (rowEntries z k l) = l.getD i z := by
    have h := sget_rowEntries_append z (m := []) (k := k) hi nofun
    rwa [List.append_nil] at h
  rw [srow, sfrom_sputRow_self, sgets, List.map_congr_left fun i hi => hcell i (List.mem_range.1 hi)]
  refine List.ext_getElem (by simp) fun i h1 h2 => ?_
  simp [List.getD_eq_getElem?_getD, h2]

theorem srow_sputRow_of_disjoint {k k' n : Nat} {l : List α} (m : SMap α) (h : k + l.length ≤ k' ∨ k' + n ≤ k) :
    srow z k' n (sputRow z k l m) = srow z k' n m := by
  rw [srow, sfrom_sputRow_of_disjoint z m h, srow]

end

/-! ### Rows of an accumulator (R137, R151, R279) -/

/-- Bits of an element of the accumulator of the running pass. -/
def accWidth (m : MOp) : Nat := if m.wide = true ∨ mACC m.mode = 1 then 64 else 32

/-- The running pass has an accumulator of its own: the wide store, or one tile, or a pair of two tiles. -/
def Quad.Accumulates (q : Quad) (m : MOp) : Prop :=
  if m.wide then q.wide.isSome = true
  else mACC m.mode = 1 → q.phys m.key.gid (m.tile m.group) ≠ q.phys m.key.gid (m.tile m.group + 1)

section
variable (q : Quad) (gid acc n : Nat) {r i : Nat} {l : List Nat}

theorem length_accRow : (q.accRow gid acc n r).length = 128 := by
  unfold Quad.accRow
  dsimp only
  split <;> simp [length_srow]

theorem lt_of_mem_accRow {x : Nat} (h : x ∈ q.accRow gid acc n r) : x < 2 ^ (if acc = 1 then 64 else 32) := by
  unfold Quad.accRow at h
  dsimp only at h
  split at h
  · next hacc =>
    rw [if_pos hacc]
    obtain ⟨j, hj, rfl⟩ := List.getElem_of_mem h
    rw [List.getElem_zipWith, List.getElem_map, List.getElem_map]
    omega
  · next hacc =>
    rw [if_neg hacc]
    obtain ⟨w, -, rfl⟩ := List.mem_map.1 h
    exact w.isLt

/-- Rows of tiles do not meet. -/
theorem tile_rows_disjoint {p p' : Nat} (hr : r < 128) (hi : i < 128) (h : p ≠ p' ∨ r ≠ i) :
    16384 * p + 128 * r + 128 ≤ 16384 * p' + 128 * i ∨ 16384 * p' + 128 * i + 128 ≤ 16384 * p + 128 * r := by omega

/-- A row stored in the tile or pair leaves its other rows. -/
theorem accRow_setAccRow_ne (hl : l.length = 128) (hr : r < 128) (hi : i < 128) (h : r ≠ i) :
    (q.setAccRow gid acc n r l).accRow gid acc n i = q.accRow gid acc n i := by
  have hput {k k' : Nat} {l : List Nat} (hl : l.length = 128) (m : SMap Word) :
      srow 0 (16384 * k' + 128 * i) 128 (sputRow 0 (16384 * k + 128 * r) (l.map (BitVec.ofNat 32)) m) =
        srow 0 (16384 * k' + 128 * i) 128 m :=
    srow_sputRow_of_disjoint 0 m (by rw [List.length_map, hl]; exact tile_rows_disjoint hr hi (.inr h))
  unfold Quad.accRow Quad.setAccRow Quad.phys
  by_cases hacc : acc = 1
  · simp only [hacc, if_true]
    rw [hput (by rw [List.length_map, hl]), hput hl, hput (by rw [List.length_map, hl]), hput hl]
  · simp only [hacc, if_false]
    rw [hput hl]

/-- A row that is stored reads back, to the width of its elements. -/
theorem accRow_setAccRow_self (hl : l.length = 128) (hr : r < 128) (h : acc = 1 → q.phys gid n ≠ q.phys gid (n + 1)) :
    (q.setAccRow gid acc n r l).accRow gid acc n r = l.map (· % 2 ^ (if acc = 1 then 64 else 32)) := by
  have hself {k : Nat} {l : List Nat} (hl : l.length = 128) (m : SMap Word) :
      (srow 0 (16384 * k + 128 * r) 128 (sputRow 0 (16384 * k + 128 * r) (l.map (BitVec.ofNat 32)) m)).map BitVec.toNat =
        l.map (· % 2 ^ 32) := by
    rw [srow_sputRow_self 0 m (by rw [List.length_map, hl]), List.map_map]
    exact List.map_congr_left fun x _ => BitVec.toNat_ofNat x 32
  unfold Quad.accRow Quad.setAccRow
  by_cases hacc : acc = 1
  · have hdis := tile_rows_disjoint hr hr (.inl (h hacc).symm)
    unfold Quad.phys at hdis ⊢
    simp only [hacc, if_true]
    rw [srow_sputRow_of_disjoint 0 _ (by rw [List.length_map, List.length_map, hl]; exact hdis), hself hl,
      hself (by rw [List.length_map, hl]), List.map_map, List.zipWith_map, List.zipWith_self]
    exact List.map_congr_left fun x _ => (Nat.mod_mul (x := x) (a := 2 ^ 32) (b := 2 ^ 32)).symm
  · unfold Quad.phys
    simp only [hacc, if_false]
    exact hself hl _

end

section
variable (q : Quad) (m : MOp) {r i : Nat} {l : List Nat}

theorem length_workRow (h : q.Accumulates m) : (q.workRow m i).length = 128 := by
  unfold Quad.Accumulates at h
  unfold Quad.workRow
  cases hw : m.wide with
  | false => exact length_accRow _ _ _ _
  | true =>
    rw [hw, if_pos rfl] at h
    obtain ⟨w, hw⟩ := Option.isSome_iff_exists.1 h
    rw [hw, if_pos rfl, List.length_map, length_srow]

theorem lt_of_mem_workRow {x : Nat} (h : x ∈ q.workRow m i) : x < 2 ^ accWidth m := by
  unfold Quad.workRow at h
  unfold accWidth
  cases hw : m.wide with
  | false =>
    rw [hw, if_neg Bool.false_ne_true] at h
    simpa using lt_of_mem_accRow _ _ _ _ h
  | true =>
    rw [hw, if_pos rfl] at h
    rw [if_pos (.inl rfl)]
    cases hq : q.wide with
    | none => rw [hq] at h; cases h
    | some w =>
      rw [hq] at h
      obtain ⟨w, -, rfl⟩ := List.mem_map.1 h
      exact w.isLt

theorem workRow_setWorkRow_ne (hl : m.wide = false ∨ q.wide.isSome = true → l.length = 128) (hr : r < 128) (hi : i < 128)
    (h : r ≠ i) : (q.setWorkRow m r l).workRow m i = q.workRow m i := by
  unfold Quad.workRow Quad.setWorkRow
  cases hw : m.wide with
  | false => exact accRow_setAccRow_ne q _ _ _ (hl (.inl hw)) hr hi h
  | true =>
    cases hq : q.wide with
    | none => simp
    | some w =>
      have hl := hl (.inr (by rw [hq]; rfl))
      simp only [if_true, Option.map_some]
      rw [srow_sputRow_of_disjoint 0 _ (by rw [List.length_map, hl]; omega)]

theorem workRow_setWorkRow_self (hl : l.length = 128) (hr : r < 128) (h : q.Accumulates m) :
    (q.setWorkRow m r l).workRow m r = l.map (· % 2 ^ accWidth m) := by
  unfold Quad.Accumulates at h
  unfold Quad.workRow Quad.setWorkRow accWidth
  cases hw : m.wide with
  | false =>
    rw [hw, if_neg Bool.false_ne_true] at h
    simpa using accRow_setAccRow_self q _ _ _ hl hr h
  | true =>
    rw [hw, if_pos rfl] at h
    obtain ⟨w, hq⟩ := Option.isSome_iff_exists.1 h
    simp only [if_true, hq, Option.map_some, true_or]
    rw [srow_sputRow_self 0 _ (by rw [List.length_map, hl]), List.map_map]
    exact List.map_congr_left fun x _ => BitVec.toNat_ofNat x 64

/-! ### Row bounds -/

theorem rowBound_setBound_self (b : Word) : rowBound (q.setBound m.key.gid (m.tile m.group) i b) m i = b :=
  sget_sput_self _ _ _ _

theorem rowBound_setBound_ne (b : Word) (h : r ≠ i) : rowBound (q.setBound m.key.gid (m.tile m.group) r b) m i = rowBound q m i :=
  sget_sput_ne 0 (n := 128 * q.phys m.key.gid (m.tile m.group) + i) (by omega) b q.bounds

theorem rowBound_setWorkRow : rowBound (q.setWorkRow m r l) m i = rowBound q m i := by
  unfold Quad.setWorkRow
  split <;> rfl

theorem workRow_setBound (b : Word) : (q.setBound m.key.gid (m.tile m.group) r b).workRow m i = q.workRow m i := rfl

end

/-! ### A step for each row -/

section
variable {σ β γ : Type} {g : σ → β → σ} {key : β → Nat} {obs : σ → γ} {inv : σ → Prop}

/-- Steps for other rows leave what is seen of one. -/
theorem foldl_keeps {l : List β} (h : ∀ p ∈ l, ∀ s, inv s → inv (g s p) ∧ obs (g s p) = obs s) {s : σ} (hs : inv s) :
    inv (l.foldl g s) ∧ obs (l.foldl g s) = obs s := by
  induction l generalizing s with
  | nil => exact ⟨hs, rfl⟩
  | cons p r ih =>
    obtain ⟨hinv, hobs⟩ := h p List.mem_cons_self s hs
    obtain ⟨hinv, hobs'⟩ := ih (fun p hp => h p (List.mem_cons_of_mem _ hp)) hinv
    exact ⟨hinv, hobs'.trans hobs⟩

/-- Of steps for different rows, the one for x makes what is seen of its row, from what was seen of it at the start. -/
theorem foldl_at {l : List β} (hn : (l.map key).Nodup) {x : β} (hx : x ∈ l)
    (hinv : ∀ p ∈ l, ∀ s, inv s → inv (g s p)) (hobs : ∀ p ∈ l, key p ≠ key x → ∀ s, inv s → obs (g s p) = obs s)
    {s : σ} (hs : inv s) : ∃ s', inv s' ∧ obs s' = obs s ∧ obs (l.foldl g s) = obs (g s' x) := by
  obtain ⟨l1, l2, rfl⟩ := List.append_of_mem hx
  rw [List.map_append, List.map_cons, List.nodup_append] at hn
  obtain ⟨-, hn2, hdis⟩ := hn
  have h1 := foldl_keeps (g := g) (inv := inv) (obs := obs) (l := l1) (fun p hp s hs => by
    have hmem : p ∈ l1 ++ x :: l2 := List.mem_append_left _ hp
    exact ⟨hinv p hmem s hs, hobs p hmem (hdis _ (List.mem_map_of_mem hp) _ List.mem_cons_self) s hs⟩) hs
  have h2 := foldl_keeps (g := g) (inv := inv) (obs := obs) (l := l2) (fun p hp s hs => by
    have hmem : p ∈ l1 ++ x :: l2 := List.mem_append_right _ (List.mem_cons_of_mem _ hp)
    refine ⟨hinv p hmem s hs, hobs p hmem (fun e => (List.nodup_cons.1 hn2).1 ?_) s hs⟩
    rw [← e]
    exact List.mem_map_of_mem hp) (hinv x hx _ h1.1)
  exact ⟨l1.foldl g s, h1.1, h1.2, by rw [List.foldl_append, List.foldl_cons]; exact h2.2⟩

end

/-- The rows of a list, numbered. -/
theorem numbered_nodup {β : Type} (a : List β) : ((List.zip (List.range a.length) a).map (·.1)).Nodup := by
  rw [List.map_fst_zip (by simp)]
  exact List.nodup_range

theorem mem_numbered {β : Type} {a : List β} {i : Nat} (h : i < a.length) (z : β) :
    (i, a.getD i z) ∈ List.zip (List.range a.length) a := by
  refine List.mem_iff_getElem.2 ⟨i, by simpa using h, ?_⟩
  simp [List.getD_eq_getElem?_getD, h]

end Sys2Proof.Machine
end

section
/-! ## What a pass adds (R133, R136, R143, R144, R291) -/

namespace Sys2Proof.Machine
open Sys2Proof Sys2Proof.Claims

/-! ### One row of a pass -/

/-- The type in which the pass accumulates, the new cells of a row, and the row's step. -/
def passFmt (m : MOp) : Option Fmt := if m.wide then some Fmt.fp64 else accFmt (mACC m.mode)
def passCells (m : MOp) (gen : Word) (b : List (List Elem)) (old : List Nat) (p : Nat × List Elem) : List (Nat × Option Ex) :=
  (List.range (mmN m.lit)).map fun j => passElem (passFmt m) (m.rm gen p.1) (old.getD j 0)
    ((List.zip p.2 b).map fun x => elemMul m.op (mET m.mode) x.1 (x.2.getD j ⟨false, 0, 127⟩))
def passRow (m : MOp) (gen : Word) (b : List (List Elem)) (q : Quad) (p : Nat × List Elem) : Quad :=
  let cells := passCells m gen b (q.workRow m p.1) p
  (q.setWorkRow m p.1 (cells.map (·.1) ++ (q.workRow m p.1).drop (mmN m.lit))).setBound m.key.gid (m.tile m.group) p.1
    (passBound (passFmt m) (m.rm gen p.1) (q.bound m.key.gid (m.tile m.group) p.1) (cells.map (·.1)) (cells.filterMap (·.2)))

theorem pass_eq (q : Quad) (m : MOp) (gen : Word) (a b : List (List Elem)) :
    q.pass m gen a b = (List.zip (List.range a.length) a).foldl (passRow m gen b) q := rfl

theorem mmN_le (w : Word) : mmN w ≤ 128 := bits_lt w.toNat 24 18

section
variable (m : MOp) (gen : Word) (b : List (List Elem))

theorem length_passCells (old : List Nat) (p : Nat × List Elem) : (passCells m gen b old p).length = mmN m.lit := by
  rw [passCells, List.length_map, List.length_range]

/-- The row that a step stores is a whole row. -/
theorem length_passRow {old : List Nat} (h : old.length = 128) (p : Nat × List Elem) :
    ((passCells m gen b old p).map (·.1) ++ old.drop (mmN m.lit)).length = 128 := by
  have := mmN_le m.lit
  rw [List.length_append, List.length_map, length_passCells, List.length_drop, h]
  omega

/-- What a step keeps of a quad: its tiles' grants, and whether the wide store is in use. -/
def Quad.SameUse (q q' : Quad) : Prop := q'.tgrants = q.tgrants ∧ q'.wide.isSome = q.wide.isSome

theorem sameUse_passRow (q : Quad) (p : Nat × List Elem) : q.SameUse (passRow m gen b q p) := by
  unfold passRow Quad.setWorkRow
  split
  · exact ⟨rfl, by simp [Quad.setBound]⟩
  · exact ⟨rfl, rfl⟩

theorem Quad.SameUse.accumulates {q q' : Quad} (h : q.SameUse q') (ha : q.Accumulates m) : q'.Accumulates m := by
  obtain ⟨hg, hw⟩ := h
  unfold Quad.Accumulates Quad.phys at *
  rw [hg, hw]
  exact ha

/-- What is seen of row i: its elements and its bound. -/
def rowOf (m : MOp) (i : Nat) (q : Quad) : List Nat × Word := (q.workRow m i, rowBound q m i)

theorem rowOf_passRow_ne (q : Quad) {p : Nat × List Elem} {i : Nat} (hp : p.1 < 128) (hi : i < 128) (h : p.1 ≠ i) :
    rowOf m i (passRow m gen b q p) = rowOf m i q := by
  unfold rowOf passRow
  dsimp only
  rw [workRow_setBound, rowBound_setBound_ne _ _ _ h, rowBound_setWorkRow, workRow_setWorkRow_ne q m (fun hw => ?_) hp hi h]
  refine length_passRow m gen b ?_ p
  rcases hw with hw | hw
  · rw [Quad.workRow, hw, if_neg Bool.false_ne_true, length_accRow]
  · unfold Quad.workRow
    split
    · obtain ⟨w, hw⟩ := Option.isSome_iff_exists.1 hw
      rw [hw, List.length_map, length_srow]
    · exact length_accRow _ _ _ _

theorem rowOf_passRow_self {q : Quad} (hq : q.Accumulates m) {p : Nat × List Elem} (hp : p.1 < 128) :
    rowOf m p.1 (passRow m gen b q p) =
      (((passCells m gen b (q.workRow m p.1) p).map (·.1) ++ (q.workRow m p.1).drop (mmN m.lit)).map (· % 2 ^ accWidth m),
       passBound (passFmt m) (m.rm gen p.1) (rowBound q m p.1) ((passCells m gen b (q.workRow m p.1) p).map (·.1))
         ((passCells m gen b (q.workRow m p.1) p).filterMap (·.2))) := by
  unfold rowOf passRow
  dsimp only
  rw [workRow_setBound, rowBound_setBound_self,
    workRow_setWorkRow_self q m (length_passRow m gen b (length_workRow q m hq) p) hp hq]
  rfl

/-- A pass leaves a row that the operation has not. -/
theorem rowOf_pass_past (q : Quad) {a : List (List Elem)} {i : Nat} (hi : i < 128) (h : a.length ≤ i) :
    rowOf m i (q.pass m gen a b) = rowOf m i q := by
  rw [pass_eq]
  refine (foldl_keeps (inv := fun _ => True) (fun p hp q _ => ⟨trivial, ?_⟩) trivial).2
  have hlt := List.mem_range.1 (List.of_mem_zip hp).1
  exact rowOf_passRow_ne m gen b q (by omega) hi (by omega)

/-- A pass puts its cells in row i, and their bound. -/
theorem rowOf_pass {q : Quad} (hq : q.Accumulates m) {a : List (List Elem)} (ha : a.length ≤ 128) {i : Nat} (h : i < a.length) :
    rowOf m i (q.pass m gen a b) =
      (((passCells m gen b (q.workRow m i) (i, a.getD i [])).map (·.1) ++ (q.workRow m i).drop (mmN m.lit)).map
        (· % 2 ^ accWidth m),
       passBound (passFmt m) (m.rm gen i) (rowBound q m i) ((passCells m gen b (q.workRow m i) (i, a.getD i [])).map (·.1))
         ((passCells m gen b (q.workRow m i) (i, a.getD i [])).filterMap (·.2))) := by
  rw [pass_eq]
  obtain ⟨q', hq', hold, hnew⟩ := foldl_at (g := passRow m gen b) (key := (·.1)) (obs := rowOf m i) (inv := fun q => q.Accumulates m)
    (numbered_nodup a) (mem_numbered h []) (fun p _ q hq => (sameUse_passRow m gen b q p).accumulates m hq)
    (fun p hp hne q _ => rowOf_passRow_ne m gen b q
      (by have := List.mem_range.1 (List.of_mem_zip hp).1; omega) (by omega) hne) hq
  rw [hnew, rowOf_passRow_self m gen b hq' (p := (i, a.getD i [])) (by dsimp only; omega)]
  obtain ⟨hrow, hbound⟩ := Prod.mk.inj hold
  rw [hrow, hbound]

end

/-! ### The elements of a row -/

/-- A row made of n new elements and the rest of the old one, to the width of its elements. -/
theorem getD_newRow {w n : Nat} {new old : List Nat} (hnew : new.length = n) (hold : ∀ x ∈ old, x < 2 ^ w) (j : Nat) :
    ((new ++ old.drop n).map (· % 2 ^ w)).getD j 0 = if j < n then new.getD j 0 % 2 ^ w else old.getD j 0 := by
  have hmap : ((new ++ old.drop n).map (· % 2 ^ w)).getD j 0 = (new ++ old.drop n).getD j 0 % 2 ^ w := by
    simp only [List.getD_eq_getElem?_getD, List.getElem?_map]
    cases (new ++ old.drop n)[j]? <;> simp
  rw [hmap]
  by_cases hj : j < n
  · rw [if_pos hj, List.getD_append _ _ _ _ (by omega)]
  · have hlt : old.getD j 0 < 2 ^ w := by
      by_cases hjo : j < old.length
      · rw [List.getD_eq_getElem _ _ hjo]
        exact hold _ (List.getElem_mem hjo)
      · rw [List.getD_eq_default _ _ (by omega)]
        exact Nat.two_pow_pos w
    have hdrop : (old.drop n).getD (j - n) 0 = old.getD j 0 := by
      rw [List.getD_eq_getElem?_getD, List.getElem?_drop, Nat.add_sub_cancel' (by omega), List.getD_eq_getElem?_getD]
    rw [if_neg hj, List.getD_append_right _ _ _ _ (by omega), hnew, hdrop, Nat.mod_eq_of_lt hlt]

theorem take_newRow {w n : Nat} {new old : List Nat} (hnew : new.length = n) (hlt : ∀ x ∈ new, x < 2 ^ w) :
    ((new ++ old.drop n).map (· % 2 ^ w)).take n = new := by
  rw [← List.map_take, List.take_left' hnew]
  exact (List.map_congr_left fun x hx => Nat.mod_eq_of_lt (hlt x hx)).trans (List.map_id' _)

/-- What a pass's rounded values add to a bound. -/
theorem passBound_some (f : Fmt) (rm : Rm) (b : Word) (vals : List Nat) (exc : List Ex) :
    passBound (some f) rm b vals exc = passAdds f rm.rnd b vals := by
  unfold passBound ulpMax passAdds
  dsimp only
  by_cases h : (vals.map f.dec).all Ex.isFin = true
  · rw [if_pos h, if_pos h]
    rfl
  · rw [if_neg h, if_neg h]

section
variable (m : MOp) (gen : Word) (b : List (List Elem))

/-- The element that a pass of FP32 or FP64 accumulation rounds. -/
def fltCell (f : Fmt) (old : List Nat) (i : Nat) (a : List Elem) (j : Nat) : Nat :=
  f.round (m.rm gen i) (Ex.sum (mRND m.mode) (f.dec (old.getD j 0) ::
    (List.zip a b).map fun x => elemMul m.op (mET m.mode) x.1 (x.2.getD j ⟨false, 0, 127⟩)))

theorem passCells_flt {f : Fmt} (hf : passFmt m = some f) (old : List Nat) (i : Nat) (a : List Elem) :
    (passCells m gen b old (i, a)).map (·.1) = (List.range (mmN m.lit)).map (fltCell m gen b f old i a) := by
  rw [passCells, hf, List.map_map]
  rfl

theorem pass_flt {q : Quad} (hq : q.Accumulates m) {f : Fmt} (hf : passFmt m = some f) (hw : f.width = accWidth m)
    (hk : f.kind = .ieee) (hm : 0 < f.man) {a : List (List Elem)} (ha : a.length ≤ 128) {i : Nat} (hi : i < a.length) (j : Nat) :
    ((q.pass m gen a b).workRow m i).getD j 0 =
      (if j < mmN m.lit then fltCell m gen b f (q.workRow m i) i (a.getD i []) j % 2 ^ accWidth m else (q.workRow m i).getD j 0) ∧
    rowBound (q.pass m gen a b) m i =
      passAdds f (mRND m.mode) (rowBound q m i) (((q.pass m gen a b).workRow m i).take (mmN m.lit)) := by
  obtain ⟨hrow, hbound⟩ := Prod.mk.inj (rowOf_pass m gen b hq ha hi)
  rw [passCells_flt m gen b hf] at hrow hbound
  have hlen : ((List.range (mmN m.lit)).map (fltCell m gen b f (q.workRow m i) i (a.getD i []))).length = mmN m.lit := by simp
  refine ⟨?_, ?_⟩
  · rw [hrow, getD_newRow hlen fun _ => lt_of_mem_workRow q m]
    by_cases hj : j < mmN m.lit
    · rw [if_pos hj, if_pos hj, getD_map_range _ 0 hj]
    · rw [if_neg hj, if_neg hj]
  · rw [hbound, hrow, take_newRow hlen, hf, passBound_some]
    · rfl
    · intro x hx
      obtain ⟨j, -, rfl⟩ := List.mem_map.1 hx
      rw [← hw]
      exact Fmt.round_lt hk hm _ _

end

/-! ### INT32 accumulation (R144) -/

theorem foldl_eq_add_sum {β : Type} {f : Int → β → Int} {g : β → Int} {l : List β} (h : ∀ x ∈ l, ∀ acc, f acc x = acc + g x) (acc : Int) :
    l.foldl f acc = acc + (l.map g).sum := by
  induction l generalizing acc with
  | nil => simp
  | cons x r ih =>
    rw [List.foldl_cons, h x List.mem_cons_self, ih (fun y hy => h y (List.mem_cons_of_mem _ hy)), List.map_cons, List.sum_cons]
    omega

/-- A whole number as a value. -/
def Ex.IsWhole (x : Ex) : Prop := ∃ n k, x = .fin n k 0 false

/-- The exact sum of whole numbers. -/
theorem sum_over_zero {l : List Ex} (h : ∀ x ∈ l, x.IsWhole) : (Ex.sum 0 l).over 0 = (l.map (Ex.over 0)).sum := by
  have hno {p : Ex → Bool} (hp : ∀ n k, p (.fin n k 0 false) = false) : l.any p = false :=
    List.any_eq_false.2 fun x hx => by
      obtain ⟨n, k, rfl⟩ := h x hx
      rw [hp]
      exact Bool.false_ne_true
  have hexps : ∀ e ∈ l.filterMap Ex.expo?, e = 0 := fun e he => by
    obtain ⟨x, hx, e⟩ := List.mem_filterMap.1 he
    obtain ⟨n, k, rfl⟩ := h x hx
    cases k with
    | zero => cases e
    | succ k => exact (Option.some.inj e).symm
  have hmin : ∀ es : List Int, (∀ e ∈ es, e = 0) → es.foldl min (es.head?.getD 0) = 0 := fun es hes => by
    have hfold : ∀ es : List Int, (∀ e ∈ es, e = 0) → es.foldl min 0 = 0 := fun es hes => by
      induction es with
      | nil => rfl
      | cons e r ih =>
        rw [List.foldl_cons, hes e List.mem_cons_self]
        exact ih fun e he => hes e (List.mem_cons_of_mem _ he)
    have hhead : es.head?.getD 0 = 0 := by
      cases es with
      | nil => rfl
      | cons e r => exact hes e List.mem_cons_self
    rw [hhead]
    exact hfold es hes
  have hout (t : Int) (z : Bool) : (if t = 0 then Ex.zero z else .fin (decide (t < 0)) t.natAbs 0 false).over 0 = t := by
    by_cases ht : t = 0
    · rw [if_pos ht, ht]
      cases z <;> rfl
    · rw [if_neg ht]
      have habs : (if t < 0 then -(t.natAbs : Int) else t.natAbs) = t := by omega
      simpa [Ex.over] using habs
  unfold Ex.sum
  rw [hno fun _ _ => rfl, hno (p := Ex.isInf true) fun _ _ => rfl, hno (p := Ex.isInf false) fun _ _ => rfl]
  simp only [hmin _ hexps, Bool.false_and, Bool.or_false, Bool.false_eq_true, if_false]
  refine (hout _ _).trans ((foldl_eq_add_sum (g := Ex.over 0) (fun x hx acc => ?_) 0).trans (Int.zero_add _))
  obtain ⟨n, k, rfl⟩ := h x hx
  cases k with
  | zero => cases n <;> simp [Ex.expo?, Ex.over]
  | succ k => rfl

/-- The product of two integer elements is a whole number: their product, where both are stored. -/
theorem elemMul_int {op et : Nat} (het : etFmt et = none) (hcb : et ≠ 17) (x y : Elem) :
    (elemMul op et x y).IsWhole ∧
      (elemMul op et x y).over 0 = if x.st && y.st then etInt et x.raw * etInt et y.raw else 0 := by
  have hval (e : Elem) : e.val et = Ex.ofInt (if e.st then etInt et e.raw else 0) := by
    unfold Elem.val
    cases e.st with
    | false => rfl
    | true =>
      rw [if_neg (by decide), if_neg hcb, het]
      rfl
  have hmul (i j : Int) : ((Ex.ofInt i).mul (Ex.ofInt j)).IsWhole ∧ ((Ex.ofInt i).mul (Ex.ofInt j)).over 0 = i * j := by
    refine ⟨⟨_, _, rfl⟩, ?_⟩
    change Ex.over 0 (.fin (decide (i < 0) != decide (j < 0)) (i.natAbs * j.natAbs) 0 false) = i * j
    simp only [Ex.over]
    rcases lt_or_ge i 0 with hi | hi <;> rcases lt_or_ge j 0 with hj | hj <;>
      simp [hi, hj, Int.not_lt.2, abs_of_neg, abs_of_nonneg]
  unfold elemMul
  split
  · next h0 =>
    have hst : (x.st && y.st) = false := by
      simp only [Bool.and_eq_true, Bool.not_eq_true'] at h0
      exact h0.2
    rw [hst]
    exact ⟨⟨_, _, rfl⟩, rfl⟩
  · rw [hval, hval]
    obtain ⟨hw, ho⟩ := hmul (if x.st then etInt et x.raw else 0) (if y.st then etInt et y.raw else 0)
    refine ⟨hw, ho.trans ?_⟩
    cases x.st <;> cases y.st <;> simp

/-- The largest of several amounts. -/
theorem bMax_ofInt {c : Nat} {l : List Nat} (hc : c ∈ l) (hle : ∀ x ∈ l, x ≤ c) : bMax (l.map fun x : Nat => Ex.ofInt x) = Ex.ofInt c := by
  have hstep (m x : Nat) : (if (Ex.ofInt m).lt (Ex.ofInt x) then Ex.ofInt x else Ex.ofInt m) = Ex.ofInt (max m x : Nat) := by
    have hlt : (Ex.ofInt m).lt (Ex.ofInt x) = decide (m < x) := by
      have hover (k : Nat) : (Ex.ofInt k).over 0 = k := by simp [Ex.ofInt, Ex.over]
      change decide ((Ex.ofInt m).over 0 < (Ex.ofInt x).over 0) = _
      rw [hover, hover]
      exact decide_eq_decide.2 Int.ofNat_lt
    rw [hlt]
    by_cases h : m < x
    · rw [if_pos (decide_eq_true h), max_eq_right (Nat.le_of_lt h)]
    · rw [if_neg (by simpa using h), max_eq_left (Nat.not_lt.1 h)]
  have hfold (l : List Nat) (m : Nat) : (l.map fun x : Nat => Ex.ofInt x).foldl (fun m x => if m.lt x then x else m) (Ex.ofInt m) =
      Ex.ofInt (l.foldl max m : Nat) := by
    induction l generalizing m with
    | nil => rfl
    | cons x r ih => rw [List.map_cons, List.foldl_cons, hstep, ih, List.foldl_cons]
  have hmax (l : List Nat) (m : Nat) (hc : c = m ∨ c ∈ l) (hm : m ≤ c) (hle : ∀ x ∈ l, x ≤ c) : l.foldl max m = c := by
    induction l generalizing m with
    | nil => exact (hc.resolve_right List.not_mem_nil).symm
    | cons x r ih =>
      have hx := hle x List.mem_cons_self
      refine ih (max m x) ?_ (max_le hm hx) fun y hy => hle y (List.mem_cons_of_mem _ hy)
      rcases hc with rfl | hc
      · exact .inl (max_eq_left hx).symm
      · rcases List.mem_cons.1 hc with rfl | hc
        · exact .inl (max_eq_right hm).symm
        · exact .inr hc
  exact (hfold l 0).trans (congrArg (fun k : Nat => Ex.ofInt k) (hmax l 0 (.inr hc) (Nat.zero_le c) hle))

/-- By how much a sum leaves the range of INT32. -/
def int32Excess (x : Int) : Nat := (x - max (-2 ^ 31) (min (2 ^ 31 - 1) x)).natAbs

theorem int32Excess_eq_zero {x : Int} : int32Excess x = 0 ↔ -2 ^ 31 ≤ x ∧ x < 2 ^ 31 := by
  rw [int32Excess, Int.natAbs_eq_zero, sub_eq_zero]
  refine ⟨fun h => ?_, fun ⟨hlo, hhi⟩ => ?_⟩
  · rw [h]
    exact ⟨le_max_left _ _, max_lt (by decide) (min_lt_of_left_lt (by decide))⟩
  · rw [min_eq_right (Int.le_sub_one_of_lt hhi), max_eq_right hlo]

section
variable (m : MOp) (gen : Word) (b : List (List Elem)) (het : mET m.mode = 9 ∨ mET m.mode = 10 ∨ mET m.mode = 16)
include het

/-- An INT32 element after a pass, and its excess where it left the range. -/
theorem passElem_int (rm : Rm) (old : Nat) (a : List Elem) (j : Nat) :
    passElem none rm old ((List.zip a b).map fun x => elemMul m.op (mET m.mode) x.1 (x.2.getD j ⟨false, 0, 127⟩)) =
      (narrow 13 rm.sat (intSum m old a b j),
       if int32Excess (intSum m old a b j) = 0 then none else some (Ex.ofInt (int32Excess (intSum m old a b j)))) := by
  have hmul (x y : Elem) := elemMul_int (op := m.op) (et := mET m.mode)
    (by rcases het with e | e | e <;> rw [e] <;> rfl) (by omega) x y
  have hsum : (Ex.sum 0 ((List.zip a b).map fun x => elemMul m.op (mET m.mode) x.1 (x.2.getD j ⟨false, 0, 127⟩))).over 0 +
      etInt 13 old = intSum m old a b j := by
    rw [sum_over_zero fun x hx => by obtain ⟨y, -, rfl⟩ := List.mem_map.1 hx; exact (hmul _ _).1, List.map_map, Int.add_comm]
    refine (foldl_eq_add_sum (fun x _ acc => ?_) _).symm
    simp only [Function.comp_apply, (hmul _ _).2]
    split
    · rfl
    · exact (Int.add_zero acc).symm
  have hlo : etLo 13 = -2 ^ 31 := rfl
  have hhi : etHi 13 = 2 ^ 31 - 1 := rfl
  unfold passElem
  dsimp only
  rw [hsum, etFit_eq_narrow, clamp_eq (etLo_le_etHi 13), hlo, hhi]
  unfold int32Excess
  generalize intSum m old a b j = v
  congr 1
  by_cases hv : v = max (-2 ^ 31) (min (2 ^ 31 - 1) v)
  · rw [if_pos hv, if_pos (by omega)]
  · rw [if_neg hv, if_neg (by omega)]

theorem pass_int {q : Quad} (hw : m.wide = false) (hacc : mACC m.mode = 2) {a : List (List Elem)} (ha : a.length ≤ 128) {i : Nat}
    (hi : i < a.length) (j : Nat) :
    ((q.pass m gen a b).workRow m i).getD j 0 =
      (if j < mmN m.lit then narrow 13 (mSAT m.mode) (intSum m ((q.workRow m i).getD j 0) (a.getD i []) b j)
       else (q.workRow m i).getD j 0) ∧
    rowBound (q.pass m gen a b) m i =
      passBound none (m.rm gen i) (rowBound q m i) [] ((List.range (mmN m.lit)).filterMap fun j =>
        if int32Excess (intSum m ((q.workRow m i).getD j 0) (a.getD i []) b j) = 0 then none
        else some (Ex.ofInt (int32Excess (intSum m ((q.workRow m i).getD j 0) (a.getD i []) b j)))) := by
  have hq : q.Accumulates m := by
    rw [Quad.Accumulates, hw, if_neg Bool.false_ne_true, hacc]
    exact nofun
  have hf : passFmt m = none := by rw [passFmt, hw, if_neg Bool.false_ne_true, hacc]; rfl
  have hwidth : accWidth m = 32 := by rw [accWidth, hw, hacc]; rfl
  obtain ⟨hrow, hbound⟩ := Prod.mk.inj (rowOf_pass m gen b hq ha hi)
  simp only [passCells, hf, passElem_int m b het, List.map_map, List.filterMap_map] at hrow hbound
  refine ⟨?_, hbound⟩
  rw [hrow, getD_newRow (by simp) fun _ => lt_of_mem_workRow q m]
  by_cases hj : j < mmN m.lit
  · rw [if_pos hj, if_pos hj, getD_map_range _ 0 hj, hwidth]
    exact narrow_mod 13 _ _
  · rw [if_neg hj, if_neg hj]

end

end Sys2Proof.Machine
end

section
/-! ## The propagation term (R142, R146, R147) -/

namespace Sys2Proof.Machine
open Sys2Proof Sys2Proof.Claims

/-! ### Bounds and magnitudes -/

/-- What a bound or a magnitude is: finite, or +∞. -/
def Ex.IsBound (x : Ex) : Prop := (∃ n m e st, x = .fin n m e st) ∨ x = .inf false

theorem isBound_fin (n : Bool) (m : Nat) (e : Int) (st : Bool) : (Ex.fin n m e st).IsBound := .inl ⟨n, m, e, st, rfl⟩

theorem isBound_zero : (Ex.zero false).IsBound := isBound_fin _ _ _ _

/-- A sum of bounds is one. -/
theorem isBound_bAdd {x y : Ex} (hx : x.IsBound) (hy : y.IsBound) : (bAdd [x, y]).IsBound := by
  rcases hx with ⟨n, m, e, st, rfl⟩ | rfl
  · rcases hy with ⟨n', m', e', st', rfl⟩ | rfl
    · have hout (t e : Int) (z : Bool) : (if t = 0 then Ex.zero z else .fin (decide (t < 0)) t.natAbs e false).IsBound := by
        split
        · exact isBound_fin _ _ _ _
        · exact isBound_fin _ _ _ _
      exact hout _ _ _
    · exact .inr rfl
  · exact .inr rfl

theorem isBound_bMul {x y : Ex} (hx : x.IsBound) (hy : y.IsBound) : (bMul x y).IsBound := by
  rcases hx with ⟨n, m, e, st, rfl⟩ | rfl
  · rcases hy with ⟨n', m', e', st', rfl⟩ | rfl
    · exact isBound_fin _ _ _ _
    · exact .inr rfl
  · exact .inr rfl

theorem isBound_bMax {l : List Ex} (h : ∀ x ∈ l, x.IsBound) : (bMax l).IsBound := by
  have hfold (l : List Ex) (m : Ex) (hm : m.IsBound) (h : ∀ x ∈ l, x.IsBound) :
      (l.foldl (fun m x => if m.lt x then x else m) m).IsBound := by
    induction l generalizing m with
    | nil => exact hm
    | cons x r ih =>
      refine ih _ ?_ fun y hy => h y (List.mem_cons_of_mem _ hy)
      dsimp only
      split
      · exact h x List.mem_cons_self
      · exact hm
  exact hfold l _ isBound_zero h

/-- A finite FP32 pattern, and +∞, as values. -/
theorem isBound_dec_fin {w : Nat} (h : w / 2 ^ 23 % 2 ^ 8 ≠ 255) : (Fmt.fp32.dec w).IsBound := by
  unfold Fmt.dec
  dsimp only
  split
  · exact isBound_fin _ _ _ _
  · rw [if_neg fun hc => h hc.2, if_neg fun hc => by cases hc.1]
    exact isBound_fin _ _ _ _

/-- Rounded towards +∞, a finite value is a finite pattern or +∞. -/
theorem roundFin_up (n : Bool) (m : Nat) (e : Int) (st : Bool) :
    let w := Fmt.fp32.roundFin { rnd := 2 } n m e st
    w / 2 ^ 23 % 2 ^ 8 ≠ 255 ∨ w = 0x7F800000 := by
  have hfin (mag : Nat) (h : mag ≤ Fmt.fp32.maxBits) : (Fmt.fp32.sgn n + mag) / 2 ^ 23 % 2 ^ 8 ≠ 255 := by
    have hmax : Fmt.fp32.maxBits = 0x7F7FFFFF := rfl
    have hsgn : Fmt.fp32.sgn n = 0 ∨ Fmt.fp32.sgn n = 2 ^ 31 := by cases n <;> decide
    omega
  have hfit (mag : Nat) : (if Fmt.fp32.maxBits < mag then Fmt.fp32.overflow { rnd := 2 } n
      else if false && Fmt.fp32.flushes && mag < 2 ^ Fmt.fp32.man then Fmt.fp32.sgn n else Fmt.fp32.sgn n + mag) / 2 ^ 23 % 2 ^ 8 ≠ 255 ∨
      (if Fmt.fp32.maxBits < mag then Fmt.fp32.overflow { rnd := 2 } n
      else if false && Fmt.fp32.flushes && mag < 2 ^ Fmt.fp32.man then Fmt.fp32.sgn n else Fmt.fp32.sgn n + mag) = 0x7F800000 := by
    by_cases h : Fmt.fp32.maxBits < mag
    · rw [if_pos h]
      cases n
      · exact .inr rfl
      · exact .inl (by decide)
    · rw [if_neg h, if_neg (by simp)]
      exact .inl (hfin mag (Nat.not_lt.1 h))
  intro w
  by_cases h0 : m = 0 ∧ !st
  · exact .inl (by rw [show w = Fmt.fp32.sgn n + 0 from if_pos h0]; exact hfin 0 (Nat.zero_le _))
  · rw [show w = _ from if_neg h0]
    exact hfit _

/-- Rounding towards +∞ keeps bounds. -/
theorem isBound_upTo {x : Ex} (h : x.IsBound) : (upTo x).IsBound := by
  rcases h with ⟨n, m, e, st, rfl⟩ | rfl
  · have hlt : Fmt.fp32.roundFin { rnd := 2 } n m e st < 2 ^ 32 := Fmt.roundFin_lt rfl _ _ _ _ _
    have hw : upTo (.fin n m e st) = Fmt.fp32.dec (Fmt.fp32.roundFin { rnd := 2 } n m e st) :=
      congrArg Fmt.fp32.dec ((BitVec.toNat_ofNat _ _).trans (Nat.mod_eq_of_lt hlt))
    rw [hw]
    rcases roundFin_up n m e st with h | h
    · exact isBound_dec_fin h
    · rw [h]
      exact .inr rfl
  · exact .inr rfl

/-- On bounds the model's rounding is that of R142. -/
theorem bUp_eq_upTo {x : Ex} (h : x.IsBound) : bUp x = upTo x := by
  have hnan : x.isNan = false := by
    rcases h with ⟨n, m, e, st, rfl⟩ | rfl <;> rfl
  rw [bUp, hnan, if_neg Bool.false_ne_true]
  rfl

theorem foldl_bUp {l : List Ex} (h : ∀ x ∈ l, x.IsBound) {z : Ex} (hz : z.IsBound) :
    l.foldl (fun acc x => bUp (bAdd [acc, x])) z = l.foldl (fun acc x => upTo (bAdd [acc, x])) z ∧
      (l.foldl (fun acc x => upTo (bAdd [acc, x])) z).IsBound := by
  induction l generalizing z with
  | nil => exact ⟨rfl, hz⟩
  | cons x r ih =>
    have hadd := isBound_bAdd hz (h x List.mem_cons_self)
    obtain ⟨heq, hb⟩ := ih (fun y hy => h y (List.mem_cons_of_mem _ hy)) (isBound_upTo hadd)
    rw [List.foldl_cons, List.foldl_cons, bUp_eq_upTo hadd]
    exact ⟨heq, hb⟩

theorem isBound_upSum {l : List Ex} (h : ∀ x ∈ l, x.IsBound) : (upSum l).IsBound := (foldl_bUp h isBound_zero).2

theorem foldl_bUp_eq_upSum {l : List Ex} (h : ∀ x ∈ l, x.IsBound) :
    l.foldl (fun acc x => bUp (bAdd [acc, x])) (.zero false) = upSum l := (foldl_bUp h isBound_zero).1

/-! ### Operands -/

/-- No element's value is known only to lie between two others. -/
def Ex.IsPlain (x : Ex) : Prop := ∀ n lo hi e, x ≠ .btw n lo hi e

theorem isPlain_dec (f : Fmt) (w : Nat) : (f.dec w).IsPlain := by
  intro n lo hi e h
  unfold Fmt.dec at h
  dsimp only at h
  split_ifs at h

theorem isPlain_val (et : Nat) (e : Elem) : (e.val et).IsPlain := by
  have hscale {x : Ex} (hx : x.IsPlain) (k : Int) : (x.scale k).IsPlain := by
    intro n lo hi e h
    cases x with
    | btw => exact hx _ _ _ _ rfl
    | _ => cases h
  unfold Elem.val
  split
  · exact nofun
  · split
    · unfold cbWeight
      split
      · exact nofun
      · dsimp only
        split <;> exact nofun
    · split
      · unfold mxValue
        split
        · exact nofun
        · exact hscale (isPlain_dec _ _) _
      · exact nofun

theorem isBound_magOf (m : MOp) {e : Elem} (h : (e.val (mET m.mode)).isNan = false) : (magOf m e).IsBound := by
  have hp := isPlain_val (mET m.mode) e
  unfold magOf
  split
  · generalize e.val (mET m.mode) = x at h hp
    cases x with
    | nan => cases h
    | inf n => exact .inr rfl
    | fin n m e st => exact isBound_fin _ _ _ _
    | btw n lo hi e => exact absurd rfl (hp n lo hi e)
  · exact isBound_zero

theorem mod_two_pow_div_mod {n i k : Nat} (h : i + k ≤ n) (w : Nat) : w % 2 ^ n / 2 ^ i % 2 ^ k = w / 2 ^ i % 2 ^ k := by
  rw [← Nat.mod_mul_right_div_self, ← Nat.mod_mul_right_div_self, ← Nat.pow_add, Nat.mod_mod_of_dvd _ (Nat.pow_dvd_pow 2 h)]

/-- An FP32 value is that of its low 32 bits. -/
theorem fp32_dec_mod (w : Nat) : Fmt.fp32.dec (w % 2 ^ 32) = Fmt.fp32.dec w := by
  have hs := mod_two_pow_div_mod (n := 32) (i := Fmt.fp32.exp + Fmt.fp32.man) (k := 1) (by decide) w
  have he := mod_two_pow_div_mod (n := 32) (i := Fmt.fp32.man) (k := Fmt.fp32.exp) (by decide) w
  have hm : w % 2 ^ 32 % 2 ^ Fmt.fp32.man = w % 2 ^ Fmt.fp32.man := Nat.mod_mod_of_dvd w (by decide)
  rw [Nat.pow_one] at hs
  unfold Fmt.dec
  rw [hs, he, hm]

/-- A bound as it is read is finite or +∞ (R147). -/
theorem isBound_readBound (w : Nat) : (boundEx (readBound w)).IsBound := by
  have hinf : (boundEx boundInf).IsBound := .inr rfl
  unfold readBound
  cases hd : Fmt.fp32.dec w with
  | fin n m e st =>
    dsimp only
    split
    · exact isBound_fin _ _ _ _
    · split
      · exact hinf
      · rw [boundEx, BitVec.toNat_ofNat, fp32_dec_mod, hd]
        exact isBound_fin _ _ _ _
  | _ => exact hinf

theorem Got.bind_of_ok {α β : Type} {g : Got α} {x : α} (h : g = .ok x) (f : α → Got β) : g.bind f = f x := by rw [h]; rfl

theorem Got.map_of_ok {α β : Type} {g : Got α} {x : α} (h : g = .ok x) (f : α → β) : g.map f = .ok (f x) := by rw [h]; rfl

theorem Got.map_eq_ok {α β : Type} {g : Got α} {f : α → β} {y : β} (h : g.map f = .ok y) : ∃ x, g = .ok x ∧ f x = y := by
  obtain ⟨x, hx, e⟩ := Got.bind_eq_ok h
  cases e
  exact ⟨x, hx, rfl⟩

/-- Each of all is of one. -/
theorem exists_of_mem_gotAll {α β : Type} {f : α → Got β} {l : List α} {ys : List β} (h : gotAll f l = .ok ys) {y : β} (hy : y ∈ ys) :
    ∃ x ∈ l, f x = .ok y := by
  induction l generalizing ys with
  | nil =>
    cases h
    cases hy
  | cons x r ih =>
    unfold gotAll at h
    cases hx : f x with
    | ok z =>
      rw [hx] at h
      obtain ⟨zs, hzs, rfl⟩ := Got.map_eq_ok (f := fun ys => z :: ys) h
      rcases List.mem_cons.1 hy with rfl | hy
      · exact ⟨x, List.mem_cons_self, hx⟩
      · obtain ⟨k, hk, e⟩ := ih hzs hy
        exact ⟨k, List.mem_cons_of_mem _ hk, e⟩
    | wait k =>
      rw [hx] at h
      cases hr : gotAll f r <;> rw [hr] at h <;> cases h
    | _ => rw [hx] at h; cases h

theorem isBound_readBoundOf {t : Tlr} {rd : Nat → Nat → Nat → Got (List Byte)} {r : Nat} {w : Word} (h : t.readBoundOf rd r = .ok w) :
    (boundEx w).IsBound := by
  unfold Tlr.readBoundOf at h
  split at h
  · cases h
    exact isBound_fin _ _ _ _
  · obtain ⟨bs, -, rfl⟩ := Got.map_eq_ok h
    exact isBound_readBound _

/-! ### P_i (R146) -/

section
variable (m : MOp) {a b : List (List Elem)} {da db : List Word}

/-- The terms of a group, from its operands. -/
theorem propTerms_eq {s : State} (ha : s.aOver m m.group (List.range (mmK m.lit)) = .ok a)
    (hb : s.bOver m m.group (List.range (mmK m.lit)) = .ok b)
    (hdb : gotAll (fun k => match m.bTlr k with
      | some t => t.readBoundOf (s.matRead m) k
      | none => .ok 0) (List.range (mmK m.lit)) = .ok db)
    (hda : gotAll (fun i => match m.aSource m.group i with
      | some (_, t, r) => t.readBoundOf (s.matRead m) r
      | none => .ok 0) (List.range (m.rows m.group)) = .ok da)
    (hka : ∀ r ∈ a, ∀ e ∈ r, (e.val (mET m.mode)).isNan = false)
    (hkb : ∀ r ∈ b, ∀ e ∈ r, (e.val (mET m.mode)).isNan = false) :
    s.propTerms m = .ok ((List.zip a da).map fun p => propTerm m p.1 p.2 b db) := by
  have hbounds {w : Word} (h : w ∈ da ∨ w ∈ db) : (boundEx w).IsBound := by
    rcases h with h | h
    · obtain ⟨i, -, e⟩ := exists_of_mem_gotAll hda h
      split at e
      · exact isBound_readBoundOf e
      · cases e
        exact isBound_fin _ _ _ _
    · obtain ⟨k, -, e⟩ := exists_of_mem_gotAll hdb h
      split at e
      · exact isBound_readBoundOf e
      · cases e
        exact isBound_fin _ _ _ _
  have hcell (j : Nat) : ∀ r ∈ b, (magOf m (r.getD j ⟨false, 0, 127⟩)).IsBound := fun r hr => by
    rw [List.getD_eq_getElem?_getD]
    cases hj : r[j]? with
    | none => exact isBound_zero
    | some e => exact isBound_magOf m (hkb r hr e (List.mem_of_getElem? hj))
  have hcols : (List.range (mmN m.lit)).map (fun j =>
      b.foldl (fun acc row => bUp (bAdd [acc, magOf m (row.getD j ⟨false, 0, 127⟩)])) (.zero false)) =
      (List.range (mmN m.lit)).map fun j => upSum (b.map fun row => magOf m (row.getD j ⟨false, 0, 127⟩)) :=
    List.map_congr_left fun j _ => by
      rw [← foldl_bUp_eq_upSum fun x hx => by obtain ⟨r, hr, rfl⟩ := List.mem_map.1 hx; exact hcell j r hr, List.foldl_map]
  have hmax : (bMax ((List.range (mmN m.lit)).map fun j => upSum (b.map fun row => magOf m (row.getD j ⟨false, 0, 127⟩)))).IsBound :=
    isBound_bMax fun x hx => by
      obtain ⟨j, -, rfl⟩ := List.mem_map.1 hx
      exact isBound_upSum fun x hx => by obtain ⟨r, hr, rfl⟩ := List.mem_map.1 hx; exact hcell j r hr
  have hprod {p : List Elem × Word} (hp : p ∈ List.zip a da) : ∀ x ∈ List.zip p.1 db, (bMul (magOf m x.1) (boundEx x.2)).IsBound :=
    fun x hx => isBound_bMul (isBound_magOf m (hka p.1 (List.of_mem_zip hp).1 x.1 (List.of_mem_zip hx).1))
      (hbounds (.inr (List.of_mem_zip hx).2))
  have hterms {p : List Elem × Word} (hp : p ∈ List.zip a da) : ∀ y ∈ ((List.zip p.1 db).filter fun x => x.1.st || m.op != 0xF0).map
      (fun x => upTo (bMul (magOf m x.1) (boundEx x.2))), y.IsBound := fun y hy => by
    obtain ⟨x, hx, rfl⟩ := List.mem_map.1 hy
    exact isBound_upTo (hprod hp x (List.mem_filter.1 hx).1)
  have hrows {p : List Elem × Word} (hp : p ∈ List.zip a da) : (List.zip p.1 db).foldl (fun acc x =>
      if x.1.st || m.op != 0xF0 then bUp (bAdd [acc, bUp (bMul (magOf m x.1) (boundEx x.2))]) else acc) (.zero false) =
      upSum (((List.zip p.1 db).filter fun x => x.1.st || m.op != 0xF0).map fun x => upTo (bMul (magOf m x.1) (boundEx x.2))) := by
    rw [← foldl_bUp_eq_upSum (hterms hp), List.foldl_map, List.foldl_filter]
    refine List.foldl_ext _ _ _ fun acc x hx => ?_
    rw [bUp_eq_upTo (hprod hp x hx)]
  refine (Got.bind_of_ok ha _).trans ((Got.bind_of_ok hb _).trans ((Got.bind_of_ok hdb _).trans ((Got.map_of_ok hda _).trans ?_)))
  refine congrArg Got.ok (List.map_congr_left fun p hp => ?_)
  have hmul := isBound_bMul (hbounds (.inl (List.of_mem_zip hp).2)) hmax
  have hsum := isBound_bAdd (isBound_upTo hmul) (isBound_upSum (hterms hp))
  refine (congrArg₂ (fun (cols : List Ex) (rows : Ex) => bUp (bAdd [bUp (bMul (boundEx p.2) (bMax cols)), rows])) hcols (hrows hp)).trans ?_
  rw [bUp_eq_upTo hmul, bUp_eq_upTo hsum]
  rfl

end

/-- The step after the last pass, from the terms of a group's rows. -/
def addTerms (m : MOp) (q : Quad) (ps : List Ex) : Quad :=
  (List.zip (List.range ps.length) ps).foldl (fun (x : Quad) p =>
    x.setBound m.key.gid (m.tile m.group) p.1 (boundUp (bAdd [boundEx (x.bound m.key.gid (m.tile m.group) p.1), p.2]))) q

theorem rowBound_addTerms (m : MOp) (q : Quad) (ps : List Ex) (i : Nat) :
    rowBound (addTerms m q ps) m i = (ps[i]?).elim (rowBound q m i) (boundPlus (rowBound q m i)) := by
  unfold addTerms
  by_cases hi : i < ps.length
  · obtain ⟨q', -, hold, hnew⟩ := foldl_at (key := (·.1)) (obs := fun q => rowBound q m i) (inv := fun _ => True)
      (g := fun (x : Quad) p => x.setBound m.key.gid (m.tile m.group) p.1
        (boundUp (bAdd [boundEx (x.bound m.key.gid (m.tile m.group) p.1), p.2])))
      (numbered_nodup ps) (mem_numbered hi (.zero false)) (fun _ _ _ _ => trivial)
      (fun p _ hne q _ => rowBound_setBound_ne q m _ hne) (s := q) trivial
    rw [hnew, rowBound_setBound_self, List.getD_eq_getElem _ _ hi, List.getElem?_eq_getElem hi]
    exact congrArg (boundPlus · ps[i]) hold
  · rw [List.getElem?_eq_none (Nat.not_lt.1 hi)]
    refine (foldl_keeps (inv := fun _ => True) (obs := fun q => rowBound q m i) (fun p hp q _ => ⟨trivial, ?_⟩) trivial).2
    have hlt := List.mem_range.1 (List.of_mem_zip hp).1
    exact rowBound_setBound_ne q m _ (by omega)

theorem addTerms_keeps (m : MOp) (q : Quad) (ps : List Ex) : (addTerms m q ps).tiles = q.tiles ∧ (addTerms m q ps).bstat = q.bstat := by
  have h := (foldl_keeps (g := fun (x : Quad) (p : Nat × Ex) => x.setBound m.key.gid (m.tile m.group) p.1
    (boundUp (bAdd [boundEx (x.bound m.key.gid (m.tile m.group) p.1), p.2]))) (inv := fun _ => True)
    (obs := fun q => (q.tiles, q.bstat)) (l := List.zip (List.range ps.length) ps) (fun p _ q _ => ⟨trivial, rfl⟩) (s := q) trivial).2
  exact Prod.mk.inj h

/-- The grant after the last pass of an operation with BPROP set. -/
theorem grantPass_prop {s : State} {n : Nat} {m : MOp} {live : List Nat} {ps : List Ex} (hbp : mBPROP m.mode = true)
    (hlive : s.liveK m = .ok live) (hstep : (live.length + kGroup (mET m.mode) - 1) / kGroup (mET m.mode) ≤ m.step)
    (hps : s.propTerms m = .ok ps) :
    ∃ q0 : Quad, q0.tiles = (s.quadD n).tiles ∧ q0.bstat = (s.quadD n).bstat ∧ (∀ i, rowBound q0 m i = rowBound (s.quadD n) m i) ∧
      s.grantPass n m = .ok ((addTerms m q0 ps).endGroup m
        ((live.length + kGroup (mET m.mode) - 1) / kGroup (mET m.mode) != 0)) := by
  refine ⟨if m.wantsWide && !live.isEmpty && m.step == 0 && !m.wide then (s.quadD n).claimWide m else s.quadD n, ?_, ?_,
    fun i => ?_, (Got.bind_of_ok hlive _).trans ?_⟩
  · split <;> rfl
  · split <;> rfl
  · split <;> rfl
  · rw [if_neg (by rw [hbp]; simp), if_neg (Nat.not_lt.2 hstep)]
    exact Got.map_of_ok hps _

end Sys2Proof.Machine
end

section
/-! ## The end of a group and the wide re-issue (R139, R149 to R152) -/

namespace Sys2Proof.Machine
open Sys2Proof Sys2Proof.Claims

/-! ### The threshold test (R149) -/

theorem rowFails_iff {q : Quad} {m : MOp} {i : Nat} (hi : i < m.rows m.group) : q.rowFails m i = true ↔ failsTest q m i := by
  have hvals : ((q.accRow m.key.gid (mACC m.mode) (m.tile m.group) i).take (mmN m.lit)).map
      (fun x => match accFmt (mACC m.mode) with | some f => f.dec x | none => Ex.ofInt (etInt 13 x)) = tileVals q m i := by
    unfold tileVals
    refine List.map_congr_left fun x _ => ?_
    rcases mACC m.mode with _ | _ | k <;> rfl
  have hlam : (match mACC m.mode with
      | 0 => Ex.fin false 1 (-126) false
      | 1 => .fin false 1 (-1022) false
      | _ => .fin false 1 0 false) = Ex.fin false 1 (if mACC m.mode = 0 then -126 else if mACC m.mode = 1 then -1022 else 0) false := by
    rcases mACC m.mode with _ | _ | k <;> rfl
  have hscale : sgnOf 8 m.bthr.toNat = (BitVec.ofNat 8 m.bthr.toNat).toInt := sgnOf_eq_toInt (by decide) _
  have hrow : q.rowFails m i = ((tileVals q m i).all Ex.isFin &&
      ((bMax (Ex.fin false 1 (if mACC m.mode = 0 then -126 else if mACC m.mode = 1 then -1022 else 0) false ::
        (tileVals q m i).map Ex.abs)).scale (BitVec.ofNat 8 m.bthr.toNat).toInt).lt
        (boundEx (q.bound m.key.gid (m.tile m.group) i))) := by
    rw [← hvals, ← hlam, ← hscale]
    rfl
  rw [hrow, Bool.and_eq_true, List.all_eq_true]
  exact ⟨fun h => ⟨hi, h⟩, fun h => h.2⟩

/-! ### The status word (R139) -/

/-- The status word of a group's tile at its end, and with row i reported. -/
def endStat (q : Quad) (m : MOp) : Word :=
  if m.wide then setProp (mBPROP m.mode) (q.stat m.key.gid (m.tile m.group)) ||| 1
  else setProp (mBPROP m.mode) (q.stat m.key.gid (m.tile m.group))
def failStat (q : Quad) (m : MOp) (i : Nat) : Word := (endStat q m &&& 0xFFFF00FF) ||| BitVec.ofNat 32 (256 * i) ||| 2

theorem getLsbD_endStat (q : Quad) (m : MOp) :
    (endStat q m).getLsbD 2 = mBPROP m.mode ∧
    (endStat q m).getLsbD 0 = (m.wide || (q.stat m.key.gid (m.tile m.group)).getLsbD 0) ∧
    (endStat q m).getLsbD 1 = (q.stat m.key.gid (m.tile m.group)).getLsbD 1 := by
  unfold endStat setProp
  generalize q.stat m.key.gid (m.tile m.group) = w
  cases m.wide <;> cases mBPROP m.mode <;> simp

theorem getLsbD_failStat (q : Quad) (m : MOp) (i : Nat) :
    (failStat q m i).getLsbD 2 = (endStat q m).getLsbD 2 ∧ (failStat q m i).getLsbD 0 = (endStat q m).getLsbD 0 ∧
    (failStat q m i).getLsbD 1 = true ∧ (i < 128 → bits (failStat q m i).toNat 15 8 = i) := by
  have hrow (k : Nat) (hk : k < 32) : (BitVec.ofNat 32 (256 * i)).getLsbD k = (decide (8 ≤ k) && i.testBit (k - 8)) := by
    rw [BitVec.getLsbD_ofNat, decide_eq_true hk, Bool.true_and, show 256 * i = 2 ^ 8 * i from rfl, Nat.testBit_two_pow_mul]
  have hbit {k : Nat} {x y : Bool} (hk : k < 32) (hx : (0xFFFF00FF : Word).getLsbD k = x) (hy : (2 : Word).getLsbD k = y) :
      (failStat q m i).getLsbD k = ((endStat q m).getLsbD k && x || (decide (8 ≤ k) && i.testBit (k - 8)) || y) := by
    rw [failStat, BitVec.getLsbD_or, BitVec.getLsbD_or, BitVec.getLsbD_and, hrow k hk, hx, hy]
  refine ⟨?_, ?_, ?_, ?_⟩
  · exact (hbit (x := true) (y := false) (by decide) (by decide) (by decide)).trans (by simp)
  · exact (hbit (x := true) (y := false) (by decide) (by decide) (by decide)).trans (by simp)
  · exact (hbit (x := true) (y := true) (by decide) (by decide) (by decide)).trans (by simp)
  · refine fun hi => Nat.eq_of_testBit_eq fun k => ?_
    rw [bits, Nat.testBit_mod_two_pow, Nat.testBit_div_two_pow, BitVec.testBit_toNat]
    by_cases hk : k < 8
    · have hmask : (0xFFFF00FF : Word).getLsbD (k + 8) = false ∧ (2 : Word).getLsbD (k + 8) = false := by
        interval_cases k <;> decide
      rw [hbit (by omega) hmask.1 hmask.2]
      simp [hk]
    · have hlt : i.testBit k = false :=
        Nat.testBit_lt_two_pow (Nat.lt_of_lt_of_le hi (Nat.pow_le_pow_right (n := 2) (i := 7) (by decide) (by omega)))
      simp [hlt, hk]

/-! ### The end of a group -/

theorem skipEmpty_trip (m : MOp) (n : Nat) : (m.skipEmpty n).trip = m.trip := by
  induction n generalizing m with
  | zero => rfl
  | succ n ih =>
    unfold MOp.skipEmpty
    split
    · rfl
    · split
      · exact ih _
      · rfl

theorem nextGroup_trip (q : Quad) (m : MOp) : (q.nextGroup m).2.trip = m.trip := skipEmpty_trip _ _

theorem stat_setStat (q : Quad) (gid n : Nat) (w : Word) : (q.setStat gid n w).stat gid n = w := sget_sput_self _ _ _ _

theorem stat_reissue (q : Quad) (m : MOp) (gid n : Nat) : (q.reissue m).stat gid n = q.stat gid n := by
  unfold Quad.reissue
  split <;> rfl

section
variable {q : Quad} {m : MOp} {ran : Bool}

/-- The group ends without a report where no row fails. -/
theorem endGroup_of_none (h : ¬(bits m.bthr.toNat 8 8 = 1 ∧ ran = true) ∨ ∀ i, ¬failsTest q m i) :
    q.endGroup m ran = (q.setStat m.key.gid (m.tile m.group) (endStat q m)).nextGroup m := by
  have hlist : (if bits m.bthr.toNat 8 8 = 1 ∧ ran = true then (List.range (m.rows m.group)).filter (q.rowFails m) else []) = [] := by
    rcases h with h | h
    · exact if_neg h
    · refine (ite_eq_right_iff.2 fun _ => List.filter_eq_nil_iff.2 fun i hi hf => ?_)
      exact h i ((rowFails_iff (List.mem_range.1 hi)).1 hf)
  unfold Quad.endGroup
  simp only [hlist]
  rfl

/-- The lowest row that fails is reported; where the operation may be re-issued wide it is, else the group ends. -/
theorem endGroup_of_fails {i : Nat} (ht : bits m.bthr.toNat 8 8 = 1 ∧ ran = true) (hf : failsTest q m i)
    (hmin : ∀ k, k < i → ¬failsTest q m k) :
    q.endGroup m ran =
      if m.wantsWide && !m.wide then ((q.setStat m.key.gid (m.tile m.group) (failStat q m i)).reissue m,
        { m with wide := true, step := 0, gen := m.gen0 })
      else (q.setStat m.key.gid (m.tile m.group) (failStat q m i)).nextGroup
        { m with trip := m.trip.elim (some (m.tile m.group, i)) some } := by
  have hi : i < m.rows m.group := hf.1
  have hhead : ((List.range (m.rows m.group)).filter (q.rowFails m)).head? = some i := by
    rw [List.head?_filter, List.find?_range_eq_some]
    refine ⟨(rowFails_iff hi).2 hf, List.mem_range.2 hi, fun k hk => ?_⟩
    rw [Bool.not_eq_true']
    exact Bool.eq_false_iff.2 fun hc => hmin k hk ((rowFails_iff (Nat.lt_trans hk hi)).1 hc)
  obtain ⟨r, hr⟩ := List.head?_eq_some_iff.1 hhead
  have hlist : (if bits m.bthr.toNat 8 8 = 1 ∧ ran = true then (List.range (m.rows m.group)).filter (q.rowFails m) else []) =
      i :: r := (if_pos ht).trans hr
  unfold Quad.endGroup
  simp only [hlist]
  cases m.trip <;> rfl

end

/-- The re-issue is asked for, of a group that is tested. -/
theorem wantsWide_iff {m : MOp} (h : bits m.bthr.toNat 8 8 = 1) :
    (m.wantsWide && !m.wide) = true ↔ mBWIDE m.mode = true ∧ mACC m.mode = 0 ∧ m.wide = false := by
  simp [MOp.wantsWide, h, and_assoc]

/-- The status word that a report leaves. -/
theorem stat_endGroup_of_fails {q : Quad} {m : MOp} {ran : Bool} {i : Nat} (ht : bits m.bthr.toNat 8 8 = 1 ∧ ran = true)
    (hf : failsTest q m i) (hmin : ∀ k, k < i → ¬failsTest q m k) :
    (q.endGroup m ran).1.stat m.key.gid (m.tile m.group) = failStat q m i := by
  rw [endGroup_of_fails ht hf hmin]
  split
  · exact (stat_reissue _ _ _ _).trans (stat_setStat _ _ _ _)
  · exact stat_setStat _ _ _ _

/-! ### The wide re-issue (R151, R152) -/

/-- Each value of a store in its canonical form, put through a map that keeps the default. -/
theorem sget_map_filter {α β : Type} [DecidableEq α] [DecidableEq β] {z : α} {z' : β} {f : α → β} (hf : f z = z') {lo k : Nat} {m : SMap α}
    (h : swf z lo m = true) : sget z' k ((m.map fun p => (p.1, f p.2)).filter fun p => p.2 ≠ z') = f (sget z k m) := by
  have hkeys {lo : Nat} {m : SMap α} (h : swf z lo m = true) : ∀ p ∈ (m.map fun p => (p.1, f p.2)).filter (fun p => p.2 ≠ z'), lo ≤ p.1 := by
    induction m generalizing lo with
    | nil => nofun
    | cons p r ih =>
      obtain ⟨j, x⟩ := p
      simp only [swf, Bool.and_eq_true, decide_eq_true_eq] at h
      obtain ⟨⟨hlo, -⟩, hr⟩ := h
      intro p hp
      obtain ⟨hp, hne⟩ := List.mem_filter.1 hp
      rcases List.mem_cons.1 hp with rfl | hp
      · exact hlo
      · have := ih hr p (List.mem_filter.2 ⟨hp, hne⟩)
        omega
  induction m generalizing lo with
  | nil => exact hf.symm
  | cons p r ih =>
    obtain ⟨j, x⟩ := p
    simp only [swf, Bool.and_eq_true, decide_eq_true_eq] at h
    obtain ⟨-, hr⟩ := h
    have hrest : k ≤ j → sget z' k ((r.map fun p => (p.1, f p.2)).filter fun p => p.2 ≠ z') = z' := fun hk =>
      sget_of_forall_gt z' fun p hp => by
        have := hkeys hr p hp
        omega
    rw [List.map_cons, List.filter_cons]
    by_cases hx : f x = z'
    · rw [if_neg (by simpa using hx)]
      by_cases hkj : k = j
      · rw [hrest (Nat.le_of_eq hkj), sget, if_pos hkj, hx]
      · by_cases hlt : k < j
        · rw [hrest (Nat.le_of_lt hlt), sget, if_neg hkj, if_pos hlt, hf]
        · rw [ih hr, sget, if_neg hkj, if_neg hlt]
    · rw [if_pos (by simpa using hx), sget, sget]
      by_cases hkj : k = j
      · rw [if_pos hkj, if_pos hkj]
      · by_cases hlt : k < j
        · rw [if_neg hkj, if_neg hkj, if_pos hlt, if_pos hlt, hf]
        · rw [if_neg hkj, if_neg hkj, if_neg hlt, if_neg hlt, ih hr]

section
variable {q : Quad} {w : WideStore} (m : MOp) (hw : q.wide = some w)
include hw

theorem reissue_tile {k : Nat} (hk : k < 16384) :
    sget 0 (16384 * q.phys m.key.gid (m.tile m.group) + k) (q.reissue m).tiles = sget 0 k w.tile := by
  have hcell := sget_sputRow (0 : Word) (k := 16384 * q.phys m.key.gid (m.tile m.group))
    (l := (List.range 16384).map fun k => sget 0 k w.tile) q.tiles (i := k) (by rw [List.length_map, List.length_range]; exact hk)
  rw [getD_map_range _ 0 hk] at hcell
  unfold Quad.reissue
  rw [hw]
  exact hcell

theorem reissue_bound {k : Nat} (hk : k < 128) :
    sget 0 (128 * q.phys m.key.gid (m.tile m.group) + k) (q.reissue m).bounds = sget 0 k w.bound := by
  have hcell := sget_sputRow (0 : Word) (k := 128 * q.phys m.key.gid (m.tile m.group))
    (l := sgets 0 0 128 w.bound) q.bounds (i := k) (by rw [sgets, List.length_map, List.length_range]; exact hk)
  rw [sgets, getD_map_range _ 0 hk, Nat.zero_add] at hcell
  unfold Quad.reissue
  rw [hw]
  exact hcell

/-- The FP64 accumulator starts from the tile's values. -/
theorem reissue_acc (hwf : swf (0 : Word) 0 w.tile = true) : ∃ x, (q.reissue m).wide = some x ∧
    ∀ k, sget 0 k x.acc = BitVec.ofNat 64 (Fmt.fp64.round {} (Fmt.fp32.dec (sget 0 k w.tile).toNat)) := by
  have hzero : BitVec.ofNat 64 (Fmt.fp64.round {} (Fmt.fp32.dec (0 : Word).toNat)) = 0 := by decide
  refine ⟨{ w with acc := (w.tile.map fun p =>
      (p.1, BitVec.ofNat 64 (Fmt.fp64.round {} (Fmt.fp32.dec p.2.toNat)))).filter fun p => p.2 ≠ 0 }, ?_, fun k => ?_⟩
  · unfold Quad.reissue
    rw [hw]
  · exact sget_map_filter (f := fun x : Word => BitVec.ofNat 64 (Fmt.fp64.round {} (Fmt.fp32.dec x.toNat))) hzero hwf

end

/-! ### Narrowing (R151) -/

/-- A row of the FP64 accumulator rounded to FP32, and the row's step. -/
def narrowCells (m : MOp) (gen : Word) (q : Quad) (i : Nat) : List Nat :=
  (q.workRow m i).map fun x => Fmt.fp32.round (m.rm gen i) (Fmt.fp64.dec x)
def narrowRow (m : MOp) (gen : Word) (q : Quad) (i : Nat) : Quad :=
  (q.setAccRow m.key.gid 0 (m.tile m.group) i ((narrowCells m gen q i).take (mmN m.lit) ++
    (q.accRow m.key.gid 0 (m.tile m.group) i).drop (mmN m.lit))).setBound m.key.gid (m.tile m.group) i
    (passBound (some .fp32) (m.rm gen i) (q.bound m.key.gid (m.tile m.group) i) ((narrowCells m gen q i).take (mmN m.lit)) [])

theorem narrow_eq (q : Quad) (m : MOp) (gen : Word) : q.narrow m gen = (List.range (m.rows m.group)).foldl (narrowRow m gen) q := rfl

section
variable (m : MOp) (gen : Word) (hw : m.wide = true)

theorem length_narrowCells {q : Quad} (hq : q.Accumulates m) (i : Nat) : ((narrowCells m gen q i).take (mmN m.lit)).length = mmN m.lit := by
  have := mmN_le m.lit
  rw [narrowCells, List.length_take, List.length_map, length_workRow q m hq]
  omega

theorem length_narrowRow {q : Quad} (hq : q.Accumulates m) (i : Nat) : ((narrowCells m gen q i).take (mmN m.lit) ++
    (q.accRow m.key.gid 0 (m.tile m.group) i).drop (mmN m.lit)).length = 128 := by
  have := mmN_le m.lit
  rw [List.length_append, length_narrowCells m gen hq, List.length_drop, length_accRow]
  omega

/-- What is seen of row i: the tile's elements, the accumulator's, and the bound. -/
def narrowOf (m : MOp) (i : Nat) (q : Quad) : List Nat × List Nat × Word :=
  (q.accRow m.key.gid 0 (m.tile m.group) i, q.workRow m i, rowBound q m i)

include hw

theorem workRow_narrowRow (q : Quad) (r i : Nat) : (narrowRow m gen q r).workRow m i = q.workRow m i := by
  unfold Quad.workRow
  rw [hw]
  rfl

theorem narrowRow_accumulates {q : Quad} (hq : q.Accumulates m) (i : Nat) : (narrowRow m gen q i).Accumulates m := by
  unfold Quad.Accumulates at *
  rw [hw] at *
  exact hq

theorem narrowOf_narrowRow_ne {q : Quad} (hq : q.Accumulates m) {r i : Nat} (hr : r < 128) (hi : i < 128) (h : r ≠ i) :
    narrowOf m i (narrowRow m gen q r) = narrowOf m i q := by
  unfold narrowOf
  rw [workRow_narrowRow m gen hw]
  refine congrArg₂ Prod.mk (accRow_setAccRow_ne q _ _ _ (length_narrowRow m gen hq r) hr hi h) (congrArg (Prod.mk _) ?_)
  exact rowBound_setBound_ne _ _ _ h

theorem narrow_row {q : Quad} (hq : q.Accumulates m) (hrows : m.rows m.group ≤ 128) {i : Nat} (hi : i < m.rows m.group) (j : Nat) :
    ((q.narrow m gen).accRow m.key.gid 0 (m.tile m.group) i).getD j 0 =
      (if j < mmN m.lit then (narrowCells m gen q i).getD j 0 % 2 ^ 32 else (q.accRow m.key.gid 0 (m.tile m.group) i).getD j 0) ∧
    rowBound (q.narrow m gen) m i = passAdds .fp32 (mRND m.mode) (rowBound q m i) ((narrowCells m gen q i).take (mmN m.lit)) := by
  rw [narrow_eq]
  obtain ⟨q', hq', hold, hnew⟩ := foldl_at (g := narrowRow m gen) (key := id) (obs := narrowOf m i) (inv := fun q => q.Accumulates m)
    (by rw [List.map_id]; exact List.nodup_range) (List.mem_range.2 hi)
    (fun r _ q hq => narrowRow_accumulates m gen hw hq r)
    (fun r hr hne q hq => narrowOf_narrowRow_ne m gen hw hq
      (Nat.lt_of_lt_of_le (List.mem_range.1 hr) hrows) (Nat.lt_of_lt_of_le hi hrows) hne) hq
  obtain ⟨hacc, hrest⟩ := Prod.mk.inj hold
  obtain ⟨hwork, hbound⟩ := Prod.mk.inj hrest
  obtain ⟨hacc', hrest'⟩ := Prod.mk.inj hnew
  have hbound' := (Prod.mk.inj hrest').2
  have hcells : narrowCells m gen q' i = narrowCells m gen q i := congrArg (List.map _) hwork
  refine ⟨?_, ?_⟩
  · rw [hacc']
    have hrow := accRow_setAccRow_self q' m.key.gid 0 (m.tile m.group) (length_narrowRow m gen hq' i)
      (Nat.lt_of_lt_of_le hi hrows) nofun
    refine (congrArg (List.getD · j 0) hrow).trans ?_
    rw [if_neg Nat.zero_ne_one, getD_newRow (length_narrowCells m gen hq' i) fun _ hx => by
      simpa using lt_of_mem_accRow _ _ _ _ hx, hcells, hacc]
    by_cases hj : j < mmN m.lit
    · rw [if_pos hj, if_pos hj, List.getD_eq_getElem?_getD, List.getElem?_take_of_lt hj, List.getD_eq_getElem?_getD]
    · rw [if_neg hj, if_neg hj]
  · rw [hbound']
    refine (rowBound_setBound_self _ _ _).trans ?_
    rw [passBound_some, hcells]
    exact congrArg (passAdds .fp32 (mRND m.mode) · _) hbound

end

end Sys2Proof.Machine
end

section
/-! ## Matrix passes: the clauses of R133, R136, R142 to R151 together -/

namespace Sys2Proof.Machine
open Sys2Proof Sys2Proof.Claims

/-- The passes whose accumulator is FP32 or FP64. -/
theorem pass_formats {q : Quad} {m : MOp} (h : (m.wide = true ∧ q.wide.isSome) ∨ (m.wide = false ∧ (mACC m.mode = 0 ∨
      (mACC m.mode = 1 ∧ q.phys m.key.gid (m.tile m.group) ≠ q.phys m.key.gid (m.tile m.group + 1))))) :
    q.Accumulates m ∧ passFmt m = some (if m.wide = true ∨ mACC m.mode = 1 then Fmt.fp64 else Fmt.fp32) := by
  unfold Quad.Accumulates passFmt
  rcases h with ⟨hw, hs⟩ | ⟨hw, hacc | ⟨hacc, hne⟩⟩
  · simp [hw, hs]
  · simp [hw, hacc, accFmt]
  · simp [hw, hacc, accFmt, hne]

theorem pass_format_ok (m : MOp) :
    let f := if m.wide = true ∨ mACC m.mode = 1 then Fmt.fp64 else Fmt.fp32
    f.width = accWidth m ∧ f.kind = .ieee ∧ 0 < f.man := by
  unfold accWidth
  split <;> decide

/-- An FP32 pass, read from the tile. -/
theorem pass_tile {q : Quad} {m : MOp} (gen : Word) (b : List (List Elem)) (hw : m.wide = false) (hacc : mACC m.mode = 0)
    {a : List (List Elem)} (ha : a.length ≤ 128) {i : Nat} (hi : i < a.length) (j : Nat) :
    elemOf 32 0 (((q.pass m gen a b).accRow m.key.gid 0 (m.tile m.group) i).getD j 0) =
      if j < mmN m.lit then fltCell m gen b .fp32 (q.accRow m.key.gid 0 (m.tile m.group) i) i (a.getD i []) j % 2 ^ 32
      else (q.accRow m.key.gid 0 (m.tile m.group) i).getD j 0 := by
  have hrow (q : Quad) : q.workRow m i = q.accRow m.key.gid 0 (m.tile m.group) i := by
    rw [Quad.workRow, hw, if_neg Bool.false_ne_true, hacc]
  have hwidth : accWidth m = 32 := by rw [accWidth, hw, hacc]; rfl
  obtain ⟨hq, hf⟩ := pass_formats (q := q) (m := m) (.inr ⟨hw, .inl hacc⟩)
  rw [if_neg (by rw [hw, hacc]; decide)] at hf
  have hnew := (pass_flt m gen b hq hf (by rw [hwidth]; rfl) rfl (by decide) ha hi j).1
  rw [hrow, hrow, hwidth] at hnew
  have hlow (x : Nat) (hx : x < 2 ^ 32) : elemOf 32 0 x = x := by
    rw [elemOf, Nat.mul_zero, Nat.pow_zero, Nat.div_one, Nat.mod_eq_of_lt hx]
  rw [hnew]
  split
  · exact hlow _ (Nat.mod_lt _ (Nat.two_pow_pos _))
  · refine hlow _ ?_
    by_cases hj : j < (q.accRow m.key.gid 0 (m.tile m.group) i).length
    · rw [List.getD_eq_getElem _ _ hj]
      simpa using lt_of_mem_accRow _ _ _ _ (List.getElem_mem hj)
    · rw [List.getD_eq_default _ _ (Nat.not_lt.1 hj)]
      decide

/-- What an INT32 pass adds to a row's bound. -/
theorem pass_int_bound {q : Quad} {m : MOp} (gen : Word) (b : List (List Elem))
    (het : mET m.mode = 9 ∨ mET m.mode = 10 ∨ mET m.mode = 16) (hw : m.wide = false) (hacc : mACC m.mode = 2)
    {a : List (List Elem)} (ha : a.length ≤ 128) {i : Nat} (hi : i < a.length) {exc : Nat → Nat}
    (hexc : ∀ j, exc j = int32Excess (intSum m ((q.workRow m i).getD j 0) (a.getD i []) b j)) :
    ((∀ k, k < mmN m.lit → exc k = 0) → rowBound (q.pass m gen a b) m i = rowBound q m i) ∧
    ((∃ k, k < mmN m.lit ∧ exc k ≠ 0) → mSAT m.mode = false → rowBound (q.pass m gen a b) m i = boundInf) ∧
    ∀ k, k < mmN m.lit → exc k ≠ 0 → mSAT m.mode = true → (∀ l, l < mmN m.lit → exc l ≤ exc k) →
      rowBound (q.pass m gen a b) m i = boundPlus (rowBound q m i) (Ex.ofInt (exc k)) := by
  have hbound := (pass_int m gen b het hw hacc (q := q) ha hi 0).2
  simp only [← hexc] at hbound
  have hlist : ((List.range (mmN m.lit)).filterMap fun j => if exc j = 0 then none else some (Ex.ofInt (exc j))) =
      (((List.range (mmN m.lit)).map exc).filter fun x => x ≠ 0).map fun x : Nat => Ex.ofInt x := by
    rw [List.filter_map, List.map_map, ← List.filterMap_eq_map, List.filterMap_filter]
    refine List.filterMap_congr fun j _ => ?_
    by_cases h : exc j = 0 <;> simp [h]
  rw [hlist, passBound] at hbound
  have hmem {k : Nat} (hk : k < mmN m.lit) (hne : exc k ≠ 0) : exc k ∈ ((List.range (mmN m.lit)).map exc).filter fun x => x ≠ 0 :=
    List.mem_filter.2 ⟨List.mem_map_of_mem (List.mem_range.2 hk), decide_eq_true hne⟩
  have hsome {k : Nat} (hk : k < mmN m.lit) (hne : exc k ≠ 0) :
      ((((List.range (mmN m.lit)).map exc).filter fun x => x ≠ 0).map fun x : Nat => Ex.ofInt x).isEmpty = false := by
    rw [List.isEmpty_eq_false_iff]
    exact fun hnil => List.ne_nil_of_mem (hmem hk hne) (List.map_eq_nil_iff.1 hnil)
  refine ⟨fun hall => ?_, fun ⟨k, hk, hne⟩ hsat => ?_, fun k hk hne hsat hmax => ?_⟩
  · have hnil : (((List.range (mmN m.lit)).map exc).filter fun x => x ≠ 0) = [] := List.filter_eq_nil_iff.2 fun x hx => by
      obtain ⟨k, hk, rfl⟩ := List.mem_map.1 hx
      simpa using hall k (List.mem_range.1 hk)
    rw [hbound, hnil]
    rfl
  · rw [hbound, hsome hk hne, MOp.rm, hsat]
    rfl
  · rw [hbound, hsome hk hne, MOp.rm, hsat, bMax_ofInt (hmem hk hne) fun x hx => ?_]
    · rfl
    · obtain ⟨l, hl, rfl⟩ := List.mem_map.1 (List.mem_filter.1 hx).1
      exact hmax l (List.mem_range.1 hl)

/-- What becomes of the group when its lowest row that fails is reported: the operation keeps the row where it may not be re-issued
(R150), and starts again from what the wide store holds where it may (R151). -/
theorem endGroup_reports {q : Quad} {m : MOp} {ran : Bool} {i : Nat} (ht : bits m.bthr.toNat 8 8 = 1 ∧ ran = true)
    (hf : failsTest q m i) (hmin : ∀ k, k < i → ¬failsTest q m k) :
    (¬(mBWIDE m.mode = true ∧ mACC m.mode = 0 ∧ m.wide = false) →
      (q.endGroup m ran).1.tiles = q.tiles ∧ (q.endGroup m ran).1.bounds = q.bounds ∧
        (q.endGroup m ran).2.trip = (match m.trip with | some x => some x | none => some (m.tile m.group, i))) ∧
    ∀ w, (mBWIDE m.mode = true ∧ mACC m.mode = 0 ∧ m.wide = false) → q.wide = some w →
      (q.endGroup m ran).2.wide = true ∧ (q.endGroup m ran).2.step = 0 ∧ (q.endGroup m ran).2.gen = m.gen0 ∧
      (q.endGroup m ran).2.trip = m.trip ∧ (q.endGroup m ran).2.group = m.group ∧
      (∀ k, k < 16384 →
        sget 0 (16384 * q.phys m.key.gid (m.tile m.group) + k) (q.endGroup m ran).1.tiles = sget 0 k w.tile) ∧
      (∀ k, k < 128 → sget 0 (128 * q.phys m.key.gid (m.tile m.group) + k) (q.endGroup m ran).1.bounds = sget 0 k w.bound) ∧
      (swf (0 : Word) 0 w.tile = true → ∃ x, (q.endGroup m ran).1.wide = some x ∧ ∀ k, k < 16384 →
        sget 0 k x.acc = BitVec.ofNat 64 (Fmt.fp64.round {} (Fmt.fp32.dec (sget 0 k w.tile).toNat))) := by
  rw [endGroup_of_fails ht hf hmin]
  refine ⟨fun hag => ?_, fun w hag hw => ?_⟩
  · rw [if_neg (mt (wantsWide_iff ht.1).1 hag)]
    refine ⟨rfl, rfl, (nextGroup_trip _ _).trans ?_⟩
    cases m.trip <;> rfl
  · rw [if_pos ((wantsWide_iff ht.1).2 hag)]
    have hw' : (q.setStat m.key.gid (m.tile m.group) (failStat q m i)).wide = some w := hw
    refine ⟨rfl, rfl, rfl, rfl, rfl, fun _ h => reissue_tile m hw' h, fun _ h => reissue_bound m hw' h, fun hwf => ?_⟩
    obtain ⟨x, hx, hacc⟩ := reissue_acc m hw' hwf
    exact ⟨x, hx, fun k _ => hacc k⟩

end Sys2Proof.Machine

open Sys2Proof Sys2Proof.Machine Sys2Proof.Claims

/-- Settles O47: a pass, the propagation step and the narrowing each change a row by that row's step alone (`foldl_at`), whose cells and
bound are those of the rules; a group ends by the test of its rows. -/
theorem passAccumulates : Obligations.PassAccumulates := by
  unfold Obligations.PassAccumulates
  refine ⟨fun q m gen a b i j hw hacc ha hi _ => pass_tile gen b hw hacc ha hi j, fun q m gen a b i j ha hi _ => ⟨?_, ?_, ?_⟩,
    ?_, ?_, ?_⟩
  · intro hle
    obtain ⟨hrow, hbound⟩ := Prod.mk.inj (rowOf_pass_past m gen b q hi hle)
    exact ⟨by rw [hrow], hbound⟩
  · intro hlt hform
    obtain ⟨hq, hf⟩ := pass_formats hform
    obtain ⟨hwidth, hk, hm⟩ := pass_format_ok m
    obtain ⟨hnew, hbound⟩ := pass_flt m gen b hq hf hwidth hk hm ha hlt j
    exact ⟨fun hj => hnew.trans (if_pos hj), fun hj => hnew.trans (if_neg (Nat.not_lt.2 hj)), hbound⟩
  · intro hlt hw hacc het sum fits excess
    have hnew := (pass_int m gen b het hw hacc (q := q) ha hlt j).1
    have hfits (k : Nat) : int32Excess (sum k) = 0 ↔ fits (sum k) := int32Excess_eq_zero
    obtain ⟨hall, hinf, hsat⟩ := pass_int_bound gen b het hw hacc ha hlt (q := q) (exc := fun j => int32Excess (sum j)) fun _ => rfl
    refine ⟨fun hj => hnew.trans (if_pos hj), fun hj => hnew.trans (if_neg (Nat.not_lt.2 hj)), fun h => ?_, fun ⟨k, hk, h⟩ => ?_,
      fun k hk h => ?_⟩
    · exact hall fun k hk => (hfits k).2 (h k hk)
    · exact hinf ⟨k, hk, mt (hfits k).1 h⟩
    · exact hsat k hk (mt (hfits k).1 h)
  · intro n m live a b da db s bound known total hbp hlive hstep haO hbO hdb hda hka hkb
    have hps := propTerms_eq m haO hbO hdb hda hka hkb
    obtain ⟨q0, htiles, hstat, hrow, hgrant⟩ := grantPass_prop (n := n) hbp hlive hstep hps
    obtain ⟨htiles', hstat'⟩ := addTerms_keeps m q0 ((List.zip a da).map fun p => propTerm m p.1 p.2 b db)
    refine ⟨_, hgrant, htiles'.trans htiles, hstat'.trans hstat, fun i _ => ?_⟩
    rw [rowBound_addTerms, List.getElem?_map, hrow]
    cases (List.zip a da)[i]? <;> rfl
  · intro q m ran u hu st tested again p
    subst hu
    obtain ⟨hprop, hwide, htrip⟩ := getLsbD_endStat q m
    by_cases hno : ¬tested ∨ ∀ i, ¬failsTest q m i
    · have hend := endGroup_of_none hno
      have hst : st = endStat q m := (congrArg (·.1.stat m.key.gid (m.tile m.group)) hend).trans (stat_setStat _ _ _ _)
      rw [hst, hend]
      refine ⟨hprop, hwide, fun _ => ⟨rfl, rfl, nextGroup_trip _ _, htrip⟩, fun i ht _ hf _ => ?_⟩
      exact absurd hf ((hno.resolve_left (not_not.2 ht)) i)
    · obtain ⟨ht, i, hf, hmin⟩ : tested ∧ ∃ i, failsTest q m i ∧ ∀ k, k < i → ¬failsTest q m k := by
        classical
        obtain ⟨ht, hex⟩ := not_or.1 hno
        have hex : ∃ i, failsTest q m i := by simpa using hex
        exact ⟨not_not.1 ht, Nat.find hex, Nat.find_spec hex, fun k hk => Nat.find_min hex hk⟩
      have hst : st = failStat q m i := stat_endGroup_of_fails ht hf hmin
      obtain ⟨hprop', hwide', htrip', hrow⟩ := getLsbD_failStat q m i
      rw [hst]
      refine ⟨hprop'.trans hprop, hwide'.trans hwide, fun h => absurd h hno, fun k _ hk hfk hmink => ?_⟩
      obtain rfl : k = i := by
        rcases Nat.lt_trichotomy k i with h | h | h
        · exact absurd hfk (hmin k h)
        · exact h
        · exact absurd hf (hmink i h)
      exact ⟨htrip', hrow hk, endGroup_reports ht hf hmin⟩
  · intro q m gen i j hw hacc hs hrows hi _ u row
    have hq : q.Accumulates m := by rw [Quad.Accumulates, hw]; exact hs
    exact narrow_row m gen hw hq hrows hi j

end
